-- ==== Sys2Proof/Word.lean ====
section
/-! DEFINITION. The word types of the device and the small data types that instructions and events carry
(spec/03_formats.md, spec/04_opcode_map.md; for the events spec/17_package_launch.md, 21_package_energy.md, 22_fabric.md). -/

namespace Sys2Proof

abbrev Word := BitVec 32
abbrev Byte := BitVec 8
abbrev DWord := BitVec 64

/-- A 7-bit register field as it stands in a word (R41): V0 to V119, Z, reserved, L0 to L3. -/
abbrev Reg := BitVec 7

/-- The fields of a prefix word (R49), without its opcode and its zero bits. -/
structure Pre where
  guard : BitVec 5
  neg   : Bool
  g     : Bool
  rnd   : BitVec 3
  sat   : Bool
  deriving DecidableEq, Repr

/-- What every instruction word carries beside its operands: the class K, the chain bit C, the bit W (R40) and the
prefix of its unit, if any (R49, R50). -/
structure Ctl where
  k   : Bool
  c   : Bool
  w   : Bool
  pre : Option Pre
  deriving DecidableEq, Repr

/-- Operand b of format A: a register field (E = 0) or the literal that follows the word (E = 1, R43). -/
inductive OpB where
  | reg (r : Reg)
  | lit (v : Word)
  deriving DecidableEq, Repr

/-- The causes of R94, in the order of their codes. -/
inductive Cause where
  | illegalOp | illegalOperand | illegalChain | priv | svc | swtrap
  | poisonUse | gradeDown | checkFail | barSat | spillOvf
  | nearRange | rangeLock | align | reuseMismatch | fmtSlot | tileLimit
  | xlNotMapped | xlPerm | xlType | xlOwner
  | hostAtomUr | hostLink | rankLost | pkey
  | doubleTrap | teamKilled | queueFlushed
  deriving DecidableEq, Repr

/-- The completion statuses of R95. -/
inductive Status where
  | ok | tableRefused | rangeFault | unsup | rankLost | pkey | flrAbort
  deriving DecidableEq, Repr

/-- The header and payload of a fabric packet (R391), the fields that are not always zero; and the grade and the poison of what it
carries, to which R391 gives no bytes. `rows`: where a segment has several runs of bytes at the remote end, the address and the
length of each in order (R398; R391 gives them no place in the packet). -/
structure Packet where
  pkey    : BitVec 16
  dst     : BitVec 12
  vf      : BitVec 2
  src     : BitVec 12
  dworld  : BitVec 6
  sworld  : BitVec 6
  op      : BitVec 8
  inc     : BitVec 5
  srank   : BitVec 12
  len     : Nat
  reqid   : DWord
  addr    : DWord
  seq     : DWord
  payload : List Byte
  grade   : BitVec 2
  poison  : Bool
  rows    : List (Nat × Nat) := []
  deriving DecidableEq, Repr

/-- A packet of the die network as a port receives it (R358, R360): the port that sent it, its flow's number, its own number in the flow,
and whether it is the flow's last. -/
structure NetPacket where
  src    : Nat
  number : Nat
  seq    : Nat
  isLast : Bool
  deriving DecidableEq, Repr, Inhabited

/-- What the rail sensors and calibrations of one metering interval give (R378): the package's input energy and that of each quad's
rails, in whole microjoules, and the calibrated picojoules of a byte at the memory slices and of a flit at a Braze port. -/
structure Measure where
  total : Nat
  quads : List (Nat × Nat)
  hbm   : Nat
  braze : Nat
  deriving DecidableEq, Repr, Inhabited

/-- The fatal errors of R387. -/
inductive Fatal where
  | junctionTrip | watchdog | assayerError
  deriving DecidableEq, Repr

/-- Which translation cache an event acts on (R263, R395): a quad's, a function's host interface, a world's fabric interface. -/
inductive CacheId where
  | quad (q : Nat)
  | host (w : Nat)
  | fab (w : Nat)
  deriving DecidableEq, Repr

/-- The kinds of access of R262. -/
inductive Access where
  | read | write | fetch | cell | atomic
  deriving DecidableEq, Repr

end Sys2Proof
end

