-- ==== Sys2Proof/Machine/Alu.lean ====
section
/-! DEFINITION. The values of the integer, bit, field, divide, compare and generator instructions
(spec/06_thread_instructions.md R97 to R100, R104, R122) and of the read-modify-write kinds of R64. -/

namespace Sys2Proof

/-- An exact integer clamped to [lo, hi]. -/
def clamp (lo hi v : Int) : Word := BitVec.ofInt 32 (max lo (min hi v))

def addN (sat : Bool) (a b : Word) : Word := if sat then clamp 0 (2 ^ 32 - 1) (a.toNat + b.toNat) else a + b
def addI (sat : Bool) (a b : Word) : Word := if sat then clamp (-(2 ^ 31)) (2 ^ 31 - 1) (a.toInt + b.toInt) else a + b
def subN (sat : Bool) (a b : Word) : Word := if sat then clamp 0 (2 ^ 32 - 1) ((a.toNat : Int) - b.toNat) else a - b
def subI (sat : Bool) (a b : Word) : Word := if sat then clamp (-(2 ^ 31)) (2 ^ 31 - 1) (a.toInt - b.toInt) else a - b

def mulwN (a b : Word) : Word := BitVec.ofNat 32 (a.toNat * b.toNat / 2 ^ 32)
def mulwI (a b : Word) : Word := BitVec.ofInt 32 (Int.fdiv (a.toInt * b.toInt) (2 ^ 32))

def minN (a b : Word) : Word := if a.toNat ≤ b.toNat then a else b
def maxN (a b : Word) : Word := if a.toNat ≤ b.toNat then b else a
def minI (a b : Word) : Word := if a.toInt ≤ b.toInt then a else b
def maxI (a b : Word) : Word := if a.toInt ≤ b.toInt then b else a

def shl (a b : Word) : Word := if 32 ≤ b.toNat then 0 else a <<< b.toNat
def shrN (a b : Word) : Word := if 32 ≤ b.toNat then 0 else a >>> b.toNat
def shrI (a b : Word) : Word := a.sshiftRight (min b.toNat 31)

/-- The number of 1 bits among the lowest k. -/
def onesBelow (a : Word) : Nat → Nat
  | 0 => 0
  | k + 1 => onesBelow a k + (a.getLsbD k).toNat

def ones (a : Word) : Word := BitVec.ofNat 32 (onesBelow a 32)

/-- The zero bits met from bit k − 1 down before the first 1. -/
def lzcFrom (a : Word) : Nat → Nat
  | 0 => 0
  | k + 1 => if a.getLsbD k then 0 else lzcFrom a k + 1

def lzc (a : Word) : Word := BitVec.ofNat 32 (lzcFrom a 32)
def rev (a : Word) : Word := a.reverse
def tzc (a : Word) : Word := lzc (rev a)

def absI (a : Word) : Word := if a.getLsbD 31 then -a else a
def sxt (n : Nat) (a : Word) : Word := (a.setWidth n).signExtend 32
def zxt (n : Nat) (a : Word) : Word := (a.setWidth n).setWidth 32

/-- The position and the width of a field operand (R99). -/
def fieldPos (b : Word) : Nat := b.toNat % 32
def fieldWidth (b : Word) : Nat := min (min (b.toNat / 256 % 64) 32) (32 - fieldPos b)

def fgetN (a b : Word) : Word := (a >>> fieldPos b) &&& BitVec.ofNat 32 (2 ^ fieldWidth b - 1)

def fgetI (a b : Word) : Word :=
  if fieldWidth b = 0 then 0 else ((fgetN a b).setWidth (fieldWidth b)).signExtend 32

def fput (a b d : Word) : Word :=
  let m : Word := BitVec.ofNat 32 (2 ^ fieldWidth b - 1) <<< fieldPos b
  (d &&& ~~~m) ||| ((a <<< fieldPos b) &&& m)

def divN (a b : Word) : Word := if b = 0 then 0xFFFFFFFF else BitVec.ofNat 32 (a.toNat / b.toNat)
def remN (a b : Word) : Word := if b = 0 then a else BitVec.ofNat 32 (a.toNat % b.toNat)
def divI (a b : Word) : Word := if b = 0 then 0xFFFFFFFF else BitVec.ofInt 32 (Int.tdiv a.toInt b.toInt)
def remI (a b : Word) : Word := if b = 0 then a else BitVec.ofInt 32 (Int.tmod a.toInt b.toInt)

/-- The integer conditions of R60. -/
def cmpInt (signed set2 : Bool) (q : BitVec 2) (a b : Word) : Bool :=
  let lt : Bool := if signed then a.toInt < b.toInt else a.toNat < b.toNat
  match set2, q.toNat with
  | false, 0 => a = b
  | false, 1 => a ≠ b
  | false, 2 => lt
  | false, _ => lt || a = b
  | true, 0 => !lt && a ≠ b
  | true, 1 => !lt
  | true, 2 => a &&& b ≠ 0
  | true, _ => a &&& b = 0

/-- The state words s0 to s3 of the generator (R122), s0 lowest. -/
def gsWord (g : BitVec 128) (i : Nat) : Word := g.extractLsb' (32 * i) 32

def gnext (g : BitVec 128) : Word × BitVec 128 :=
  let s0 := gsWord g 0
  let s1 := gsWord g 1
  let s2 := gsWord g 2 ^^^ s0
  let s3 := gsWord g 3 ^^^ s1
  let r := (s1 * 5).rotateLeft 7 * 9
  let t := s1 <<< 9
  (r, (s3.rotateLeft 11) ++ (s2 ^^^ t) ++ (s1 ^^^ s2) ++ (s0 ^^^ s3))

def gseed (a b c d : Word) : BitVec 128 := let s := d ++ c ++ b ++ a; if s = 0 then 1 else s

end Sys2Proof
end

