-- ==== Sys2Proof/Machine/Flags.lean ====
section
/-! DEFINITION. The sticky flags (spec/05_thread_state.md R76), the number formats (R79; spec/11_cluster_anvil.md R222) and the
one rounding rule `Round(x, F, m)` with the flags it raises (R80). Every value that is rounded is an exact dyadic number. -/

namespace Sys2Proof

/-- The seven flags of R76, bit 0 NX to bit 6 RNS_RNG. -/
abbrev Flags := BitVec 7

def Flags.none : Flags := 0
def Flags.nx : Flags := 0b0000001
def Flags.uf : Flags := 0b0000010
def Flags.of : Flags := 0b0000100
def Flags.dz : Flags := 0b0001000
def Flags.iv : Flags := 0b0010000
def Flags.fmtInv : Flags := 0b0100000
def Flags.rnsRng : Flags := 0b1000000

/-- The rounding modes of R80. -/
inductive Mode where
  | rne | rtz | rup | rdn | rna
  deriving DecidableEq, Repr

/-- The rounding override of a prefix (R49): RNE where there is none (R80). -/
def Mode.ofOverride (r : BitVec 3) : Mode :=
  match r.toNat with
  | 2 => .rtz
  | 3 => .rup
  | 4 => .rdn
  | 5 => .rna
  | _ => .rne

/-- The RND field of a format slot (R224). -/
def Mode.ofSlot (r : BitVec 2) : Mode :=
  match r.toNat with
  | 1 => .rtz
  | 2 => .rup
  | 3 => .rdn
  | _ => .rne

/-- A value of a float format: a NaN, an infinity with its sign, or the exact number (−1)^neg · m · 2^e (m = 0: a zero with
its sign). -/
inductive FVal where
  | nan
  | inf (neg : Bool)
  | fin (neg : Bool) (m : Nat) (e : Int)
  deriving DecidableEq, Repr

/-- What a format's all-ones exponent means: infinities and NaNs; only S.11…1 a NaN and no infinity; nothing special. -/
inductive Specials where
  | ieee | oneNan | none
  deriving DecidableEq, Repr

/-- A binary float format: widths of exponent and fraction, bias, and its specials. -/
structure Fmt where
  expBits  : Nat
  fracBits : Nat
  bias     : Nat
  specials : Specials
  deriving DecidableEq, Repr

def Fmt.fp32 : Fmt := ⟨8, 23, 127, .ieee⟩
def Fmt.fp16 : Fmt := ⟨5, 10, 15, .ieee⟩
def Fmt.bf16 : Fmt := ⟨8, 7, 127, .ieee⟩
def Fmt.fp64 : Fmt := ⟨11, 52, 1023, .ieee⟩
def Fmt.e4m3 : Fmt := ⟨4, 3, 7, .oneNan⟩
def Fmt.e5m2 : Fmt := ⟨5, 2, 15, .ieee⟩
def Fmt.e2m1 : Fmt := ⟨2, 1, 1, .none⟩

/-- The exponent of the last place of a subnormal. -/
def Fmt.qmin (f : Fmt) : Int := 1 - (f.bias : Int) - f.fracBits

def Fmt.maxExp (f : Fmt) : Nat := 2 ^ f.expBits - 1

def Fmt.signBit (f : Fmt) : Nat := 2 ^ (f.expBits + f.fracBits)

/-- The pattern of an infinity without its sign (formats that have one). -/
def Fmt.infBits (f : Fmt) : Nat := f.maxExp * 2 ^ f.fracBits

/-- The canonical NaN (R79, R222): for the IEEE-like formats the highest fraction bit alone, for E4M3 0x7F. -/
def Fmt.nanBits (f : Fmt) : Nat :=
  match f.specials with
  | .ieee => f.infBits + 2 ^ (f.fracBits - 1)
  | .oneNan => f.infBits + 2 ^ f.fracBits - 1
  | .none => 0

/-- The pattern of the largest finite magnitude (R79, R222). -/
def Fmt.maxBits (f : Fmt) : Nat :=
  match f.specials with
  | .ieee => f.infBits - 1
  | .oneNan => f.infBits + 2 ^ f.fracBits - 2
  | .none => f.infBits + 2 ^ f.fracBits - 1

def Fmt.signed (f : Fmt) (neg : Bool) (bits : Nat) : Nat := if neg then f.signBit + bits else bits

/-- The value of a pattern (R79, R222); bits above the sign are ignored. -/
def Fmt.decode (f : Fmt) (x : Nat) : FVal :=
  let neg := x.testBit (f.expBits + f.fracBits)
  let e := x / 2 ^ f.fracBits % 2 ^ f.expBits
  let m := x % 2 ^ f.fracBits
  if e = f.maxExp && f.specials = .ieee then (if m = 0 then .inf neg else .nan)
  else if e = f.maxExp && f.specials = .oneNan && m = 2 ^ f.fracBits - 1 then .nan
  else if e = 0 then .fin neg m f.qmin
  else .fin neg (2 ^ f.fracBits + m) (f.qmin + (e - 1 : Nat))

/-- The patterns of subnormals. -/
def Fmt.isSubnormal (f : Fmt) (x : Nat) : Bool :=
  x / 2 ^ f.fracBits % 2 ^ f.expBits = 0 && x % 2 ^ f.fracBits ≠ 0

/-- m · 2^e brought to a multiple of 2^q under a mode: the multiple and whether it is exact. -/
def roundAt (mode : Mode) (neg : Bool) (m : Nat) (e q : Int) : Nat × Bool :=
  if q ≤ e then (m * 2 ^ (e - q).toNat, true)
  else
    let s := (q - e).toNat
    let lo := m / 2 ^ s
    let rem := m % 2 ^ s
    let up : Bool := match mode with
      | .rne => 2 ^ s < 2 * rem || (2 ^ s = 2 * rem && lo % 2 = 1)
      | .rna => 2 ^ s ≤ 2 * rem
      | .rtz => false
      | .rup => !neg && rem ≠ 0
      | .rdn => neg && rem ≠ 0
    (if up then lo + 1 else lo, rem = 0)

/-- Whether a mode takes an overflow of this sign to an infinity (R80). -/
def Mode.toInf (mode : Mode) (neg : Bool) : Bool :=
  match mode with
  | .rne | .rna => true
  | .rtz => false
  | .rup => !neg
  | .rdn => neg

/-- What R80 makes of a nonzero exact number: a magnitude pattern with its flags, or an overflow. -/
inductive Rounded where
  | bits (b : Nat) (fl : Flags)
  | overflow
  deriving DecidableEq, Repr

/-- Whether a · 2^x < b · 2^y. -/
def dyadicLt (a : Nat) (x : Int) (b : Nat) (y : Int) : Bool :=
  let z := min x y
  a * 2 ^ (x - z).toNat < b * 2 ^ (y - z).toNat

/-- R80 on m · 2^e, m ≠ 0: overflow and tininess are judged on the value rounded with an unbounded exponent range. -/
def Fmt.roundNonzero (f : Fmt) (mode : Mode) (neg : Bool) (m : Nat) (e : Int) : Rounded :=
  let qU : Int := (Nat.log2 m : Int) + e - f.fracBits
  let u := roundAt mode neg m e qU
  match f.decode f.maxBits with
  | .fin _ mm me =>
    if dyadicLt mm me u.1 qU then .overflow
    else
      let q := max qU f.qmin
      let r := roundAt mode neg m e q
      let tiny := dyadicLt u.1 qU (2 ^ f.fracBits) f.qmin
      .bits ((q - f.qmin).toNat * 2 ^ f.fracBits + r.1)
        (if r.2 then 0 else if tiny then Flags.nx ||| Flags.uf else Flags.nx)
  | _ => .overflow

/-- Round(x, F, m) of R80 for a format with infinities and NaNs, sign included; a zero keeps its sign. -/
def Fmt.round (f : Fmt) (mode : Mode) : FVal → Nat × Flags
  | .nan => (f.nanBits, 0)
  | .inf neg => (f.signed neg f.infBits, 0)
  | .fin neg m e =>
    if m = 0 then (f.signed neg 0, 0)
    else match f.roundNonzero mode neg m e with
      | .bits b fl => (f.signed neg b, fl)
      | .overflow => (f.signed neg (if mode.toInf neg then f.infBits else f.maxBits), Flags.of ||| Flags.nx)

/-! Exact arithmetic on values. The flag is the IV of R80. -/

def FVal.negate : FVal → FVal
  | .nan => .nan
  | .inf n => .inf !n
  | .fin n m e => .fin (!n) m e

def FVal.isNan : FVal → Bool
  | .nan => true
  | _ => false

def FVal.isZero : FVal → Bool
  | .fin _ m _ => m = 0
  | _ => false

/-- The exact product; 0 · ∞ is invalid even beside a NaN addend (R106). -/
def FVal.mul : FVal → FVal → FVal × Bool
  | .nan, _ => (.nan, false)
  | _, .nan => (.nan, false)
  | .inf a, .inf b => (.inf (a != b), false)
  | .inf a, .fin b m _ => if m = 0 then (.nan, true) else (.inf (a != b), false)
  | .fin a m _, .inf b => if m = 0 then (.nan, true) else (.inf (a != b), false)
  | .fin a m e, .fin b n f => (.fin (a != b) (m * n) (e + f), false)

/-- The integer part of a finite value at exponent q ≤ e. -/
def signedAt (neg : Bool) (m : Nat) (e q : Int) : Int :=
  let v : Int := (m * 2 ^ (e - q).toNat : Nat)
  if neg then -v else v

/-- The exact sum of a list of values: NaN if one is NaN, or if opposite infinities meet (which is invalid). The sign of an
exact zero sum follows R106: − if every addend is −0; otherwise + but for RDN, where it is −. R106 says so of an
FP32 sum of two addends; taken for the three terms of fdot2 and for the packed sums too (DEDUCED, notes/assumptions/12.md). -/
def FVal.sum (mode : Mode) (l : List FVal) : FVal × Bool :=
  if l.any FVal.isNan then (.nan, false)
  else
    let pos := l.any fun v => v == .inf false
    let neg := l.any fun v => v == .inf true
    if pos && neg then (.nan, true)
    else if pos then (.inf false, false)
    else if neg then (.inf true, false)
    else
      let q := l.foldl (fun q v => match v with | .fin _ _ e => min q e | _ => q) (0 : Int)
      let s := l.foldl (fun s v => match v with | .fin n m e => s + signedAt n m e q | _ => s) (0 : Int)
      if s = 0 then
        let allNegZero := l.all fun v => match v with | .fin n m _ => n && m = 0 | _ => false
        (.fin (allNegZero || mode = .rdn) 0 0, false)
      else (.fin (s < 0) s.natAbs q, false)

def ivIf (b : Bool) : Flags := if b then Flags.iv else 0

end Sys2Proof
end

