-- ==== Sys2Proof/Machine/Float.lean ====
section
/-! DEFINITION. The values of the float instructions, the conversions and the special functions
(spec/06_thread_instructions.md R106 to R114, R123, R124), as functions of 32-bit patterns giving a pattern and the flags raised. -/

namespace Sys2Proof

def f32 (x : Word) : FVal := Fmt.fp32.decode x.toNat

/-- A rounded FP32 pattern with its flags and those found before rounding. -/
def round32 (mode : Mode) (r : FVal × Bool) : Word × Flags :=
  let o := Fmt.fp32.round mode r.1
  (BitVec.ofNat 32 o.1, o.2 ||| ivIf r.2)

/-- Products then one exact sum (R106, R109, R227): invalid where a product or the sum is. -/
def dotValue (mode : Mode) (prods : List (FVal × FVal)) (addends : List FVal) : FVal × Bool :=
  let ps := prods.map fun p => p.1.mul p.2
  let s := FVal.sum mode (addends ++ ps.map (·.1))
  (s.1, s.2 || ps.any (·.2))

def fadd (mode : Mode) (a b : Word) : Word × Flags := round32 mode (FVal.sum mode [f32 a, f32 b])
def fsub (mode : Mode) (a b : Word) : Word × Flags := round32 mode (FVal.sum mode [f32 a, (f32 b).negate])
def fmul (mode : Mode) (a b : Word) : Word × Flags := round32 mode ((f32 a).mul (f32 b))
def ffma (mode : Mode) (a b d : Word) : Word × Flags := round32 mode (dotValue mode [(f32 a, f32 b)] [f32 d])

/-- A total order key of the numbers of FP32 with −0 below +0 (R107): rising patterns of one sign order by magnitude. -/
def f32Key (x : Word) : Int := if x.getLsbD 31 then -((x.toNat % 2 ^ 31 : Nat) : Int) - 1 else (x.toNat : Int)

def canonNan : Word := 0x7FC00000

/-- R107. -/
def fminmax (takeMin : Bool) (a b : Word) : Word :=
  match (f32 a).isNan, (f32 b).isNan with
  | true, true => canonNan
  | true, false => b
  | false, true => a
  | false, false =>
    if takeMin then (if f32Key b < f32Key a then b else a) else (if f32Key a < f32Key b then b else a)

/-- R108 code 2: an integral value of the mode; no flag is raised. -/
def frint (mode : Mode) (a : Word) : Word :=
  match f32 a with
  | .nan => canonNan
  | .inf _ => a
  | .fin neg m e =>
    let r := roundAt mode neg m e 0
    BitVec.ofNat 32 (Fmt.fp32.round .rne (.fin neg r.1 0)).1

/-- The comparison of two non-NaN values: −0 equals +0 (R104, R81). -/
def fless (a b : Word) : Bool :=
  match f32 a, f32 b with
  | .nan, _ => false
  | _, .nan => false
  | x, y => if x.isZero && y.isZero then false else f32Key a < f32Key b

def feq (a b : Word) : Bool :=
  match f32 a, f32 b with
  | .nan, _ => false
  | _, .nan => false
  | x, y => (x.isZero && y.isZero) || a = b

/-- The f32 conditions of R60 and R104. -/
def cmpF32 (set2 : Bool) (q : BitVec 2) (a b : Word) : Bool :=
  let nan := (f32 a).isNan || (f32 b).isNan
  match set2, q.toNat with
  | false, 0 => feq a b
  | false, 1 => !feq a b
  | false, 2 => fless a b
  | false, _ => fless a b || feq a b
  | true, 0 => fless b a
  | true, 1 => fless b a || feq a b
  | true, 2 => !nan
  | true, _ => nan

/-! ## Packed elements (R79, R109) -/

def half (x : Word) (i : Nat) : Nat := x.toNat / 2 ^ (16 * i) % 2 ^ 16

def pack2 (lo hi : Nat) : Word := BitVec.ofNat 32 (lo % 2 ^ 16 + hi % 2 ^ 16 * 2 ^ 16)

/-- An operation on the two elements of a packed pair. -/
def packed (f : Fmt) (mode : Mode) (op : FVal → FVal → FVal → FVal × Bool) (a b d : Word) : Word × Flags :=
  let el := fun i =>
    let r := op (f.decode (half a i)) (f.decode (half b i)) (f.decode (half d i))
    let o := f.round mode r.1
    (o.1, o.2 ||| ivIf r.2)
  let r0 := el 0
  let r1 := el 1
  (pack2 r0.1 r1.1, r0.2 ||| r1.2)

def packedAdd (f : Fmt) (mode : Mode) (a b : Word) : Word × Flags :=
  packed f mode (fun x y _ => FVal.sum mode [x, y]) a b 0
def packedMul (f : Fmt) (mode : Mode) (a b : Word) : Word × Flags := packed f mode (fun x y _ => x.mul y) a b 0
def packedFma (f : Fmt) (mode : Mode) (a b d : Word) : Word × Flags :=
  packed f mode (fun x y z => dotValue mode [(x, y)] [z]) a b d

def fdot2 (f : Fmt) (mode : Mode) (a b d : Word) : Word × Flags :=
  round32 mode (dotValue mode [(f.decode (half a 0), f.decode (half b 0)), (f.decode (half a 1), f.decode (half b 1))] [f32 d])

/-! ## Conversions (R110 to R112) -/

def intMin32 : Int := -(2 ^ 31)
def intMax32 : Int := 2 ^ 31 - 1
def natMax32 : Int := 2 ^ 32 - 1

/-- FP32 to an integer of [lo, hi] (R111, R242): `indef` is the integer indefinite value. -/
def cvtToInt (mode : Mode) (sat : Bool) (lo hi : Int) (indef : Int) (a : FVal) : Int × Flags :=
  match a with
  | .nan => if sat then (0, 0) else (indef, Flags.iv)
  | .inf neg => if sat then (if neg then lo else hi, Flags.nx) else (indef, Flags.iv)
  | .fin neg m e =>
    let r := roundAt mode neg m e 0
    let v : Int := if neg then -(r.1 : Int) else r.1
    if lo ≤ v && v ≤ hi then (v, if r.2 then 0 else Flags.nx)
    else if sat then (if v < lo then lo else hi, Flags.nx) else (indef, Flags.iv)

def cvtI32F32 (mode : Mode) (sat : Bool) (a : Word) : Word × Flags :=
  let r := cvtToInt mode sat intMin32 intMax32 intMin32 (f32 a)
  (BitVec.ofInt 32 r.1, r.2)

def cvtN32F32 (mode : Mode) (sat : Bool) (a : Word) : Word × Flags :=
  let r := cvtToInt mode sat 0 natMax32 natMax32 (f32 a)
  (BitVec.ofInt 32 r.1, r.2)

def cvtF32I32 (mode : Mode) (a : Word) : Word × Flags :=
  round32 mode (.fin (a.getLsbD 31) a.toInt.natAbs 0, false)

def cvtF32N32 (mode : Mode) (a : Word) : Word × Flags := round32 mode (.fin false a.toNat 0, false)

/-- An exact widening to FP32; a NaN gives the canonical NaN (R111). -/
def widen (f : Fmt) (x : Nat) : Word := (round32 .rne (f.decode x, false)).1

/-- FP32 to FP16 or BF16 (R80). -/
def narrow16 (f : Fmt) (mode : Mode) (a : Word) : Word × Flags :=
  let o := f.round mode (f32 a)
  (BitVec.ofNat 32 o.1, o.2)

/-- The table of R112 for E4M3, E5M2, E2M1: what an infinity becomes, where the format has none. -/
def narrow8 (f : Fmt) (mode : Mode) (sat : Bool) (v : FVal) : Nat × Flags :=
  match v with
  | .nan => match f.specials with
    | .none => (0, Flags.iv)
    | _ => (f.nanBits, 0)
  | .inf neg =>
    if sat then (f.signed neg f.maxBits, Flags.nx)
    else match f.specials with
      | .ieee => (f.signed neg f.infBits, 0)
      | .oneNan => (f.nanBits, Flags.iv)
      | .none => (f.signed neg f.maxBits, Flags.nx)
  | .fin neg m e =>
    if m = 0 then (f.signed neg 0, 0)
    else match f.roundNonzero mode neg m e with
      | .bits b fl => (f.signed neg b, fl)
      | .overflow =>
        (if sat || !mode.toInf neg then f.signed neg f.maxBits
         else match f.specials with
           | .ieee => f.signed neg f.infBits
           | .oneNan => f.nanBits
           | .none => f.signed neg f.maxBits,
         Flags.of ||| Flags.nx)

def cvtNarrow (f : Fmt) (mode : Mode) (sat : Bool) (a : Word) : Word × Flags :=
  let r := narrow8 f mode sat (f32 a)
  (BitVec.ofNat 32 r.1, r.2)

/-- The value of a UE4M3 scale byte, none where it is invalid (R222). -/
def ue4m3 (x : Nat) : Option FVal := if x % 256 ≥ 0x7F then none else some (Fmt.e4m3.decode (x % 256))

def cvtF32Ue4m3 (a : Word) : Word × Flags :=
  match ue4m3 a.toNat with
  | none => (canonNan, Flags.fmtInv)
  | some v => ((round32 .rne (v, false)).1, 0)

/-! ## Special functions (R114)

Each result is the exact value rounded once by RNE. A value that is no dyadic number is represented by a dyadic number with a
last bit set below `sfuBits` places of accuracy, which lies on the same side of every FP32 tie as the value itself. -/

/-- Binary places of the fixed-point work below. -/
def sfuBits : Nat := 420

/-- ⌊√n⌋ by bits from bit `k` down. -/
def isqrtFrom (n : Nat) : Nat → Nat → Nat
  | 0, r => r
  | k + 1, r =>
    let c := r + 2 ^ k
    isqrtFrom n k (if c * c ≤ n then c else r)

def isqrt (n : Nat) : Nat := isqrtFrom n (Nat.log2 n / 2 + 1) 0

/-- The power series Σ x^k / c_k in fixed point: `t` the running term, `next k t` the following one. -/
def series (next : Nat → Int → Int) : Nat → Nat → Int → Int → Int
  | 0, _, _, acc => acc
  | n + 1, k, t, acc => series next n (k + 1) (next k t) (acc + t)

/-- x · y of two fixed-point numbers with p places. -/
def fxMul (p : Nat) (x y : Int) : Int := Int.fdiv (x * y) (2 ^ p)

/-- e^x in fixed point, |x| ≤ 1. -/
def fxExp (p : Nat) (x : Int) : Int := series (fun k t => Int.fdiv (fxMul p t x) (k + 1)) 160 0 (2 ^ p) 0

/-- Σ z^(2i+1)/(2i+1) = atanh z in fixed point, |z| ≤ 1/3. -/
def fxAtanh (p : Nat) (z : Int) : Int :=
  let zz := fxMul p z z
  go zz 200 0 z 0
where
  go (zz : Int) : Nat → Nat → Int → Int → Int
  | 0, _, _, acc => acc
  | n + 1, i, t, acc => go zz n (i + 1) (fxMul p t zz) (acc + Int.fdiv t (2 * i + 1))

/-- ln 2 = 2 atanh(1/3). -/
def fxLn2 (p : Nat) : Int := 2 * fxAtanh p (Int.fdiv (2 ^ p) 3)

/-- π by Machin's formula 16 arctan(1/5) − 4 arctan(1/239). -/
def fxPi (p : Nat) : Int :=
  16 * arctanInv 5 - 4 * arctanInv 239
where
  arctanInv (q : Nat) : Int := go q 170 0 (Int.fdiv (2 ^ p) q) 0
  go (q : Nat) : Nat → Nat → Int → Int → Int
  | 0, _, _, acc => acc
  | n + 1, i, t, acc =>
    let term := Int.fdiv t (2 * i + 1)
    go q n (i + 1) (Int.fdiv t (q * q)) (if i % 2 = 0 then acc + term else acc - term)

def fxSin (p : Nat) (x : Int) : Int :=
  series (fun k t => -(Int.fdiv (fxMul p (fxMul p t x) x) ((2 * k + 2) * (2 * k + 3)))) 90 0 x 0

def fxCos (p : Nat) (x : Int) : Int :=
  series (fun k t => -(Int.fdiv (fxMul p (fxMul p t x) x) ((2 * k + 1) * (2 * k + 2)))) 90 0 (2 ^ p) 0

/-- A fixed-point approximation of a value that is no dyadic number, as the dyadic number with a set last place. -/
def sticky (p : Nat) (v : Int) : FVal := .fin (v < 0) (2 * v + 1).natAbs (-(p : Int) - 1)

/-- A finite value of FP32 as a fixed-point number (exact for e ≥ −p). -/
def toFx (p : Nat) (neg : Bool) (m : Nat) (e : Int) : Int :=
  let v : Int := if 0 ≤ e + p then ((m * 2 ^ (e + p).toNat : Nat) : Int) else ((m / 2 ^ (-(e + p)).toNat : Nat) : Int)
  if neg then -v else v

/-- A number of the sign and just below the magnitude of m · 2^e. -/
def justBelow (neg : Bool) (m : Nat) (e : Int) : FVal := .fin neg (m * 2 ^ 64 - 1) (e - 64)

/-- Whether |m · 2^e| < 2^k. -/
def magBelow (m : Nat) (e k : Int) : Bool := dyadicLt m e 1 k

/-- Whether a magnitude is a power of two. -/
def isPow2 (m : Nat) : Bool := m ≠ 0 && m = 2 ^ Nat.log2 m

def sfuRcp : FVal → FVal × Flags
  | .nan => (.nan, 0)
  | .inf n => (.fin n 0 0, 0)
  | .fin n m e =>
    if m = 0 then (.inf n, Flags.dz)
    else if isPow2 m then (.fin n 1 (-(e + Nat.log2 m)), 0)
    else (.fin n (2 * (2 ^ 200 / m) + 1) (-e - 201), 0)

/-- √(m · 2^e) after making e even. -/
def sfuSqrt : FVal → FVal × Flags
  | .nan => (.nan, 0)
  | .inf n => if n then (.nan, Flags.iv) else (.inf false, 0)
  | .fin n m e =>
    if m = 0 then (.fin n 0 0, 0)
    else if n then (.nan, Flags.iv)
    else
      let (m, e) := if e % 2 = 0 then (m, e) else (2 * m, e - 1)
      let r := isqrt (m * 2 ^ 200)
      if r * r = m * 2 ^ 200 then (.fin false r (e / 2 - 100), 0) else (.fin false (2 * r + 1) (e / 2 - 101), 0)

def sfuRsqrt : FVal → FVal × Flags
  | .nan => (.nan, 0)
  | .inf n => if n then (.nan, Flags.iv) else (.fin false 0 0, 0)
  | .fin n m e =>
    if m = 0 then (.inf n, Flags.dz)
    else if n then (.nan, Flags.iv)
    else
      let (m, e) := if e % 2 = 0 then (m, e) else (2 * m, e - 1)
      let r := isqrt (2 ^ 400 / m)
      if r * r * m = 2 ^ 400 then (.fin false r (-(e / 2) - 200), 0) else (.fin false (2 * r + 1) (-(e / 2) - 201), 0)

/-- 2^x: exact for an integral x; a value far outside the format stands for every such value. -/
def sfuExp2 : FVal → FVal × Flags
  | .nan => (.nan, 0)
  | .inf n => (if n then .fin false 0 0 else .inf false, 0)
  | .fin n m e =>
    if m = 0 then (.fin false 1 0, 0)
    else if !magBelow m e 9 then (if n then .fin false 1 (-400) else .fin false 1 400, 0)
    else
      let p := sfuBits
      let x := toFx p n m e
      let k := Int.fdiv x (2 ^ p)
      let f := x - k * 2 ^ p
      if f = 0 then (.fin false 1 k, 0)
      else
        let y := fxExp p (fxMul p f (fxLn2 p))
        (.fin false (2 * y + 1).natAbs (k - p - 1), 0)

def sfuLog2 : FVal → FVal × Flags
  | .nan => (.nan, 0)
  | .inf n => if n then (.nan, Flags.iv) else (.inf false, 0)
  | .fin n m e =>
    if m = 0 then (.inf true, Flags.dz)
    else if n then (.nan, Flags.iv)
    else
      let b := Nat.log2 m
      let k : Int := (b : Int) + e
      if isPow2 m then (.fin (k < 0) k.natAbs 0, 0)
      else
        let p := sfuBits
        -- ln y = 2 atanh((y − 1)/(y + 1)) with y = m / 2^b in (1, 2)
        let z : Int := Int.fdiv (((m - 2 ^ b) * 2 ^ p : Nat) : Int) ((m + 2 ^ b : Nat) : Int)
        let l := Int.fdiv (2 * fxAtanh p z * 2 ^ p) (fxLn2 p)
        (sticky p (k * 2 ^ p + l), 0)

/-- The quadrant and the remainder of |x| by π/2. -/
def reduceHalfPi (m : Nat) (e : Int) : Nat × Int :=
  let p := sfuBits
  let x : Nat := (toFx (p + 200) false m e).toNat
  let h : Nat := (fxPi (p + 200)).toNat / 2
  (x / h % 4, ((x % h / 2 ^ 200 : Nat) : Int))

def sfuSin : FVal → FVal × Flags
  | .nan => (.nan, 0)
  | .inf _ => (.nan, Flags.iv)
  | .fin n m e =>
    if m = 0 then (.fin n 0 0, 0)
    else if magBelow m e (-50) then (justBelow n m e, 0)
    else
      let (q, r) := reduceHalfPi m e
      let v := if q % 2 = 0 then fxSin sfuBits r else fxCos sfuBits r
      let v := if 2 ≤ q then -v else v
      (sticky sfuBits (if n then -v else v), 0)

def sfuCos : FVal → FVal × Flags
  | .nan => (.nan, 0)
  | .inf _ => (.nan, Flags.iv)
  | .fin _ m e =>
    if m = 0 then (.fin false 1 0, 0)
    else if magBelow m e (-50) then (justBelow false 1 0, 0)
    else
      let (q, r) := reduceHalfPi m e
      let v := if q % 2 = 0 then fxCos sfuBits r else fxSin sfuBits r
      (sticky sfuBits (if q = 1 || q = 2 then -v else v), 0)

/-- tanh |x| = (E − 1)/(E + 1) with E = e^{2|x|} = (e^{2|x|/64})^64. -/
def sfuTanh : FVal → FVal × Flags
  | .nan => (.nan, 0)
  | .inf n => (.fin n 1 0, 0)
  | .fin n m e =>
    if m = 0 then (.fin n 0 0, 0)
    else if magBelow m e (-50) then (justBelow n m e, 0)
    else if !magBelow m e 5 then (justBelow n 1 0, 0)
    else
      let p := sfuBits
      let sq := fun x => fxMul p x x
      let y := sq (sq (sq (sq (sq (sq (fxExp p (Int.fdiv (toFx p false m e) 32)))))))
      let t := Int.fdiv ((y - 2 ^ p) * 2 ^ p) (y + 2 ^ p)
      (sticky p (if n then -t else t), 0)

/-- A special function on patterns: the exact value rounded once by RNE (R114). -/
def sfu (f : FVal → FVal × Flags) (a : Word) : Word × Flags :=
  let v := f (f32 a)
  let o := round32 .rne (v.1, false)
  (o.1, o.2 ||| v.2)

/-! ## Checksum accumulators (R123, R124) -/

def p61 : Nat := 2 ^ 61 - 1

def ckaMod (k : DWord) (a : Word) : DWord := BitVec.ofNat 64 ((k.toNat % p61 + a.toNat) % p61)

/-- The canonical binary64 NaN. -/
def nan64 : DWord := 0x7FF8000000000000

def ckaF (k : DWord) (a : Word) : DWord :=
  match (FVal.sum .rne [Fmt.fp64.decode k.toNat, f32 a]).1 with
  | .nan => nan64
  | v => BitVec.ofNat 64 (Fmt.fp64.round .rne v).1

/-- Whether `ckv.f` finds the accumulators different (R124). -/
def ckvFFails (kd ka : DWord) (tau : Word) : Bool :=
  match Fmt.fp64.decode kd.toNat, Fmt.fp64.decode ka.toNat, f32 tau with
  | .nan, _, _ | _, .nan, _ | _, _, .nan => true
  | x, y, .inf neg => neg || infDiffers x y
  | x, y, .fin tn tm te =>
    if tn && tm ≠ 0 then true
    else match x, y with
      | .fin xn xm xe, .fin yn ym ye =>
        let q := min xe ye
        let a := signedAt xn xm xe q
        let b := signedAt yn ym ye q
        let big := max a.natAbs b.natAbs
        -- |a − b| · 2^q > τ · big · 2^q
        dyadicLt (tm * big) te (a - b).natAbs 0
      | _, _ => infDiffers x y
where
  infDiffers (x y : FVal) : Bool :=
    match x, y with
    | .inf a, .inf b => a ≠ b
    | .inf _, _ | _, .inf _ => true
    | _, _ => false

/-! ## RNS24 (R113, R222) -/

def rnsM : Nat := 16515840

/-- The residues of a container, reduced, and whether it was out of range (R113, R223). -/
def rnsResidues (x : Word) : (Nat × Nat × Nat) × Bool :=
  let n := x.toNat
  let r0 := n % 256
  let r1 := n / 256 % 256
  let r2 := n / 65536 % 256
  ((r0, r1 % 255, r2 % 253), r1 ≥ 255 || r2 ≥ 253 || n / 2 ^ 24 ≠ 0)

/-- The container of residues. -/
def rnsPack (r : Nat × Nat × Nat) : Word := BitVec.ofNat 32 (r.1 + r.2.1 * 256 + r.2.2 * 65536)

/-- The unique x in [0, M) with the given residues: 64,770 = 255·254, 65,024·… the Chinese remainder coefficients. -/
def rnsValue (r : Nat × Nat × Nat) : Nat :=
  (r.1 * crt (255 * 253) 256 + r.2.1 * crt (256 * 253) 255 + r.2.2 * crt (256 * 255) 253) % rnsM
where
  /-- The multiple of n that is 1 modulo m. -/
  crt (n m : Nat) : Nat := n * inv (n % m) m m
  /-- The inverse of a modulo m, searched from `fuel` down. -/
  inv (a m : Nat) : Nat → Nat
  | 0 => 0
  | fuel + 1 => if a * fuel % m = 1 then fuel else inv a m fuel

def rnsOfNat (y : Nat) : Word := rnsPack (y % 256, y % 255, y % 253)

/-- The centred reading of R113 and R228. -/
def rnsCentre (x : Nat) : Int := if 8257920 ≤ x then (x : Int) - rnsM else x

def cvtN32Rns24 (a : Word) : Word × Flags :=
  let r := rnsResidues a
  (BitVec.ofNat 32 (rnsValue r.1), if r.2 then Flags.rnsRng else 0)

def cvtI32Rns24 (a : Word) : Word × Flags :=
  let r := rnsResidues a
  (BitVec.ofInt 32 (rnsCentre (rnsValue r.1)), if r.2 then Flags.rnsRng else 0)

/-- An integer to RNS24, with the limits of the type (R113). -/
def cvtRns24 (sat : Bool) (lo hi : Int) (v : Int) : Word × Flags :=
  let out := v < lo || hi < v
  let v := if sat then max lo (min hi v) else v
  (rnsOfNat (v % (rnsM : Int)).toNat, if out then Flags.rnsRng else 0)

end Sys2Proof
end

