-- ==== Sys2Proof/Syntax.lean ====
section
/-! DEFINITION. The instruction set: one constructor for each row of spec/opcode_table.json.
A row with a word (the first 180) carries `c`, what its word and its unit's prefix say beside the operands, and the operand
fields as they stand in the word (spec/03_formats.md R40, spec/04_opcode_map.md R59 to R65). A row without a word is a step
of another agent of the package (spec/95_what_each_step_holds.md) and carries what identifies the occurrence. -/

namespace Sys2Proof

inductive Instr where
  /-- ADD_N32 (R97) -/
  | addN32 (c : Ctl) (d a : Reg) (b : OpB)
  /-- ADD_I32 (R97) -/
  | addI32 (c : Ctl) (d a : Reg) (b : OpB)
  /-- SUB_N32 (R97) -/
  | subN32 (c : Ctl) (d a : Reg) (b : OpB)
  /-- SUB_I32 (R97) -/
  | subI32 (c : Ctl) (d a : Reg) (b : OpB)
  /-- MUL_B32 (R97) -/
  | mulB32 (c : Ctl) (d a : Reg) (b : OpB)
  /-- MULW_N32 (R97) -/
  | mulwN32 (c : Ctl) (d a : Reg) (b : OpB)
  /-- MULW_I32 (R97) -/
  | mulwI32 (c : Ctl) (d a : Reg) (b : OpB)
  /-- MAC_B32 (R97) -/
  | macB32 (c : Ctl) (d a : Reg) (b : OpB)
  /-- MIN_N32 (R97) -/
  | minN32 (c : Ctl) (d a : Reg) (b : OpB)
  /-- MIN_I32 (R97) -/
  | minI32 (c : Ctl) (d a : Reg) (b : OpB)
  /-- MAX_N32 (R97) -/
  | maxN32 (c : Ctl) (d a : Reg) (b : OpB)
  /-- MAX_I32 (R97) -/
  | maxI32 (c : Ctl) (d a : Reg) (b : OpB)
  /-- AND_B32 (R97) -/
  | andB32 (c : Ctl) (d a : Reg) (b : OpB)
  /-- OR_B32 (R97) -/
  | orB32 (c : Ctl) (d a : Reg) (b : OpB)
  /-- XOR_B32 (R97) -/
  | xorB32 (c : Ctl) (d a : Reg) (b : OpB)
  /-- SHL_B32 (R97) -/
  | shlB32 (c : Ctl) (d a : Reg) (b : OpB)
  /-- SHR_N32 (R97) -/
  | shrN32 (c : Ctl) (d a : Reg) (b : OpB)
  /-- SHR_I32 (R97) -/
  | shrI32 (c : Ctl) (d a : Reg) (b : OpB)
  /-- NOT_B32 (R98) -/
  | notB32 (c : Ctl) (d a : Reg)
  /-- ONES_B32 (R98) -/
  | onesB32 (c : Ctl) (d a : Reg)
  /-- LZC_B32 (R98) -/
  | lzcB32 (c : Ctl) (d a : Reg)
  /-- TZC_B32 (R98) -/
  | tzcB32 (c : Ctl) (d a : Reg)
  /-- REV_B32 (R98) -/
  | revB32 (c : Ctl) (d a : Reg)
  /-- ABS_I32 (R98) -/
  | absI32 (c : Ctl) (d a : Reg)
  /-- NEG_I32 (R98) -/
  | negI32 (c : Ctl) (d a : Reg)
  /-- SXT_B8 (R98) -/
  | sxtB8 (c : Ctl) (d a : Reg)
  /-- SXT_B16 (R98) -/
  | sxtB16 (c : Ctl) (d a : Reg)
  /-- ZXT_B8 (R98) -/
  | zxtB8 (c : Ctl) (d a : Reg)
  /-- ZXT_B16 (R98) -/
  | zxtB16 (c : Ctl) (d a : Reg)
  /-- FGET_N32 (R99) -/
  | fgetN32 (c : Ctl) (d a : Reg) (b : OpB)
  /-- FGET_I32 (R99) -/
  | fgetI32 (c : Ctl) (d a : Reg) (b : OpB)
  /-- FPUT_B32 (R99) -/
  | fputB32 (c : Ctl) (d a : Reg) (b : OpB)
  /-- DIV_N32 (R100) -/
  | divN32 (c : Ctl) (d a : Reg) (b : OpB)
  /-- DIV_I32 (R100) -/
  | divI32 (c : Ctl) (d a : Reg) (b : OpB)
  /-- REM_N32 (R100) -/
  | remN32 (c : Ctl) (d a : Reg) (b : OpB)
  /-- REM_I32 (R100) -/
  | remI32 (c : Ctl) (d a : Reg) (b : OpB)
  /-- ADD_N32_IMM (R97) -/
  | addN32Imm (c : Ctl) (d a : Reg) (i : BitVec 8)
  /-- AND_B32_IMM (R97) -/
  | andB32Imm (c : Ctl) (d a : Reg) (i : BitVec 8)
  /-- OR_B32_IMM (R97) -/
  | orB32Imm (c : Ctl) (d a : Reg) (i : BitVec 8)
  /-- XOR_B32_IMM (R97) -/
  | xorB32Imm (c : Ctl) (d a : Reg) (i : BitVec 8)
  /-- SHL_B32_IMM (R97) -/
  | shlB32Imm (c : Ctl) (d a : Reg) (i : BitVec 8)
  /-- SHR_N32_IMM (R97) -/
  | shrN32Imm (c : Ctl) (d a : Reg) (i : BitVec 8)
  /-- SHR_I32_IMM (R97) -/
  | shrI32Imm (c : Ctl) (d a : Reg) (i : BitVec 8)
  /-- MOV_B32_IMM (R101) -/
  | movB32Imm (c : Ctl) (d : Reg) (i : BitVec 8)
  /-- MOV_B32 (R101) -/
  | movB32 (c : Ctl) (d : Reg) (b : OpB)
  /-- SEL_B32 (R103) -/
  | selB32 (c : Ctl) (d a : Reg) (b : OpB)
  /-- CMP_N32_SET1 (R104) -/
  | cmpN32Set1 (c : Ctl) (q : BitVec 2) (p : BitVec 5) (a : Reg) (b : OpB)
  /-- CMP_N32_SET2 (R104) -/
  | cmpN32Set2 (c : Ctl) (q : BitVec 2) (p : BitVec 5) (a : Reg) (b : OpB)
  /-- CMP_I32_SET1 (R104) -/
  | cmpI32Set1 (c : Ctl) (q : BitVec 2) (p : BitVec 5) (a : Reg) (b : OpB)
  /-- CMP_I32_SET2 (R104) -/
  | cmpI32Set2 (c : Ctl) (q : BitVec 2) (p : BitVec 5) (a : Reg) (b : OpB)
  /-- CMP_F32_SET1 (R104) -/
  | cmpF32Set1 (c : Ctl) (q : BitVec 2) (p : BitVec 5) (a : Reg) (b : OpB)
  /-- CMP_F32_SET2 (R104) -/
  | cmpF32Set2 (c : Ctl) (q : BitVec 2) (p : BitVec 5) (a : Reg) (b : OpB)
  /-- PAND (R105) -/
  | pand (c : Ctl) (p : BitVec 5) (na : Bool) (pa : BitVec 5) (nb : Bool) (pb : BitVec 5)
  /-- POR (R105) -/
  | por (c : Ctl) (p : BitVec 5) (na : Bool) (pa : BitVec 5) (nb : Bool) (pb : BitVec 5)
  /-- PXOR (R105) -/
  | pxor (c : Ctl) (p : BitVec 5) (na : Bool) (pa : BitVec 5) (nb : Bool) (pb : BitVec 5)
  /-- VTP (R105) -/
  | vtp (c : Ctl) (p : BitVec 5) (a : Reg)
  /-- PTV (R105) -/
  | ptv (c : Ctl) (d : Reg) (na : Bool) (pa : BitVec 5)
  /-- FADD_F32 (R106) -/
  | faddF32 (c : Ctl) (d a : Reg) (b : OpB)
  /-- FSUB_F32 (R106) -/
  | fsubF32 (c : Ctl) (d a : Reg) (b : OpB)
  /-- FMUL_F32 (R106) -/
  | fmulF32 (c : Ctl) (d a : Reg) (b : OpB)
  /-- FFMA_F32 (R106) -/
  | ffmaF32 (c : Ctl) (d a : Reg) (b : OpB)
  /-- FMIN_F32 (R107) -/
  | fminF32 (c : Ctl) (d a : Reg) (b : OpB)
  /-- FMAX_F32 (R107) -/
  | fmaxF32 (c : Ctl) (d a : Reg) (b : OpB)
  /-- FABS_F32 (R108) -/
  | fabsF32 (c : Ctl) (d a : Reg)
  /-- FNEG_F32 (R108) -/
  | fnegF32 (c : Ctl) (d a : Reg)
  /-- FRINT_F32 (R108) -/
  | frintF32 (c : Ctl) (d a : Reg)
  /-- FABS_F16X2 (R108) -/
  | fabsF16x2 (c : Ctl) (d a : Reg)
  /-- FNEG_F16X2 (R108) -/
  | fnegF16x2 (c : Ctl) (d a : Reg)
  /-- FABS_BF16X2 (R108) -/
  | fabsBf16x2 (c : Ctl) (d a : Reg)
  /-- FNEG_BF16X2 (R108) -/
  | fnegBf16x2 (c : Ctl) (d a : Reg)
  /-- FADD_F16X2 (R109) -/
  | faddF16x2 (c : Ctl) (d a : Reg) (b : OpB)
  /-- FMUL_F16X2 (R109) -/
  | fmulF16x2 (c : Ctl) (d a : Reg) (b : OpB)
  /-- FFMA_F16X2 (R109) -/
  | ffmaF16x2 (c : Ctl) (d a : Reg) (b : OpB)
  /-- FADD_BF16X2 (R109) -/
  | faddBf16x2 (c : Ctl) (d a : Reg) (b : OpB)
  /-- FMUL_BF16X2 (R109) -/
  | fmulBf16x2 (c : Ctl) (d a : Reg) (b : OpB)
  /-- FFMA_BF16X2 (R109) -/
  | ffmaBf16x2 (c : Ctl) (d a : Reg) (b : OpB)
  /-- FDOT2_F32_F16X2 (R109) -/
  | fdot2F32F16x2 (c : Ctl) (d a : Reg) (b : OpB)
  /-- FDOT2_F32_BF16X2 (R109) -/
  | fdot2F32Bf16x2 (c : Ctl) (d a : Reg) (b : OpB)
  /-- CVT_F32_I32 (R111) -/
  | cvtF32I32 (c : Ctl) (d a : Reg)
  /-- CVT_F32_N32 (R111) -/
  | cvtF32N32 (c : Ctl) (d a : Reg)
  /-- CVT_I32_F32 (R111) -/
  | cvtI32F32 (c : Ctl) (d a : Reg)
  /-- CVT_N32_F32 (R111) -/
  | cvtN32F32 (c : Ctl) (d a : Reg)
  /-- CVT_F32_F16 (R111) -/
  | cvtF32F16 (c : Ctl) (d a : Reg)
  /-- CVT_F32_BF16 (R111) -/
  | cvtF32Bf16 (c : Ctl) (d a : Reg)
  /-- CVT_F16_F32 (R110) -/
  | cvtF16F32 (c : Ctl) (d a : Reg)
  /-- CVT_BF16_F32 (R110) -/
  | cvtBf16F32 (c : Ctl) (d a : Reg)
  /-- CVT_F32_E4M3 (R111) -/
  | cvtF32E4m3 (c : Ctl) (d a : Reg)
  /-- CVT_F32_E5M2 (R111) -/
  | cvtF32E5m2 (c : Ctl) (d a : Reg)
  /-- CVT_F32_E2M1 (R111) -/
  | cvtF32E2m1 (c : Ctl) (d a : Reg)
  /-- CVT_E4M3_F32 (R112) -/
  | cvtE4m3F32 (c : Ctl) (d a : Reg)
  /-- CVT_E5M2_F32 (R112) -/
  | cvtE5m2F32 (c : Ctl) (d a : Reg)
  /-- CVT_E2M1_F32 (R112) -/
  | cvtE2m1F32 (c : Ctl) (d a : Reg)
  /-- CVT_F32_UE4M3 (R112) -/
  | cvtF32Ue4m3 (c : Ctl) (d a : Reg)
  /-- CVT_I32_RNS24 (R113) -/
  | cvtI32Rns24 (c : Ctl) (d a : Reg)
  /-- CVT_N32_RNS24 (R113) -/
  | cvtN32Rns24 (c : Ctl) (d a : Reg)
  /-- CVT_RNS24_I32 (R113) -/
  | cvtRns24I32 (c : Ctl) (d a : Reg)
  /-- CVT_RNS24_N32 (R113) -/
  | cvtRns24N32 (c : Ctl) (d a : Reg)
  /-- RCP_F32 (R114) -/
  | rcpF32 (c : Ctl) (d a : Reg)
  /-- RSQRT_F32 (R114) -/
  | rsqrtF32 (c : Ctl) (d a : Reg)
  /-- SQRT_F32 (R114) -/
  | sqrtF32 (c : Ctl) (d a : Reg)
  /-- EXP2_F32 (R114) -/
  | exp2F32 (c : Ctl) (d a : Reg)
  /-- LOG2_F32 (R114) -/
  | log2F32 (c : Ctl) (d a : Reg)
  /-- SIN_F32 (R114) -/
  | sinF32 (c : Ctl) (d a : Reg)
  /-- COS_F32 (R114) -/
  | cosF32 (c : Ctl) (d a : Reg)
  /-- TANH_F32 (R114) -/
  | tanhF32 (c : Ctl) (d a : Reg)
  /-- GNEXT_B32 (R122) -/
  | gnextB32 (c : Ctl) (d a : Reg)
  /-- GSEED (R122) -/
  | gseed (c : Ctl) (d a : Reg)
  /-- LD_N8 (R117) -/
  | ldN8 (c : Ctl) (d a : Reg) (off : BitVec 8)
  /-- LD_I8 (R117) -/
  | ldI8 (c : Ctl) (d a : Reg) (off : BitVec 8)
  /-- LD_N16 (R117) -/
  | ldN16 (c : Ctl) (d a : Reg) (off : BitVec 8)
  /-- LD_I16 (R117) -/
  | ldI16 (c : Ctl) (d a : Reg) (off : BitVec 8)
  /-- LD_B32 (R117) -/
  | ldB32 (c : Ctl) (d a : Reg) (off : BitVec 8)
  /-- LD_B64 (R117) -/
  | ldB64 (c : Ctl) (d a : Reg) (off : BitVec 8)
  /-- ST_B8 (R118) -/
  | stB8 (c : Ctl) (d a : Reg) (off : BitVec 8)
  /-- ST_B16 (R118) -/
  | stB16 (c : Ctl) (d a : Reg) (off : BitVec 8)
  /-- ST_B32 (R118) -/
  | stB32 (c : Ctl) (d a : Reg) (off : BitVec 8)
  /-- ST_B64 (R118) -/
  | stB64 (c : Ctl) (d a : Reg) (off : BitVec 8)
  /-- NATOM (R171) -/
  | natom (c : Ctl) (d a : Reg) (ord : BitVec 2) (op : BitVec 4)
  /-- ATOM (R304) -/
  | atom (c : Ctl) (d a : Reg) (ord : BitVec 2) (op : BitVec 4)
  /-- PUSH (R121) -/
  | push (c : Ctl) (a : Reg) (n : BitVec 8)
  /-- POP (R121) -/
  | pop (c : Ctl) (d : Reg) (n : BitVec 8)
  /-- MFS (R125) -/
  | mfs (c : Ctl) (d : Reg) (n : BitVec 8)
  /-- MTS (R125) -/
  | mts (c : Ctl) (a : Reg) (n : BitVec 8)
  /-- CKZ (R123) -/
  | ckz (c : Ctl) (d : Reg)
  /-- CKA_MOD (R123) -/
  | ckaMod (c : Ctl) (d a : Reg)
  /-- CKA_F (R123) -/
  | ckaF (c : Ctl) (d a : Reg)
  /-- CKV_MOD (R124) -/
  | ckvMod (c : Ctl) (d a : Reg)
  /-- CKV_F (R124) -/
  | ckvF (c : Ctl) (d a b : Reg)
  /-- SVC (R126) -/
  | svc (c : Ctl) (d a : Reg) (i : BitVec 8)
  /-- TRAP (R128) -/
  | trap (c : Ctl) (n : BitVec 8)
  /-- RTE (R90) -/
  | rte (c : Ctl)
  /-- EXIT (R128) -/
  | exit (c : Ctl)
  /-- BRA (R119) -/
  | bra (c : Ctl) (g : BitVec 5) (n : Bool) (off : BitVec 18)
  /-- BRA_ALWAYS (R119) -/
  | braAlways (c : Ctl) (off : BitVec 18)
  /-- CALL (R120) -/
  | call (c : Ctl) (g : BitVec 5) (n : Bool) (off : BitVec 18)
  /-- CALL_ALWAYS (R120) -/
  | callAlways (c : Ctl) (off : BitVec 18)
  /-- RET (R120) -/
  | ret (c : Ctl)
  /-- BRX (R120) -/
  | brx (c : Ctl) (a : Reg)
  /-- MMA (R232) -/
  | mma (c : Ctl) (t : BitVec 5) (a : Reg) (b : BitVec 5) (q : BitVec 2) (s : BitVec 3) (n : BitVec 2) (r : Bool)
  /-- MMA_SC (R232) -/
  | mmaSc (c : Ctl) (t : BitVec 5) (a : Reg) (b : BitVec 5) (q : BitVec 2) (s : BitVec 3) (n : BitVec 2) (r : Bool)
  /-- MMA_SET (R232) -/
  | mmaSet (c : Ctl) (t : BitVec 5) (a : Reg) (b : BitVec 5) (q : BitVec 2) (s : BitVec 3) (n : BitVec 2) (r : Bool)
  /-- REFORM (R160) -/
  | reform (c : Ctl)
  /-- WAITM (R162) -/
  | waitm (c : Ctl) (a : Reg)
  /-- LEAVE (R162) -/
  | leave (c : Ctl) (a : Reg)
  /-- JOIN (R162) -/
  | join (c : Ctl) (a : Reg)
  /-- PSEG (R166) -/
  | pseg (c : Ctl) (m : Reg) (n : BitVec 8)
  /-- CVSET (R167) -/
  | cvset (c : Ctl) (d a : Reg)
  /-- AGREE_EVERY (R168) -/
  | agreeEvery (c : Ctl) (p : BitVec 5) (na : Bool) (pa : BitVec 5) (m : BitVec 4)
  /-- AGREE_SOME (R168) -/
  | agreeSome (c : Ctl) (p : BitVec 5) (na : Bool) (pa : BitVec 5) (m : BitVec 4)
  /-- AGREE_MASK (R168) -/
  | agreeMask (c : Ctl) (d : Reg) (na : Bool) (pa : BitVec 5) (m : BitVec 4)
  /-- AGREE_SAME (R168) -/
  | agreeSame (c : Ctl) (p : BitVec 5) (a : Reg) (m : BitVec 4)
  /-- XLANE (R169) -/
  | xlane (c : Ctl) (d a : Reg) (x : BitVec 3) (m : BitVec 4)
  /-- SRED (R170) -/
  | sred (c : Ctl) (d a : Reg) (x : BitVec 3) (m : BitVec 4)
  /-- SSCAN (R170) -/
  | sscan (c : Ctl) (d a : Reg) (x : BitVec 3) (m : BitVec 4)
  /-- BSIG (R172) -/
  | bsig (c : Ctl) (a : Reg) (b : OpB)
  /-- BWAIT (R173) -/
  | bwait (c : Ctl) (a b : Reg)
  /-- FENCE_AR (R175) -/
  | fenceAr (c : Ctl)
  /-- FENCE_ACQ (R175) -/
  | fenceAcq (c : Ctl)
  /-- FENCE_REL (R175) -/
  | fenceRel (c : Ctl)
  /-- YIELD (R161) -/
  | yield (c : Ctl)
  /-- TZERO (R236) -/
  | tzero (c : Ctl) (d : Reg)
  /-- TLD (R237) -/
  | tld (c : Ctl) (d a : Reg)
  /-- TST (R238) -/
  | tst (c : Ctl) (d a : Reg)
  /-- TSTAT (R239) -/
  | tstat (c : Ctl) (d a : Reg)
  /-- TRD (R240) -/
  | trd (c : Ctl) (d a : Reg)
  /-- TCVT (R241) -/
  | tcvt (c : Ctl) (d a : Reg) (s : BitVec 3)
  /-- QSEND (R244) -/
  | qsend (c : Ctl) (d : Reg)
  /-- QRECV (R245) -/
  | qrecv (c : Ctl) (d : Reg)
  /-- QCRED (R246) -/
  | qcred (c : Ctl) (d : Reg)
  /-- CPROP (R408) -/
  | cprop (c : Ctl) (d a b : Reg)
  /-- CREAD (R409) -/
  | cread (c : Ctl) (d a b : Reg)
  /-- CRECYC (R410) -/
  | crecyc (c : Ctl) (d a b : Reg)
  /-- LCP_IN (R297) -/
  | lcpIn (c : Ctl) (d a b : Reg)
  /-- LCP_OUT (R297) -/
  | lcpOut (c : Ctl) (d a b : Reg)
  /-- LCPX (R300) -/
  | lcpx (c : Ctl) (d a b : Reg)
  /-- FQUERY (R307) -/
  | fquery (c : Ctl) (d a : Reg)
  /-- XLPROBE (R309) -/
  | xlprobe (c : Ctl) (d a : Reg)
  /-- XLPURGE (R310) -/
  | xlpurge (c : Ctl) (d a : Reg)
  /-- FRETYPE (R308) -/
  | fretype (c : Ctl) (d a : Reg) (t : BitVec 4)
  /-- DECLASS (R362) -/
  | declass (c : Ctl) (d a : Reg) (i : BitVec 8)
  /-- ASYNC_CAUSE_TAKEN (R91) -/
  | asyncCauseTaken (tid : Nat)
  /-- BUNDLE_DRAW (R132) -/
  | bundleDraw (core : Nat)
  /-- BIN_AGED (R131) -/
  | binAged (core : Nat)
  /-- DISPLACEMENT (R133) -/
  | displacement (bid : Nat)
  /-- GROUP_PARK (R154) -/
  | groupPark (gid : Nat)
  /-- GROUP_RELOAD (R155) -/
  | groupReload (gid : Nat)
  /-- CORE_TABLE_ERROR (R198) -/
  | coreTableError (core : Nat)
  /-- MATRIX_POST (R217) -/
  | matrixPost (gid n : Nat)
  /-- ANVIL_GRANT (R218) -/
  | anvilGrant (quad : Nat)
  /-- PASS_COMPLETE (R221) -/
  | passComplete (quad : Nat)
  /-- TILE_PORT_GRANT (R235) -/
  | tilePortGrant (quad : Nat)
  /-- TILE_OP_COMPLETE (R237) -/
  | tileOpComplete (quad : Nat)
  /-- SEGMENT_START (R273) -/
  | segmentStart (core : Nat)
  /-- WALK_COMPLETE (R261) -/
  | walkComplete (cache : CacheId) (w : Nat) (va : DWord) (acc : Access)
  /-- SEGMENT_LAND (R276) -/
  | segmentLand (op seg : Nat)
  /-- SEGMENT_FAIL (R277) -/
  | segmentFail (op seg : Nat) (st : Status)
  /-- TABLE_WRITE_UNIT (R258) -/
  | tableWriteUnit (op seg : Nat)
  /-- PURGE_ACK (R260) -/
  | purgeAck (purge : Nat) (cache : CacheId)
  /-- ATOMIC_AT_HOME (R283) -/
  | atomicAtHome (req : Nat)
  /-- HOST_ATOMIC_COMPLETION (R305) -/
  | hostAtomicCompletion (req : Nat) (code : BitVec 3)
  /-- HOST_ATOMICOP_REQUEST (R287) -/
  | hostAtomicopRequest (w : Nat) (va : DWord) (size : Nat) (op : BitVec 4) (x y : DWord)
  /-- HOST_WRITE (R258) -/
  | hostWrite (w va : Nat) (bytes : List Byte)
  /-- PAGE_REQUEST_RESPONSE (R318) -/
  | pageRequestResponse (w : Nat) (inc : BitVec 5) (grp : Nat) (ok : Bool)
  /-- HOST_LINK (R94) -/
  | hostLink (req : Nat)
  /-- SERVICE_COMPLETION_DOORBELL (R201) -/
  | serviceCompletionDoorbell (w : Nat) (v : Word)
  /-- SRTAIL_WRITE (R314) -/
  | srtailWrite (w : Nat) (v : Word)
  /-- QTAIL_WRITE (R319) -/
  | qtailWrite (w q : Nat) (v : Word)
  /-- QCTL_WRITE (R316) -/
  | qctlWrite (w q : Nat) (v : Word)
  /-- HANDLER_WRITE (R314) -/
  | handlerWrite (w : Nat) (v : DWord)
  /-- WROOT_WRITE (R317) -/
  | wrootWrite (w : Nat) (v : Word)
  /-- WQUADS_WRITE (R317) -/
  | wquadsWrite (w : Nat) (v : BitVec 256)
  /-- WCTX_WRITE (R338) -/
  | wctxWrite (w : Nat) (cnt : Bool) (v : Word)
  /-- REGISTER_WRITE (R314) -/
  | registerWrite (fn : Nat) (off : Nat) (v : DWord)
  /-- KILL (R338) -/
  | kill (w : Nat)
  /-- PREEMPT (R339) -/
  | preempt (w : Nat)
  /-- RESTORE (R353) -/
  | restore (w : Nat)
  /-- REKEY (R359) -/
  | rekey (w : Nat)
  /-- REKEY_FRAME (R359) -/
  | rekeyFrame (w : Nat)
  /-- THREAD_HALT (R341) -/
  | threadHalt (tid : Nat)
  /-- WORLD_QUIESCED (R342) -/
  | worldQuiesced (w : Nat)
  /-- REPLAY_TIMEOUT (R342) -/
  | replayTimeout (req : Nat)
  /-- SAVE_COMPLETE (R346) -/
  | saveComplete (w : Nat)
  /-- RESTORE_COMPLETE (R354) -/
  | restoreComplete (w : Nat)
  /-- LAUNCH (R327) -/
  | launch (w q : Nat)
  /-- WAITCOUNT (R322) -/
  | waitcount (w q : Nat)
  /-- WAITCOUNT_SATISFIED (R322) -/
  | waitcountSatisfied (w q : Nat)
  /-- SIGNALCOUNT (R322) -/
  | signalcount (w q : Nat)
  /-- COPY (R322) -/
  | copy (w q : Nat)
  /-- MARK (R322) -/
  | mark (w q : Nat)
  /-- LAUNCH_COMPLETE (R335) -/
  | launchComplete (lid : Nat)
  /-- SCHEDULER_ARBITRATION (R330) -/
  | schedulerArbitration
  /-- CLUSTER_RESERVING (R332) -/
  | clusterReserving (w q : Nat)
  /-- METER_READ (R380) -/
  | meterRead
  /-- METER_FINAL (R381) -/
  | meterFinal
  /-- START_STATUS (R386) -/
  | startStatus
  /-- START_RETRY (R384) -/
  | startRetry
  /-- BBOX_READ (R388) -/
  | bboxRead
  /-- CTX_FLIP (R374) -/
  | ctxFlip
  /-- POWER_CAP (R389) -/
  | powerCap
  /-- GRANT_WRITE (R376) -/
  | grantWrite
  /-- GRANT_READ (R376) -/
  | grantRead
  /-- METERING_INTERVAL (R378) -/
  | meteringInterval (m : Measure)
  /-- METER_CHECKPOINT (R381) -/
  | meterCheckpoint
  /-- THROTTLE (R389) -/
  | throttle (watts junction : Nat)
  /-- COLD_RESET (R385) -/
  | coldReset (reason : Nat)
  /-- WARM_RESET (R385) -/
  | warmReset (reason : Nat)
  /-- FUNCTION_RESET (R368) -/
  | functionReset (w : Nat)
  /-- FATAL_ERROR (R387) -/
  | fatalError (f : Fatal)
  /-- NETWORK_PACKET_RECEIVE (R358) -/
  | networkPacketReceive (w port : Nat) (p : NetPacket) (tagOk : Bool)
  /-- GET_VERSION (R363) -/
  | getVersion (w : Nat)
  /-- GET_CAPABILITIES (R363) -/
  | getCapabilities (w : Nat)
  /-- NEGOTIATE_ALGORITHMS (R363) -/
  | negotiateAlgorithms (w : Nat)
  /-- GET_MEASUREMENTS (R363) -/
  | getMeasurements (w : Nat)
  /-- KEY_EXCHANGE (R363) -/
  | keyExchange (w : Nat)
  /-- FINISH (R363) -/
  | finish (w : Nat)
  /-- END_SESSION (R363) -/
  | endSession (w : Nat)
  /-- VENDOR_DEFINED_REQUEST (R363) -/
  | vendorDefinedRequest (w : Nat) (kind : Nat)
  /-- LOCK_INTERFACE_REQUEST (R364) -/
  | lockInterfaceRequest (w : Nat) (nonce : BitVec 256)
  /-- GET_DEVICE_INTERFACE_REPORT (R364) -/
  | getDeviceInterfaceReport (w : Nat)
  /-- START_INTERFACE_REQUEST (R364) -/
  | startInterfaceRequest (w : Nat)
  /-- STOP_INTERFACE_REQUEST (R366) -/
  | stopInterfaceRequest (w : Nat)
  /-- IDE_INTEGRITY_FAILURE (R364) -/
  | ideIntegrityFailure (w : Nat)
  /-- FNODE_WRITE (R393) -/
  | fnodeWrite (v : Word)
  /-- RTDATA_WRITE (R394) -/
  | rtdataWrite (v : DWord)
  /-- ROUTEDATA_WRITE (R393) -/
  | routedataWrite (v : DWord)
  /-- WFAB_WRITE (R397) -/
  | wfabWrite (w : Nat) (v : DWord)
  /-- BRAZE_PACKET_RECEIVE (R396) -/
  | brazePacketReceive (port : Nat) (p : Packet) (tagOk : Bool)
  /-- REMOTE_ACCESS (R395) -/
  | remoteAccess (n : Nat)
  /-- REJECT (R396) -/
  | reject (p : Packet)
  /-- RANK_DOWN (R401) -/
  | rankDown (node w : Nat) (inc : BitVec 5)
  /-- FABRIC_PURGE (R405) -/
  | fabricPurge (node w : Nat)
  /-- CELL_OPERATION (R404) -/
  | cellOperation (req : Nat)
  /-- CELL_ANSWER (R407) -/
  | cellAnswer (req : Nat)
  /-- ROUTE_TIMEOUT (R398) -/
  | routeTimeout (op seg : Nat)
  /-- METADATA_HOME_OPERATION (R249) -/
  | metadataHomeOperation (req : Nat)
  /-- POWER_LOSS (R385) -/
  | powerLoss
  /-- BRAZE_PORT_LOST (R398) -/
  | brazePortLost (port : Nat)
  /-- BRAZE_PORT_LIVE (R405) -/
  | brazePortLive (port : Nat)
  /-- PORT_KEY_ROTATION (R360) -/
  | portKeyRotation (port : Nat)
  /-- HOST_READ (R284) -/
  | hostRead (w va len : Nat)
  deriving DecidableEq, Repr

end Sys2Proof
end

