-- ==== Sys2Proof/Machine/Form.lean ====
section
/-! DEFINITION. What the opcode map says of each instruction word beside its meaning: which operand kinds its fields hold and
which of them it reads and writes (spec/04_opcode_map.md R59 to R65), what a prefix may ask of it (R66, R67), its place in a
chain (spec/03_formats.md R53), and the checks on operands that decoding makes (R41, R42, R48, R49, R57). -/

namespace Sys2Proof

/-- Which rounding overrides an instruction accepts (R67). -/
inductive Rounding where
  | no | yes | withRna
  deriving DecidableEq, Repr

/-- What a guard prefix does to an instruction (R49, R66, R158). -/
inductive GuardRule where
  | refused | allowed | selects
  deriving DecidableEq, Repr

/-- `result`: the instruction writes a V register that its field d (or data) names, so W = 1 is allowed (R48).
`effect`: it has an effect outside registers (rule 2 of R53); `last`: it stands last in its chain for another reason (rule 3 of
R53, R158). `formatX`: it is a matrix word. -/
structure Form where
  result   : Bool
  rounding : Rounding
  sat      : Bool
  guard    : GuardRule
  effect   : Bool
  last     : Bool
  formatX  : Bool
  deriving DecidableEq, Repr

/-- The kinds of operand field, each with what it holds (R59, R60, R61). -/
inductive Operand where
  | dst (r : Reg) | src (r : Reg)
  | pairDst (r : Reg) | pairSrc (r : Reg)
  | quadDst (r : Reg) | quadSrc (r : Reg)
  | triSrc (r : Reg)
  | rangeDst (r : Reg) (n : BitVec 8) | rangeSrc (r : Reg) (n : BitVec 8)
  | rows (r : Reg) (n : Nat)
  | qsend (r : Reg)
  | pdst (p : BitVec 5) | psrc (p : BitVec 5)
  | kdst (k : Reg) | ksrc (k : Reg)
  | gdst (g : Reg) | gsrc (g : Reg)
  | mask (m : Reg) | mask4 (m : BitVec 4) | conv (c : Reg)
  | tile (t : BitVec 5) | tileReg (t : Reg) | distinct (t b : BitVec 5)
  | slot (kind : Nat) (s : BitVec 3)
  | imm (lo hi : Nat) (n : BitVec 8)
  deriving DecidableEq, Repr

/-- A chain's registers as rule 4 of R53 counts them. -/
inductive RegName where
  | v (n : Nat) | p (n : Nat) | k (n : Nat) | g (n : Nat)
  deriving DecidableEq, Repr

/-- What decoding needs to know of the team it decodes for: the role's register count (R42), the tile count (R42), the format
slots (R225), and whether the launch runs in pool mode (R243). -/
structure DecCtx where
  regs  : Nat
  tiles : Nat
  fmt   : List Word
  pool  : Bool
  deriving DecidableEq, Repr

def OpB.operands : OpB → List Operand
  | .reg r => [.src r]
  | .lit _ => []

/-- The data register of an atomic: a pair for cas.b32 and add.n64, read and written (R64). -/
def atomData (d : Reg) (op : BitVec 4) : List Operand :=
  if op = 9 then [.dst d, .pairSrc d] else if op = 10 then [.pairDst d, .pairSrc d] else [.dst d, .src d]


/-- The form of each instruction word; an event has none of it (R48, R53, R66, R67). -/
def Instr.form : Instr → Form
  | .addN32 .. | .addI32 .. | .subN32 .. | .subI32 .. | .cvtRns24I32 .. | .cvtRns24N32 .. => ⟨true, .no, true, .allowed, false, false, false⟩
  | .mulB32 .. | .mulwN32 .. | .mulwI32 .. | .macB32 .. | .minN32 .. | .minI32 .. | .maxN32 .. | .maxI32 .. | .andB32 .. |
    .orB32 .. | .xorB32 .. | .shlB32 .. | .shrN32 .. | .shrI32 .. | .notB32 .. | .onesB32 .. | .lzcB32 .. | .tzcB32 .. |
    .revB32 .. | .absI32 .. | .negI32 .. | .sxtB8 .. | .sxtB16 .. | .zxtB8 .. | .zxtB16 .. | .fgetN32 .. | .fgetI32 .. |
    .fputB32 .. | .divN32 .. | .divI32 .. | .remN32 .. | .remI32 .. | .movB32 .. | .ptv .. | .fminF32 .. | .fmaxF32 .. |
    .fabsF32 .. | .fnegF32 .. | .fabsF16x2 .. | .fnegF16x2 .. | .fabsBf16x2 .. | .fnegBf16x2 .. | .cvtF32F16 .. |
    .cvtF32Bf16 .. | .cvtF32E4m3 .. | .cvtF32E5m2 .. | .cvtF32E2m1 .. | .cvtF32Ue4m3 .. | .cvtI32Rns24 .. | .cvtN32Rns24
    .. | .rcpF32 .. | .rsqrtF32 .. | .sqrtF32 .. | .exp2F32 .. | .log2F32 .. | .sinF32 .. | .cosF32 .. | .tanhF32 .. |
    .gnextB32 .. | .addN32Imm .. | .andB32Imm .. | .orB32Imm .. | .xorB32Imm .. | .shlB32Imm .. | .shrN32Imm .. |
    .shrI32Imm .. | .movB32Imm .. | .mfs .. | .declass .. | .ldN8 .. | .ldI8 .. | .ldN16 .. | .ldI16 .. | .ldB32 .. |
    .ldB64 .. => ⟨true, .no, false, .allowed, false, false, false⟩
  | .selB32 .. => ⟨true, .no, false, .selects, false, false, false⟩
  | .cmpN32Set1 .. | .cmpN32Set2 .. | .cmpI32Set1 .. | .cmpI32Set2 .. | .cmpF32Set1 .. | .cmpF32Set2 .. | .pand .. | .por
    .. | .pxor .. | .vtp .. | .gseed .. | .ckz .. | .ckaMod .. | .ckaF .. | .mts .. => ⟨false, .no, false, .allowed, false, false, false⟩
  | .faddF32 .. | .fsubF32 .. | .fmulF32 .. | .ffmaF32 .. | .frintF32 .. | .faddF16x2 .. | .fmulF16x2 .. | .ffmaF16x2 .. |
    .faddBf16x2 .. | .fmulBf16x2 .. | .ffmaBf16x2 .. | .fdot2F32F16x2 .. | .fdot2F32Bf16x2 .. => ⟨true, .yes, false, .allowed, false, false, false⟩
  | .cvtF32I32 .. | .cvtF32N32 .. | .cvtF16F32 .. | .cvtBf16F32 .. => ⟨true, .withRna, false, .allowed, false, false, false⟩
  | .cvtI32F32 .. | .cvtN32F32 .. | .cvtE4m3F32 .. | .cvtE5m2F32 .. | .cvtE2m1F32 .. => ⟨true, .withRna, true, .allowed, false, false, false⟩
  | .stB8 .. | .stB16 .. | .stB32 .. | .stB64 .. | .push .. | .trap .. | .ckvMod .. | .ckvF .. | .bsig .. | .bwait .. |
    .fenceAr .. | .fenceAcq .. | .fenceRel .. | .tzero .. | .tld .. | .tst .. | .tcvt .. | .lcpIn .. | .lcpOut .. | .lcpx
    .. => ⟨false, .no, false, .allowed, true, false, false⟩
  | .natom .. | .atom .. | .pop .. | .svc .. | .tstat .. | .trd .. | .qsend .. | .qrecv .. | .qcred .. | .cprop .. |
    .cread .. | .crecyc .. | .fquery .. | .xlprobe .. | .xlpurge .. | .fretype .. => ⟨true, .no, false, .allowed, true, false, false⟩
  | .rte .. | .exit .. | .ret .. | .brx .. | .reform .. | .leave .. | .yield .. => ⟨false, .no, false, .allowed, false, true, false⟩
  | .bra .. | .braAlways .. | .call .. | .callAlways .. | .waitm .. | .join .. | .cvset .. | .agreeEvery .. | .agreeSome
    .. | .agreeSame .. | .pseg .. => ⟨false, .no, false, .refused, false, true, false⟩
  | .mma .. | .mmaSc .. | .mmaSet .. => ⟨false, .no, false, .allowed, true, true, true⟩
  | .agreeMask .. | .xlane .. | .sred .. | .sscan .. => ⟨true, .no, false, .refused, false, true, false⟩
  | _ => ⟨false, .no, false, .refused, false, false, false⟩

/-- The class, the chain bit, W and the prefix of an instruction word. -/
def Instr.ctl : Instr → Ctl
  | .addN32 c _ _ _ => c
  | .addI32 c _ _ _ => c
  | .subN32 c _ _ _ => c
  | .subI32 c _ _ _ => c
  | .mulB32 c _ _ _ => c
  | .mulwN32 c _ _ _ => c
  | .mulwI32 c _ _ _ => c
  | .macB32 c _ _ _ => c
  | .minN32 c _ _ _ => c
  | .minI32 c _ _ _ => c
  | .maxN32 c _ _ _ => c
  | .maxI32 c _ _ _ => c
  | .andB32 c _ _ _ => c
  | .orB32 c _ _ _ => c
  | .xorB32 c _ _ _ => c
  | .shlB32 c _ _ _ => c
  | .shrN32 c _ _ _ => c
  | .shrI32 c _ _ _ => c
  | .notB32 c _ _ => c
  | .onesB32 c _ _ => c
  | .lzcB32 c _ _ => c
  | .tzcB32 c _ _ => c
  | .revB32 c _ _ => c
  | .absI32 c _ _ => c
  | .negI32 c _ _ => c
  | .sxtB8 c _ _ => c
  | .sxtB16 c _ _ => c
  | .zxtB8 c _ _ => c
  | .zxtB16 c _ _ => c
  | .fgetN32 c _ _ _ => c
  | .fgetI32 c _ _ _ => c
  | .fputB32 c _ _ _ => c
  | .divN32 c _ _ _ => c
  | .divI32 c _ _ _ => c
  | .remN32 c _ _ _ => c
  | .remI32 c _ _ _ => c
  | .addN32Imm c _ _ _ => c
  | .andB32Imm c _ _ _ => c
  | .orB32Imm c _ _ _ => c
  | .xorB32Imm c _ _ _ => c
  | .shlB32Imm c _ _ _ => c
  | .shrN32Imm c _ _ _ => c
  | .shrI32Imm c _ _ _ => c
  | .movB32Imm c _ _ => c
  | .movB32 c _ _ => c
  | .selB32 c _ _ _ => c
  | .cmpN32Set1 c _ _ _ _ => c
  | .cmpN32Set2 c _ _ _ _ => c
  | .cmpI32Set1 c _ _ _ _ => c
  | .cmpI32Set2 c _ _ _ _ => c
  | .cmpF32Set1 c _ _ _ _ => c
  | .cmpF32Set2 c _ _ _ _ => c
  | .pand c _ _ _ _ _ => c
  | .por c _ _ _ _ _ => c
  | .pxor c _ _ _ _ _ => c
  | .vtp c _ _ => c
  | .ptv c _ _ _ => c
  | .faddF32 c _ _ _ => c
  | .fsubF32 c _ _ _ => c
  | .fmulF32 c _ _ _ => c
  | .ffmaF32 c _ _ _ => c
  | .fminF32 c _ _ _ => c
  | .fmaxF32 c _ _ _ => c
  | .fabsF32 c _ _ => c
  | .fnegF32 c _ _ => c
  | .frintF32 c _ _ => c
  | .fabsF16x2 c _ _ => c
  | .fnegF16x2 c _ _ => c
  | .fabsBf16x2 c _ _ => c
  | .fnegBf16x2 c _ _ => c
  | .faddF16x2 c _ _ _ => c
  | .fmulF16x2 c _ _ _ => c
  | .ffmaF16x2 c _ _ _ => c
  | .faddBf16x2 c _ _ _ => c
  | .fmulBf16x2 c _ _ _ => c
  | .ffmaBf16x2 c _ _ _ => c
  | .fdot2F32F16x2 c _ _ _ => c
  | .fdot2F32Bf16x2 c _ _ _ => c
  | .cvtF32I32 c _ _ => c
  | .cvtF32N32 c _ _ => c
  | .cvtI32F32 c _ _ => c
  | .cvtN32F32 c _ _ => c
  | .cvtF32F16 c _ _ => c
  | .cvtF32Bf16 c _ _ => c
  | .cvtF16F32 c _ _ => c
  | .cvtBf16F32 c _ _ => c
  | .cvtF32E4m3 c _ _ => c
  | .cvtF32E5m2 c _ _ => c
  | .cvtF32E2m1 c _ _ => c
  | .cvtE4m3F32 c _ _ => c
  | .cvtE5m2F32 c _ _ => c
  | .cvtE2m1F32 c _ _ => c
  | .cvtF32Ue4m3 c _ _ => c
  | .cvtI32Rns24 c _ _ => c
  | .cvtN32Rns24 c _ _ => c
  | .cvtRns24I32 c _ _ => c
  | .cvtRns24N32 c _ _ => c
  | .rcpF32 c _ _ => c
  | .rsqrtF32 c _ _ => c
  | .sqrtF32 c _ _ => c
  | .exp2F32 c _ _ => c
  | .log2F32 c _ _ => c
  | .sinF32 c _ _ => c
  | .cosF32 c _ _ => c
  | .tanhF32 c _ _ => c
  | .gnextB32 c _ _ => c
  | .gseed c _ _ => c
  | .ldN8 c _ _ _ => c
  | .ldI8 c _ _ _ => c
  | .ldN16 c _ _ _ => c
  | .ldI16 c _ _ _ => c
  | .ldB32 c _ _ _ => c
  | .ldB64 c _ _ _ => c
  | .stB8 c _ _ _ => c
  | .stB16 c _ _ _ => c
  | .stB32 c _ _ _ => c
  | .stB64 c _ _ _ => c
  | .natom c _ _ _ _ => c
  | .atom c _ _ _ _ => c
  | .push c _ _ => c
  | .pop c _ _ => c
  | .mfs c _ _ => c
  | .mts c _ _ => c
  | .ckz c _ => c
  | .ckaMod c _ _ => c
  | .ckaF c _ _ => c
  | .ckvMod c _ _ => c
  | .ckvF c _ _ _ => c
  | .svc c _ _ _ => c
  | .trap c _ => c
  | .rte c => c
  | .exit c => c
  | .bra c _ _ _ => c
  | .braAlways c _ => c
  | .call c _ _ _ => c
  | .callAlways c _ => c
  | .ret c => c
  | .brx c _ => c
  | .mma c _ _ _ _ _ _ _ => c
  | .mmaSc c _ _ _ _ _ _ _ => c
  | .mmaSet c _ _ _ _ _ _ _ => c
  | .reform c => c
  | .waitm c _ => c
  | .leave c _ => c
  | .join c _ => c
  | .pseg c _ _ => c
  | .cvset c _ _ => c
  | .agreeEvery c _ _ _ _ => c
  | .agreeSome c _ _ _ _ => c
  | .agreeMask c _ _ _ _ => c
  | .agreeSame c _ _ _ => c
  | .xlane c _ _ _ _ => c
  | .sred c _ _ _ _ => c
  | .sscan c _ _ _ _ => c
  | .bsig c _ _ => c
  | .bwait c _ _ => c
  | .fenceAr c => c
  | .fenceAcq c => c
  | .fenceRel c => c
  | .yield c => c
  | .tzero c _ => c
  | .tld c _ _ => c
  | .tst c _ _ => c
  | .tstat c _ _ => c
  | .trd c _ _ => c
  | .tcvt c _ _ _ => c
  | .qsend c _ => c
  | .qrecv c _ => c
  | .qcred c _ => c
  | .cprop c _ _ _ => c
  | .cread c _ _ _ => c
  | .crecyc c _ _ _ => c
  | .lcpIn c _ _ _ => c
  | .lcpOut c _ _ _ => c
  | .lcpx c _ _ _ => c
  | .fquery c _ _ => c
  | .xlprobe c _ _ => c
  | .xlpurge c _ _ => c
  | .fretype c _ _ _ => c
  | .declass c _ _ _ => c
  | _ => ⟨false, false, false, none⟩

/-- The operands of each instruction word, in the order of its fields (R59 to R65). -/
def Instr.operands : Instr → List Operand
  | .addN32 _ d a b => [.dst d, .src a] ++ b.operands
  | .addI32 _ d a b => [.dst d, .src a] ++ b.operands
  | .subN32 _ d a b => [.dst d, .src a] ++ b.operands
  | .subI32 _ d a b => [.dst d, .src a] ++ b.operands
  | .mulB32 _ d a b => [.dst d, .src a] ++ b.operands
  | .mulwN32 _ d a b => [.dst d, .src a] ++ b.operands
  | .mulwI32 _ d a b => [.dst d, .src a] ++ b.operands
  | .macB32 _ d a b => [.dst d, .src d, .src a] ++ b.operands
  | .minN32 _ d a b => [.dst d, .src a] ++ b.operands
  | .minI32 _ d a b => [.dst d, .src a] ++ b.operands
  | .maxN32 _ d a b => [.dst d, .src a] ++ b.operands
  | .maxI32 _ d a b => [.dst d, .src a] ++ b.operands
  | .andB32 _ d a b => [.dst d, .src a] ++ b.operands
  | .orB32 _ d a b => [.dst d, .src a] ++ b.operands
  | .xorB32 _ d a b => [.dst d, .src a] ++ b.operands
  | .shlB32 _ d a b => [.dst d, .src a] ++ b.operands
  | .shrN32 _ d a b => [.dst d, .src a] ++ b.operands
  | .shrI32 _ d a b => [.dst d, .src a] ++ b.operands
  | .notB32 _ d a => [.dst d, .src a]
  | .onesB32 _ d a => [.dst d, .src a]
  | .lzcB32 _ d a => [.dst d, .src a]
  | .tzcB32 _ d a => [.dst d, .src a]
  | .revB32 _ d a => [.dst d, .src a]
  | .absI32 _ d a => [.dst d, .src a]
  | .negI32 _ d a => [.dst d, .src a]
  | .sxtB8 _ d a => [.dst d, .src a]
  | .sxtB16 _ d a => [.dst d, .src a]
  | .zxtB8 _ d a => [.dst d, .src a]
  | .zxtB16 _ d a => [.dst d, .src a]
  | .fgetN32 _ d a b => [.dst d, .src a] ++ b.operands
  | .fgetI32 _ d a b => [.dst d, .src a] ++ b.operands
  | .fputB32 _ d a b => [.dst d, .src d, .src a] ++ b.operands
  | .divN32 _ d a b => [.dst d, .src a] ++ b.operands
  | .divI32 _ d a b => [.dst d, .src a] ++ b.operands
  | .remN32 _ d a b => [.dst d, .src a] ++ b.operands
  | .remI32 _ d a b => [.dst d, .src a] ++ b.operands
  | .addN32Imm _ d a _ => [.dst d, .src a]
  | .andB32Imm _ d a _ => [.dst d, .src a]
  | .orB32Imm _ d a _ => [.dst d, .src a]
  | .xorB32Imm _ d a _ => [.dst d, .src a]
  | .shlB32Imm _ d a i => [.dst d, .src a, .imm 0 31 i]
  | .shrN32Imm _ d a i => [.dst d, .src a, .imm 0 31 i]
  | .shrI32Imm _ d a i => [.dst d, .src a, .imm 0 31 i]
  | .movB32Imm _ d _ => [.dst d]
  | .movB32 _ d b => [.dst d] ++ b.operands
  | .selB32 _ d a b => [.dst d, .src a] ++ b.operands
  | .cmpN32Set1 _ _ p a b => [.pdst p, .src a] ++ b.operands
  | .cmpN32Set2 _ _ p a b => [.pdst p, .src a] ++ b.operands
  | .cmpI32Set1 _ _ p a b => [.pdst p, .src a] ++ b.operands
  | .cmpI32Set2 _ _ p a b => [.pdst p, .src a] ++ b.operands
  | .cmpF32Set1 _ _ p a b => [.pdst p, .src a] ++ b.operands
  | .cmpF32Set2 _ _ p a b => [.pdst p, .src a] ++ b.operands
  | .pand _ p _ pa _ pb => [.pdst p, .psrc pa, .psrc pb]
  | .por _ p _ pa _ pb => [.pdst p, .psrc pa, .psrc pb]
  | .pxor _ p _ pa _ pb => [.pdst p, .psrc pa, .psrc pb]
  | .vtp _ p a => [.pdst p, .src a]
  | .ptv _ d _ pa => [.dst d, .psrc pa]
  | .faddF32 _ d a b => [.dst d, .src a] ++ b.operands
  | .fsubF32 _ d a b => [.dst d, .src a] ++ b.operands
  | .fmulF32 _ d a b => [.dst d, .src a] ++ b.operands
  | .ffmaF32 _ d a b => [.dst d, .src d, .src a] ++ b.operands
  | .fminF32 _ d a b => [.dst d, .src a] ++ b.operands
  | .fmaxF32 _ d a b => [.dst d, .src a] ++ b.operands
  | .fabsF32 _ d a => [.dst d, .src a]
  | .fnegF32 _ d a => [.dst d, .src a]
  | .frintF32 _ d a => [.dst d, .src a]
  | .fabsF16x2 _ d a => [.dst d, .src a]
  | .fnegF16x2 _ d a => [.dst d, .src a]
  | .fabsBf16x2 _ d a => [.dst d, .src a]
  | .fnegBf16x2 _ d a => [.dst d, .src a]
  | .faddF16x2 _ d a b => [.dst d, .src a] ++ b.operands
  | .fmulF16x2 _ d a b => [.dst d, .src a] ++ b.operands
  | .ffmaF16x2 _ d a b => [.dst d, .src d, .src a] ++ b.operands
  | .faddBf16x2 _ d a b => [.dst d, .src a] ++ b.operands
  | .fmulBf16x2 _ d a b => [.dst d, .src a] ++ b.operands
  | .ffmaBf16x2 _ d a b => [.dst d, .src d, .src a] ++ b.operands
  | .fdot2F32F16x2 _ d a b => [.dst d, .src d, .src a] ++ b.operands
  | .fdot2F32Bf16x2 _ d a b => [.dst d, .src d, .src a] ++ b.operands
  | .cvtF32I32 _ d a => [.dst d, .src a]
  | .cvtF32N32 _ d a => [.dst d, .src a]
  | .cvtI32F32 _ d a => [.dst d, .src a]
  | .cvtN32F32 _ d a => [.dst d, .src a]
  | .cvtF32F16 _ d a => [.dst d, .src a]
  | .cvtF32Bf16 _ d a => [.dst d, .src a]
  | .cvtF16F32 _ d a => [.dst d, .src a]
  | .cvtBf16F32 _ d a => [.dst d, .src a]
  | .cvtF32E4m3 _ d a => [.dst d, .src a]
  | .cvtF32E5m2 _ d a => [.dst d, .src a]
  | .cvtF32E2m1 _ d a => [.dst d, .src a]
  | .cvtE4m3F32 _ d a => [.dst d, .src a]
  | .cvtE5m2F32 _ d a => [.dst d, .src a]
  | .cvtE2m1F32 _ d a => [.dst d, .src a]
  | .cvtF32Ue4m3 _ d a => [.dst d, .src a]
  | .cvtI32Rns24 _ d a => [.dst d, .src a]
  | .cvtN32Rns24 _ d a => [.dst d, .src a]
  | .cvtRns24I32 _ d a => [.dst d, .src a]
  | .cvtRns24N32 _ d a => [.dst d, .src a]
  | .rcpF32 _ d a => [.dst d, .src a]
  | .rsqrtF32 _ d a => [.dst d, .src a]
  | .sqrtF32 _ d a => [.dst d, .src a]
  | .exp2F32 _ d a => [.dst d, .src a]
  | .log2F32 _ d a => [.dst d, .src a]
  | .sinF32 _ d a => [.dst d, .src a]
  | .cosF32 _ d a => [.dst d, .src a]
  | .tanhF32 _ d a => [.dst d, .src a]
  | .gnextB32 _ d a => [.dst d, .gsrc a, .gdst a]
  | .gseed _ d a => [.gdst d, .quadSrc a]
  | .ldN8 _ d a _ => [.dst d, .src a]
  | .ldI8 _ d a _ => [.dst d, .src a]
  | .ldN16 _ d a _ => [.dst d, .src a]
  | .ldI16 _ d a _ => [.dst d, .src a]
  | .ldB32 _ d a _ => [.dst d, .src a]
  | .ldB64 _ d a _ => [.pairDst d, .src a]
  | .stB8 _ d a _ => [.src d, .src a]
  | .stB16 _ d a _ => [.src d, .src a]
  | .stB32 _ d a _ => [.src d, .src a]
  | .stB64 _ d a _ => [.pairSrc d, .src a]
  | .natom _ d a _ op => atomData d op ++ [.src a]
  | .atom _ d a _ op => atomData d op ++ [.pairSrc a]
  | .push _ a n => [.rangeSrc a n, .imm 1 8 n]
  | .pop _ d n => [.rangeDst d n, .imm 1 8 n]
  | .mfs _ d n => [if n == 0x0D || n == 0x11 then .pairDst d else .dst d, .imm 0 0x13 n]
  | .mts _ a n => [.src a, .imm 0 0x13 n]
  | .ckz _ d => [.kdst d]
  | .ckaMod _ d a => [.kdst d, .ksrc d, .src a]
  | .ckaF _ d a => [.kdst d, .ksrc d, .src a]
  | .ckvMod _ d a => [.ksrc d, .ksrc a]
  | .ckvF _ d a b => [.ksrc d, .ksrc a, .src b]
  | .svc _ d a _ => [.dst d, .src a]
  | .trap _ _ => []
  | .rte _ => []
  | .exit _ => []
  | .bra _ g _ _ => [.psrc g]
  | .braAlways _ _ => []
  | .call _ g _ _ => [.psrc g]
  | .callAlways _ _ => []
  | .ret _ => []
  | .brx _ a => [.src a]
  | .mma _ t a b _ s _ _ => [.rows a 8, .distinct t b, .tile t, .tile b, .slot 0 s]
  | .mmaSc _ t a b _ s _ _ => [.rows a 9, .distinct t b, .tile t, .tile b, .slot 1 s]
  | .mmaSet _ t a b _ s _ _ => [.rows a 8, .distinct t b, .tile t, .tile b, .slot 2 s]
  | .reform _ => []
  | .waitm _ a => [.mask a]
  | .leave _ a => [.mask a]
  | .join _ a => [.mask a]
  | .pseg _ m n => [.mask m, .imm 0 4 n]
  | .cvset _ d a => [.conv d, .mask a]
  | .agreeEvery _ p _ pa m => [.pdst p, .psrc pa, .mask4 m]
  | .agreeSome _ p _ pa m => [.pdst p, .psrc pa, .mask4 m]
  | .agreeMask _ d _ pa m => [.dst d, .psrc pa, .mask4 m]
  | .agreeSame _ p a m => [.pdst p, .src a, .mask4 m]
  | .xlane _ d a _ m => [.dst d, .src d, .src a, .mask4 m]
  | .sred _ d a _ m => [.dst d, .src a, .mask4 m]
  | .sscan _ d a _ m => [.dst d, .src a, .mask4 m]
  | .bsig _ a b => [.src a] ++ b.operands
  | .bwait _ a b => [.src a, .pairSrc b]
  | .fenceAr _ => []
  | .fenceAcq _ => []
  | .fenceRel _ => []
  | .yield _ => []
  | .tzero _ d => [.tileReg d]
  | .tld _ d a => [.tileReg d, .src a]
  | .tst _ d a => [.tileReg d, .src a]
  | .tstat _ d a => [.dst d, .tileReg a]
  | .trd _ d a => [.dst d, .src d, .tileReg a]
  | .tcvt _ d a s => [.tileReg d, .tileReg a, .slot 3 s]
  | .qsend _ d => [.qsend d]
  | .qrecv _ d => [.pairDst d]
  | .qcred _ d => [.dst d, .src d]
  | .cprop _ d a b => [.quadDst d, .pairSrc a, .triSrc b]
  | .cread _ d a b => [.quadDst d, .pairSrc a, .src b]
  | .crecyc _ d a b => [.dst d, .pairSrc a, .src b]
  | .lcpIn _ d a b => [.src d, .pairSrc a, .pairSrc b]
  | .lcpOut _ d a b => [.src d, .pairSrc a, .pairSrc b]
  | .lcpx _ d a b => [.src d, .pairSrc a, .pairSrc b]
  | .fquery _ d a => [.quadDst d, .pairSrc a]
  | .xlprobe _ d a => [.pairDst d, .pairSrc a]
  | .xlpurge _ d a => [.dst d, .pairSrc a]
  | .fretype _ d a _ => [.dst d, .pairSrc a]
  | .declass _ d a i => [.dst d, .src a, .imm 0 3 i]
  | _ => []

/-- The lowest register of an operand and how many follow it, for the kinds that name V registers. -/
def regsBelow (ctx : DecCtx) (r : Reg) (n : Nat) : Bool := r.toNat + n ≤ ctx.regs

/-- R41, as a source: V registers below the role's count, Z, and the latches (whose place in a chain R53 checks). -/
def srcOk (ctx : DecCtx) (r : Reg) : Bool :=
  (r.toNat < 120 && regsBelow ctx r 1) || r = 120 || 124 ≤ r.toNat

/-- R41, as a destination. -/
def dstOk (ctx : DecCtx) (r : Reg) : Bool :=
  (r.toNat < 120 && regsBelow ctx r 1) || r = 120

def pairOk (ctx : DecCtx) (r : Reg) : Bool := r.toNat % 2 = 0 && r.toNat ≤ 118 && regsBelow ctx r 2
def quadOk (ctx : DecCtx) (r : Reg) : Bool := r.toNat % 4 = 0 && r.toNat ≤ 116 && regsBelow ctx r 4
def triOk (ctx : DecCtx) (r : Reg) : Bool := r.toNat % 2 = 0 && r.toNat ≤ 116 && regsBelow ctx r 3

/-- The ILLEGAL_OPERAND check of one operand (R41, R42, R60, R61, R63, R231, R243). -/
def Operand.legal (ctx : DecCtx) : Operand → Bool
  | .dst r => dstOk ctx r
  | .src r => srcOk ctx r
  | .pairDst r | .pairSrc r => pairOk ctx r
  | .quadDst r | .quadSrc r | .qsend r => quadOk ctx r
  | .triSrc r => triOk ctx r
  | .rangeDst r n | .rangeSrc r n => r.toNat < 120 && regsBelow ctx r n.toNat
  | .rows r n => r.toNat + n ≤ 120 && regsBelow ctx r n
  | .pdst _ | .psrc _ | .tile _ | .slot _ _ => true
  | .kdst k | .ksrc k | .gdst k | .gsrc k | .conv k => k.toNat < 4
  | .mask m => m.toNat < 12
  | .mask4 m => m.toNat < 12
  | .tileReg t => t.toNat < 32
  | .distinct t b => t ≠ b
  | .imm lo hi n => lo ≤ n.toNat && n.toNat ≤ hi

/-- The TILE_LIMIT check of one operand (R42, R60): the tile number that fails it. -/
def Operand.overTiles (ctx : DecCtx) : Operand → Option Nat
  | .tile t => if t.toNat < ctx.tiles then none else some t.toNat
  | .tileReg t => if t.toNat < ctx.tiles then none else some t.toNat
  | _ => none

/-! The fields of a format slot (R224). -/

def fmtA (w : Word) : Nat := (w.extractLsb' 21 3).toNat
def fmtB (w : Word) : Nat := (w.extractLsb' 18 3).toNat
def fmtScale (w : Word) : Nat := (w.extractLsb' 16 2).toNat
def fmtAccRns (w : Word) : Bool := w.getLsbD 15
def fmtRnd (w : Word) : BitVec 2 := w.extractLsb' 13 2
def fmtFzs (w : Word) : Bool := w.getLsbD 12
def fmtFzr (w : Word) : Bool := w.getLsbD 11
def fmtSat (w : Word) : Bool := w.getLsbD 10
def fmtRnss (w : Word) : Bool := w.getLsbD 9

/-- The rows of the matrix table of R225. -/
def fmtMatrixRow (w : Word) : Bool :=
  (fmtA w ≤ 1 && fmtB w ≤ 1 && !fmtAccRns w) ||
  (fmtA w = 2 && fmtB w = 2 && !fmtAccRns w) ||
  (fmtA w = 4 && fmtB w = 4 && fmtScale w = 0 && !fmtAccRns w) ||
  (fmtA w = 3 && fmtB w = 3 && fmtScale w = 0) ||
  (fmtA w = 5 && fmtB w = 5 && fmtScale w = 0 && fmtAccRns w)

/-- The conversions that the second table of R225 allows: FP32 to E4M3, E5M2, E2M1, I8, BF16; RNS24 to RNS24, I8. -/
def fmtConvertRow (w : Word) : Bool :=
  if fmtAccRns w then fmtB w = 5 || fmtB w = 3 else fmtB w ≤ 4

/-- R225 for one slot word. Kinds: 0 `mma`, 1 `mma.sc`, 2 `mma.set`, 3 `tcvt`. -/
def fmtSlotOk (kind : Nat) (w : Word) : Bool :=
  w.getLsbD 31 && w.extractLsb' 24 7 = 0 && w.extractLsb' 0 9 = 0 &&
  fmtA w ≤ 5 && fmtB w ≤ 5 && fmtScale w ≤ 1 &&
  (if kind = 3 then fmtConvertRow w else fmtMatrixRow w && fmtScale w = if kind = 1 then 1 else 0)

/-- The FMT_SLOT check of one operand: the slot index that fails it. -/
def Operand.badSlot (ctx : DecCtx) : Operand → Option Nat
  | .slot kind s => if fmtSlotOk kind (ctx.fmt.getD s.toNat 0) then none else some s.toNat
  | _ => none

def vRange (r : Reg) (n : Nat) : List RegName :=
  if r.toNat < 120 then (List.range n).map fun k => .v (r.toNat + k) else []

/-- The V, P, K and GS registers that an operand reads (rule 4 of R53). -/
def Operand.reads : Operand → List RegName
  | .src r => vRange r 1
  | .pairSrc r => vRange r 2
  | .quadSrc r => vRange r 4
  | .triSrc r => vRange r 3
  | .rangeSrc r n => vRange r n.toNat
  | .rows r n => vRange r n
  | .qsend r => vRange r 1 ++ vRange (r + 2) 2
  | .psrc p => [.p p.toNat]
  | .ksrc k => [.k k.toNat]
  | .gsrc g => [.g g.toNat]
  | _ => []

/-- The V, P, K and GS registers that an operand writes. -/
def Operand.writes : Operand → List RegName
  | .dst r => vRange r 1
  | .pairDst r => vRange r 2
  | .quadDst r => vRange r 4
  | .rangeDst r n => vRange r n.toNat
  | .qsend r => vRange r 1
  | .pdst p => [.p p.toNat]
  | .kdst k => [.k k.toNat]
  | .gdst g => [.g g.toNat]
  | _ => []

/-- The latches an operand reads, by index (R41, R47). -/
def Operand.latches : Operand → List Nat
  | .src r => if 124 ≤ r.toNat then [r.toNat - 124] else []
  | _ => []

/-- The guard of a unit, where its prefix has G = 1 (R49). -/
def Instr.guard (i : Instr) : Option (BitVec 5 × Bool) :=
  match i.ctl.pre with
  | some p => if p.g then some (p.guard, p.neg) else none
  | none => none

/-- The registers that a unit reads (R36) as its operands and its guard. -/
def Instr.reads (i : Instr) : List RegName :=
  (match i.guard with | some (p, _) => [.p p.toNat] | none => []) ++ i.operands.flatMap Operand.reads

/-- The V register d of a unit, the lowest that it writes (R47); 120 under W = 1. -/
def Instr.dstReg (i : Instr) : Option Reg :=
  i.operands.findSome? fun o => match o with
    | .dst r | .pairDst r | .quadDst r | .rangeDst r _ | .qsend r => some r
    | _ => none

/-- The registers whose values a unit takes from before it (R36): those that it reads, and where it may be guarded off its V register d,
whose current value it then places in L0 (R47). A later unit that wrote that register would give the chain, executed again from its
head, another latch value (R56; notes/assumptions/123.md). -/
def Instr.takes (i : Instr) : List RegName :=
  i.reads ++ match i.guard, i.dstReg with
    | some _, some r => if i.form.guard == .allowed && r.toNat < 120 then [.v r.toNat] else []
    | _, _ => []

/-- Under W = 1 the field d is 120, which names no register (R48); a GS register is still written (R122). -/
def Instr.writes (i : Instr) : List RegName := i.operands.flatMap Operand.writes

/-- The prefix's own fields (R49): a fault here reports the prefix word. -/
def Pre.ownOk (p : Pre) : Bool := (p.g || (p.guard = 0 && !p.neg)) && p.rnd.toNat ≤ 5

/-- The pairing of a prefix with its instruction (R49, R66, R67, R158, R231). -/
def Form.pairOk (f : Form) (p : Option Pre) : Bool :=
  match p with
  | none => f.guard ≠ .selects
  | some p =>
    (match f.guard with | .refused => !p.g | .allowed => true | .selects => p.g) &&
    (p.rnd = 0 || (match f.rounding with | .no => false | .yes => p.rnd ≠ 5 | .withRna => true)) &&
    (!p.sat || f.sat)

/-- W = 1 needs an opcode with a register result and d = 120 (R48). -/
def Instr.wOk (i : Instr) : Bool :=
  !i.ctl.w || (i.form.result && i.operands.any fun o => o == .dst 120)

/-- The decode checks of R57 on an identified instruction, without the prefix's own fields: the cause and the TRAPVAL where
it is not the word. -/
def Instr.check (i : Instr) (ctx : DecCtx) : Option (Cause × Option Nat) :=
  if !i.form.pairOk i.ctl.pre || !i.wOk || !i.operands.all (Operand.legal ctx) then some (.illegalOperand, none)
  else match i.operands.findSome? (Operand.overTiles ctx) with
    | some t => some (.tileLimit, some t)
    | none => match i.operands.findSome? (Operand.badSlot ctx) with
      | some s => some (.fmtSlot, some s)
      | none => none

end Sys2Proof
end

