-- ==== Sys2Proof/Decode.lean ====
section
/-! DEFINITION. Decoding of units (spec/03_formats.md R38 to R57) over the opcode map (spec/04_opcode_map.md R58 to R65), and
the encoder of the same tables. -/

namespace Sys2Proof

/-! The fields of the formats of R40. -/

structure FieldsA where
  k : Bool
  op : BitVec 7
  d : Reg
  a : Reg
  b : Reg
  c : Bool
  w : Bool
  e : Bool
  deriving DecidableEq, Repr

/-- Formats I and M have the same layout. -/
structure FieldsI where
  k : Bool
  op : BitVec 7
  d : Reg
  a : Reg
  imm : BitVec 8
  c : Bool
  w : Bool
  deriving DecidableEq, Repr

structure FieldsB where
  k : Bool
  op : BitVec 7
  g : BitVec 5
  n : Bool
  off : BitVec 18
  deriving DecidableEq, Repr

structure FieldsX where
  sub : BitVec 2
  t : BitVec 5
  a : Reg
  b : BitVec 5
  q : BitVec 2
  s : BitVec 3
  n : BitVec 2
  r : Bool
  deriving DecidableEq, Repr

def FieldsA.word (f : FieldsA) : Word :=
  BitVec.ofBool f.k ++ f.op ++ f.d ++ f.a ++ f.b ++ BitVec.ofBool f.c ++ BitVec.ofBool f.w ++ BitVec.ofBool f.e

def FieldsI.word (f : FieldsI) : Word :=
  BitVec.ofBool f.k ++ f.op ++ f.d ++ f.a ++ f.imm ++ BitVec.ofBool f.c ++ BitVec.ofBool f.w

def FieldsB.word (f : FieldsB) : Word := BitVec.ofBool f.k ++ f.op ++ f.g ++ BitVec.ofBool f.n ++ f.off

def FieldsX.word (f : FieldsX) : Word :=
  0b01100#5 ++ f.sub ++ f.t ++ f.a ++ f.b ++ f.q ++ f.s ++ f.n ++ BitVec.ofBool f.r

def FieldsA.of (x : Word) : FieldsA :=
  ⟨x.getLsbD 31, x.extractLsb' 24 7, x.extractLsb' 17 7, x.extractLsb' 10 7, x.extractLsb' 3 7, x.getLsbD 2, x.getLsbD 1,
    x.getLsbD 0⟩

def FieldsI.of (x : Word) : FieldsI :=
  ⟨x.getLsbD 31, x.extractLsb' 24 7, x.extractLsb' 17 7, x.extractLsb' 10 7, x.extractLsb' 2 8, x.getLsbD 1, x.getLsbD 0⟩

def FieldsB.of (x : Word) : FieldsB :=
  ⟨x.getLsbD 31, x.extractLsb' 24 7, x.extractLsb' 19 5, x.getLsbD 18, x.extractLsb' 0 18⟩

def FieldsX.of (x : Word) : FieldsX :=
  ⟨x.extractLsb' 25 2, x.extractLsb' 20 5, x.extractLsb' 13 7, x.extractLsb' 8 5, x.extractLsb' 6 2, x.extractLsb' 3 3,
    x.extractLsb' 1 2, x.getLsbD 0⟩

/-- A prefix word (R49). -/
def Pre.word (p : Pre) : Word :=
  0b01111111#8 ++ p.guard ++ BitVec.ofBool p.neg ++ BitVec.ofBool p.g ++ p.rnd ++ BitVec.ofBool p.sat ++ 0#13

def Pre.of (x : Word) : Pre :=
  ⟨x.extractLsb' 19 5, x.getLsbD 18, x.getLsbD 17, x.extractLsb' 14 3, x.getLsbD 13⟩

def isPrefix (x : Word) : Bool := x.extractLsb' 24 7 = 0x7F

/-- A word in its format. -/
inductive Shape where
  | a (f : FieldsA)
  | i (f : FieldsI)
  | b (f : FieldsB)
  | x (f : FieldsX)
  deriving DecidableEq, Repr

/-- The formats that are not A, by opcode (R59). -/
def isFormatX (op : BitVec 7) : Bool := 0x60 ≤ op && op ≤ 0x67
def isFormatB (op : BitVec 7) : Bool := 0x5A ≤ op && op ≤ 0x5D
def isFormatI (op : BitVec 7) : Bool :=
  (0x1A ≤ op && op ≤ 0x21) || (0x41 ≤ op && op ≤ 0x50) || op = 0x56 || op = 0x57 || op = 0x6A || op = 0x7C

def shapeOf (x : Word) : Shape :=
  let op := x.extractLsb' 24 7
  if isFormatX op then .x (.of x) else if isFormatB op then .b (.of x) else if isFormatI op then .i (.of x) else .a (.of x)

def Shape.word : Shape → Word
  | .a f => f.word
  | .i f => f.word
  | .b f => f.word
  | .x f => f.word

/-- The opcodes whose U column in R59 reads "yes" (for 0x4F, 0x50: `mfs` only). -/
def hasUniform (op : BitVec 7) : Bool :=
  op ≤ 0x3E || (0x41 ≤ op && op ≤ 0x4C) || op = 0x4F || op = 0x5A || op = 0x5B || op = 0x5F || op = 0x70 || op = 0x71 ||
  (0x73 ≤ op && op ≤ 0x7B)

/-- A condition whose failure is ILLEGAL_OPERAND. -/
def need (b : Bool) (r : Except Cause Instr) : Except Cause Instr := if b then r else .error .illegalOperand

/-- Operand b with a literal form (R43). -/
def withB (f : FieldsA) (lit : Word) (g : OpB → Instr) : Except Cause Instr :=
  if f.e then need (f.b = 0) (.ok (g (.lit lit))) else .ok (g (.reg f.b))

/-- The agree group (R60, R168), by the high bits of its field b. -/
def identifyAgree (f : FieldsA) (c : Ctl) : Except Cause Instr :=
  match (f.b.extractLsb' 4 3).toNat with
  | 0 => need (!f.e && f.d.extractLsb' 5 2 = 0 && f.a.getLsbD 6 = false) (.ok (.agreeEvery c (f.d.extractLsb' 0 5) (f.a.getLsbD 5) (f.a.extractLsb' 0 5) (f.b.extractLsb' 0 4)))
  | 1 => need (!f.e && f.d.extractLsb' 5 2 = 0 && f.a.getLsbD 6 = false) (.ok (.agreeSome c (f.d.extractLsb' 0 5) (f.a.getLsbD 5) (f.a.extractLsb' 0 5) (f.b.extractLsb' 0 4)))
  | 2 => need (!f.e && f.a.getLsbD 6 = false) (.ok (.agreeMask c f.d (f.a.getLsbD 5) (f.a.extractLsb' 0 5) (f.b.extractLsb' 0 4)))
  | 3 => need (!f.e && f.d.extractLsb' 5 2 = 0) (.ok (.agreeSame c (f.d.extractLsb' 0 5) f.a (f.b.extractLsb' 0 4)))
  | _ => .error .illegalOp

/-- The tile group (R60), by its field b. -/
def identifyTile (f : FieldsA) (c : Ctl) : Except Cause Instr :=
  match f.b.toNat with
  | 0 => need (!f.e && f.a = 0) (.ok (.tzero c f.d))
  | 1 => need (!f.e) (.ok (.tld c f.d f.a))
  | 2 => need (!f.e) (.ok (.tst c f.d f.a))
  | 3 => need (!f.e) (.ok (.tstat c f.d f.a))
  | 4 => need (!f.e) (.ok (.trd c f.d f.a))
  | _ => if f.b.extractLsb' 3 4 = 1 then need (!f.e) (.ok (.tcvt c f.d f.a (f.b.extractLsb' 0 3))) else .error .illegalOp

/-- The frame and translation group (R65), by its field b. -/
def identifyFrame (f : FieldsA) (c : Ctl) : Except Cause Instr :=
  match f.b.toNat with
  | 0 => need (!f.e) (.ok (.fquery c f.d f.a))
  | 1 => need (!f.e) (.ok (.xlprobe c f.d f.a))
  | 2 => need (!f.e) (.ok (.xlpurge c f.d f.a))
  | _ => if f.b.extractLsb' 4 3 = 1 && f.b.extractLsb' 0 4 ≤ 8 then need (!f.e) (.ok (.fretype c f.d f.a (f.b.extractLsb' 0 4))) else .error .illegalOp

/-- Format A (R59 to R65). `pool`: the launch runs in pool mode, where the queue group is ILLEGAL_OP (R243). -/
def identifyA (pool : Bool) (f : FieldsA) (c : Ctl) (lit : Word) : Except Cause Instr :=
  match f.op.toNat with
  | 0x00 => withB f lit fun b => .addN32 c f.d f.a b
  | 0x01 => withB f lit fun b => .addI32 c f.d f.a b
  | 0x02 => withB f lit fun b => .subN32 c f.d f.a b
  | 0x03 => withB f lit fun b => .subI32 c f.d f.a b
  | 0x04 => withB f lit fun b => .mulB32 c f.d f.a b
  | 0x05 => withB f lit fun b => .mulwN32 c f.d f.a b
  | 0x06 => withB f lit fun b => .mulwI32 c f.d f.a b
  | 0x07 => withB f lit fun b => .macB32 c f.d f.a b
  | 0x08 => withB f lit fun b => .minN32 c f.d f.a b
  | 0x09 => withB f lit fun b => .minI32 c f.d f.a b
  | 0x0a => withB f lit fun b => .maxN32 c f.d f.a b
  | 0x0b => withB f lit fun b => .maxI32 c f.d f.a b
  | 0x0c => withB f lit fun b => .andB32 c f.d f.a b
  | 0x0d => withB f lit fun b => .orB32 c f.d f.a b
  | 0x0e => withB f lit fun b => .xorB32 c f.d f.a b
  | 0x0f => withB f lit fun b => .shlB32 c f.d f.a b
  | 0x10 => withB f lit fun b => .shrN32 c f.d f.a b
  | 0x11 => withB f lit fun b => .shrI32 c f.d f.a b
  | 0x12 => match f.b.toNat with
    | 0 => need (!f.e) (.ok (.notB32 c f.d f.a))
    | 1 => need (!f.e) (.ok (.onesB32 c f.d f.a))
    | 2 => need (!f.e) (.ok (.lzcB32 c f.d f.a))
    | 3 => need (!f.e) (.ok (.tzcB32 c f.d f.a))
    | 4 => need (!f.e) (.ok (.revB32 c f.d f.a))
    | 5 => need (!f.e) (.ok (.absI32 c f.d f.a))
    | 6 => need (!f.e) (.ok (.negI32 c f.d f.a))
    | 7 => need (!f.e) (.ok (.sxtB8 c f.d f.a))
    | 8 => need (!f.e) (.ok (.sxtB16 c f.d f.a))
    | 9 => need (!f.e) (.ok (.zxtB8 c f.d f.a))
    | 10 => need (!f.e) (.ok (.zxtB16 c f.d f.a))
    | _ => .error .illegalOp
  | 0x13 => withB f lit fun b => .fgetN32 c f.d f.a b
  | 0x14 => withB f lit fun b => .fgetI32 c f.d f.a b
  | 0x15 => withB f lit fun b => .fputB32 c f.d f.a b
  | 0x16 => withB f lit fun b => .divN32 c f.d f.a b
  | 0x17 => withB f lit fun b => .divI32 c f.d f.a b
  | 0x18 => withB f lit fun b => .remN32 c f.d f.a b
  | 0x19 => withB f lit fun b => .remI32 c f.d f.a b
  | 0x22 => need (f.a = 0) (withB f lit fun b => .movB32 c f.d b)
  | 0x23 => withB f lit fun b => .selB32 c f.d f.a b
  | 0x24 => withB f lit fun b => .cmpN32Set1 c (f.d.extractLsb' 5 2) (f.d.extractLsb' 0 5) f.a b
  | 0x25 => withB f lit fun b => .cmpN32Set2 c (f.d.extractLsb' 5 2) (f.d.extractLsb' 0 5) f.a b
  | 0x26 => withB f lit fun b => .cmpI32Set1 c (f.d.extractLsb' 5 2) (f.d.extractLsb' 0 5) f.a b
  | 0x27 => withB f lit fun b => .cmpI32Set2 c (f.d.extractLsb' 5 2) (f.d.extractLsb' 0 5) f.a b
  | 0x28 => withB f lit fun b => .cmpF32Set1 c (f.d.extractLsb' 5 2) (f.d.extractLsb' 0 5) f.a b
  | 0x29 => withB f lit fun b => .cmpF32Set2 c (f.d.extractLsb' 5 2) (f.d.extractLsb' 0 5) f.a b
  | 0x2a => need (!f.e && f.d.extractLsb' 5 2 = 0 && f.a.getLsbD 6 = false && f.b.getLsbD 6 = false) (.ok (.pand c (f.d.extractLsb' 0 5) (f.a.getLsbD 5) (f.a.extractLsb' 0 5) (f.b.getLsbD 5) (f.b.extractLsb' 0 5)))
  | 0x2b => need (!f.e && f.d.extractLsb' 5 2 = 0 && f.a.getLsbD 6 = false && f.b.getLsbD 6 = false) (.ok (.por c (f.d.extractLsb' 0 5) (f.a.getLsbD 5) (f.a.extractLsb' 0 5) (f.b.getLsbD 5) (f.b.extractLsb' 0 5)))
  | 0x2c => need (!f.e && f.d.extractLsb' 5 2 = 0 && f.a.getLsbD 6 = false && f.b.getLsbD 6 = false) (.ok (.pxor c (f.d.extractLsb' 0 5) (f.a.getLsbD 5) (f.a.extractLsb' 0 5) (f.b.getLsbD 5) (f.b.extractLsb' 0 5)))
  | 0x2d => match f.b.toNat with
    | 0 => need (!f.e && f.d.extractLsb' 5 2 = 0) (.ok (.vtp c (f.d.extractLsb' 0 5) f.a))
    | 1 => need (!f.e && f.a.getLsbD 6 = false) (.ok (.ptv c f.d (f.a.getLsbD 5) (f.a.extractLsb' 0 5)))
    | _ => .error .illegalOp
  | 0x2e => withB f lit fun b => .faddF32 c f.d f.a b
  | 0x2f => withB f lit fun b => .fsubF32 c f.d f.a b
  | 0x30 => withB f lit fun b => .fmulF32 c f.d f.a b
  | 0x31 => withB f lit fun b => .ffmaF32 c f.d f.a b
  | 0x32 => withB f lit fun b => .fminF32 c f.d f.a b
  | 0x33 => withB f lit fun b => .fmaxF32 c f.d f.a b
  | 0x34 => match f.b.toNat with
    | 0 => need (!f.e) (.ok (.fabsF32 c f.d f.a))
    | 1 => need (!f.e) (.ok (.fnegF32 c f.d f.a))
    | 2 => need (!f.e) (.ok (.frintF32 c f.d f.a))
    | 3 => need (!f.e) (.ok (.fabsF16x2 c f.d f.a))
    | 4 => need (!f.e) (.ok (.fnegF16x2 c f.d f.a))
    | 5 => need (!f.e) (.ok (.fabsBf16x2 c f.d f.a))
    | 6 => need (!f.e) (.ok (.fnegBf16x2 c f.d f.a))
    | _ => .error .illegalOp
  | 0x35 => withB f lit fun b => .faddF16x2 c f.d f.a b
  | 0x36 => withB f lit fun b => .fmulF16x2 c f.d f.a b
  | 0x37 => withB f lit fun b => .ffmaF16x2 c f.d f.a b
  | 0x38 => withB f lit fun b => .faddBf16x2 c f.d f.a b
  | 0x39 => withB f lit fun b => .fmulBf16x2 c f.d f.a b
  | 0x3a => withB f lit fun b => .ffmaBf16x2 c f.d f.a b
  | 0x3b => withB f lit fun b => .fdot2F32F16x2 c f.d f.a b
  | 0x3c => withB f lit fun b => .fdot2F32Bf16x2 c f.d f.a b
  | 0x3d => match f.b.toNat with
    | 0 => need (!f.e) (.ok (.cvtF32I32 c f.d f.a))
    | 1 => need (!f.e) (.ok (.cvtF32N32 c f.d f.a))
    | 2 => need (!f.e) (.ok (.cvtI32F32 c f.d f.a))
    | 3 => need (!f.e) (.ok (.cvtN32F32 c f.d f.a))
    | 4 => need (!f.e) (.ok (.cvtF32F16 c f.d f.a))
    | 5 => need (!f.e) (.ok (.cvtF32Bf16 c f.d f.a))
    | 6 => need (!f.e) (.ok (.cvtF16F32 c f.d f.a))
    | 7 => need (!f.e) (.ok (.cvtBf16F32 c f.d f.a))
    | 8 => need (!f.e) (.ok (.cvtF32E4m3 c f.d f.a))
    | 9 => need (!f.e) (.ok (.cvtF32E5m2 c f.d f.a))
    | 10 => need (!f.e) (.ok (.cvtF32E2m1 c f.d f.a))
    | 11 => need (!f.e) (.ok (.cvtE4m3F32 c f.d f.a))
    | 12 => need (!f.e) (.ok (.cvtE5m2F32 c f.d f.a))
    | 13 => need (!f.e) (.ok (.cvtE2m1F32 c f.d f.a))
    | 14 => need (!f.e) (.ok (.cvtF32Ue4m3 c f.d f.a))
    | 15 => need (!f.e) (.ok (.cvtI32Rns24 c f.d f.a))
    | 16 => need (!f.e) (.ok (.cvtN32Rns24 c f.d f.a))
    | 17 => need (!f.e) (.ok (.cvtRns24I32 c f.d f.a))
    | 18 => need (!f.e) (.ok (.cvtRns24N32 c f.d f.a))
    | _ => .error .illegalOp
  | 0x3e => match f.b.toNat with
    | 0 => need (!f.e) (.ok (.rcpF32 c f.d f.a))
    | 1 => need (!f.e) (.ok (.rsqrtF32 c f.d f.a))
    | 2 => need (!f.e) (.ok (.sqrtF32 c f.d f.a))
    | 3 => need (!f.e) (.ok (.exp2F32 c f.d f.a))
    | 4 => need (!f.e) (.ok (.log2F32 c f.d f.a))
    | 5 => need (!f.e) (.ok (.sinF32 c f.d f.a))
    | 6 => need (!f.e) (.ok (.cosF32 c f.d f.a))
    | 7 => need (!f.e) (.ok (.tanhF32 c f.d f.a))
    | _ => .error .illegalOp
  | 0x3f => need (!f.e && f.b = 0) (.ok (.gnextB32 c f.d f.a))
  | 0x40 => need (!f.e && f.b = 0) (.ok (.gseed c f.d f.a))
  | 0x51 => need (!f.e && f.a = 0 && f.b = 0) (.ok (.ckz c f.d))
  | 0x52 => need (!f.e && f.b = 0) (.ok (.ckaMod c f.d f.a))
  | 0x53 => need (!f.e && f.b = 0) (.ok (.ckaF c f.d f.a))
  | 0x54 => need (!f.e && f.b = 0) (.ok (.ckvMod c f.d f.a))
  | 0x55 => need (!f.e) (.ok (.ckvF c f.d f.a f.b))
  | 0x58 => need (!f.e && f.d = 0 && f.a = 0 && f.b = 0) (.ok (.rte c))
  | 0x59 => need (!f.e && f.d = 0 && f.a = 0 && f.b = 0) (.ok (.exit c))
  | 0x5e => need (!f.e && f.d = 0 && f.a = 0 && f.b = 0) (.ok (.ret c))
  | 0x5f => need (!f.e && f.d = 0 && f.b = 0) (.ok (.brx c f.a))
  | 0x68 => need (!f.e && f.d = 0 && f.a = 0 && f.b = 0) (.ok (.reform c))
  | 0x69 => match f.b.toNat with
    | 0 => need (!f.e && f.d = 0) (.ok (.waitm c f.a))
    | 1 => need (!f.e && f.d = 0) (.ok (.leave c f.a))
    | 2 => need (!f.e && f.d = 0) (.ok (.join c f.a))
    | _ => .error .illegalOp
  | 0x6b => need (!f.e && f.b = 0) (.ok (.cvset c f.d f.a))
  | 0x6c => identifyAgree f c
  | 0x6d => if f.b.extractLsb' 4 3 ≥ 4 then .error .illegalOp else need (!f.e) (.ok (.xlane c f.d f.a (f.b.extractLsb' 4 3) (f.b.extractLsb' 0 4)))
  | 0x6e => need (!f.e) (.ok (.sred c f.d f.a (f.b.extractLsb' 4 3) (f.b.extractLsb' 0 4)))
  | 0x6f => need (!f.e) (.ok (.sscan c f.d f.a (f.b.extractLsb' 4 3) (f.b.extractLsb' 0 4)))
  | 0x70 => need (f.d = 0) (withB f lit fun b => .bsig c f.a b)
  | 0x71 => need (!f.e && f.d = 0) (.ok (.bwait c f.a f.b))
  | 0x72 => match f.b.toNat with
    | 0 => need (!f.e && f.d = 0 && f.a = 0) (.ok (.fenceAr c))
    | 1 => need (!f.e && f.d = 0 && f.a = 0) (.ok (.fenceAcq c))
    | 2 => need (!f.e && f.d = 0 && f.a = 0) (.ok (.fenceRel c))
    | 3 => need (!f.e && f.d = 0 && f.a = 0) (.ok (.yield c))
    | _ => .error .illegalOp
  | 0x73 => identifyTile f c
  | 0x74 => if pool then .error .illegalOp else match f.b.toNat with
    | 0 => need (!f.e && f.a = 0) (.ok (.qsend c f.d))
    | 1 => need (!f.e && f.a = 0) (.ok (.qrecv c f.d))
    | 2 => need (!f.e && f.a = 0) (.ok (.qcred c f.d))
    | _ => .error .illegalOp
  | 0x75 => need (!f.e) (.ok (.cprop c f.d f.a f.b))
  | 0x76 => need (!f.e) (.ok (.cread c f.d f.a f.b))
  | 0x77 => need (!f.e) (.ok (.crecyc c f.d f.a f.b))
  | 0x78 => need (!f.e) (.ok (.lcpIn c f.d f.a f.b))
  | 0x79 => need (!f.e) (.ok (.lcpOut c f.d f.a f.b))
  | 0x7a => need (!f.e) (.ok (.lcpx c f.d f.a f.b))
  | 0x7b => identifyFrame f c
  | _ => .error .illegalOp

/-- Formats I and M. -/
def identifyI (f : FieldsI) (c : Ctl) : Except Cause Instr :=
  match f.op.toNat with
  | 0x1a => .ok (.addN32Imm c f.d f.a f.imm)
  | 0x1b => .ok (.andB32Imm c f.d f.a f.imm)
  | 0x1c => .ok (.orB32Imm c f.d f.a f.imm)
  | 0x1d => .ok (.xorB32Imm c f.d f.a f.imm)
  | 0x1e => .ok (.shlB32Imm c f.d f.a f.imm)
  | 0x1f => .ok (.shrN32Imm c f.d f.a f.imm)
  | 0x20 => .ok (.shrI32Imm c f.d f.a f.imm)
  | 0x21 => need (f.a = 0) (.ok (.movB32Imm c f.d f.imm))
  | 0x41 => .ok (.ldN8 c f.d f.a f.imm)
  | 0x42 => .ok (.ldI8 c f.d f.a f.imm)
  | 0x43 => .ok (.ldN16 c f.d f.a f.imm)
  | 0x44 => .ok (.ldI16 c f.d f.a f.imm)
  | 0x45 => .ok (.ldB32 c f.d f.a f.imm)
  | 0x46 => .ok (.ldB64 c f.d f.a f.imm)
  | 0x47 => .ok (.stB8 c f.d f.a f.imm)
  | 0x48 => .ok (.stB16 c f.d f.a f.imm)
  | 0x49 => .ok (.stB32 c f.d f.a f.imm)
  | 0x4a => .ok (.stB64 c f.d f.a f.imm)
  | 0x4b => if f.imm.extractLsb' 2 4 ≥ 12 then .error .illegalOp else need (f.imm.extractLsb' 0 2 = 0) (.ok (.natom c f.d f.a (f.imm.extractLsb' 6 2) (f.imm.extractLsb' 2 4)))
  | 0x4c => if f.imm.extractLsb' 2 4 ≥ 12 then .error .illegalOp else need (f.imm.extractLsb' 0 2 = 0) (.ok (.atom c f.d f.a (f.imm.extractLsb' 6 2) (f.imm.extractLsb' 2 4)))
  | 0x4d => need (f.d = 0) (.ok (.push c f.a f.imm))
  | 0x4e => need (f.a = 0) (.ok (.pop c f.d f.imm))
  | 0x4f => need (f.a = 0) (.ok (.mfs c f.d f.imm))
  | 0x50 => need (f.d = 0) (.ok (.mts c f.a f.imm))
  | 0x56 => .ok (.svc c f.d f.a f.imm)
  | 0x57 => need (f.d = 0 && f.a = 0) (.ok (.trap c f.imm))
  | 0x6a => need (f.d = 0) (.ok (.pseg c f.a f.imm))
  | 0x7c => .ok (.declass c f.d f.a f.imm)
  | _ => .error .illegalOp

def identifyB (f : FieldsB) (c : Ctl) : Except Cause Instr :=
  match f.op.toNat with
  | 0x5a => .ok (.bra c f.g f.n f.off)
  | 0x5b => need (f.g = 0 && !f.n) (.ok (.braAlways c f.off))
  | 0x5c => .ok (.call c f.g f.n f.off)
  | 0x5d => need (f.g = 0 && !f.n) (.ok (.callAlways c f.off))
  | _ => .error .illegalOp

def identifyX (f : FieldsX) (c : Ctl) : Except Cause Instr :=
  match f.sub.toNat with
  | 0 => .ok (.mma c f.t f.a f.b f.q f.s f.n f.r)
  | 1 => .ok (.mmaSc c f.t f.a f.b f.q f.s f.n f.r)
  | 2 => .ok (.mmaSet c f.t f.a f.b f.q f.s f.n f.r)
  | _ => .error .illegalOp

/-- An instruction word under its prefix, up to the checks of its operands: ILLEGAL_OP before ILLEGAL_OPERAND (R57). A uniform
word without a uniform form is ILLEGAL_OP (R52, R58). -/
def identify (pool : Bool) (pre : Option Pre) (lit : Word) : Shape → Except Cause Instr
  | .a f => if f.k && !hasUniform f.op then .error .illegalOp else identifyA pool f ⟨f.k, f.c, f.w, pre⟩ lit
  | .i f => if f.k && !hasUniform f.op then .error .illegalOp else identifyI f ⟨f.k, f.c, f.w, pre⟩
  | .b f => if f.k && !hasUniform f.op then .error .illegalOp else identifyB f ⟨f.k, false, false, pre⟩
  | .x f => identifyX f ⟨false, false, false, pre⟩

/-- E of a word (R40): only format A has it. -/
def Shape.takesLiteral : Shape → Bool
  | .a f => f.e
  | _ => false

def Shape.isB : Shape → Bool
  | .b _ => true
  | _ => false

/-- What decoding a unit gives: the unit with its instruction word and its length in words; a fault with its cause, its TRAPVAL
and the K bit of the unit; or the index of a word of the unit that must be fetched first. -/
inductive Decoded where
  | unit (i : Instr) (word : Word) (len : Nat)
  | bad (cause : Cause) (val : Word) (uni : Bool)
  | fetch (n : Nat)
  deriving DecidableEq, Repr

/-- The instruction word `w` under its prefix (`pw`, `pre`), with the words that follow it: R57 from its third line on. -/
def decodeGoverned (ctx : DecCtx) (pre : Option Pre) (w : Word) (rest : List Word) : Decoded :=
  let at_ := if pre.isSome then 2 else 1
  let uni := w.getLsbD 31
  if w.extractLsb' 27 5 = 0b11100 then .bad .illegalOp w true else
  match identify ctx.pool pre (rest.headD 0) (shapeOf w) with
  | .error .illegalOp => .bad .illegalOp w uni
  | r =>
    match pre with
    | some p => if !p.ownOk then .bad .illegalOperand p.word uni else finish at_ uni r
    | none => finish at_ uni r
where
  finish (at_ : Nat) (uni : Bool) (r : Except Cause Instr) : Decoded :=
    match r with
    | .error c => .bad c w uni
    | .ok i =>
      match i.check ctx with
      | some (c, v) => .bad c ((v.map (BitVec.ofNat 32)).getD w) uni
      | none =>
        if (shapeOf w).takesLiteral then
          if rest.isEmpty then .fetch at_ else .unit i w (at_ + 1)
        else .unit i w at_

/-- R57 over the words fetched so far. -/
def decodeUnit (ctx : DecCtx) : List Word → Decoded
  | [] => .fetch 0
  | w0 :: ws =>
    if isPrefix w0 then
      if w0.getLsbD 31 || w0.extractLsb' 0 13 ≠ 0 then .bad .illegalOp w0 (w0.getLsbD 31)
      else match ws with
        | [] => .fetch 1
        | w :: rest =>
          if isPrefix w || (w.extractLsb' 27 5 ≠ 0b11100 && (shapeOf w).isB) then .bad .illegalOp w0 (w.getLsbD 31)
          else decodeGoverned ctx (some (.of w0)) w rest
    else decodeGoverned ctx none w0 ws

/-! ## The encoder -/

def OpB.field : OpB → Reg
  | .reg r => r
  | .lit _ => 0

def OpB.isLit : OpB → Bool
  | .reg _ => false
  | .lit _ => true

def OpB.lit? : OpB → Option Word
  | .reg _ => none
  | .lit v => some v

def sA (c : Ctl) (op : BitVec 7) (d a b : Reg) (e : Bool) : Shape := .a ⟨c.k, op, d, a, b, c.c, c.w, e⟩
def sI (c : Ctl) (op : BitVec 7) (d a : Reg) (imm : BitVec 8) : Shape := .i ⟨c.k, op, d, a, imm, c.c, c.w⟩

/-- The fields of an instruction's word (R59 to R65); an event has none. -/
def Instr.shape : Instr → Option Shape
  | .addN32 c d a b => some (sA c 0x00 (d) (a) (b.field) b.isLit)
  | .addI32 c d a b => some (sA c 0x01 (d) (a) (b.field) b.isLit)
  | .subN32 c d a b => some (sA c 0x02 (d) (a) (b.field) b.isLit)
  | .subI32 c d a b => some (sA c 0x03 (d) (a) (b.field) b.isLit)
  | .mulB32 c d a b => some (sA c 0x04 (d) (a) (b.field) b.isLit)
  | .mulwN32 c d a b => some (sA c 0x05 (d) (a) (b.field) b.isLit)
  | .mulwI32 c d a b => some (sA c 0x06 (d) (a) (b.field) b.isLit)
  | .macB32 c d a b => some (sA c 0x07 (d) (a) (b.field) b.isLit)
  | .minN32 c d a b => some (sA c 0x08 (d) (a) (b.field) b.isLit)
  | .minI32 c d a b => some (sA c 0x09 (d) (a) (b.field) b.isLit)
  | .maxN32 c d a b => some (sA c 0x0a (d) (a) (b.field) b.isLit)
  | .maxI32 c d a b => some (sA c 0x0b (d) (a) (b.field) b.isLit)
  | .andB32 c d a b => some (sA c 0x0c (d) (a) (b.field) b.isLit)
  | .orB32 c d a b => some (sA c 0x0d (d) (a) (b.field) b.isLit)
  | .xorB32 c d a b => some (sA c 0x0e (d) (a) (b.field) b.isLit)
  | .shlB32 c d a b => some (sA c 0x0f (d) (a) (b.field) b.isLit)
  | .shrN32 c d a b => some (sA c 0x10 (d) (a) (b.field) b.isLit)
  | .shrI32 c d a b => some (sA c 0x11 (d) (a) (b.field) b.isLit)
  | .notB32 c d a => some (sA c 0x12 (d) (a) (0) false)
  | .onesB32 c d a => some (sA c 0x12 (d) (a) (1) false)
  | .lzcB32 c d a => some (sA c 0x12 (d) (a) (2) false)
  | .tzcB32 c d a => some (sA c 0x12 (d) (a) (3) false)
  | .revB32 c d a => some (sA c 0x12 (d) (a) (4) false)
  | .absI32 c d a => some (sA c 0x12 (d) (a) (5) false)
  | .negI32 c d a => some (sA c 0x12 (d) (a) (6) false)
  | .sxtB8 c d a => some (sA c 0x12 (d) (a) (7) false)
  | .sxtB16 c d a => some (sA c 0x12 (d) (a) (8) false)
  | .zxtB8 c d a => some (sA c 0x12 (d) (a) (9) false)
  | .zxtB16 c d a => some (sA c 0x12 (d) (a) (10) false)
  | .fgetN32 c d a b => some (sA c 0x13 (d) (a) (b.field) b.isLit)
  | .fgetI32 c d a b => some (sA c 0x14 (d) (a) (b.field) b.isLit)
  | .fputB32 c d a b => some (sA c 0x15 (d) (a) (b.field) b.isLit)
  | .divN32 c d a b => some (sA c 0x16 (d) (a) (b.field) b.isLit)
  | .divI32 c d a b => some (sA c 0x17 (d) (a) (b.field) b.isLit)
  | .remN32 c d a b => some (sA c 0x18 (d) (a) (b.field) b.isLit)
  | .remI32 c d a b => some (sA c 0x19 (d) (a) (b.field) b.isLit)
  | .addN32Imm c d a i => some (sI c 0x1a (d) (a) (i))
  | .andB32Imm c d a i => some (sI c 0x1b (d) (a) (i))
  | .orB32Imm c d a i => some (sI c 0x1c (d) (a) (i))
  | .xorB32Imm c d a i => some (sI c 0x1d (d) (a) (i))
  | .shlB32Imm c d a i => some (sI c 0x1e (d) (a) (i))
  | .shrN32Imm c d a i => some (sI c 0x1f (d) (a) (i))
  | .shrI32Imm c d a i => some (sI c 0x20 (d) (a) (i))
  | .movB32Imm c d i => some (sI c 0x21 (d) (0) (i))
  | .movB32 c d b => some (sA c 0x22 (d) (0) (b.field) b.isLit)
  | .selB32 c d a b => some (sA c 0x23 (d) (a) (b.field) b.isLit)
  | .cmpN32Set1 c q p a b => some (sA c 0x24 (q ++ p) (a) (b.field) b.isLit)
  | .cmpN32Set2 c q p a b => some (sA c 0x25 (q ++ p) (a) (b.field) b.isLit)
  | .cmpI32Set1 c q p a b => some (sA c 0x26 (q ++ p) (a) (b.field) b.isLit)
  | .cmpI32Set2 c q p a b => some (sA c 0x27 (q ++ p) (a) (b.field) b.isLit)
  | .cmpF32Set1 c q p a b => some (sA c 0x28 (q ++ p) (a) (b.field) b.isLit)
  | .cmpF32Set2 c q p a b => some (sA c 0x29 (q ++ p) (a) (b.field) b.isLit)
  | .pand c p na pa nb pb => some (sA c 0x2a (0#2 ++ p) (0#1 ++ BitVec.ofBool na ++ pa) (0#1 ++ BitVec.ofBool nb ++ pb) false)
  | .por c p na pa nb pb => some (sA c 0x2b (0#2 ++ p) (0#1 ++ BitVec.ofBool na ++ pa) (0#1 ++ BitVec.ofBool nb ++ pb) false)
  | .pxor c p na pa nb pb => some (sA c 0x2c (0#2 ++ p) (0#1 ++ BitVec.ofBool na ++ pa) (0#1 ++ BitVec.ofBool nb ++ pb) false)
  | .vtp c p a => some (sA c 0x2d (0#2 ++ p) (a) (0) false)
  | .ptv c d na pa => some (sA c 0x2d (d) (0#1 ++ BitVec.ofBool na ++ pa) (1) false)
  | .faddF32 c d a b => some (sA c 0x2e (d) (a) (b.field) b.isLit)
  | .fsubF32 c d a b => some (sA c 0x2f (d) (a) (b.field) b.isLit)
  | .fmulF32 c d a b => some (sA c 0x30 (d) (a) (b.field) b.isLit)
  | .ffmaF32 c d a b => some (sA c 0x31 (d) (a) (b.field) b.isLit)
  | .fminF32 c d a b => some (sA c 0x32 (d) (a) (b.field) b.isLit)
  | .fmaxF32 c d a b => some (sA c 0x33 (d) (a) (b.field) b.isLit)
  | .fabsF32 c d a => some (sA c 0x34 (d) (a) (0) false)
  | .fnegF32 c d a => some (sA c 0x34 (d) (a) (1) false)
  | .frintF32 c d a => some (sA c 0x34 (d) (a) (2) false)
  | .fabsF16x2 c d a => some (sA c 0x34 (d) (a) (3) false)
  | .fnegF16x2 c d a => some (sA c 0x34 (d) (a) (4) false)
  | .fabsBf16x2 c d a => some (sA c 0x34 (d) (a) (5) false)
  | .fnegBf16x2 c d a => some (sA c 0x34 (d) (a) (6) false)
  | .faddF16x2 c d a b => some (sA c 0x35 (d) (a) (b.field) b.isLit)
  | .fmulF16x2 c d a b => some (sA c 0x36 (d) (a) (b.field) b.isLit)
  | .ffmaF16x2 c d a b => some (sA c 0x37 (d) (a) (b.field) b.isLit)
  | .faddBf16x2 c d a b => some (sA c 0x38 (d) (a) (b.field) b.isLit)
  | .fmulBf16x2 c d a b => some (sA c 0x39 (d) (a) (b.field) b.isLit)
  | .ffmaBf16x2 c d a b => some (sA c 0x3a (d) (a) (b.field) b.isLit)
  | .fdot2F32F16x2 c d a b => some (sA c 0x3b (d) (a) (b.field) b.isLit)
  | .fdot2F32Bf16x2 c d a b => some (sA c 0x3c (d) (a) (b.field) b.isLit)
  | .cvtF32I32 c d a => some (sA c 0x3d (d) (a) (0) false)
  | .cvtF32N32 c d a => some (sA c 0x3d (d) (a) (1) false)
  | .cvtI32F32 c d a => some (sA c 0x3d (d) (a) (2) false)
  | .cvtN32F32 c d a => some (sA c 0x3d (d) (a) (3) false)
  | .cvtF32F16 c d a => some (sA c 0x3d (d) (a) (4) false)
  | .cvtF32Bf16 c d a => some (sA c 0x3d (d) (a) (5) false)
  | .cvtF16F32 c d a => some (sA c 0x3d (d) (a) (6) false)
  | .cvtBf16F32 c d a => some (sA c 0x3d (d) (a) (7) false)
  | .cvtF32E4m3 c d a => some (sA c 0x3d (d) (a) (8) false)
  | .cvtF32E5m2 c d a => some (sA c 0x3d (d) (a) (9) false)
  | .cvtF32E2m1 c d a => some (sA c 0x3d (d) (a) (10) false)
  | .cvtE4m3F32 c d a => some (sA c 0x3d (d) (a) (11) false)
  | .cvtE5m2F32 c d a => some (sA c 0x3d (d) (a) (12) false)
  | .cvtE2m1F32 c d a => some (sA c 0x3d (d) (a) (13) false)
  | .cvtF32Ue4m3 c d a => some (sA c 0x3d (d) (a) (14) false)
  | .cvtI32Rns24 c d a => some (sA c 0x3d (d) (a) (15) false)
  | .cvtN32Rns24 c d a => some (sA c 0x3d (d) (a) (16) false)
  | .cvtRns24I32 c d a => some (sA c 0x3d (d) (a) (17) false)
  | .cvtRns24N32 c d a => some (sA c 0x3d (d) (a) (18) false)
  | .rcpF32 c d a => some (sA c 0x3e (d) (a) (0) false)
  | .rsqrtF32 c d a => some (sA c 0x3e (d) (a) (1) false)
  | .sqrtF32 c d a => some (sA c 0x3e (d) (a) (2) false)
  | .exp2F32 c d a => some (sA c 0x3e (d) (a) (3) false)
  | .log2F32 c d a => some (sA c 0x3e (d) (a) (4) false)
  | .sinF32 c d a => some (sA c 0x3e (d) (a) (5) false)
  | .cosF32 c d a => some (sA c 0x3e (d) (a) (6) false)
  | .tanhF32 c d a => some (sA c 0x3e (d) (a) (7) false)
  | .gnextB32 c d a => some (sA c 0x3f (d) (a) (0) false)
  | .gseed c d a => some (sA c 0x40 (d) (a) (0) false)
  | .ldN8 c d a off => some (sI c 0x41 (d) (a) (off))
  | .ldI8 c d a off => some (sI c 0x42 (d) (a) (off))
  | .ldN16 c d a off => some (sI c 0x43 (d) (a) (off))
  | .ldI16 c d a off => some (sI c 0x44 (d) (a) (off))
  | .ldB32 c d a off => some (sI c 0x45 (d) (a) (off))
  | .ldB64 c d a off => some (sI c 0x46 (d) (a) (off))
  | .stB8 c d a off => some (sI c 0x47 (d) (a) (off))
  | .stB16 c d a off => some (sI c 0x48 (d) (a) (off))
  | .stB32 c d a off => some (sI c 0x49 (d) (a) (off))
  | .stB64 c d a off => some (sI c 0x4a (d) (a) (off))
  | .natom c d a ord op => some (sI c 0x4b (d) (a) (ord ++ op ++ 0#2))
  | .atom c d a ord op => some (sI c 0x4c (d) (a) (ord ++ op ++ 0#2))
  | .push c a n => some (sI c 0x4d (0) (a) (n))
  | .pop c d n => some (sI c 0x4e (d) (0) (n))
  | .mfs c d n => some (sI c 0x4f (d) (0) (n))
  | .mts c a n => some (sI c 0x50 (0) (a) (n))
  | .ckz c d => some (sA c 0x51 (d) (0) (0) false)
  | .ckaMod c d a => some (sA c 0x52 (d) (a) (0) false)
  | .ckaF c d a => some (sA c 0x53 (d) (a) (0) false)
  | .ckvMod c d a => some (sA c 0x54 (d) (a) (0) false)
  | .ckvF c d a b => some (sA c 0x55 (d) (a) (b) false)
  | .svc c d a i => some (sI c 0x56 (d) (a) (i))
  | .trap c n => some (sI c 0x57 (0) (0) (n))
  | .rte c => some (sA c 0x58 (0) (0) (0) false)
  | .exit c => some (sA c 0x59 (0) (0) (0) false)
  | .bra c g n off => some (.b ⟨c.k, 0x5a, g, n, off⟩)
  | .braAlways c off => some (.b ⟨c.k, 0x5b, 0, false, off⟩)
  | .call c g n off => some (.b ⟨c.k, 0x5c, g, n, off⟩)
  | .callAlways c off => some (.b ⟨c.k, 0x5d, 0, false, off⟩)
  | .ret c => some (sA c 0x5e (0) (0) (0) false)
  | .brx c a => some (sA c 0x5f (0) (a) (0) false)
  | .mma _ t a b q s n r => some (.x ⟨0, t, a, b, q, s, n, r⟩)
  | .mmaSc _ t a b q s n r => some (.x ⟨1, t, a, b, q, s, n, r⟩)
  | .mmaSet _ t a b q s n r => some (.x ⟨2, t, a, b, q, s, n, r⟩)
  | .reform c => some (sA c 0x68 (0) (0) (0) false)
  | .waitm c a => some (sA c 0x69 (0) (a) (0) false)
  | .leave c a => some (sA c 0x69 (0) (a) (1) false)
  | .join c a => some (sA c 0x69 (0) (a) (2) false)
  | .pseg c m n => some (sI c 0x6a (0) (m) (n))
  | .cvset c d a => some (sA c 0x6b (d) (a) (0) false)
  | .agreeEvery c p na pa m => some (sA c 0x6c (0#2 ++ p) (0#1 ++ BitVec.ofBool na ++ pa) (0#3 ++ m) false)
  | .agreeSome c p na pa m => some (sA c 0x6c (0#2 ++ p) (0#1 ++ BitVec.ofBool na ++ pa) (1#3 ++ m) false)
  | .agreeMask c d na pa m => some (sA c 0x6c (d) (0#1 ++ BitVec.ofBool na ++ pa) (2#3 ++ m) false)
  | .agreeSame c p a m => some (sA c 0x6c (0#2 ++ p) (a) (3#3 ++ m) false)
  | .xlane c d a x m => some (sA c 0x6d (d) (a) (x ++ m) false)
  | .sred c d a x m => some (sA c 0x6e (d) (a) (x ++ m) false)
  | .sscan c d a x m => some (sA c 0x6f (d) (a) (x ++ m) false)
  | .bsig c a b => some (sA c 0x70 (0) (a) (b.field) b.isLit)
  | .bwait c a b => some (sA c 0x71 (0) (a) (b) false)
  | .fenceAr c => some (sA c 0x72 (0) (0) (0) false)
  | .fenceAcq c => some (sA c 0x72 (0) (0) (1) false)
  | .fenceRel c => some (sA c 0x72 (0) (0) (2) false)
  | .yield c => some (sA c 0x72 (0) (0) (3) false)
  | .tzero c d => some (sA c 0x73 (d) (0) (0) false)
  | .tld c d a => some (sA c 0x73 (d) (a) (1) false)
  | .tst c d a => some (sA c 0x73 (d) (a) (2) false)
  | .tstat c d a => some (sA c 0x73 (d) (a) (3) false)
  | .trd c d a => some (sA c 0x73 (d) (a) (4) false)
  | .tcvt c d a s => some (sA c 0x73 (d) (a) (1#4 ++ s) false)
  | .qsend c d => some (sA c 0x74 (d) (0) (0) false)
  | .qrecv c d => some (sA c 0x74 (d) (0) (1) false)
  | .qcred c d => some (sA c 0x74 (d) (0) (2) false)
  | .cprop c d a b => some (sA c 0x75 (d) (a) (b) false)
  | .cread c d a b => some (sA c 0x76 (d) (a) (b) false)
  | .crecyc c d a b => some (sA c 0x77 (d) (a) (b) false)
  | .lcpIn c d a b => some (sA c 0x78 (d) (a) (b) false)
  | .lcpOut c d a b => some (sA c 0x79 (d) (a) (b) false)
  | .lcpx c d a b => some (sA c 0x7a (d) (a) (b) false)
  | .fquery c d a => some (sA c 0x7b (d) (a) (0) false)
  | .xlprobe c d a => some (sA c 0x7b (d) (a) (1) false)
  | .xlpurge c d a => some (sA c 0x7b (d) (a) (2) false)
  | .fretype c d a t => some (sA c 0x7b (d) (a) (1#3 ++ t) false)
  | .declass c d a i => some (sI c 0x7c (d) (a) (i))
  | _ => none

/-- The literal that follows an instruction's word (R43). -/
def Instr.literal : Instr → Option Word
  | .addN32 _ _ _ b => b.lit?
  | .addI32 _ _ _ b => b.lit?
  | .subN32 _ _ _ b => b.lit?
  | .subI32 _ _ _ b => b.lit?
  | .mulB32 _ _ _ b => b.lit?
  | .mulwN32 _ _ _ b => b.lit?
  | .mulwI32 _ _ _ b => b.lit?
  | .macB32 _ _ _ b => b.lit?
  | .minN32 _ _ _ b => b.lit?
  | .minI32 _ _ _ b => b.lit?
  | .maxN32 _ _ _ b => b.lit?
  | .maxI32 _ _ _ b => b.lit?
  | .andB32 _ _ _ b => b.lit?
  | .orB32 _ _ _ b => b.lit?
  | .xorB32 _ _ _ b => b.lit?
  | .shlB32 _ _ _ b => b.lit?
  | .shrN32 _ _ _ b => b.lit?
  | .shrI32 _ _ _ b => b.lit?
  | .fgetN32 _ _ _ b => b.lit?
  | .fgetI32 _ _ _ b => b.lit?
  | .fputB32 _ _ _ b => b.lit?
  | .divN32 _ _ _ b => b.lit?
  | .divI32 _ _ _ b => b.lit?
  | .remN32 _ _ _ b => b.lit?
  | .remI32 _ _ _ b => b.lit?
  | .movB32 _ _ b => b.lit?
  | .selB32 _ _ _ b => b.lit?
  | .cmpN32Set1 _ _ _ _ b => b.lit?
  | .cmpN32Set2 _ _ _ _ b => b.lit?
  | .cmpI32Set1 _ _ _ _ b => b.lit?
  | .cmpI32Set2 _ _ _ _ b => b.lit?
  | .cmpF32Set1 _ _ _ _ b => b.lit?
  | .cmpF32Set2 _ _ _ _ b => b.lit?
  | .faddF32 _ _ _ b => b.lit?
  | .fsubF32 _ _ _ b => b.lit?
  | .fmulF32 _ _ _ b => b.lit?
  | .ffmaF32 _ _ _ b => b.lit?
  | .fminF32 _ _ _ b => b.lit?
  | .fmaxF32 _ _ _ b => b.lit?
  | .faddF16x2 _ _ _ b => b.lit?
  | .fmulF16x2 _ _ _ b => b.lit?
  | .ffmaF16x2 _ _ _ b => b.lit?
  | .faddBf16x2 _ _ _ b => b.lit?
  | .fmulBf16x2 _ _ _ b => b.lit?
  | .ffmaBf16x2 _ _ _ b => b.lit?
  | .fdot2F32F16x2 _ _ _ b => b.lit?
  | .fdot2F32Bf16x2 _ _ _ b => b.lit?
  | .bsig _ _ b => b.lit?
  | _ => none

/-- The words of an instruction: prefix, instruction word, literal (R50, R71). -/
def encode (i : Instr) : List Word :=
  match i.shape with
  | none => []
  | some s => (i.ctl.pre.map Pre.word).toList ++ [s.word] ++ i.literal.toList

def Shape.op? : Shape → Option (BitVec 7 × Bool)
  | .a f => some (f.op, f.k)
  | .i f => some (f.op, f.k)
  | .b f => some (f.op, f.k)
  | .x _ => none

/-- Whether the class, the chain bit, W and the prefix of an instruction are such as its format holds: no event; a uniform class
only where one exists (R59); no chain bit and no W in formats B and X, no prefix before format B, no uniform matrix word. -/
def Instr.classOk (i : Instr) : Bool :=
  match i.shape with
  | none => false
  | some (.x _) => !i.ctl.k && !i.ctl.c && !i.ctl.w
  | some (.b f) => !i.ctl.c && !i.ctl.w && i.ctl.pre.isNone && (!f.k || hasUniform f.op)
  | some (.a f) => !f.k || hasUniform f.op
  | some (.i f) => !f.k || hasUniform f.op

/-- Whether the codes inside the operand fields are listed ones (R60, R64, R65). -/
def Instr.codeOk : Instr → Bool
  | .natom _ _ _ _ op | .atom _ _ _ _ op => op.toNat < 12
  | .xlane _ _ _ x _ => x.toNat < 4
  | .fretype _ _ _ t => t.toNat ≤ 8
  | _ => true

/-- Whether the fields of an instruction say something its word can hold. -/
def Instr.encodable (i : Instr) : Bool := i.classOk && i.codeOk

/-- The queue group, which a launch in pool mode does not have (R243). -/
def Instr.isQueue : Instr → Bool
  | .qsend .. | .qrecv .. | .qcred .. => true
  | _ => false

/-- Little-endian words from bytes at rising addresses (R38). -/
def wordsOfBytes : List Byte → List Word
  | a :: b :: c :: d :: rest => (d ++ c ++ b ++ a) :: wordsOfBytes rest
  | _ => []

/-- The bytes of a table word in memory: `n` bytes, the first word's first. -/
def tableBytes (n w : Nat) : List Byte := (List.range n).map fun k => BitVec.ofNat 8 (w >>> (8 * k))

/-- The instruction that the decoder identifies in the bits of an opcode-table row, any word after them read as 0. -/
def decodeTableWord (nbits w : Nat) : Option Instr :=
  match wordsOfBytes (tableBytes (4 * ((nbits + 31) / 32)) (w % 2 ^ nbits)) with
  | [] => none
  | w0 :: ws =>
    if isPrefix w0 then
      match ws with
      | [] => none
      | w1 :: rest => (identify false (some (.of w0)) (rest.headD 0) (shapeOf w1)).toOption
    else if w0.extractLsb' 27 5 = 0b11100 then none
    else (identify false none (ws.headD 0) (shapeOf w0)).toOption

end Sys2Proof
end

