-- ==== Sys2Proof/Config.lean ====
section
/-! DEFINITION. What one package fixes and what the spec leaves open: constants without a body, of which nothing can be proved. -/

namespace Sys2Proof

/-- An upset of memory from outside the machine's instructions: an uncorrectable error (R180, R212), or the host writing its own
memory. -/
inductive Upset where
  /-- 8 near bytes, by their memory key / 8, or the tag bits of their line (R180) -/
  | near (granule : Nat) (tagBits : Bool)
  | tile (team n : Nat) (tagBits : Bool)
  | hostByte (off : Nat) (b : Byte)
  | hbm (word : Nat)
  /-- a register word of a thread -/
  | register (tid r : Nat)
  /-- the group entry or granule map of a group (R193) -/
  | groupEntry (gid : Nat)
  /-- the reservation table or a latch of a quad, which no team owns (R212) -/
  | quadTable (q : Nat)
  /-- an error that a die has corrected, of a world and a unit (R388), or 0 -/
  | corrected (die w unit : Nat)
  deriving DecidableEq, Repr

/-- Who moves next. -/
inductive Turn where
  /-- the package's clock advances -/
  | tick (cc : Nat)
  /-- a bundle issues its next unit (R135) -/
  | issue (b : Nat)
  /-- as `issue`, and a plain near load or store of the unit is performed ahead of its place or behind it (R190) -/
  | issueLate (b : Nat)
  /-- the late store at a place of the list becomes visible (R190) -/
  | drain (n : Nat)
  /-- a thread's core reads n near bytes at a memory key ahead of a load of them (R190) -/
  | readAhead (tid key n : Nat)
  /-- a step of another agent, a row of the opcode table without a word -/
  | event (i : Instr)
  /-- an upset -/
  | upset (u : Upset)
  /-- the reservations of a segment's write unit reach their homes ahead of the rest of the unit (R258, R267) -/
  | reserve (op seg : Nat)
  /-- a request of world 0 through the management window to retype a frame (R265) -/
  | retype (frame type owner : Nat)
  /-- the host configures the BAR0 of a function (R365) -/
  | configBar0 (w : Nat) (v : DWord)
  /-- the package sends the packet at a place of its list of packets sent again, after its tag has failed (R392) -/
  | resend (n : Nat)
  deriving DecidableEq, Repr, Inhabited

end Sys2Proof

namespace Sys2Proof.Config

open Sys2Proof

/-- Who moves next where the state names nobody, by a counter: every order of the package's agents and every act of the world
outside it is some value of it. -/
opaque turnChoice : Nat → Turn

/-- A value that the spec leaves open, fresh for each count. -/
opaque freeValue : Nat → Nat

/-- CYC of a core at the package's time 0 (R77: the cc since the core's cold reset ended): less than 2^32, so that CYC wraps no sooner
than its 64 bits let it. -/
opaque coreStart : Nat → Fin (2 ^ 32)

/-- How many cc more than one a bundle's unit keeps it from being ready, by the bundle and the cc (R135; of the
latencies of R139 to R142 the model keeps no more). -/
opaque unitLatency : Nat → Nat → Nat

/-- The memory slice, of 96 (R16), that holds an HBM line, by key / 128 (R413: the package fixes it and does not publish it). -/
opaque sliceOfLine : Nat → Fin 96

/-- Where the management window reports FRAMETOP (R248, which gives no offset): among the words after the result word. -/
opaque frametopPlace : Fin 1018

/-- Bytes of ciphertext and of signatures, of which the spec states no value: by what is sealed or signed, a number of the making,
and the byte's place (R352, R380); a fabric packet's by its payload, its sequence number and its world, its pair of nodes and the
place (R392). -/
opaque cipherByte : List Byte → Nat → Nat → Byte

/-- The measurements that the Assayer states after a start, by the count of starts (R363). -/
opaque measurements : Nat → List Byte

/-- What the rail sensors measure in the interval that a reset entry ends (R378, R381), by the count of starts. -/
opaque resetMeasure : Nat → Measure

/-- The bytes that a world's fetches of code and walks of tables read at the memory slices in an interval (R378), by the cc in which it
began and the world: the spec does not say how many bytes a fetch or a walk that misses reads. -/
opaque fetchBytes : Nat → Nat → Nat

/-- The calibration version in force (R380). -/
opaque calibration : Nat

/-- The lanes that the package has lost: a core and a bit of its DLMAP each, or none. There are at most 2,048 of them, one for each
vector pipe, so that the mean of good lanes is at least 15 (R18). -/
opaque lostLane : Fin 2048 → Option (Fin 1024 × Fin 32)

end Sys2Proof.Config
end

