-- ==== Sys2Proof/Machine/SMap.lean ====
section
/-! DEFINITION. Sparse maps: lists of (key, value) with strictly rising keys. They hold the machine's memories and its tables. -/

namespace Sys2Proof

/-- A map from natural numbers, as a list with strictly rising keys (`SMap.wf`). -/
abbrev SMap (α : Type) := List (Nat × α)

/-- The value listed at a key. -/
def SMap.find? {α : Type} : SMap α → Nat → Option α
  | [], _ => none
  | (k, v) :: m, x => if k = x then some v else SMap.find? m x

/-- The value listed at a key, or the value that an unlisted key reads as. -/
def SMap.getD {α : Type} (m : SMap α) (x : Nat) (d : α) : α := (m.find? x).getD d

/-- The value v at key x, before the first greater key. -/
def SMap.insert {α : Type} : SMap α → Nat → α → SMap α
  | [], x, v => [(x, v)]
  | (k, w) :: m, x, v =>
    if x < k then (x, v) :: (k, w) :: m
    else if x = k then (x, v) :: m
    else (k, w) :: SMap.insert m x v

/-- No entry at key x. -/
def SMap.erase {α : Type} (m : SMap α) (x : Nat) : SMap α := m.filter fun e => e.1 ≠ x

/-- An entry set, or removed where the value is the one that an unlisted key reads as. -/
def SMap.set {α : Type} [DecidableEq α] (d : α) (m : SMap α) (x : Nat) (v : α) : SMap α :=
  if v = d then m.erase x else m.insert x v

/-- The value of key x changed by f; an unlisted key stays unlisted. -/
def SMap.modify {α : Type} (m : SMap α) (x : Nat) (f : α → α) : SMap α :=
  m.map fun e => if e.1 = x then (e.1, f e.2) else e

def SMap.keys {α : Type} (m : SMap α) : List Nat := m.map (·.1)

/-- Keys strictly rising. -/
def SMap.wf {α : Type} (m : SMap α) : Bool :=
  match m with
  | [] => true
  | [_] => true
  | (k, _) :: (k', v) :: r => k < k' && SMap.wf ((k', v) :: r)

/-- The byte memory: key = space · 2^64 + offset; an unlisted byte reads 0. -/
abbrev Memory := SMap Byte

def Memory.read (m : Memory) (a : Nat) : Byte := SMap.getD m a 0

/-- A byte written: the canonical form lists no zero. -/
def Memory.write (m : Memory) (a : Nat) (b : Byte) : Memory := SMap.set 0 m a b

/-- The canonical form: keys strictly rising and no entry equal to what an unlisted address reads as. -/
def Memory.wf (m : Memory) : Bool := SMap.wf m && m.all fun e => e.2 ≠ 0

def Memory.readBytes (m : Memory) (a : Nat) : Nat → List Byte
  | 0 => []
  | n + 1 => m.read a :: Memory.readBytes m (a + 1) n

def Memory.writeBytes (m : Memory) (a : Nat) : List Byte → Memory
  | [] => m
  | b :: bs => Memory.writeBytes (m.write a b) (a + 1) bs

/-- The little-endian value of bytes (spec/00_scope.md R4). -/
def leValue : List Byte → Nat
  | [] => 0
  | b :: bs => b.toNat + 256 * leValue bs

/-- The n little-endian bytes of a value. -/
def leBytes : Nat → Nat → List Byte
  | 0, _ => []
  | n + 1, v => BitVec.ofNat 8 v :: leBytes n (v / 256)

def Memory.readLe (m : Memory) (a n : Nat) : Nat := leValue (m.readBytes a n)
def Memory.writeLe (m : Memory) (a n v : Nat) : Memory := m.writeBytes a (leBytes n v)

end Sys2Proof
end

