-- ==== Sys2Proof/Machine/State.lean ====
section
/-! DEFINITION. The state of one package (spec/01_machine.md; INVENTORY.md lists every piece with its rule). -/

namespace Sys2Proof.Machine

open Sys2Proof

/-- Why the machine stops with no next state although the step has an instruction. -/
inductive Fault where
  /-- An event that names a world, a core, a quad or a port that the package does not have: raised by no meaning. Safe. -/
  | noSuchUnit
  deriving DecidableEq, Repr

/-- Why an instruction has no meaning in a state. -/
inductive Refusal where
  /-- The meaning is not written yet; raised by an arm of `exec`. Safe: no claim can be proved of it. -/
  | notModelled (mnemonic : String)
  /-- An instruction word asked of `exec` while no bundle issues a unit; raised by `issueUnit`. Safe: no step of the machine
  asks it. -/
  | noBundle
  deriving DecidableEq, Repr

/-- A grade and a poison bit (R73). -/
structure Tag where
  grade  : BitVec 2
  poison : Bool
  deriving DecidableEq, Repr

/-- A value with its tag. -/
structure Tagged (α : Type) where
  val : α
  tag : Tag
  deriving DecidableEq, Repr

/-- A service call before its entry is appended (R126): the service number, the register for the status, the memory key of the
argument block, the grade of its address, the tag of its guard, what a trap of the unit reports, and the issuing core (R343). -/
structure Call where
  service : Nat
  dst     : Reg
  block   : Nat
  grade   : BitVec 2
  guard   : Tag
  uni     : Bool
  pos     : Nat
  addr    : Word
  core    : Nat
  deriving DecidableEq, Repr

/-- What a thread that is in no bundle and in no bin waits for. -/
inductive Wait where
  /-- a `bwait` with its counter's memory key, its target and the head of its chain (R150, R91) -/
  | counter (key target : Nat) (head : Word)
  /-- the presence of a line, by its key / 128, with the slice whose watch entry it takes (R181, R272) and the watch, which the
  threads of a uniform unit share (R182); `call`: it is a line of a service call's block (R126) -/
  | line (key : Nat) (slice : Option Nat) (watch : Nat) (call : Bool)
  /-- a slot of the ring, before the request of a `svc` is appended (R126): its order among the waiters, the call, and the head of
  its chain -/
  | ring (order : Nat) (call : Call) (head : Word)
  /-- the completion of a service request (R126) -/
  | service (req : Nat) (head : Word)
  /-- the answer to a request that a pre-emption recorded as a replay entry (R342) -/
  | answer (req : Nat)
  /-- a rendezvous on a mask (R163) -/
  | mask (m : Nat)
  /-- an append to the queue of its team (R245) -/
  | queue
  /-- the end of a pre-emption (R341) -/
  | halted
  deriving DecidableEq, Repr

/-- Where a thread is (R129, R150). `filed`: in a bin or in the filing queue of its core. -/
inductive Place where
  | ended
  | inBundle (b : Nat)
  | filed
  | waiting (w : Wait)
  deriving DecidableEq, Repr

/-- A thread (R72). An unlisted register reads 0 with grade G0 and poison clear. -/
structure Thread where
  pc       : Word
  v        : SMap (Tagged Word)
  p        : SMap (Tagged Bool)
  k        : SMap (Tagged DWord)
  g        : SMap (Tagged (BitVec 128))
  fflags   : Tagged Flags
  l0       : Tagged Word
  l1       : Tagged Word
  l2       : Tagged Word
  l3       : Tagged Word
  sp       : Nat
  spill    : SMap (Tagged Word)
  hnd      : Bool
  resume   : Word
  pending  : List (Cause × Word)
  trapinfo : Word
  trappc   : Word
  trapval  : Tagged Word
  place    : Place
  /-- the cc from which it may be drawn, and its order of age (R130) -/
  runnable : Nat
  /-- filed again by a `bwait` without a free waiter entry (R152), or by a service call without a free watch (R126, R272) -/
  retries  : Bool
  /-- the time since which it waits (R153) -/
  since    : Nat
  /-- the operation whose answer its bundle waits for in the present unit -/
  request  : Option Nat
  /-- it has entered its handler, whose first chain has not issued (R93) -/
  enters   : Bool
  deriving DecidableEq, Repr

/-- A waiting thread of a rendezvous (R163): its slot, its unit, the unit after it and the head of the unit's chain. -/
structure Arrival where
  slot  : Nat
  addr  : Word
  word  : Word
  next  : Word
  head  : Word
  pos   : Nat
  instr : Instr
  deriving DecidableEq, Repr

/-- A convergence register (R157, R215, R216). `op`: the instruction of the first signer with its Va cleared; `signer`: the
answer that the last signer waits for while the operation is not posted (R232); `guards`: the tags of the rows' guards (R83). -/
structure Conv where
  declared : Word
  signed   : Word
  op       : Option Instr
  latch    : Option Nat
  latchVa  : Reg
  isFresh  : Bool
  signer   : Option Nat
  guards   : SMap Tag := []
  deriving DecidableEq, Repr

/-- A group (R157, R147, R154). An unlisted mask reads 0xFFFF_FFFF. `granules`: its granule map (R145), the valid entries from
entry 0 on. `lastEnd`: when a thread of it last ended (R153). `entry`: the cc and the mask of the latest event that its entry has
taken (R163). `woken`: a cause has become pending on a thread of it while it is parked (R155). `parkFrom`: the cc from which its
blocking counts for the next attempt to park it (R340, R155). -/
structure Group where
  role     : Nat
  core     : Nat
  offCore  : Bool
  granules : List Nat
  lastEnd  : Nat
  masks    : SMap Word
  conv     : SMap Conv
  seg      : Nat
  arrived  : SMap (List Arrival)
  entry    : Option (Nat × Nat) := none
  woken    : Bool := false
  parkFrom : Nat := 0
  deriving DecidableEq, Repr

/-- The record of a team's first fatal event (R196), without the launch record that its launch gives. -/
structure KillRecord where
  causeword : Word
  at_       : Word
  pc        : Word
  value     : Word
  time      : DWord
  deriving DecidableEq, Repr

/-- The status of a tile register (R210); F is set while a posted writer of it is not complete. -/
structure Tile where
  tag  : Tag
  writers : Nat
  d    : Bool
  v    : Bool
  deriving DecidableEq, Repr

/-- An entry of a receive queue (R206). -/
structure QueueEntry where
  payload : DWord
  sender  : Nat
  tag     : Tag
  deriving DecidableEq, Repr

/-- A team (R203, R177, R206, R209). `bench`, `tileSpace`: the spaces of its Bench allocation and of its tile registers. -/
structure Team where
  world   : Nat
  launch  : Nat
  cluster : Nat
  index   : Nat
  core    : Nat
  bench   : Nat
  tileSpace : Nat
  tiles   : SMap Tile
  head    : Word
  tail    : Word
  entries : SMap QueueEntry
  /-- the priority it was distributed with (R218) -/
  prio    : Nat
  killed  : Option KillRecord
  ended   : Bool
  /-- the cc of its end (R337) -/
  endedAt : Nat
  /-- the cc of its kill (R196) -/
  killedAt : Nat := 0
  deriving DecidableEq, Repr

/-- A cluster (R203, R205, R208). -/
structure Cluster where
  launch : Nat
  x      : Nat
  y      : Nat
  z      : Nat
  cores  : List Nat
  /-- the space of its pool, and that of the Crucible allocation which its teams name (R269) -/
  pool   : Nat
  cruc   : Option Nat
  deriving DecidableEq, Repr

/-- A role of a launch (R147). -/
structure Role where
  regs   : Nat
  spill  : Nat
  tiles  : Nat
  groups : Nat
  deriving DecidableEq, Repr

/-- A line's tags (R177, R270) and those of the line's registered ranges (R279). -/
structure Line where
  present : Bool
  tag     : Tag
  deriving DecidableEq, Repr

/-- A filed thread's bin (R130). -/
structure Bin where
  team    : Nat
  role    : Nat
  pc      : Word
  members : List Nat
  /-- eligible by the age of its oldest thread (R131) -/
  aged    : Bool
  deriving DecidableEq, Repr

/-- A core (R130). `queue`: the filing queue, oldest first; `started`: the cc in which each of its units last started one, and the
bundle (R135). -/
structure Core where
  bins  : SMap Bin
  queue : List Nat
  started : SMap (Nat × Nat) := []
  deriving DecidableEq, Repr

/-- A decoded unit of a chain (R54). -/
structure ChainUnit where
  instr : Instr
  word  : Word
  addr  : Word
  len   : Nat
  /-- the leaf through which its instruction word was fetched (R362) -/
  leaf  : DWord
  deriving DecidableEq, Repr

/-- A drawn bundle (R132, R133): its threads in ascending slot order, the chain it issues with the units still to issue, and
the threads that have performed the unit in progress. -/
structure Bundle where
  core    : Nat
  tids    : List Nat
  pc      : Word
  head    : Word
  pos     : Nat
  chain   : List ChainUnit
  finished : List Nat
  drawn   : Nat
  /-- the unit in progress waits before its effect -/
  held    : Bool
  /-- to be displaced at its next chain boundary (R133) -/
  displaced : Bool
  /-- the cc from which it is ready for issue (R132, R135, R143), and whether it is bound to pipe B (R137) -/
  ready   : Nat := 0
  pipeB   : Bool := false
  /-- it waits for an entry among the core's 64, all of which its draw has found in use (R133) -/
  waits   : Bool := false
  deriving DecidableEq, Repr

/-- The unit being executed: what `exec` needs beside the instruction. -/
structure Issue where
  bundle : Nat
  core   : Nat
  tids   : List Nat
  addr   : Word
  next   : Word
  word   : Word
  pos    : Nat
  head   : Word
  leaf   : DWord
  /-- a plain near access of it is performed out of its place (R190) -/
  late   : Bool := false
  deriving DecidableEq, Repr

/-- A frame's metadata (R250) but COUNT, which `State.refs` gives. Types by their codes: 0 FREE, 1 DATA, 2 CODE, 3 TABLE3, 4 TABLE2, 5 TABLE1, 6 CONTEXT, 7 CELL,
8 RING. -/
structure Frame where
  type  : Nat
  owner : Nat
  valid : Nat
  chg   : Word
  gen   : Word
  deriving DecidableEq, Repr

/-- A grant (R257). `perm`: MAXPERM as bits R, W, X, CELL from bit 0. -/
structure Grant where
  gv      : Bool
  perm    : BitVec 4
  closing : Bool
  declass : Bool
  owner   : Nat
  first   : Nat
  nframes : Nat
  uses    : Nat
  deriving DecidableEq, Repr

/-- A translation (R263): the page's world, level (1 to 3) and virtual page at the leaf's size, the leaf entry, and the table
frames that the walk read. -/
structure Xlat where
  world  : Nat
  level  : Nat
  page   : Nat
  leaf   : DWord
  seen   : List Nat
  deriving DecidableEq, Repr

/-- A launch of a grid of clusters (R323 to R337): what its record says and how far it has come. -/
structure Launch where
  world    : Nat
  queue    : Nat
  record   : DWord
  entry    : DWord
  gdx      : Nat
  gdy      : Nat
  gdz      : Nat
  age      : Nat
  prio     : Nat
  poolMode : Bool
  shape    : Nat
  abortOnFail : Bool
  bench    : Nat
  cruc     : Nat
  doneVa   : DWord
  grade    : BitVec 2
  roles    : List Role
  fmt      : List Word
  rank     : Nat
  /-- the space of the Crucible allocation that its next cluster on a die joins, and the slices of the chunks that it holds on
  each die, in order (R269) -/
  crucSpace : SMap Nat
  crucChunks : SMap (List Nat)
  /-- the slices of the chunks that it holds for the allocation of a cluster which a restore has brought to a die where the launch has
  another, by the allocation's space (notes/assumptions/59.md) -/
  ownChunks : SMap (List Nat) := []
  /-- teams killed, and the first kill record with its team (R196) -/
  killed   : Nat
  firstKill : Option (Nat × KillRecord)
  /-- the index of the next cluster to distribute (R331), and since when it is the next, by `State.span` (R332) -/
  nextIndex : Nat := 0
  since    : Nat := 0
  /-- its next cluster has become reserving (R332) -/
  reserving : Bool := false
  /-- it distributes no further cluster (R336) -/
  stopped  : Bool := false
  /-- it has completed (R335) -/
  complete : Bool := false
  deriving DecidableEq, Repr

/-- A range that a Ladle operation or a tile load has registered (R279, R237), in memory keys of bytes; `bench`: it lies in a
Bench and holds an entry of its quad's range table. -/
structure Range where
  op    : Nat
  isSrc : Bool
  lo    : Nat
  hi    : Nat
  quad  : Nat
  bench : Bool
  deriving DecidableEq, Repr

/-- The command that a queue runs (R319 to R322): a launch, a WAITCOUNT on a virtual address, or a COPY. -/
inductive Running where
  | launch (l : Nat)
  | waitcount (va target : Nat)
  | copy (op : Nat)
  deriving DecidableEq, Repr

/-- A hardware queue (R314, R316). `runVa`: the virtual address of the entry of the command that it runs; `flushed`: the commands
after that one which a flush has completed already (R336). -/
structure CmdQueue where
  base    : DWord := 0
  en      : Bool := false
  stopped : Bool := false
  psel    : Bool := false
  prio    : Nat := 0
  tail    : Word := 0
  head    : Word := 0
  running : Option Running := none
  runVa   : Nat := 0
  flushed : Nat := 0
  /-- the cc of the latest write of QCTL, and the priority that PSEL and PRIO gave before it (R333) -/
  wroteAt : Nat := 0
  oldPrio : Option Nat := none
  deriving DecidableEq, Repr

/-- A section of a context image (R350): its kind, what it counts, and its bytes after its header. -/
structure Section where
  kind   : Nat
  count  : Nat
  bytes  : List Byte
  deriving DecidableEq, Repr

/-- The context image that the last save of a world wrote (R349): the world's key epoch then, the bytes of its header and of its body
as written; what the body is the ciphertext of: its sections, and the replay entries of the last one (R344). -/
structure Image where
  epoch  : Nat
  header : List Byte
  body   : List Byte
  sections : List Section
  replays : List (List Byte)
  deriving DecidableEq, Repr

/-- A record of a world's energy chain (R380): bytes 0 to 63. -/
structure Energy where
  counter : Nat := 0
  /-- the sequence number of the latest record, and that record's bytes; none before the first -/
  seq     : Nat := 0
  last    : Option (List Byte) := none
  /-- an interval was scaled since the latest record (R380) -/
  scaled  : Bool := false
  /-- the FINAL record made at the last reset entry (R381) -/
  final   : Option (List Byte) := none
  /-- the digest, counter and number in flash (R381), and whether they are those of a FINAL -/
  stored  : Option (List Byte × Nat × Nat × Bool) := none
  deriving DecidableEq, Repr

/-- The state of a TDI (R364). -/
inductive Tdi where
  | unlocked | locked | run | error
  deriving DecidableEq, Repr

/-- An SPDM session of a function (R363): how far its connection has come. -/
inductive Spdm where
  | none | version | capabilities | negotiated | handshake | secure
  deriving DecidableEq, Repr

/-- A row of an A-operand latch (R216): nine words, the joined tags of the first eight, and those of the scale word (R221). -/
structure LatchRow where
  words : List Word
  tag   : Tag
  scaleTag : Tag
  deriving DecidableEq, Repr

/-- An operation posted to a quad's reservation table (R217, R235). -/
inductive TileOp where
  /-- a pass: group, sub, Td, Tb, quarter, slot word, the rows of its mask, the latch that it owns (R232) -/
  | pass (gid sub td tb quarter : Nat) (slot : Word) (rows : SMap LatchRow) (latch : Option Nat)
  /-- `tzero` with the guard's grade (R236) -/
  | zero (td : Nat) (grade : BitVec 2)
  /-- `tld` from a memory key, with the tags of its address and guard, and its range's operation (R237) -/
  | load (td key : Nat) (tag : Tag) (op : Nat)
  /-- `tst` to a memory key, with the tags of its address and guard, and the answer awaited (R238) -/
  | store (td key : Nat) (tag : Tag) (req : Nat)
  /-- `trd` by the threads of a unit: the destination, and of each thread the word, the tags of the index and the guard, and the
  answer awaited (R240, R235) -/
  | read (ta : Nat) (d : Reg) (items : List (Nat × Tag × Nat))
  /-- `tcvt` under a slot word, with the guard's tag and the threads that take its flags (R241, R242) -/
  | convert (td ta : Nat) (slot : Word) (tag : Tag) (tids : List Nat)
  /-- the tile write of a TILEIN copy (R303) -/
  | tilein (td op : Nat)
  deriving DecidableEq, Repr

/-- An entry of a reservation table; `ready`: the time since which R211 lets it proceed. -/
structure Posted where
  id    : Nat
  team  : Nat
  prio  : Nat
  op    : TileOp
  ready : Option Nat
  deriving DecidableEq, Repr

/-- What came of a HOSTWAIT entry while its world was saved (R344): the old value, UNSUP, or the function's completion timeout. -/
inductive Late where
  | value (old : Nat)
  | unsup
  | lost
  deriving DecidableEq, Repr

/-- A world's registers and tables (R314, R338, R257). `root`, `hasRoot`: WROOT and whether a write has set it. -/
structure World where
  root    : Nat := 0
  hasRoot : Bool := false
  handler : DWord := 0
  grants  : SMap Grant := []
  /-- WSTAT.STATE (R338): 0 IDLE, 1 RUNNING, 2 HALTING, 3 SAVING, 4 SAVED, 5 RESTORING -/
  stat    : Nat := 0
  /-- WTEST (R338): ARM, N, and the draws counted since ARM was set (R372) -/
  testArm : Bool := false
  testN   : Nat := 0
  testSeen : Nat := 0
  result  : Nat := 0
  cur     : Nat := 0
  isSealed : Bool := false
  rslot   : Nat := 0
  wctx    : Nat := 0
  wctxn   : Nat := 0
  /-- WQUADS (R317) -/
  quads   : BitVec 256 := 0
  queues  : SMap CmdQueue := []
  srbase  : DWord := 0
  srhead  : Word := 0
  srtail  : Word := 0
  flbase  : DWord := 0
  flhead  : Word := 0
  fltail  : Word := 0
  /-- fault-log entries dropped since the last one written (R315) -/
  drops   : Nat := 0
  /-- the rank table, by rank (R394), what an unlisted entry of it reads as (R400), and WFAB (R397) -/
  ranks   : SMap DWord := []
  rankBase : DWord := 0
  wfab    : DWord := 0
  /-- the function's incarnation (R367), and the pages asked for by its page-request groups, by incarnation · 16 +
  group -/
  inc     : BitVec 5 := 0
  pages   : SMap Nat := []
  /-- the key epoch, the save counter and the last image (R352, R346) -/
  epoch   : Nat := 0
  saves   : Nat := 0
  image   : Option Image := none
  /-- a restore has loaded the state, and replay entries are still to be reissued (R344, R354) -/
  placed  : Bool := false
  /-- the estimate of the accepted pre-emption (R340), and what its save keeps of the quads: posted operations in order and held
  latches (R350) -/
  estimate : Nat := 0
  posted  : List Posted := []
  latches : SMap (SMap LatchRow) := []
  latchVas : SMap Reg := []
  /-- the next REQID number of each core (R343) -/
  seqs    : SMap Nat := []
  /-- the frame boundary of a running key rotation (R359) -/
  rekey   : Option Nat := none
  tdi     : Tdi := .unlocked
  /-- the BAR0 configuration of the function (R365) -/
  bar0    : DWord := 0
  nonce   : BitVec 256 := 0
  spdm    : Spdm := .none
  energy  : Energy := {}
  /-- doorbells recorded while SAVING or SAVED (R345), and what came of HOSTWAIT entries, by request (R344) -/
  doorbells : List Nat := []
  late    : List (Nat × Late) := []
  deriving DecidableEq, Repr

/-- Whether what a world has is on the package: it is not saved, nor about to be loaded (R25, R346, R354). -/
def World.onPackage (x : World) : Bool := x.stat ≤ 3 || (x.stat = 5 && x.placed)

/-- A line that a quad's atomic cache owns (R283), by its key / 128, and the translation through which it holds it. -/
structure Owned where
  line : Nat
  via  : Xlat
  deriving DecidableEq, Repr

/-- An entry of a cell cache (R405): the world, the cell's address as named, the generation, the decided value, the WINNER, the
page's grade, and for a quad's cache the translation that installed it, for the fabric's the home's node · 64 + the world
there. -/
structure CellEntry where
  world  : Nat
  addr   : DWord
  gen    : Word
  value  : DWord
  winner : Nat
  grade  : BitVec 2
  via    : Option Xlat
  home   : Nat
  deriving DecidableEq, Repr

/-- A quad: its translation cache (R263), its reservation table in posting order with the granted passes in the order of their
grants, the granted tile-port entries with the times at which they complete, and the time from which the tile port is free (R217,
R218, R235), its latches in use with the Va that each was taken with (R216, R350), its atomic cache (R283) and its cell cache (R405), most
recently used first. -/
structure Quad where
  cache   : List Xlat := []
  table   : List Posted := []
  passes  : List Nat := []
  ports   : List (Nat × Nat) := []
  portFree : Nat := 0
  latches : SMap (SMap LatchRow) := []
  latchVas : SMap Reg := []
  owned   : List Owned := []
  cells   : List CellEntry := []
  deriving DecidableEq, Repr

/-- An entry of a slice's contention predictor (R283). -/
structure Predictor where
  line : Nat
  quad : Nat
  run  : Nat
  deriving DecidableEq, Repr

/-- Where bytes of a Ladle operation lie: near memory by key, main memory by virtual address (of the package, or of a rank), or a
tile register. -/
inductive Loc where
  | near (key : Nat)
  | main (va : Nat)
  | tile (off : Nat)
  deriving DecidableEq, Repr

/-- Bytes moved from one place to another. -/
structure Piece where
  src : Loc
  dst : Loc
  len : Nat
  deriving DecidableEq, Repr

/-- How far a segment has come (R273 to R277, R298, R398). -/
inductive SegState where
  /-- not started -/
  | queued
  /-- it waits for the answer to a page request of a function (R318) -/
  | paging (fn grp : Nat)
  /-- it has read its bytes: pieces still to write, by their physical keys -/
  | started (bytes : List (Loc × List Byte))
  /-- its packet is out, and the answer has not come -/
  | remote
  /-- its table write waits for the purge (R260) -/
  | purging (id : Nat)
  /-- it fails with a status -/
  | failing (st : Status)
  deriving DecidableEq, Repr

/-- What a memory slice has taken at the homes for a write unit whose verdict is still to come (R258): the entries that the unit changes with
their old and new values as it found them, the table frame's owner, the reservations and the USES of the owner's grants that the entries
which passed have taken, and whether one has failed. -/
structure Held where
  owner   : Nat
  changes : List (Nat × DWord × DWord)
  runs    : List (Nat × Nat)
  uses    : List Nat
  refused : Bool
  deriving DecidableEq, Repr

/-- A segment: its pieces, its bytes, the tag of what it has read, the frames it pins, the host pages for which it has sent page requests
(function and address, R318), whether it is a replay entry, its REQID where it reads or writes host or remote memory (R343), and whether the bytes that it has read came
from host memory (R311). -/
structure Segment where
  pieces : List Piece
  state  : SegState
  bytes  : Nat
  tag    : Tag
  pins   : List Nat
  paged  : List (Nat × Nat)
  replay : Bool
  reqid  : Option DWord
  fromHost : Bool := false
  /-- the reservations of its write unit (R258) -/
  held   : Option Held := none
  deriving DecidableEq, Repr

/-- A Ladle operation (R273, R296 to R303) or the COPY of a queue (R322): the segments that have neither landed nor failed, in the
order of their numbers. -/
structure Ladle where
  core    : Nat
  world   : Nat
  team    : Option Nat
  tid     : Nat
  launch  : Option Nat
  rank    : Option Nat
  /-- the key of its counter block -/
  counter : Option Nat
  /-- the least grade of a page that it writes (R297) -/
  grade   : BitVec 2
  /-- the element size to which main-memory addresses are aligned (R302) -/
  align   : Nat
  /-- the tile that it loads and the entry of the reservation table (R303) -/
  tile    : Option (Nat × Nat)
  tileTag : Tag
  segs    : SMap Segment
  /-- causes raised already (R299) -/
  raised  : List Cause
  /-- the lowest nonzero status so far, for ESTAT (R322) -/
  estat   : Nat
  /-- what a kill by a poisoned source records (R196) -/
  pos     : Nat
  pc      : Word
  /-- the near spaces that it names: their chunks are not returned before it is complete (R269) -/
  spaces  : List Nat := []
  deriving DecidableEq, Repr

/-- What a thread waits in its unit for (R304 to R310, R406 to R410). -/
inductive Asked where
  /-- an atomic of a frame of the package: the physical key, off8's ordering and operation, the data register, the operands, the tag of
  the result, the translation -/
  | atomic (key : Nat) (ord : BitVec 2) (op : BitVec 4) (d : Reg) (x e : Nat) (tag : Tag) (via : Xlat)
  /-- an atomic sent over the host link: off8 and the virtual address for its log entry; the function and the page-request group that
  it waits for -/
  | hostAtomic (key : Nat) (ord : BitVec 2) (op : BitVec 4) (d : Reg) (x e : Nat) (tag : Tag) (va : Nat) (grp : Option (Nat × Nat))
  | fquery (frame : Nat) (d : Reg)
  | fretype (frame : Nat) (type : Nat) (owner : Option Nat) (d : Reg)
  | purge (d : Reg)
  /-- a cell operation: 0 cprop, 1 cread, 2 crecyc; the rank, the address as named, the physical key of a local cell, value and
  generation, the grade tested, the tag of the results, the translation of a local cell -/
  | cell (kind : Nat) (rank : Option Nat) (named : DWord) (key : Nat) (value : DWord) (gen : Word) (grade : BitVec 2) (d : Reg)
      (tag : Tag) (via : Option Xlat)
  deriving DecidableEq, Repr

/-- A request whose answer a thread waits for; `guard`: the tag of its unit's guard; `purged`: its translation or its cell's node has been
purged since it was sent, so that its answer is installed in no cache (R263, R405). -/
structure Request where
  world  : Nat
  core   : Nat
  tid    : Nat
  reqid  : DWord
  guard  : Tag
  asked  : Asked
  pin    : Option Nat
  /-- a replay entry of a saved world (R344) -/
  replay : Bool
  purged : Bool := false
  deriving DecidableEq, Repr

/-- A service request whose completion a thread waits for (R126, R200). -/
structure Service where
  world : Nat
  tid   : Nat
  index : Nat
  block : Nat
  dst   : Reg
  reqid : DWord
  call  : Call
  deriving DecidableEq, Repr

/-- What a purge names (R260, R263, R310, R376). -/
inductive PurgeOf where
  | table (f : Nat)
  | grant (g : Nat)
  | va (va : Nat)
  | all
  deriving DecidableEq, Repr

/-- What follows the last acknowledgement of a purge. -/
inductive PurgeEnd where
  | segment (op seg : Nat)
  | request (req : Nat)
  | management
  /-- the acknowledgement of a remote write is sent (R398), and the table frame that it has pinned unpinned (R264) -/
  | reply (p : Packet) (frame : Nat)
  | nothing
  deriving DecidableEq, Repr

/-- A purge in progress: the caches and nodes that have not acknowledged it, and the runs and grants to be decremented. -/
structure Purge where
  world  : Nat
  what   : PurgeOf
  caches : List CacheId
  nodes  : List Nat
  runs   : List (Nat × Nat)
  grants : List Nat
  after  : PurgeEnd
  deriving DecidableEq, Repr

/-- A request of another package, or of this one under a rank entry that names it (R395), waiting to be performed. -/
structure Incoming where
  packet : Packet
  loop   : Bool
  deriving DecidableEq, Repr

/-- The management window (R375). `frametop`: FRAMETOP as it reports it (R248). -/
structure Mgmt where
  go     : Bool := false
  words  : List Word := [0, 0, 0, 0]
  result : Word := 0
  data   : List Byte := []
  frametop : Nat := 0x00644530
  deriving DecidableEq, Repr

/-- An event of the black box (R388), without its number. -/
structure Event where
  time   : DWord
  starts : Word
  code   : Nat
  world  : Nat
  unit   : Nat
  data   : List Byte
  deriving DecidableEq, Repr

/-- A die's black box (R387): the next index and the last 2,048 events, newest first. -/
structure BlackBox where
  next   : Nat := 0
  events : List Event := []
  deriving DecidableEq, Repr

/-- What the Assayer keeps in flash and of its start (R383 to R387). `clock`: the core clock in steps of 0.2 GHz (R389). -/
structure Assayer where
  starts : Nat := 0
  fails  : Nat := 0
  reason : Nat := 0
  lastReason : Nat := 0
  minimal : Bool := false
  minDie : Nat := 0
  fwImage : Nat := 0
  boxes  : SMap BlackBox := []
  savedBoxes : SMap BlackBox := []
  cap    : Nat := 3200
  clock  : Nat := 18
  /-- the beginning of the start, by `State.span` -/
  startSpan : Nat := 0
  /-- between reset entry and the end of start-up no record is made (R381) -/
  entered : Bool := false
  /-- of the running metering interval: the cc for which each quad was held, by quad · 64 + world, the bytes that each world's
  accesses have read and written at the memory slices, and its beginning, in cc and by `State.span` (R377, R378) -/
  held   : SMap Nat := []
  hbm    : SMap Nat := []
  intervalStart : Nat := 0
  intervalSpan : Nat := 0
  /-- the latest checkpoint of the meters, by `State.span` (R381) -/
  checkpoint : Nat := 0
  deriving DecidableEq, Repr

/-- The fabric registers and what a package keeps of the fabric (R390 to R405). -/
structure Fabric where
  node   : Nat := 0
  rtsel  : Word := 0
  routesel : Word := 0
  routes : SMap Nat := []
  drops  : SMap Nat := []
  badTags : SMap Nat := []
  /-- the flits that each port has sent and received in the running metering interval, by port · 64 + world (R392) -/
  flits  : SMap Nat := []
  /-- the next flow sequence number of each flow, by destination node · 64 + world (R391), and how often the tag of a packet has
  failed, by its source node and its sequence number (R358, R392) -/
  seqs   : SMap Nat := []
  retries : List ((Nat × DWord) × Nat) := []
  /-- the ports that are not live -/
  dead   : List Nat := []
  cells  : List CellEntry := []
  /-- the incarnations that RANK_DOWN has announced, by node · 64 + world (R401) -/
  downs  : SMap (BitVec 5) := []
  /-- REQIDs performed with their answers, newest first, with the node that asked (R343) -/
  window : List (Nat × Packet) := []
  inbox  : SMap Incoming := []
  /-- packets sent with the ports that they left by, newest first, and those that no live port has taken yet, oldest first (R398) -/
  sent   : List (Nat × Packet) := []
  unsent : List Packet := []
  deriving DecidableEq, Repr

/-- An open flow of the die network (R358, R360): its world, its pair of ports, its number, the generation of the key under which it
was opened, and how often the tag of each packet of it has failed, by packet sequence. -/
structure Flow where
  world : Nat
  src   : Nat
  dst   : Nat
  number : Nat
  key   : Nat
  retries : SMap Nat
  deriving DecidableEq, Repr

/-- The keys of a port of the die network (R360): the generation that new flows take, and the flow numbers used under it. -/
structure PortKey where
  gen  : Nat := 0
  used : List Nat := []
  deriving DecidableEq, Repr

/-- What a responder answers over a function's mailbox (R363, R364): the request is performed, turned away, or answered with a
vendor-defined payload. -/
inductive Doe where
  | done
  | error
  | payload (b : List Byte)
  deriving DecidableEq, Repr

/-- A near store of a thread that is not visible yet, with its tag (R190); `fenced`: a `fence.rel` of the thread stands after it, so that it
becomes visible before what the thread stores later (R175). -/
structure LateStore where
  tid   : Nat
  key   : Nat
  bytes : List Byte
  tag   : Tag
  fenced : Bool := false
  deriving DecidableEq, Repr

/-- Near bytes that a thread's core has read ahead of a load, with their line's tag (R190). -/
structure EarlyLoad where
  tid   : Nat
  key   : Nat
  bytes : List Byte
  tag   : Tag
  deriving DecidableEq, Repr

/-- An uncorrectable error that nothing has read yet (R180, R212): in the data of 8 near bytes, by their key / 8; in the tag bits of a near
line, by its key / 128; in a tile, its data or its tag bits; in a register word of a thread, with what the register then holds. -/
inductive Latent where
  | data (granule : Nat)
  | tags (line : Nat)
  | tile (team n : Nat) (tagBits : Bool)
  | register (tid r : Nat) (x : Tagged Word)
  deriving DecidableEq, Repr

/-- The package. Worlds, cores, quads and frames that no map lists hold their reset values. -/
structure State where
  threads  : SMap Thread := []
  groups   : SMap Group := []
  teams    : SMap Team := []
  clusters : SMap Cluster := []
  cores    : SMap Core := []
  bundles  : SMap Bundle := []
  launches : SMap Launch := []
  worlds   : SMap World := []
  quads    : SMap Quad := []
  frames   : SMap Frame := []
  mem      : Memory := []
  lines    : SMap Line := []
  ranges   : List Range := []
  /-- cc since the start -/
  time     : Nat := 0
  /-- the time since the start in units of 5/12,252,240 ns: one cc at k steps of 0.2 GHz is 12,252,240/k of them (R19, R389) -/
  span     : Nat := 0
  /-- the near stores that are not visible yet, oldest first, and the near bytes read ahead (R190) -/
  late     : List LateStore := []
  early    : List EarlyLoad := []
  /-- uncorrectable errors that have not been detected (R180) -/
  latent   : List Latent := []
  /-- the unit that `exec` is asked for -/
  cur      : Option Issue := none
  /-- who moves next, in order -/
  turns    : List Turn := []
  turnCount : Nat := 0
  freeCount : Nat := 0
  nextId   : Nat := 0
  /-- the references that COUNT counts (R251): runs of frames, by first frame and length -/
  refs     : List (Nat × Nat) := []
  /-- the HBM words of 8 bytes, by key / 8, that hold an uncorrectable error -/
  bad      : List Nat := []
  ladles   : SMap Ladle := []
  requests : SMap Request := []
  services : SMap Service := []
  purges   : SMap Purge := []
  /-- the translation caches of the functions' host interfaces and of the worlds' fabric interfaces (R263, R395), by world -/
  hostCaches : SMap (List Xlat) := []
  fabCaches : SMap (List Xlat) := []
  /-- the contention predictors of the memory slices, most recently used first (R283) -/
  slices   : SMap (List Predictor) := []
  /-- completions of the host's reads and AtomicOps, newest first; none for Unsupported Request -/
  toHost   : List (Option (List Byte)) := []
  /-- MSI-X messages raised, newest first: function and vector (R313) -/
  msix     : List (Nat × Nat) := []
  /-- the answers of the functions' mailboxes, newest first -/
  doe      : List (Nat × Doe) := []
  mgmt     : Mgmt := {}
  assayer  : Assayer := {}
  fabric   : Fabric := {}
  /-- the last winner of the arbitration: world and queue (R330) -/
  lastWinner : Nat × Nat := (0, 0)
  /-- the port keys' generations and the open flows (R358, R360) -/
  portKeys : SMap PortKey := []
  flows    : List Flow := []
  /-- the cc and the core of the latest draw (R132, R372) -/
  lastDraw : Option (Nat × Nat) := none
  /-- the cc and the REQID of the latest operation on a cell that its home performed in the present cc, by the cell's key (R403) -/
  cellTimes : SMap (Nat × DWord) := []
  deriving DecidableEq, Repr

/-- The machine right after a cold reset (R385): every register of INVENTORY.md at the value that the spec gives, or that a log
entry names. -/
def State.reset : State :=
  { threads := [], groups := [], teams := [], clusters := [], cores := [], bundles := [], launches := [], worlds := []
    quads := [], frames := [], mem := [], lines := [], ranges := [], time := 0, span := 0, late := [], early := [], latent := [], cur := none, turns := []
    turnCount := 0, freeCount := 0, nextId := 0, refs := [], bad := [], ladles := [], requests := [], services := []
    purges := [], hostCaches := [], fabCaches := [], slices := [], toHost := [], msix := [], doe := [], mgmt := {}, assayer := {}, fabric := {}
    lastWinner := (0, 0), portKeys := [], flows := [], lastDraw := none, cellTimes := [] }

end Sys2Proof.Machine
end

