-- ==== Sys2Proof/Machine/Translate.lean ====
section
/-! DEFINITION. Addresses and translations: the frame space (spec/13_die_frames.md R248), frames and grants (R250, R257), table
entries (R254), the walk (R253, R261), the access check (R262), the quads' translation caches (R263). -/

namespace Sys2Proof.Machine

open Sys2Proof

/-! ## Spaces of the byte memory -/

/-- Key of offset `off` of a space: 0 is the package's physical address space, 1 host memory, the others hold one near
allocation each. -/
def spaceKey (space off : Nat) : Nat := space * 2 ^ 64 + off

def frameTop : Nat := 0x00644530
def apertureLo : Nat := 0x20000000
def apertureHi : Nat := 0x24000000

/-- A frame that worlds may type, map and use: an HBM frame below FRAMETOP or an aperture frame (R248). -/
def frameExists (f : Nat) : Bool := f < frameTop || (apertureLo ≤ f && f < apertureHi)

def isAperture (f : Nat) : Bool := apertureLo ≤ f && f < apertureHi

/-- The die on which an HBM frame lies: of the 12 stacks, of 549,316 frames each, a die has three (R248). -/
def dieOfFrame (f : Nat) : Nat := f / 549316 / 3

/-- Whether a die runs: in minimal mode one does, and none where no firmware image verifies (R384). -/
def dieRuns (s : State) (die : Nat) : Bool :=
  s.assayer.reason ≠ 1 && (!s.assayer.minimal || die = s.assayer.minDie)

/-- Whether the package has a frame now (R248): an HBM frame's die runs (R384). -/
def hasFrame (s : State) (f : Nat) : Bool :=
  frameExists f && (isAperture f || dieRuns s (dieOfFrame f))

/-- The memory key of a physical address: aperture frames lie in host memory (R248). -/
def physKey (pa : Nat) : Nat :=
  if isAperture (pa / 2 ^ 16) then spaceKey 1 (pa - apertureLo * 2 ^ 16) else spaceKey 0 pa

/-- The frame and the offset that a key of main memory stands for. -/
def keyFrame (k : Nat) : Nat := if k < 2 ^ 64 then k / 2 ^ 16 else (k - 2 ^ 64) / 2 ^ 16 + apertureLo

/-! ## Frames and grants -/

def noFrame : Frame := ⟨0, 0, 0, 0, 0⟩
def noGrant : Grant := ⟨false, 0, false, false, 0, 0, 0, 0⟩
def noWorld : World := {}
def noQuad : Quad := {}

def State.frame (s : State) (f : Nat) : Frame := s.frames.getD f noFrame
def State.setFrame (s : State) (f : Nat) (m : Frame) : State := { s with frames := SMap.set noFrame s.frames f m }
def State.world (s : State) (w : Nat) : World := s.worlds.getD w noWorld
def State.setWorld (s : State) (w : Nat) (x : World) : State := { s with worlds := s.worlds.insert w x }
def State.grant (s : State) (w g : Nat) : Grant := (s.world w).grants.getD g noGrant
def State.quad (s : State) (q : Nat) : Quad := s.quads.getD q noQuad
def State.setQuad (s : State) (q : Nat) (x : Quad) : State := { s with quads := s.quads.insert q x }

def isTableType (t : Nat) : Bool := 3 ≤ t && t ≤ 5

/-! ## Table entries (R254) -/

def entV (e : DWord) : Bool := e.getLsbD 0
def entL (e : DWord) : Bool := e.getLsbD 1
def entR (e : DWord) : Bool := e.getLsbD 2
def entW (e : DWord) : Bool := e.getLsbD 3
def entX (e : DWord) : Bool := e.getLsbD 4
def entCell (e : DWord) : Bool := e.getLsbD 5
def entScope (e : DWord) : Nat := (e.extractLsb' 6 2).toNat
def entGrade (e : DWord) : BitVec 2 := e.extractLsb' 8 2
def entPath (e : DWord) : Nat := (e.extractLsb' 10 2).toNat
def entFrame (e : DWord) : Nat := (e.extractLsb' 16 32).toNat
def entGrant (e : DWord) : Nat := (e.extractLsb' 48 8).toNat

/-- The number of frames of a leaf's run, by the level of its table (R253). -/
def runLength (level : Nat) : Nat := if level = 3 then 2 ^ 26 else if level = 2 then 2 ^ 13 else 1

/-- The bytes that a leaf maps. -/
def leafSize (level : Nat) : Nat := runLength level * 2 ^ 16

/-- The index of a virtual address into the table of a level (R253). -/
def walkIndex (level va : Nat) : Nat := va / leafSize level % 8192

/-- What a walk ends with. -/
inductive WalkResult where
  | leaf (x : Xlat)
  | notMapped
  deriving DecidableEq, Repr

/-- The walk of R261 from a table frame, as one moment: every change number it reads is the one it would validate. -/
def walkFrom (s : State) (w va f : Nat) (seen : List Nat) : Nat → WalkResult
  | 0 => .notMapped
  | level + 1 =>
    let e : DWord := BitVec.ofNat 64 (s.mem.readLe (physKey (f * 2 ^ 16 + 8 * walkIndex (level + 1) va)) 8)
    let seen := f :: seen
    if !entV e then .notMapped
    else if entL e then .leaf ⟨w, level + 1, va / leafSize (level + 1), e, seen⟩
    else walkFrom s w va (entFrame e) seen level

/-- A walk from the world's root; a world without one, or whose root lies on a die that does not run, maps nothing. -/
def walk (s : State) (w va : Nat) : WalkResult :=
  if 2 ^ 55 ≤ va then .notMapped
  else if (s.world w).hasRoot && hasFrame s (s.world w).root then walkFrom s w va (s.world w).root [] 3 else .notMapped

/-- The physical address of a virtual address under a translation that covers it (R253). -/
def Xlat.phys (x : Xlat) (va : Nat) : Nat := entFrame x.leaf * 2 ^ 16 + va % leafSize x.level

def Xlat.covers (x : Xlat) (w va : Nat) : Bool := x.world = w && x.page = va / leafSize x.level

/-- The causes of R262. -/
inductive XlFault where
  | notMapped | perm | type | owner
  deriving DecidableEq, Repr

def XlFault.cause : XlFault → Cause
  | .notMapped => .xlNotMapped
  | .perm => .xlPerm
  | .type => .xlType
  | .owner => .xlOwner

/-- R262 on a leaf: the first failing row decides. `closed`: the leaf names a grant that is closing; `ladle`: the access is a Ladle write,
which may not enter a CONTEXT frame. -/
def leafRule (s : State) (closed : Bool) (x : Xlat) (va : Nat) (acc : Access) (ladle : Bool) : Option XlFault :=
  let e := x.leaf
  let ok := match acc with
    | .read => entR e
    | .write => entW e
    | .fetch => entX e
    | .cell => entCell e
    | .atomic => entR e && entW e
  let t := (s.frame (x.phys va / 2 ^ 16)).type
  if !ok then some .perm
  else if closed then some .owner
  else match acc with
    | .atomic => if t = 1 || t = 8 then none else some .type
    | .write => if ladle && t = 6 then some .type else none
    | _ => none

/-- R262 on a leaf as a walk gives it, which CLOSING of its grant refuses (R257). -/
def checkLeaf (s : State) (w : Nat) (x : Xlat) (va : Nat) (acc : Access) (ladle : Bool) : Option XlFault :=
  leafRule s (entGrant x.leaf ≠ 0 && (s.grant w (entGrant x.leaf)).closing) x va acc ladle

/-- R262 on a leaf that a cache holds: until a purge has reached the cache, CLOSING of its grant refuses nothing (R376). -/
def checkHit (s : State) (x : Xlat) (va : Nat) (acc : Access) (ladle : Bool) : Option XlFault := leafRule s false x va acc ladle

/-- The most recently used entry of a quad's cache that covers an address. -/
def cacheFind (c : List Xlat) (w va : Nat) : Option Xlat := c.find? fun x => x.covers w va

/-- An installed or used entry goes to the front; the least recently used beyond 2,048 is dropped (R263). -/
def cacheUse (c : List Xlat) (x : Xlat) : List Xlat := (x :: c.filter (· ≠ x)).take 2048

/-- A translation through quad `q` for world `w`: from its cache, or by a walk whose result it installs (R261, R263). -/
def translate (s : State) (q w va : Nat) : WalkResult × State :=
  if 2 ^ 55 ≤ va then (.notMapped, s)
  else match cacheFind (s.quad q).cache w va with
    | some x => (.leaf x, s.setQuad q { s.quad q with cache := cacheUse (s.quad q).cache x })
    | none => match walk s w va with
      | .leaf x => (.leaf x, s.setQuad q { s.quad q with cache := cacheUse (s.quad q).cache x })
      | .notMapped => (.notMapped, s)

/-- A checked translation through a cache (R261, R262): the fault, or the translation with the cache after it. A miss whose leaf
fails R262 installs nothing. -/
def accessCache (s : State) (c : List Xlat) (w va : Nat) (acc : Access) (ladle : Bool) : Except XlFault Xlat × Option (List Xlat) :=
  if 2 ^ 55 ≤ va then (.error .notMapped, none)
  else match cacheFind c w va with
    | some x => match checkHit s x va acc ladle with
      | some f => (.error f, some (cacheUse c x))
      | none => (.ok x, some (cacheUse c x))
    | none => match walk s w va with
      | .notMapped => (.error .notMapped, none)
      | .leaf x => match checkLeaf s w x va acc ladle with
        | some f => (.error f, none)
        | none => (.ok x, some (cacheUse c x))

/-- A checked translation through quad `q`, and the state with its cache after it. -/
def access (s : State) (q w va : Nat) (acc : Access) (ladle : Bool) : Except XlFault Xlat × State :=
  let r := accessCache s (s.quad q).cache w va acc ladle
  (r.1, match r.2 with
    | some c => s.setQuad q { s.quad q with cache := c }
    | none => s)

/-- The virtual address of an offset of a launch's code region (R414). -/
def codeVa (entry : DWord) (pc : Word) : Nat := (entry.toNat / 2 ^ 32 % 2 ^ 23) * 2 ^ 32 + pc.toNat

/-- One fetched word of a launch (R38, R39), with the leaf through which it was fetched. What a fetch makes of a word with an
uncorrectable error no rule says (R84 and R361 name other reads); here the stored word is decoded (DESIGN CHOICE,
notes/assumptions/134.md). -/
def fetchWord (s : State) (q w : Nat) (entry : DWord) (pc : Word) : Except XlFault (Word × DWord) × State :=
  let va := codeVa entry pc
  match access s q w va .fetch false with
  | (.error f, s) => (.error f, s)
  | (.ok x, s) => (.ok (BitVec.ofNat 32 (s.mem.readLe (physKey (x.phys va)) 4), x.leaf), s)

end Sys2Proof.Machine
end

