-- ==== Sys2Proof/Machine/Ops.lean ====
section
/-! DEFINITION. The named operations on the core's part of the state: threads and their registers, tags (spec/05_thread_state.md
R73, R83), bins and bundles (spec/07_core.md R129 to R133), near memory (spec/06_thread_instructions.md R115, R116; 09 R177),
taking a trap and returning from one (05 R88 to R93), and the kill of a team (09 R193 to R196). -/

namespace Sys2Proof.Machine

open Sys2Proof

/-! ## Tags -/

def Tag.zero : Tag := ⟨0, false⟩

def gradeMax (a b : BitVec 2) : BitVec 2 := if a.toNat < b.toNat then b else a

/-- The join of R83. -/
def Tag.join (a b : Tag) : Tag := ⟨gradeMax a.grade b.grade, a.poison || b.poison⟩

def joinTags (l : List Tag) : Tag := l.foldl Tag.join Tag.zero

def untagged {α : Type} (x : α) : Tagged α := ⟨x, Tag.zero⟩

/-! ## Numbers of cores, quads and threads (R203) -/

def dieOf (core : Nat) : Nat := core / 256
def quadOf (core : Nat) : Nat := core / 256 * 64 + core % 256 / 32 * 8 + core % 16 / 2
def dieOfQuad (q : Nat) : Nat := q / 64

def gidOf (tid : Nat) : Nat := tid / 32
def teamOf (tid : Nat) : Nat := tid / 1024
def slotOf (tid : Nat) : Nat := tid % 32
def groupOf (tid : Nat) : Nat := tid / 32 % 32
def teamOfGid (gid : Nat) : Nat := gid / 32
def tidOf (gid slot : Nat) : Nat := gid * 32 + slot

/-! ## Lookups -/

def noThread : Thread :=
  ⟨0, [], [], [], [], untagged 0, untagged 0, untagged 0, untagged 0, untagged 0, 0, [], false, 0, [], 0, 0, untagged 0,
    .ended, 0, false, 0, none, false⟩
def noGroup : Group := ⟨0, 0, false, [], 0, [], [], 0, [], none, false, 0⟩
def noTeam : Team := ⟨0, 0, 0, 0, 0, 0, 0, [], 0, 0, [], 0, none, true, 0, 0⟩
def noCluster : Cluster := ⟨0, 0, 0, 0, [], 0, none⟩
def noLaunch : Launch :=
  ⟨0, 0, 0, 0, 0, 0, 0, 64, 0, false, 0, false, 0, 0, 0, 0, [], [], 0, [], [], [], 0, none, 0, 0, false, false, false⟩
def noRole : Role := ⟨0, 0, 0, 0⟩
def noCore : Core := ⟨[], [], []⟩

def State.thread (s : State) (tid : Nat) : Thread := s.threads.getD tid noThread
def State.setThread (s : State) (tid : Nat) (t : Thread) : State := { s with threads := s.threads.insert tid t }
def State.modThread (s : State) (tid : Nat) (f : Thread → Thread) : State := s.setThread tid (f (s.thread tid))
def State.group (s : State) (gid : Nat) : Group := s.groups.getD gid noGroup
def State.setGroup (s : State) (gid : Nat) (g : Group) : State := { s with groups := s.groups.insert gid g }
def State.team (s : State) (t : Nat) : Team := s.teams.getD t noTeam
def State.setTeam (s : State) (t : Nat) (x : Team) : State := { s with teams := s.teams.insert t x }
def State.cluster (s : State) (c : Nat) : Cluster := s.clusters.getD c noCluster
def State.launch (s : State) (l : Nat) : Launch := s.launches.getD l noLaunch
def State.setLaunch (s : State) (l : Nat) (x : Launch) : State := { s with launches := s.launches.insert l x }
def State.core (s : State) (c : Nat) : Core := s.cores.getD c noCore
def State.setCore (s : State) (c : Nat) (x : Core) : State := { s with cores := s.cores.insert c x }

def noTile : Tile := ⟨Tag.zero, 0, false, false⟩
def Team.tile (t : Team) (n : Nat) : Tile := t.tiles.getD n noTile

def State.threadTeam (s : State) (tid : Nat) : Team := s.team (teamOf tid)
def State.threadLaunch (s : State) (tid : Nat) : Launch := s.launch (s.threadTeam tid).launch
def State.threadGroup (s : State) (tid : Nat) : Group := s.group (gidOf tid)
def State.threadCore (s : State) (tid : Nat) : Nat := (s.threadGroup tid).core
def State.threadQuad (s : State) (tid : Nat) : Nat := quadOf (s.threadCore tid)
def State.threadWorld (s : State) (tid : Nat) : Nat := (s.threadTeam tid).world
def State.threadRole (s : State) (tid : Nat) : Role := (s.threadLaunch tid).roles.getD (s.threadGroup tid).role noRole

/-- The team's tile count: the largest among the launch's roles (R147). -/
def Launch.tileCount (l : Launch) : Nat := l.roles.foldl (fun n r => max n r.tiles) 0

/-- The number of clusters' teams (R203). -/
def State.teamCount (s : State) (t : Nat) : Nat := (s.cluster (s.team t).cluster).cores.length

/-- The depth of a thread's spill stack in words (R85). -/
def State.spillDepth (s : State) (tid : Nat) : Nat := (s.threadRole tid).spill / 128

/-- What decoding for a thread's role and launch needs (R42, R225, R243). -/
def State.decCtx (s : State) (tid : Nat) : DecCtx :=
  let l := s.threadLaunch tid
  ⟨(s.threadRole tid).regs, l.tileCount, l.fmt, l.poolMode⟩

/-- CYC of a core (R77): it counts every cc. -/
def State.cyc (s : State) (core : Nat) : DWord := BitVec.ofNat 64 (s.time + (Config.coreStart core).val)

/-- A fresh number for an operation or an answer. -/
def State.newId (s : State) : Nat × State := (s.nextId, { s with nextId := s.nextId + 1 })

/-- A value that the spec leaves open, and the state whose next such value is another. -/
def State.free (s : State) : Nat × State := (Config.freeValue s.freeCount, { s with freeCount := s.freeCount + 1 })

/-! ## Registers of a thread (R41, R47) -/

/-- A source register: V, Z or a latch. -/
def Thread.reg (t : Thread) (r : Reg) : Tagged Word :=
  if r.toNat < 120 then t.v.getD r.toNat (untagged 0)
  else match r.toNat with
    | 124 => t.l0
    | 125 => t.l1
    | 126 => t.l2
    | 127 => t.l3
    | _ => untagged 0

/-- A V register written; every number from 120 on discards (R41). -/
def Thread.setReg (t : Thread) (r : Nat) (x : Tagged Word) : Thread :=
  if r < 120 then { t with v := SMap.set (untagged 0) t.v r x } else t

def Thread.pred (t : Thread) (p : BitVec 5) : Tagged Bool := t.p.getD p.toNat (untagged false)
def Thread.setPred (t : Thread) (p : Nat) (x : Tagged Bool) : Thread := { t with p := SMap.set (untagged false) t.p p x }
def Thread.acc (t : Thread) (k : Reg) : Tagged DWord := t.k.getD k.toNat (untagged 0)
def Thread.setAcc (t : Thread) (k : Nat) (x : Tagged DWord) : Thread := { t with k := SMap.set (untagged 0) t.k k x }
def Thread.gen (t : Thread) (g : Reg) : Tagged (BitVec 128) := t.g.getD g.toNat (untagged 0)
def Thread.setGen (t : Thread) (g : Nat) (x : Tagged (BitVec 128)) : Thread := { t with g := SMap.set (untagged 0) t.g g x }

/-- The pair Vr:Vr+1 as a 64-bit value, low word first. -/
def Thread.pair (t : Thread) (r : Reg) : Tagged DWord :=
  let lo := t.reg r
  let hi := t.reg (r + 1)
  ⟨hi.val ++ lo.val, lo.tag.join hi.tag⟩

/-- The latch shift of R47. -/
def Thread.pushLatch (t : Thread) (x : Tagged Word) : Thread := { t with l3 := t.l2, l2 := t.l1, l1 := t.l0, l0 := x }

/-- Flags ORed into FFLAGS: the grade rises where a flag is raised; the poison bit stays (R76). -/
def Thread.raise (t : Thread) (fl : Flags) (grade : BitVec 2) : Thread :=
  if fl = 0 then t
  else { t with fflags := ⟨t.fflags.val ||| fl, ⟨gradeMax t.fflags.tag.grade grade, t.fflags.tag.poison⟩⟩ }

def Thread.spillWord (t : Thread) (n : Nat) : Tagged Word := t.spill.getD n (untagged 0)
def Thread.setSpill (t : Thread) (n : Nat) (x : Tagged Word) : Thread :=
  { t with spill := SMap.set (untagged 0) t.spill n x }

/-! ## Bins (R129, R130) -/

/-- The bin of a core with a key. -/
def Core.binFor (c : Core) (team role : Nat) (pc : Word) : Option Nat :=
  (List.find? (fun e => e.2.team = team && e.2.role = role && e.2.pc = pc) c.bins).map (·.1)

/-- A thread into the bin with its key, or into a free bin of the 64; none where there is none. -/
def Core.tryFile (c : Core) (tid team role : Nat) (pc : Word) : Option Core :=
  match c.binFor team role pc with
  | some i => some { c with bins := c.bins.modify i fun b => { b with members := b.members ++ [tid] } }
  | none => ((List.range 64).find? fun i => (c.bins.find? i).isNone).map fun i =>
    { c with bins := c.bins.insert i ⟨team, role, pc, [tid], false⟩ }

/-- The filing queue's threads take bins in its order as far as bins are free. -/
def drainQueue (s : State) (core : Nat) : List Nat → State
  | [] => s.setCore core { s.core core with queue := [] }
  | tid :: rest =>
    match (s.core core).tryFile tid (teamOf tid) (s.threadGroup tid).role (s.thread tid).pc with
    | some c => drainQueue (s.setCore core c) core rest
    | none => s.setCore core { s.core core with queue := tid :: rest }

/-- A thread filed at its PC with a runnable time; a thread of a group that is off-core is filed by the reload (R155). -/
def fileThread (s : State) (tid time : Nat) : State :=
  let s := s.modThread tid fun t => { t with place := .filed, runnable := time }
  let g := s.threadGroup tid
  if g.offCore then s
  else
    let c := s.core g.core
    if c.queue.isEmpty then
      match c.tryFile tid (teamOf tid) g.role (s.thread tid).pc with
      | some c => s.setCore g.core c
      | none => s.setCore g.core { c with queue := [tid] }
    else
      match c.binFor (teamOf tid) g.role (s.thread tid).pc with
      | some i => s.setCore g.core { c with bins := c.bins.modify i fun b => { b with members := b.members ++ [tid] } }
      | none => s.setCore g.core { c with queue := c.queue ++ [tid] }

/-- A thread out of its core's bins and filing queue; an empty bin is freed. -/
def unfileThread (s : State) (tid : Nat) : State :=
  let core := s.threadCore tid
  let c := s.core core
  let bins := (c.bins.map fun e => (e.1, { e.2 with members := e.2.members.filter (· ≠ tid) })).filter
    fun e => !e.2.members.isEmpty
  let q := c.queue.filter (· ≠ tid)
  drainQueue (s.setCore core { c with bins := bins, queue := q }) core q

/-! ## Bundles (R132) -/

def noBundle : Bundle := ⟨0, [], 0, 0, 0, [], [], 0, false, false, 0, false, false⟩
def State.bundle (s : State) (b : Nat) : Bundle := s.bundles.getD b noBundle
def State.setBundle (s : State) (b : Nat) (x : Bundle) : State :=
  if x.tids.isEmpty then { s with bundles := s.bundles.erase b } else { s with bundles := s.bundles.insert b x }

/-- A thread out of the bundle it is in. -/
def leaveBundle (s : State) (tid : Nat) : State :=
  match (s.thread tid).place with
  | .inBundle b =>
    let x := s.bundle b
    s.setBundle b { x with tids := x.tids.filter (· ≠ tid) }
  | _ => s

/-- A bundle of threads that stand at one address, ready some cc later (R132, R143), on the vector pipe of its lowest thread's group
(R137); `waits`: its draw has found no entry free (R133). -/
def formBundle (s : State) (core : Nat) (tids : List Nat) (pc : Word) (delay : Nat) (waits : Bool := false) : State :=
  match tids with
  | [] => s
  | low :: _ =>
    let (b, s) := s.newId
    let s := tids.foldl (fun s tid => s.modThread tid fun t => { t with pc := pc, place := .inBundle b }) s
    s.setBundle b ⟨core, tids, pc, pc, 0, [], [], s.time, false, false, s.time + delay, groupOf low % 2 = 1, waits⟩

/-- A thread that ends with its team: out of every bin, bundle and wait. -/
def endNow (s : State) (tid : Nat) : State :=
  let t := s.thread tid
  let s := if t.place == .filed then unfileThread s tid else leaveBundle s tid
  let s := s.modThread tid fun t => { t with place := .ended, spill := [], sp := 0, request := none }
  let gid := gidOf tid
  match s.groups.find? gid with
  | some g => s.setGroup gid { g with lastEnd := s.time }
  | none => s

/-- Whether every thread of a team has ended. -/
def allEnded (s : State) (t : Nat) : Bool :=
  s.threads.all fun e => teamOf e.1 ≠ t || e.2.place == .ended

/-- A team whose last thread has ended (R128, R194). -/
def settleTeam (s : State) (t : Nat) : State :=
  let tm := s.team t
  if allEnded s t && !tm.ended then s.setTeam t { tm with ended := true, endedAt := s.time } else s

def State.isKilled (s : State) (tid : Nat) : Bool := (s.threadTeam tid).killed.isSome

/-- A thread moved from its bundle to the bin of an address; one of a killed team ends (R93). -/
def refile (s : State) (tid : Nat) (pc : Word) (time : Nat) : State :=
  if s.isKilled tid then settleTeam (endNow s tid) (teamOf tid)
  else
    let s := leaveBundle s tid
    fileThread (s.modThread tid fun t => { t with pc := pc }) tid time

/-- A thread that leaves its bundle and waits; `pc` is where it runs again. -/
def park (s : State) (tid : Nat) (pc : Word) (w : Wait) : State :=
  if s.isKilled tid then settleTeam (endNow s tid) (teamOf tid)
  else
    let s := leaveBundle s tid
    s.modThread tid fun t =>
      { t with pc := pc, place := .waiting w, since := if t.retries then t.since else s.time, retries := false }

/-! ## Near memory (R115, R116, R177) -/

def poolBase : Nat := 0x10000000
def crucBase : Nat := 0x40000000

/-- The bytes of a cluster's pool: 1 MiB per quad of its rectangle (R208). -/
def Cluster.poolSize (c : Cluster) : Nat := c.cores.length / 4 * 2 ^ 20

/-- The memory key of [ea, ea + n) as a thread of team `t` names it, where it lies wholly in one mapped region (R115). -/
def nearKey (s : State) (t : Nat) (ea n : Nat) : Option Nat :=
  let tm := s.team t
  let l := s.launch tm.launch
  let c := s.cluster tm.cluster
  if ea + n ≤ l.bench then some (spaceKey tm.bench ea)
  else if l.poolMode && poolBase ≤ ea && ea + n ≤ poolBase + c.poolSize then some (spaceKey c.pool (ea - poolBase))
  else if crucBase ≤ ea && ea + n ≤ crucBase + l.cruc then c.cruc.map fun sp => spaceKey sp (ea - crucBase)
  else none

def noLine : Line := ⟨false, Tag.zero⟩
def State.line (s : State) (k : Nat) : Line := s.lines.getD k noLine
def State.setLine (s : State) (k : Nat) (x : Line) : State := { s with lines := SMap.set noLine s.lines k x }

/-- The lines, by key / 128, that n bytes from a key touch. -/
def linesOf (key n : Nat) : List Nat :=
  if n = 0 then [] else (List.range ((key + n - 1) / 128 - key / 128 + 1)).map (key / 128 + ·)

/-- `Lock` of R116. -/
def locked (s : State) (key n : Nat) (load : Bool) : Bool :=
  s.ranges.any fun r => r.lo < key + n && key < r.hi && (!load || r.isSrc)

/-- The lowest absent line of a range. -/
def absentLine (s : State) (key n : Nat) : Option Nat := (linesOf key n).find? fun k => !(s.line k).present

def lineTags (s : State) (key n : Nat) : Tag := joinTags ((linesOf key n).map fun k => (s.line k).tag)

/-- The threads in a place. -/
def threadsIn (s : State) (p : Place → Bool) : List Nat := s.threads.keys.filter fun tid => p (s.thread tid).place

/-- A thread woken from a wait: filed at its PC now (R129). -/
def wake (s : State) (tid : Nat) : State := fileThread s tid s.time

/-- A line becomes present: every thread watching it is filed (R181). -/
def setPresent (s : State) (k : Nat) : State :=
  let s := s.setLine k { s.line k with present := true }
  (threadsIn s fun p => match p with
    | .waiting (.line x _ _ _) => x = k
    | _ => false).foldl wake s

/-- An aligned value of near memory, 0 where its line is absent (R171 to R173). -/
def nearValue (s : State) (key n : Nat) : Nat := if (s.line (key / 128)).present then s.mem.readLe key n else 0

/-- What was read ahead and fits a test is dropped: loads of it are performed from now on (R190). -/
def dropEarly (s : State) (p : EarlyLoad → Bool) : State := { s with early := s.early.filter fun e => !p e }

/-- The rank of the scope of a near address (R288): TEAM for the Bench of the thread's team, CLUSTER or DIE for the pool and the
Crucible. -/
def nearRank (s : State) (tid key : Nat) : Nat := if key / 2 ^ 64 = (s.threadTeam tid).bench then 0 else 1

/-- An acquire of a thread whose edge reaches the ranks up to r (R290): what was read ahead for it at those ranks is dropped, so that
its later loads there are performed after the edge. -/
def acquireUpTo (s : State) (tid r : Nat) : State := dropEarly s fun e => e.tid = tid && nearRank s tid e.key ≤ r

/-- `fence.acq` (R175): no later access is performed before, whatever its rank. -/
def acquireAll (s : State) (tid : Nat) : State := dropEarly s fun e => e.tid = tid

/-- A thread woken from a `bwait`, which then acquires at the ranks up to that of its counter (R173, R290). -/
def wakeAcquire (s : State) (tid : Nat) : State :=
  wake (match (s.thread tid).place with
    | .waiting (.counter key _ _) => acquireUpTo s tid (nearRank s tid key)
    | _ => s) tid

/-- Bytes of [key, key + n) have changed: every waiter on a counter among them whose target it has reached is filed (R151). -/
def notifyCounters (s : State) (key n : Nat) : State :=
  (threadsIn s fun p => match p with
    | .waiting (.counter k target _) => k < key + n && key < k + 8 && target ≤ nearValue s k 8
    | _ => false).foldl wakeAcquire s

/-- 8-byte words of near memory written whole hold an undetected error no longer (R180). -/
def mendWords (s : State) (key n : Nat) : State :=
  { s with latent := s.latent.filter fun e => match e with
      | .data g => !(key ≤ g * 8 && g * 8 + 8 ≤ key + n)
      | _ => true }

/-- The bytes of a line that is absent read as 0 from its first write on (R118). -/
def clearAbsent (s : State) (k : Nat) : State :=
  if (s.line k).present then s
  else { mendWords s (k * 128) 128 with mem := s.mem.writeBytes (k * 128) (List.replicate 128 0) }

/-- Bytes written into near memory by a store, an atomic or a signal: the lines become present and take the tag (R118). -/
def writeNear (s : State) (key : Nat) (bytes : List Byte) (tag : Tag) : State :=
  let ks := linesOf key bytes.length
  let s := ks.foldl clearAbsent s
  let s := { s with mem := s.mem.writeBytes key bytes }
  let s := ks.foldl (fun s k => s.setLine k { s.line k with tag := (s.line k).tag.join tag }) s
  notifyCounters (ks.foldl setPresent s) key bytes.length

/-! ## Near stores that are not visible yet (R190) -/

/-- A late store becomes visible. -/
def performLate (s : State) (e : LateStore) : State := writeNear (mendWords s e.key e.bytes.length) e.key e.bytes e.tag

/-- The late stores that a test names become visible, in their order. -/
def drainLate (s : State) (p : LateStore → Bool) : State :=
  (s.late.filter p).foldl performLate { s with late := s.late.filter fun e => !p e }

/-- Whether a late store or a read ahead shares a byte with [key, key + n). -/
def LateStore.meets (e : LateStore) (key n : Nat) : Bool := e.key < key + n && key < e.key + e.bytes.length
def EarlyLoad.meets (e : EarlyLoad) (key n : Nat) : Bool := e.key < key + n && key < e.key + e.bytes.length

/-- Of a thread's late stores those to bytes of [key, key + n), and with each the older ones that share a byte with it. -/
def neededLate (tid key n : Nat) : List LateStore → List LateStore
  | [] => []
  | e :: rest =>
    let l := neededLate tid key n rest
    if e.tid = tid && (e.meets key n || l.any fun x => x.meets e.key e.bytes.length) then e :: l else l

/-- An access of a thread to [key, key + n) comes after its own stores there, and no value that was read ahead there before the access is
used after it (R190, rules 3 to 5). -/
def settleBytes (s : State) (tid key n : Nat) : State :=
  dropEarly (drainLate s fun e => (neededLate tid key n s.late).contains e) fun e => e.tid = tid && e.meets key n

/-- A release of a thread (R175): all that it has stored is visible. -/
def releaseNear (s : State) (tid : Nat) : State := drainLate s fun e => e.tid = tid

/-- `fence.rel` of a thread (R175): what it has stored in its Bench is visible, so that an arrival at a rendezvous after the fence follows it
at TEAM scope (R165); its other stores become visible before any later store, at the latest. -/
def fenceNear (s : State) (tid : Nat) : State :=
  let s := drainLate s fun e => e.tid = tid && nearRank s tid e.key = 0
  { s with late := s.late.map fun e => if e.tid = tid then { e with fenced := true } else e }

/-- The stores of a thread before its latest `fence.rel` become visible: the thread is about to store, or to do what R175 names beside
that. -/
def passFence (s : State) (tid : Nat) : State := drainLate s fun e => e.tid = tid && e.fenced

/-- A range [lo, hi) about to be registered: the stores to it that were tested before are performed before (R186, R279), and what was
read ahead of a destination is dropped (R192). -/
def settleRange (s : State) (lo hi : Nat) (isSrc : Bool) : State :=
  let s := drainLate s fun e => e.meets lo (hi - lo)
  if isSrc then s else dropEarly s fun e => e.meets lo (hi - lo)

/-- The slice that holds the line at a near address, for the Crucible and the pool (R208, R269); the Bench has none. A cluster's
pool takes its MiB from the slices beside its quads in the order of the quads. -/
def sliceOf (s : State) (t : Nat) (ea : Nat) : Option Nat :=
  let tm := s.team t
  let l := s.launch tm.launch
  if crucBase ≤ ea then
    let ch := ((s.cluster tm.cluster).cruc.bind l.ownChunks.find?).getD (l.crucChunks.getD (dieOf tm.core) [])
    if ch.isEmpty then none else ch[(ea - crucBase) / 128 % ch.length]?
  else if l.poolMode && poolBase ≤ ea then
    let qs := ((s.cluster tm.cluster).cores.map quadOf).eraseDups
    qs[(ea - poolBase) / 2 ^ 20]?
  else none

/-- The presence watches registered at a slice: one for the threads of a uniform load (R182). -/
def watchesAt (s : State) (sl : Nat) : List Nat :=
  (s.threads.keys.filterMap fun tid => match (s.thread tid).place with
    | .waiting (.line _ (some x) n _) => if x = sl then some n else none
    | _ => none).eraseDups

/-- Whether the 1,024 presence-watch entries of a slice are taken (R272). -/
def watchesFull (s : State) (sl : Nat) : Bool := 1024 ≤ (watchesAt s sl).length

/-! ## Traps and kills -/

/-- The codes of R94. -/
def causeCode : Cause → Nat
  | .illegalOp => 0x01
  | .illegalOperand => 0x02
  | .illegalChain => 0x03
  | .priv => 0x04
  | .svc => 0x05
  | .swtrap => 0x06
  | .poisonUse => 0x10
  | .gradeDown => 0x11
  | .checkFail => 0x12
  | .barSat => 0x13
  | .spillOvf => 0x18
  | .nearRange => 0x20
  | .rangeLock => 0x21
  | .align => 0x22
  | .reuseMismatch => 0x28
  | .fmtSlot => 0x29
  | .tileLimit => 0x2A
  | .xlNotMapped => 0x30
  | .xlPerm => 0x31
  | .xlType => 0x32
  | .xlOwner => 0x33
  | .hostAtomUr => 0x40
  | .hostLink => 0x41
  | .rankLost => 0x50
  | .pkey => 0x51
  | .doubleTrap => 0x60
  | .teamKilled => 0x61
  | .queueFlushed => 0x62

/-- A trap to be taken: its cause, TRAPVAL with its grade, VAHI, the unit's place, where the thread resumes (R88), and whether a cause
is pending on the thread whose registers the unit reads (R52, R88). -/
structure TrapArgs where
  cause  : Cause
  val    : Tagged Word
  vahi   : Nat
  uni    : Bool
  pos    : Nat
  pc     : Word
  resume : Word
  async  : Bool
  pend   : Bool
  deriving DecidableEq, Repr

/-- The WHERE word of R196. -/
def whereWord (s : State) (tid : Nat) : Word :=
  let tm := s.threadTeam tid
  let c := s.threadCore tid
  BitVec.ofNat 32 (dieOf c * 2 ^ 22 + c % 256 * 2 ^ 14 + tm.index * 2 ^ 10 + groupOf tid * 2 ^ 5 + slotOf tid)

def teamThreads (s : State) (t : Nat) : List Nat := s.threads.keys.filter fun tid => teamOf tid = t

/-- A latch of a quad freed (R216). -/
def freeLatch (s : State) (q : Nat) (latch : Option Nat) : State :=
  match latch with
  | none => s
  | some n => s.setQuad q { s.quad q with latches := (s.quad q).latches.erase n, latchVas := (s.quad q).latchVas.erase n }

/-- The threads of a team that wait for an answer that will not come wait no longer. -/
def freeSigner (s : State) (t : Nat) (signer : Option Nat) : State :=
  match signer with
  | none => s
  | some req => (teamThreads s t).foldl (fun s tid =>
      if (s.thread tid).request = some req then s.modThread tid fun t => { t with request := none } else s) s

/-- The conv registers and arrivals of a team's groups discarded, with the latches its unposted operations hold (R195, R216); the last signer of one waits for its posting no longer (R233). -/
def dropSignatures (s : State) (t : Nat) : State :=
  let q := quadOf (s.team t).core
  (s.groups.filter fun e => teamOfGid e.1 = t).foldl (fun s e =>
    let s := e.2.conv.foldl (fun s c => freeSigner (freeLatch s q c.2.latch) t c.2.signer) s
    s.setGroup e.1 { e.2 with conv := [], arrived := [] }) s

/-- The Assayer's clock: the microseconds since the start (R388). -/
def micros (s : State) : DWord := BitVec.ofNat 64 ((s.span - s.assayer.startSpan) / 2450448000)

/-- An event entered before the others, newest first; those of one microsecond of one start stand in ascending UNIT order (R388). -/
def enterEvent (e : Event) : List Event → List Event
  | [] => [e]
  | x :: l => if x.time = e.time && x.starts = e.starts && e.unit < x.unit then x :: enterEvent e l else e :: x :: l

/-- The black box of a die: an event entered (R387, R388). -/
def boxEvent (s : State) (die : Nat) (code w unit : Nat) (data : List Byte) : State :=
  let b := s.assayer.boxes.getD die {}
  let e : Event := ⟨micros s, BitVec.ofNat 32 s.assayer.starts, code, w, unit, data⟩
  { s with assayer := { s.assayer with boxes := s.assayer.boxes.insert die ⟨b.next + 1, (enterEvent e b.events).take 2048⟩ } }

/-- The UNIT field of an event on a core (R388). -/
def coreUnit (core : Nat) : Nat := quadOf core % 64 * 256 + core % 256

/-- The data of a kill in the black box (R388). -/
def killData (r : KillRecord) : List Byte := leBytes 4 r.causeword.toNat ++ leBytes 4 r.pc.toNat ++ List.replicate 8 0

/-- The latest event of a die that a list of bytes describes takes another list (R388). -/
def amendEvent (s : State) (die code w : Nat) (old new : List Byte) : State :=
  let b := s.assayer.boxes.getD die {}
  let rec go : List Event → List Event
    | [] => []
    | x :: l => if x.code = code && x.world = w && x.data = old then { x with data := new } :: l else x :: go l
  { s with assayer := { s.assayer with boxes := s.assayer.boxes.insert die { b with events := go b.events } } }

/-- The order of fatal events of one cc: by slot, then by group (R196), from the WHERE word. -/
def KillRecord.rank (r : KillRecord) : Nat := r.at_.toNat % 2 ^ 5 * 2 ^ 5 + r.at_.toNat / 2 ^ 5 % 2 ^ 5

/-- Whether a record is of an event of a thread or a group (R196). -/
def KillRecord.hasThread (r : KillRecord) : Bool :=
  r.causeword.toNat % 256 ≠ causeCode .teamKilled && r.causeword.toNat % 256 ≠ causeCode .queueFlushed

/-- A further fatal event of a killed team: it takes the record where it is of the same cc and comes first by slot and group
(R196). -/
def amendKill (s : State) (t : Nat) (r : KillRecord) : State :=
  let tm := s.team t
  match tm.killed with
  | none => s
  | some old =>
    if tm.killedAt = s.time && old.hasThread && r.hasThread && r.rank < old.rank then
      let s := s.setTeam t { tm with killed := some r }
      let l := s.launch tm.launch
      let s := s.setLaunch tm.launch
        { l with firstKill := l.firstKill.map fun e => if e.1 = t then (t, r) else e }
      amendEvent s (dieOf tm.core) 4 tm.world (killData old) (killData r)
    else s

/-- Whether a team can no longer be killed: it has been, or it ended in an earlier cc (R196, R337). -/
def Team.isOver (tm : Team) (now : Nat) : Bool := tm.killed.isSome || (tm.ended && tm.endedAt ≠ now)

/-- One team killed (R193 to R196): the first fatal event is recorded; threads that issue no chain end at once, the others at their
next chain boundary; signatures that are not posted are discarded and latches released. -/
def killOne (s : State) (t : Nat) (r : KillRecord) : State :=
  let tm := s.team t
  if tm.isOver s.time then amendKill s t r
  else
    let s := s.setTeam t { tm with killed := some r, killedAt := s.time }
    let l := s.launch tm.launch
    let s := s.setLaunch tm.launch { l with killed := l.killed + 1, firstKill := l.firstKill.orElse fun _ => some (t, r) }
    let s := boxEvent s (dieOf tm.core) 4 tm.world (coreUnit tm.core) (killData r)
    let s := dropSignatures s t
    let s := (teamThreads s t).foldl (fun s tid =>
      match (s.thread tid).place with
      | .inBundle b => if (s.bundle b).chain.isEmpty then endNow s tid else s
      | .ended => s
      | _ => endNow s tid) s
    settleTeam s t

/-- The kill record of a cause that no thread raises (R196). -/
def plainRecord (s : State) (t : Nat) (c : Cause) : KillRecord :=
  let tm := s.team t
  ⟨BitVec.ofNat 32 (causeCode c),
    BitVec.ofNat 32 (dieOf tm.core * 2 ^ 22 + tm.core % 256 * 2 ^ 14 + tm.index * 2 ^ 10), 0, 0, s.cyc tm.core⟩

/-- The teams of a launch. -/
def launchTeams (s : State) (l : Nat) : List Nat := s.teams.keys.filter fun t => (s.team t).launch = l

/-- With ABORT_ON_FAIL, a launch of which a team was killed distributes no more and its other teams are killed with QUEUE_FLUSHED
(R336). -/
def abortLaunch (s : State) (lid : Nat) : State :=
  let l := s.launch lid
  if l.abortOnFail then
    let s := s.setLaunch lid { l with stopped := true }
    (launchTeams s lid).foldl (fun s x => killOne s x (plainRecord s x .queueFlushed)) s
  else s

/-- The kill of a team. -/
def killTeam (s : State) (t : Nat) (r : KillRecord) : State :=
  let tm := s.team t
  if tm.isOver s.time then amendKill s t r else abortLaunch (killOne s t r) tm.launch

/-- The kill record of an event of a thread's unit (R196). -/
def unitRecord (s : State) (tid : Nat) (cause second : Nat) (pos : Nat) (pc value : Word) : KillRecord :=
  let t := s.thread tid
  let cw := cause + second * 2 ^ 8 + pos % 8 * 2 ^ 16 + (if t.hnd then 2 ^ 19 else 0) +
    (if (s.world (s.threadWorld tid)).handler = 0 then 2 ^ 20 else 0)
  ⟨BitVec.ofNat 32 cw, whereWord s tid, pc, value, s.cyc (s.threadCore tid)⟩

/-- The kill raised by a thread's unit: the fatal thread's unit has no effect, and the thread ends (R84, R194). -/
def killBy (s : State) (tid : Nat) (cause second : Nat) (pos : Nat) (pc value : Word) : State :=
  let s := killTeam s (teamOf tid) (unitRecord s tid cause second pos pc value)
  settleTeam (endNow s tid) (teamOf tid)

def trapInfoWord (a : TrapArgs) : Word :=
  BitVec.ofNat 32 (2 ^ 31 + (if a.async then 2 ^ 30 else 0) + (if a.uni then 2 ^ 29 else 0) + (if a.pend then 2 ^ 28 else 0) +
    a.pos % 8 * 2 ^ 24 + a.vahi % 128 * 2 ^ 17 + causeCode a.cause)

/-- The handler of a world: an offset in the code region (R88). -/
def handlerPc (s : State) (tid : Nat) : Word := (s.world (s.threadWorld tid)).handler.setWidth 32

/-- Whether an asynchronous cause is pending on a thread (R91). -/
def Thread.hasPending (t : Thread) : Bool := !t.pending.isEmpty

/-- Taking a trap (R88): the saved registers, HND, and the thread filed at its handler; a world without a handler, or a
synchronous trap inside the handler, kills the team. -/
def takeTrap (s : State) (tid : Nat) (a : TrapArgs) : State :=
  let t := s.thread tid
  if (s.world (s.threadWorld tid)).handler = 0 then killBy s tid (causeCode a.cause) 0 a.pos a.pc a.val.val
  else if t.hnd && !a.async then
    killBy s tid (causeCode .doubleTrap) (causeCode a.cause) a.pos a.pc a.val.val
  else if s.isKilled tid then settleTeam (endNow s tid) (teamOf tid)
  else
    let s := if t.place == .filed then unfileThread s tid else leaveBundle s tid
    let s := s.modThread tid fun t =>
      { t with
        trapinfo := trapInfoWord a
        trappc := a.pc
        trapval := ⟨a.val.val, ⟨if a.async then 0 else a.val.tag.grade, false⟩⟩
        resume := a.resume
        hnd := true
        enters := (s.world (s.threadWorld tid)).stat = 2
        request := none
        retries := false
        pc := handlerPc s tid }
    fileThread s tid s.time

/-- The return from a handler (R90): HND is cleared and the thread is filed at RESUME. -/
def returnFromTrap (s : State) (tid : Nat) : State :=
  let t := s.thread tid
  refile (s.modThread tid fun t => { t with hnd := false, trapinfo := t.trapinfo &&& 0x7FFFFFFF }) tid t.resume s.time

/-- The lowest pending cause and the others (R91). -/
def lowestPending (l : List (Cause × Word)) : Option (Cause × Word) :=
  l.foldl (fun m e => match m with
    | none => some e
    | some x => if causeCode e.1 < causeCode x.1 then some e else m) none

/-- An asynchronous cause made pending on a thread (R91), which wakes its group where that is parked (R155); a thread that has ended
loses it. -/
def makePending (s : State) (tid : Nat) (c : Cause) (val : Word) : State :=
  let t := s.thread tid
  if t.place == .ended then s
  else if t.pending.any (·.1 == c) then s
  else
    let s := s.setThread tid { t with pending := t.pending ++ [(c, val)] }
    let g := s.threadGroup tid
    if g.offCore then s.setGroup (gidOf tid) { g with woken := true } else s

end Sys2Proof.Machine
end

