-- ==== Sys2Proof/Machine/Operands.lean ====
section
/-! DEFINITION. How a unit runs over its bundle: operand reads (spec/03_formats.md R41, R43), the guard (R49, R51), the uniform
class (R52), write-back and latches (R47, R48), traps and waits inside a chain (R55), and the advance to the next unit. -/

namespace Sys2Proof.Machine

open Sys2Proof

/-! ## Operands -/

/-- Operand b: a register, or a literal with grade G0 and poison clear (R43, R44). -/
def Thread.opb (t : Thread) : OpB → Tagged Word
  | .reg r => t.reg r
  | .lit v => untagged v

def sextImm (i : BitVec 8) : Word := i.signExtend 32
def zextImm (i : BitVec 8) : Word := i.setWidth 32

/-- The predicate of a unit's guard as it stands, before its N bit (R49). -/
def Thread.guardPred (t : Thread) (i : Instr) : Bool :=
  match i.guard with
  | some (p, _) => (t.pred p).val
  | none => false

/-- The guard of a unit as a thread reads it: none without a prefix whose G is 1, and none for `sel`, whose guard is data. -/
def Thread.guard (t : Thread) (i : Instr) : Option (Tagged Bool) :=
  if i.form.guard == .selects then none
  else match i.guard with
    | some (p, n) => some ⟨(t.pred p).val != n, (t.pred p).tag⟩
    | none => none

/-- The tags of a register that rule 4 of R53 counts. -/
def Thread.nameTag (t : Thread) : RegName → Tag
  | .v n => (t.v.getD n (untagged 0)).tag
  | .p n => (t.p.getD n (untagged false)).tag
  | .k n => (t.k.getD n (untagged 0)).tag
  | .g n => (t.g.getD n (untagged 0)).tag

/-- The tags of every register, latch and predicate that a unit reads, its guard included (R83, R88). -/
def Thread.sourceTag (t : Thread) (i : Instr) : Tag :=
  (joinTags (i.reads.map t.nameTag)).join
    (joinTags ((i.operands.flatMap Operand.latches).map fun k => (t.reg (BitVec.ofNat 7 (124 + k))).tag))

/-- The tiles whose value a unit reads (R221, R238, R240, R242). -/
def Instr.tileSources : Instr → List Nat
  | .mma _ t _ b _ _ _ _ | .mmaSc _ t _ b _ _ _ _ => [t.toNat, b.toNat]
  | .mmaSet _ _ _ b _ _ _ _ => [b.toNat]
  | .tst _ d _ => [d.toNat]
  | .trd _ _ a => [a.toNat]
  | .tcvt _ _ a _ => [a.toNat]
  | _ => []

/-- The tags of a unit's sources, its tiles among them. -/
def State.sourceTag (s : State) (tid : Nat) (i : Instr) : Tag :=
  ((s.thread tid).sourceTag i).join (joinTags ((Instr.tileSources i).map fun n => ((s.threadTeam tid).tile n).tag))

/-! ## Results -/

/-- A register written. -/
inductive Write where
  | v (r : Nat) (x : Word)
  | p (p : Nat) (x : Bool)
  | k (k : Nat) (x : DWord)
  | g (g : Nat) (x : BitVec 128)
  deriving DecidableEq, Repr

/-- What a unit gives a thread: the registers written, all with one tag (R83), the value for L0 (R47) and the flags raised. -/
structure Result where
  writes   : List Write
  tag      : Tag
  latch    : Tagged Word
  flags    : Flags
  deriving DecidableEq, Repr

/-- No register result: 0 is shifted in (R47). -/
def Result.none : Result := ⟨[], Tag.zero, untagged 0, 0⟩

def Result.reg (d : Reg) (x : Word) (t : Tag) (fl : Flags) : Result := ⟨[.v d.toNat x], t, ⟨x, t⟩, fl⟩

def Result.pred (p : BitVec 5) (x : Bool) (t : Tag) : Result := ⟨[.p p.toNat x], t, ⟨if x then 1 else 0, t⟩, 0⟩

/-- A pair written, low word in the even register; the latch takes the lowest-numbered (R47). -/
def Result.pair (d : Reg) (x : DWord) (t : Tag) : Result :=
  ⟨[.v d.toNat (x.setWidth 32), .v (d.toNat + 1) (x.extractLsb' 32 32)], t, ⟨x.setWidth 32, t⟩, 0⟩

/-- Several registers from d on. -/
def Result.regs (d : Reg) (xs : List Word) (t : Tag) : Result :=
  ⟨(List.range xs.length).map fun k => .v (d.toNat + k) (xs.getD k 0), t, ⟨xs.headD 0, t⟩, 0⟩

def Thread.write (t : Thread) (tag : Tag) : Write → Thread
  | .v r x => t.setReg r ⟨x, tag⟩
  | .p p x => t.setPred p ⟨x, tag⟩
  | .k k x => t.setAcc k ⟨x, tag⟩
  | .g g x => t.setGen g ⟨x, tag⟩

/-- A result taken by a thread: registers, flags, latch. -/
def Thread.apply (t : Thread) (r : Result) : Thread :=
  ((r.writes.foldl (fun t w => t.write r.tag w) t).raise r.flags r.tag.grade).pushLatch r.latch

/-- The value that a guarded-off thread places in L0 (R47): its value of d where d names a V register. -/
def guardedOffLatch (t : Thread) (i : Instr) : Tagged Word :=
  match i.dstReg with
  | some r => if r.toNat < 120 then t.reg r else untagged 0
  | none => untagged 0

/-! ## A unit over its bundle -/

/-- What becomes of the threads for which a unit has been computed. -/
inductive UnitResult where
  /-- they take the result and go on -/
  | done (r : Result)
  /-- they trap (R88); `atNext`: the cause resumes at the next unit (R94) -/
  | trap (c : Cause) (val : Word) (vahi : Nat) (atNext : Bool)
  /-- they trap, and the unit has read memory whose tag is one of its sources (R83): the value with that tag -/
  | trapWith (c : Cause) (val : Tagged Word)
  /-- a use of a poisoned value (R84), with the value -/
  | kill (val : Word)
  /-- they leave the bundle and wait; `atNext`: they run again at the next unit, otherwise at the head of the chain -/
  | wait (w : Wait) (atNext : Bool)
  /-- the unit waits before its effect; the bundle stays at it -/
  | hold
  /-- the operation is sent; its answer will release them -/
  | sent (req : Nat)
  /-- they continue at an address -/
  | jump (pc : Word)
  /-- they are filed at an address with a runnable time (R129) -/
  | file (pc : Word) (time : Nat)
  /-- they have left the bundle already -/
  | moved
  deriving DecidableEq, Repr

/-- The outcome of a unit that has read memory with a tag: its trap counts that tag among its sources (R83, R88). -/
def UnitResult.joinTrap (r : UnitResult) (tag : Tag) : UnitResult :=
  match r with
  | .trap c val 0 false => .trapWith c ⟨val, tag⟩
  | .trapWith c val => .trapWith c ⟨val.val, val.tag.join tag⟩
  | r => r

/-- What a unit computes for one thread, its guard's tag given: the result and the state with the unit's effect on it. -/
abbrev Compute := State → Nat → Tag → UnitResult × State

/-- A unit in progress: the state, the threads that jump with their targets, and whether the unit waits. -/
structure Progress where
  st    : State
  jumps : List (Nat × Word)
  held  : Bool

def markFinished (s : State) (b : Nat) (tids : List Nat) : State :=
  { s with bundles := s.bundles.modify b fun x => { x with finished := x.finished ++ tids } }

/-- The arguments of a trap of a thread's unit; `pend`: a cause is pending on the thread whose registers it reads. -/
def unitTrap (u : Issue) (i : Instr) (tag : Tag) (c : Cause) (val : Word) (vahi : Nat) (atNext pend : Bool) : TrapArgs :=
  ⟨c, ⟨val, tag⟩, vahi, i.ctl.k, u.pos, u.addr, if atNext then u.next else u.head, false, pend⟩

/-- The outcome computed from thread `src` delivered to `targets`: the thread itself, or every active thread of a uniform
unit (R52). -/
def deliver (u : Issue) (i : Instr) (p : Progress) (src : Nat) (targets : List Nat) (r : UnitResult × State) : Progress :=
  let s := r.2
  match r.1 with
  | .done res =>
    let s := targets.foldl (fun s tid => s.modThread tid fun t => t.apply res) s
    { p with st := markFinished s u.bundle targets }
  | .trap c val vahi atNext =>
    let a := unitTrap u i (s.sourceTag src i) c val vahi atNext (s.thread src).hasPending
    { p with st := targets.foldl (fun s tid => takeTrap s tid a) s }
  | .trapWith c val =>
    let a := unitTrap u i ((s.sourceTag src i).join val.tag) c val.val 0 false (s.thread src).hasPending
    { p with st := targets.foldl (fun s tid => takeTrap s tid a) s }
  | .kill val =>
    let s := killBy s src (causeCode .poisonUse) 0 u.pos u.addr val
    { p with st := settleTeam (targets.foldl endNow s) (teamOf src) }
  | .wait w atNext =>
    { p with st := targets.foldl (fun s tid => park s tid (if atNext then u.next else u.head) w) s }
  | .hold => { p with st := s, held := true }
  | .sent req =>
    let s := targets.foldl (fun s tid => s.modThread tid fun t => { t with request := some req }) s
    { p with st := markFinished s u.bundle targets }
  | .jump pc =>
    let s := targets.foldl (fun s tid => s.modThread tid fun t => t.pushLatch (untagged 0)) s
    { p with st := markFinished s u.bundle targets, jumps := p.jumps ++ targets.map fun tid => (tid, pc) }
  | .file pc time => { p with st := targets.foldl (fun s tid => refile s tid pc time) s }
  | .moved => { p with st := s }

/-- One unit for one source thread: the guard first. A poisoned guard kills with the predicate as its value (R84, R196); a false one
passes (R51). -/
def runThread (u : Issue) (i : Instr) (f : Compute) (p : Progress) (src : Nat) (targets : List Nat) : Progress :=
  if p.held then p
  else
    let t := p.st.thread src
    match t.guard i with
    | none => deliver u i p src targets (f p.st src Tag.zero)
    | some g =>
      if g.tag.poison then deliver u i p src targets (.kill (if t.guardPred i then 1 else 0), p.st)
      else if g.val then deliver u i p src targets (f p.st src g.tag)
      else
        let s := targets.foldl (fun s tid => s.modThread tid fun t => t.pushLatch (guardedOffLatch t i)) p.st
        { p with st := markFinished s u.bundle targets }

/-- A unit issued: per thread in ascending order for a lane instruction, once for a uniform one (R52, R229, R295). -/
def runAll (u : Issue) (i : Instr) (f : Compute) (s : State) (order : List Nat → List Nat) : Progress :=
  let p : Progress := ⟨s, [], false⟩
  let waiting := order (u.tids.filter fun tid => !(s.bundle u.bundle).finished.contains tid)
  if i.ctl.k then
    match waiting with
    | [] => p
    | src :: _ => runThread u i f p src waiting
  else waiting.foldl (fun p tid => runThread u i f p tid [tid]) p

/-- The threads that jump: the bundle goes whole where all of its active threads go to one address; otherwise each is filed at
its target (R119, R120, R129). -/
def settleJumps (u : Issue) (p : Progress) : State × Option Word :=
  match p.jumps with
  | [] => (p.st, none)
  | (_, pc) :: _ =>
    if p.jumps.length = u.tids.length && p.jumps.all (fun j => j.2 = pc) then (p.st, some pc)
    else (p.jumps.foldl (fun s j => refile s j.1 j.2 s.time) p.st, none)

/-- The bundle at a chain boundary: the threads of a killed team end there (R93, R194). -/
def atBoundary (s : State) (b : Nat) : State :=
  match (s.bundle b).tids with
  | [] => s
  | tid :: _ =>
    if (s.threadTeam tid).killed.isSome then settleTeam ((s.bundle b).tids.foldl endNow s) (teamOf tid) else s

/-- A bundle that has completed a unit: at the next unit of its chain, or at the head of its next chain where the chain is at its
end or has jumped (R53, R119). -/
def Bundle.after (x : Bundle) (next : Word) (target : Option Word) : Bundle :=
  let pc := target.getD next
  let rest := if target.isSome then [] else x.chain.tail
  { x with
    pc := pc, chain := rest, finished := [], held := false,
    head := if rest.isEmpty then pc else x.head,
    pos := if rest.isEmpty then 0 else x.pos + 1 }

def putBundle (s : State) (b : Nat) (x : Bundle) : State := { s with bundles := s.bundles.insert b x }

/-- A bundle moved on once every thread of it has its answer. -/
def closeUnit (s : State) (u : Issue) (target : Option Word) : State :=
  match s.bundles.find? u.bundle with
  | none => s
  | some x =>
    if x.tids.any fun tid => (s.thread tid).request.isSome then putBundle s u.bundle { x with held := false }
    else
      let y := x.after u.next target
      let s := putBundle s u.bundle y
      if y.chain.isEmpty then atBoundary s u.bundle else s

/-- The bundle after a unit: at the unit while it waits or an answer is missing, otherwise at the next unit or the target. One that
waits is ready as soon as its wait ends. -/
def finish (u : Issue) (p : Progress) : State :=
  if p.held then { p.st with bundles := p.st.bundles.modify u.bundle fun x => { x with held := true, ready := p.st.time } }
  else
    let j := settleJumps u p
    closeUnit j.1 u j.2

/-- A unit issued and the bundle moved on. -/
def runUnit (u : Issue) (i : Instr) (f : Compute) (s : State) : State := finish u (runAll u i f s id)

/-- A list in the order that a number chooses: each next element is picked by what is left of the number. -/
def pickOrder : Nat → Nat → List Nat → List Nat
  | 0, _, l => l
  | fuel + 1, n, l =>
    match l with
    | [] => []
    | [x] => [x]
    | x :: y :: r =>
      let l := x :: y :: r
      let k := n % l.length
      l.getD k 0 :: pickOrder fuel (n / l.length) (l.eraseIdx k)

/-- A trap or a kill before the unit has an effect. -/
def UnitResult.stops : UnitResult → Bool
  | .trap _ _ _ atNext => !atNext
  | .trapWith _ _ | .kill _ => true
  | _ => false

/-- Whether a thread's unit traps or kills before it has an effect. -/
def stopsUnit (i : Instr) (f : Compute) (s : State) (tid : Nat) : Bool :=
  match (s.thread tid).guard i with
  | none => (f s tid Tag.zero).1.stops
  | some g => g.tag.poison || (g.val && (f s tid g.tag).1.stops)

/-- The threads that trap or kill, in ascending slot order (R196); then the others in the order that a number chooses. -/
def unstatedOrder (i : Instr) (f : Compute) (s : State) (n : Nat) (l : List Nat) : List Nat :=
  let rest := l.filter fun tid => !stopsUnit i f s tid
  l.filter (stopsUnit i f s) ++ pickOrder rest.length n rest

/-- A unit whose lane form acts on its threads one at a time in an order that the spec does not state (R171, R172). -/
def runUnordered (u : Issue) (i : Instr) (f : Compute) (s : State) : State :=
  if i.ctl.k || u.tids.length ≤ 1 then runUnit u i f s
  else
    let (n, s) := s.free
    finish u (runAll u i f s (unstatedOrder i f s n))

/-- The outcome of an instruction word: it runs on the unit being issued; without one there is nothing for it to act on. -/
def issueUnit (i : Instr) (f : Issue → Compute) (s : State) : Host.Outcome State Fault Refusal :=
  match s.cur with
  | none => .refused .noBundle
  | some u => .next (runUnit u i (f u) { s with cur := none })

/-- As `issueUnit`, for a unit whose threads act in an unstated order. -/
def issueUnordered (i : Instr) (f : Issue → Compute) (s : State) : Host.Outcome State Fault Refusal :=
  match s.cur with
  | none => .refused .noBundle
  | some u => .next (runUnordered u i (f u) { s with cur := none })

/-- A unit that computes a register result from the registers of its source thread. -/
def aluUnit (i : Instr) (f : Thread → Tag → Result) (s : State) : Host.Outcome State Fault Refusal :=
  issueUnit i (fun _ s tid g => (.done (f (s.thread tid) g), s)) s

end Sys2Proof.Machine
end

