-- ==== Sys2Proof/Machine/Integer.lean ====
section
/-! DEFINITION. The integer, bit, field, divide, move, select, compare and predicate instructions
(spec/06_thread_instructions.md R97 to R105). -/

namespace Sys2Proof.Machine

open Sys2Proof

/-- SAT and the rounding mode of a unit's prefix (R49, R80). -/
def satOf (c : Ctl) : Bool := match c.pre with | some p => p.sat | none => false
def modeOf (c : Ctl) : Mode := match c.pre with | some p => .ofOverride p.rnd | none => .rne

/-- d := f a b. -/
def binUnit (i : Instr) (d a : Reg) (b : OpB) (f : Word → Word → Word) (s : State) : Host.Outcome State Fault Refusal :=
  aluUnit i (fun t g => .reg d (f (t.reg a).val (t.opb b).val) (joinTags [(t.reg a).tag, (t.opb b).tag, g]) 0) s

/-- d := f a b d, where d is a source. -/
def triUnit (i : Instr) (d a : Reg) (b : OpB) (f : Word → Word → Word → Word) (s : State) :
    Host.Outcome State Fault Refusal :=
  aluUnit i (fun t g => .reg d (f (t.reg a).val (t.opb b).val (t.reg d).val)
    (joinTags [(t.reg a).tag, (t.opb b).tag, (t.reg d).tag, g]) 0) s

/-- d := f a. -/
def unUnit (i : Instr) (d a : Reg) (f : Word → Word) (s : State) : Host.Outcome State Fault Refusal :=
  aluUnit i (fun t g => .reg d (f (t.reg a).val) ((t.reg a).tag.join g) 0) s

/-- Pd := f a b. -/
def cmpUnit (i : Instr) (p : BitVec 5) (a : Reg) (b : OpB) (f : Word → Word → Bool) (s : State) :
    Host.Outcome State Fault Refusal :=
  aluUnit i (fun t g => .pred p (f (t.reg a).val (t.opb b).val) (joinTags [(t.reg a).tag, (t.opb b).tag, g])) s

/-- Pd := f (Pa ⊕ na) (Pb ⊕ nb) (R105). -/
def predUnit (i : Instr) (p : BitVec 5) (na : Bool) (pa : BitVec 5) (nb : Bool) (pb : BitVec 5) (f : Bool → Bool → Bool)
    (s : State) : Host.Outcome State Fault Refusal :=
  aluUnit i (fun t g => .pred p (f ((t.pred pa).val != na) ((t.pred pb).val != nb))
    (joinTags [(t.pred pa).tag, (t.pred pb).tag, g])) s

/-- ADD_N32 (R97). -/
def execAddN32 (c : Ctl) (d a : Reg) (b : OpB) (s : State) : Host.Outcome State Fault Refusal :=
  binUnit (.addN32 c d a b) d a b (addN (satOf c)) s

/-- ADD_I32 (R97). -/
def execAddI32 (c : Ctl) (d a : Reg) (b : OpB) (s : State) : Host.Outcome State Fault Refusal :=
  binUnit (.addI32 c d a b) d a b (addI (satOf c)) s

/-- SUB_N32 (R97). -/
def execSubN32 (c : Ctl) (d a : Reg) (b : OpB) (s : State) : Host.Outcome State Fault Refusal :=
  binUnit (.subN32 c d a b) d a b (subN (satOf c)) s

/-- SUB_I32 (R97). -/
def execSubI32 (c : Ctl) (d a : Reg) (b : OpB) (s : State) : Host.Outcome State Fault Refusal :=
  binUnit (.subI32 c d a b) d a b (subI (satOf c)) s

/-- MUL_B32 (R97). -/
def execMulB32 (c : Ctl) (d a : Reg) (b : OpB) (s : State) : Host.Outcome State Fault Refusal :=
  binUnit (.mulB32 c d a b) d a b (fun x y => x * y) s

/-- MULW_N32 (R97). -/
def execMulwN32 (c : Ctl) (d a : Reg) (b : OpB) (s : State) : Host.Outcome State Fault Refusal :=
  binUnit (.mulwN32 c d a b) d a b mulwN s

/-- MULW_I32 (R97). -/
def execMulwI32 (c : Ctl) (d a : Reg) (b : OpB) (s : State) : Host.Outcome State Fault Refusal :=
  binUnit (.mulwI32 c d a b) d a b mulwI s

/-- MIN_N32 (R97). -/
def execMinN32 (c : Ctl) (d a : Reg) (b : OpB) (s : State) : Host.Outcome State Fault Refusal :=
  binUnit (.minN32 c d a b) d a b minN s

/-- MIN_I32 (R97). -/
def execMinI32 (c : Ctl) (d a : Reg) (b : OpB) (s : State) : Host.Outcome State Fault Refusal :=
  binUnit (.minI32 c d a b) d a b minI s

/-- MAX_N32 (R97). -/
def execMaxN32 (c : Ctl) (d a : Reg) (b : OpB) (s : State) : Host.Outcome State Fault Refusal :=
  binUnit (.maxN32 c d a b) d a b maxN s

/-- MAX_I32 (R97). -/
def execMaxI32 (c : Ctl) (d a : Reg) (b : OpB) (s : State) : Host.Outcome State Fault Refusal :=
  binUnit (.maxI32 c d a b) d a b maxI s

/-- AND_B32 (R97). -/
def execAndB32 (c : Ctl) (d a : Reg) (b : OpB) (s : State) : Host.Outcome State Fault Refusal :=
  binUnit (.andB32 c d a b) d a b (fun x y => x &&& y) s

/-- OR_B32 (R97). -/
def execOrB32 (c : Ctl) (d a : Reg) (b : OpB) (s : State) : Host.Outcome State Fault Refusal :=
  binUnit (.orB32 c d a b) d a b (fun x y => x ||| y) s

/-- XOR_B32 (R97). -/
def execXorB32 (c : Ctl) (d a : Reg) (b : OpB) (s : State) : Host.Outcome State Fault Refusal :=
  binUnit (.xorB32 c d a b) d a b (fun x y => x ^^^ y) s

/-- SHL_B32 (R97). -/
def execShlB32 (c : Ctl) (d a : Reg) (b : OpB) (s : State) : Host.Outcome State Fault Refusal :=
  binUnit (.shlB32 c d a b) d a b shl s

/-- SHR_N32 (R97). -/
def execShrN32 (c : Ctl) (d a : Reg) (b : OpB) (s : State) : Host.Outcome State Fault Refusal :=
  binUnit (.shrN32 c d a b) d a b shrN s

/-- SHR_I32 (R97). -/
def execShrI32 (c : Ctl) (d a : Reg) (b : OpB) (s : State) : Host.Outcome State Fault Refusal :=
  binUnit (.shrI32 c d a b) d a b shrI s

/-- FGET_N32 (R99). -/
def execFgetN32 (c : Ctl) (d a : Reg) (b : OpB) (s : State) : Host.Outcome State Fault Refusal :=
  binUnit (.fgetN32 c d a b) d a b fgetN s

/-- FGET_I32 (R99). -/
def execFgetI32 (c : Ctl) (d a : Reg) (b : OpB) (s : State) : Host.Outcome State Fault Refusal :=
  binUnit (.fgetI32 c d a b) d a b fgetI s

/-- DIV_N32 (R100). -/
def execDivN32 (c : Ctl) (d a : Reg) (b : OpB) (s : State) : Host.Outcome State Fault Refusal :=
  binUnit (.divN32 c d a b) d a b divN s

/-- DIV_I32 (R100). -/
def execDivI32 (c : Ctl) (d a : Reg) (b : OpB) (s : State) : Host.Outcome State Fault Refusal :=
  binUnit (.divI32 c d a b) d a b divI s

/-- REM_N32 (R100). -/
def execRemN32 (c : Ctl) (d a : Reg) (b : OpB) (s : State) : Host.Outcome State Fault Refusal :=
  binUnit (.remN32 c d a b) d a b remN s

/-- REM_I32 (R100). -/
def execRemI32 (c : Ctl) (d a : Reg) (b : OpB) (s : State) : Host.Outcome State Fault Refusal :=
  binUnit (.remI32 c d a b) d a b remI s

/-- MAC_B32 (R97). -/
def execMacB32 (c : Ctl) (d a : Reg) (b : OpB) (s : State) : Host.Outcome State Fault Refusal :=
  triUnit (.macB32 c d a b) d a b (fun x y z => x * y + z) s

/-- FPUT_B32 (R99). -/
def execFputB32 (c : Ctl) (d a : Reg) (b : OpB) (s : State) : Host.Outcome State Fault Refusal :=
  triUnit (.fputB32 c d a b) d a b fput s

/-- NOT_B32 (R98). -/
def execNotB32 (c : Ctl) (d a : Reg) (s : State) : Host.Outcome State Fault Refusal :=
  unUnit (.notB32 c d a) d a (fun x => ~~~x) s

/-- ONES_B32 (R98). -/
def execOnesB32 (c : Ctl) (d a : Reg) (s : State) : Host.Outcome State Fault Refusal :=
  unUnit (.onesB32 c d a) d a ones s

/-- LZC_B32 (R98). -/
def execLzcB32 (c : Ctl) (d a : Reg) (s : State) : Host.Outcome State Fault Refusal :=
  unUnit (.lzcB32 c d a) d a lzc s

/-- TZC_B32 (R98). -/
def execTzcB32 (c : Ctl) (d a : Reg) (s : State) : Host.Outcome State Fault Refusal :=
  unUnit (.tzcB32 c d a) d a tzc s

/-- REV_B32 (R98). -/
def execRevB32 (c : Ctl) (d a : Reg) (s : State) : Host.Outcome State Fault Refusal :=
  unUnit (.revB32 c d a) d a rev s

/-- ABS_I32 (R98). -/
def execAbsI32 (c : Ctl) (d a : Reg) (s : State) : Host.Outcome State Fault Refusal :=
  unUnit (.absI32 c d a) d a absI s

/-- NEG_I32 (R98). -/
def execNegI32 (c : Ctl) (d a : Reg) (s : State) : Host.Outcome State Fault Refusal :=
  unUnit (.negI32 c d a) d a (fun x => -x) s

/-- SXT_B8 (R98). -/
def execSxtB8 (c : Ctl) (d a : Reg) (s : State) : Host.Outcome State Fault Refusal :=
  unUnit (.sxtB8 c d a) d a (sxt 8) s

/-- SXT_B16 (R98). -/
def execSxtB16 (c : Ctl) (d a : Reg) (s : State) : Host.Outcome State Fault Refusal :=
  unUnit (.sxtB16 c d a) d a (sxt 16) s

/-- ZXT_B8 (R98). -/
def execZxtB8 (c : Ctl) (d a : Reg) (s : State) : Host.Outcome State Fault Refusal :=
  unUnit (.zxtB8 c d a) d a (zxt 8) s

/-- ZXT_B16 (R98). -/
def execZxtB16 (c : Ctl) (d a : Reg) (s : State) : Host.Outcome State Fault Refusal :=
  unUnit (.zxtB16 c d a) d a (zxt 16) s

/-- ADD_N32_IMM (R97). -/
def execAddN32Imm (c : Ctl) (d a : Reg) (i : BitVec 8) (s : State) : Host.Outcome State Fault Refusal :=
  unUnit (.addN32Imm c d a i) d a (fun x => x + sextImm i) s

/-- AND_B32_IMM (R97). -/
def execAndB32Imm (c : Ctl) (d a : Reg) (i : BitVec 8) (s : State) : Host.Outcome State Fault Refusal :=
  unUnit (.andB32Imm c d a i) d a (fun x => x &&& zextImm i) s

/-- OR_B32_IMM (R97). -/
def execOrB32Imm (c : Ctl) (d a : Reg) (i : BitVec 8) (s : State) : Host.Outcome State Fault Refusal :=
  unUnit (.orB32Imm c d a i) d a (fun x => x ||| zextImm i) s

/-- XOR_B32_IMM (R97). -/
def execXorB32Imm (c : Ctl) (d a : Reg) (i : BitVec 8) (s : State) : Host.Outcome State Fault Refusal :=
  unUnit (.xorB32Imm c d a i) d a (fun x => x ^^^ zextImm i) s

/-- SHL_B32_IMM (R97). -/
def execShlB32Imm (c : Ctl) (d a : Reg) (i : BitVec 8) (s : State) : Host.Outcome State Fault Refusal :=
  unUnit (.shlB32Imm c d a i) d a (fun x => shl x (zextImm i)) s

/-- SHR_N32_IMM (R97). -/
def execShrN32Imm (c : Ctl) (d a : Reg) (i : BitVec 8) (s : State) : Host.Outcome State Fault Refusal :=
  unUnit (.shrN32Imm c d a i) d a (fun x => shrN x (zextImm i)) s

/-- SHR_I32_IMM (R97). -/
def execShrI32Imm (c : Ctl) (d a : Reg) (i : BitVec 8) (s : State) : Host.Outcome State Fault Refusal :=
  unUnit (.shrI32Imm c d a i) d a (fun x => shrI x (zextImm i)) s

/-- MOV_B32_IMM (R101). -/
def execMovB32Imm (c : Ctl) (d : Reg) (i : BitVec 8) (s : State) : Host.Outcome State Fault Refusal :=
  aluUnit (.movB32Imm c d i) (fun _ g => .reg d (sextImm i) g 0) s

/-- MOV_B32 (R101). -/
def execMovB32 (c : Ctl) (d : Reg) (b : OpB) (s : State) : Host.Outcome State Fault Refusal :=
  aluUnit (.movB32 c d b) (fun t g => .reg d (t.opb b).val ((t.opb b).tag.join g) 0) s

/-- SEL_B32 (R103): the guard selects and is data (R66); a word without one is no legal unit. -/
def execSelB32 (c : Ctl) (d a : Reg) (b : OpB) (s : State) : Host.Outcome State Fault Refusal :=
  aluUnit (.selB32 c d a b) (fun t _ =>
    match Instr.guard (.selB32 c d a b) with
    | some (p, n) => .reg d (if (t.pred p).val != n then (t.reg a).val else (t.opb b).val)
        (joinTags [(t.reg a).tag, (t.opb b).tag, (t.pred p).tag]) 0
    | none => .none) s

/-- CMP_N32_SET1 (R104). -/
def execCmpN32Set1 (c : Ctl) (q : BitVec 2) (p : BitVec 5) (a : Reg) (b : OpB) (s : State) : Host.Outcome State Fault Refusal :=
  cmpUnit (.cmpN32Set1 c q p a b) p a b (cmpInt false false q) s

/-- CMP_N32_SET2 (R104). -/
def execCmpN32Set2 (c : Ctl) (q : BitVec 2) (p : BitVec 5) (a : Reg) (b : OpB) (s : State) : Host.Outcome State Fault Refusal :=
  cmpUnit (.cmpN32Set2 c q p a b) p a b (cmpInt false true q) s

/-- CMP_I32_SET1 (R104). -/
def execCmpI32Set1 (c : Ctl) (q : BitVec 2) (p : BitVec 5) (a : Reg) (b : OpB) (s : State) : Host.Outcome State Fault Refusal :=
  cmpUnit (.cmpI32Set1 c q p a b) p a b (cmpInt true false q) s

/-- CMP_I32_SET2 (R104). -/
def execCmpI32Set2 (c : Ctl) (q : BitVec 2) (p : BitVec 5) (a : Reg) (b : OpB) (s : State) : Host.Outcome State Fault Refusal :=
  cmpUnit (.cmpI32Set2 c q p a b) p a b (cmpInt true true q) s

/-- CMP_F32_SET1 (R104). -/
def execCmpF32Set1 (c : Ctl) (q : BitVec 2) (p : BitVec 5) (a : Reg) (b : OpB) (s : State) : Host.Outcome State Fault Refusal :=
  cmpUnit (.cmpF32Set1 c q p a b) p a b (cmpF32 false q) s

/-- CMP_F32_SET2 (R104). -/
def execCmpF32Set2 (c : Ctl) (q : BitVec 2) (p : BitVec 5) (a : Reg) (b : OpB) (s : State) : Host.Outcome State Fault Refusal :=
  cmpUnit (.cmpF32Set2 c q p a b) p a b (cmpF32 true q) s

/-- PAND (R105). -/
def execPand (c : Ctl) (p : BitVec 5) (na : Bool) (pa : BitVec 5) (nb : Bool) (pb : BitVec 5) (s : State) : Host.Outcome State Fault Refusal :=
  predUnit (.pand c p na pa nb pb) p na pa nb pb Bool.and s

/-- POR (R105). -/
def execPor (c : Ctl) (p : BitVec 5) (na : Bool) (pa : BitVec 5) (nb : Bool) (pb : BitVec 5) (s : State) : Host.Outcome State Fault Refusal :=
  predUnit (.por c p na pa nb pb) p na pa nb pb Bool.or s

/-- PXOR (R105). -/
def execPxor (c : Ctl) (p : BitVec 5) (na : Bool) (pa : BitVec 5) (nb : Bool) (pb : BitVec 5) (s : State) : Host.Outcome State Fault Refusal :=
  predUnit (.pxor c p na pa nb pb) p na pa nb pb Bool.xor s

/-- VTP (R105). -/
def execVtp (c : Ctl) (p : BitVec 5) (a : Reg) (s : State) : Host.Outcome State Fault Refusal :=
  aluUnit (.vtp c p a) (fun t g => .pred p ((t.reg a).val ≠ 0) ((t.reg a).tag.join g)) s

/-- PTV (R105). -/
def execPtv (c : Ctl) (d : Reg) (na : Bool) (pa : BitVec 5) (s : State) : Host.Outcome State Fault Refusal :=
  aluUnit (.ptv c d na pa) (fun t g => .reg d (if (t.pred pa).val != na then 1 else 0) ((t.pred pa).tag.join g) 0) s

end Sys2Proof.Machine
end

