-- ==== Sys2Proof/Machine/FloatUnits.lean ====
section
/-! DEFINITION. The float, conversion, special-function, generator and checksum instructions
(spec/06_thread_instructions.md R106 to R114, R122 to R124). -/

namespace Sys2Proof.Machine

open Sys2Proof

/-- d := f a b with flags. -/
def fbinUnit (i : Instr) (d a : Reg) (b : OpB) (f : Word → Word → Word × Flags) (s : State) :
    Host.Outcome State Fault Refusal :=
  aluUnit i (fun t g =>
    let r := f (t.reg a).val (t.opb b).val
    .reg d r.1 (joinTags [(t.reg a).tag, (t.opb b).tag, g]) r.2) s

/-- d := f a b d with flags, where d is a source. -/
def ftriUnit (i : Instr) (d a : Reg) (b : OpB) (f : Word → Word → Word → Word × Flags) (s : State) :
    Host.Outcome State Fault Refusal :=
  aluUnit i (fun t g =>
    let r := f (t.reg a).val (t.opb b).val (t.reg d).val
    .reg d r.1 (joinTags [(t.reg a).tag, (t.opb b).tag, (t.reg d).tag, g]) r.2) s

/-- d := f a with flags. -/
def funUnit (i : Instr) (d a : Reg) (f : Word → Word × Flags) (s : State) : Host.Outcome State Fault Refusal :=
  aluUnit i (fun t g =>
    let r := f (t.reg a).val
    .reg d r.1 ((t.reg a).tag.join g) r.2) s

/-- K := f K a; the guard's grade is joined (R83, R123). -/
def foldUnit (i : Instr) (k a : Reg) (f : DWord → Word → DWord) (s : State) : Host.Outcome State Fault Refusal :=
  aluUnit i (fun t g =>
    ⟨[.k k.toNat (f (t.acc k).val (t.reg a).val)], joinTags [(t.acc k).tag, (t.reg a).tag, g], untagged 0, 0⟩) s

/-- A comparison of accumulators: a failure, or a poisoned accumulator, traps with CHECK_FAIL and resumes at the next unit
(R124, R94). -/
def checkUnit (i : Instr) (k a : Reg) (fails : Thread → Bool) (s : State) : Host.Outcome State Fault Refusal :=
  issueUnit i (fun _ s tid _ =>
    let t := s.thread tid
    if fails t || (t.acc k).tag.poison || (t.acc a).tag.poison then
      (.trap .checkFail (BitVec.ofNat 32 (k.toNat % 4 * 4 + a.toNat % 4)) 0 true, s)
    else (.done .none, s)) s

/-- FADD_F32 (R106). -/
def execFaddF32 (c : Ctl) (d a : Reg) (b : OpB) (s : State) : Host.Outcome State Fault Refusal :=
  fbinUnit (.faddF32 c d a b) d a b (fadd (modeOf c)) s

/-- FSUB_F32 (R106). -/
def execFsubF32 (c : Ctl) (d a : Reg) (b : OpB) (s : State) : Host.Outcome State Fault Refusal :=
  fbinUnit (.fsubF32 c d a b) d a b (fsub (modeOf c)) s

/-- FMUL_F32 (R106). -/
def execFmulF32 (c : Ctl) (d a : Reg) (b : OpB) (s : State) : Host.Outcome State Fault Refusal :=
  fbinUnit (.fmulF32 c d a b) d a b (fmul (modeOf c)) s

/-- FFMA_F32 (R106). -/
def execFfmaF32 (c : Ctl) (d a : Reg) (b : OpB) (s : State) : Host.Outcome State Fault Refusal :=
  ftriUnit (.ffmaF32 c d a b) d a b (ffma (modeOf c)) s

/-- FMIN_F32 (R107). -/
def execFminF32 (c : Ctl) (d a : Reg) (b : OpB) (s : State) : Host.Outcome State Fault Refusal :=
  binUnit (.fminF32 c d a b) d a b (fminmax true) s

/-- FMAX_F32 (R107). -/
def execFmaxF32 (c : Ctl) (d a : Reg) (b : OpB) (s : State) : Host.Outcome State Fault Refusal :=
  binUnit (.fmaxF32 c d a b) d a b (fminmax false) s

/-- FABS_F32 (R108). -/
def execFabsF32 (c : Ctl) (d a : Reg) (s : State) : Host.Outcome State Fault Refusal :=
  unUnit (.fabsF32 c d a) d a (fun x => x &&& 0x7FFFFFFF) s

/-- FNEG_F32 (R108). -/
def execFnegF32 (c : Ctl) (d a : Reg) (s : State) : Host.Outcome State Fault Refusal :=
  unUnit (.fnegF32 c d a) d a (fun x => x ^^^ 0x80000000) s

/-- FRINT_F32 (R108). -/
def execFrintF32 (c : Ctl) (d a : Reg) (s : State) : Host.Outcome State Fault Refusal :=
  unUnit (.frintF32 c d a) d a (frint (modeOf c)) s

/-- FABS_F16X2 (R108). -/
def execFabsF16x2 (c : Ctl) (d a : Reg) (s : State) : Host.Outcome State Fault Refusal :=
  unUnit (.fabsF16x2 c d a) d a (fun x => x &&& 0x7FFF7FFF) s

/-- FNEG_F16X2 (R108). -/
def execFnegF16x2 (c : Ctl) (d a : Reg) (s : State) : Host.Outcome State Fault Refusal :=
  unUnit (.fnegF16x2 c d a) d a (fun x => x ^^^ 0x80008000) s

/-- FABS_BF16X2 (R108). -/
def execFabsBf16x2 (c : Ctl) (d a : Reg) (s : State) : Host.Outcome State Fault Refusal :=
  unUnit (.fabsBf16x2 c d a) d a (fun x => x &&& 0x7FFF7FFF) s

/-- FNEG_BF16X2 (R108). -/
def execFnegBf16x2 (c : Ctl) (d a : Reg) (s : State) : Host.Outcome State Fault Refusal :=
  unUnit (.fnegBf16x2 c d a) d a (fun x => x ^^^ 0x80008000) s

/-- FADD_F16X2 (R109). -/
def execFaddF16x2 (c : Ctl) (d a : Reg) (b : OpB) (s : State) : Host.Outcome State Fault Refusal :=
  fbinUnit (.faddF16x2 c d a b) d a b (packedAdd .fp16 (modeOf c)) s

/-- FMUL_F16X2 (R109). -/
def execFmulF16x2 (c : Ctl) (d a : Reg) (b : OpB) (s : State) : Host.Outcome State Fault Refusal :=
  fbinUnit (.fmulF16x2 c d a b) d a b (packedMul .fp16 (modeOf c)) s

/-- FFMA_F16X2 (R109). -/
def execFfmaF16x2 (c : Ctl) (d a : Reg) (b : OpB) (s : State) : Host.Outcome State Fault Refusal :=
  ftriUnit (.ffmaF16x2 c d a b) d a b (packedFma .fp16 (modeOf c)) s

/-- FDOT2_F32_F16X2 (R109). -/
def execFdot2F32F16x2 (c : Ctl) (d a : Reg) (b : OpB) (s : State) : Host.Outcome State Fault Refusal :=
  ftriUnit (.fdot2F32F16x2 c d a b) d a b (fdot2 .fp16 (modeOf c)) s

/-- FADD_BF16X2 (R109). -/
def execFaddBf16x2 (c : Ctl) (d a : Reg) (b : OpB) (s : State) : Host.Outcome State Fault Refusal :=
  fbinUnit (.faddBf16x2 c d a b) d a b (packedAdd .bf16 (modeOf c)) s

/-- FMUL_BF16X2 (R109). -/
def execFmulBf16x2 (c : Ctl) (d a : Reg) (b : OpB) (s : State) : Host.Outcome State Fault Refusal :=
  fbinUnit (.fmulBf16x2 c d a b) d a b (packedMul .bf16 (modeOf c)) s

/-- FFMA_BF16X2 (R109). -/
def execFfmaBf16x2 (c : Ctl) (d a : Reg) (b : OpB) (s : State) : Host.Outcome State Fault Refusal :=
  ftriUnit (.ffmaBf16x2 c d a b) d a b (packedFma .bf16 (modeOf c)) s

/-- FDOT2_F32_BF16X2 (R109). -/
def execFdot2F32Bf16x2 (c : Ctl) (d a : Reg) (b : OpB) (s : State) : Host.Outcome State Fault Refusal :=
  ftriUnit (.fdot2F32Bf16x2 c d a b) d a b (fdot2 .bf16 (modeOf c)) s

/-- CVT_F32_I32 (R111). -/
def execCvtF32I32 (c : Ctl) (d a : Reg) (s : State) : Host.Outcome State Fault Refusal :=
  funUnit (.cvtF32I32 c d a) d a (cvtF32I32 (modeOf c)) s

/-- CVT_F32_N32 (R111). -/
def execCvtF32N32 (c : Ctl) (d a : Reg) (s : State) : Host.Outcome State Fault Refusal :=
  funUnit (.cvtF32N32 c d a) d a (cvtF32N32 (modeOf c)) s

/-- CVT_I32_F32 (R111). -/
def execCvtI32F32 (c : Ctl) (d a : Reg) (s : State) : Host.Outcome State Fault Refusal :=
  funUnit (.cvtI32F32 c d a) d a (cvtI32F32 (modeOf c) (satOf c)) s

/-- CVT_N32_F32 (R111). -/
def execCvtN32F32 (c : Ctl) (d a : Reg) (s : State) : Host.Outcome State Fault Refusal :=
  funUnit (.cvtN32F32 c d a) d a (cvtN32F32 (modeOf c) (satOf c)) s

/-- CVT_F16_F32 (R110). -/
def execCvtF16F32 (c : Ctl) (d a : Reg) (s : State) : Host.Outcome State Fault Refusal :=
  funUnit (.cvtF16F32 c d a) d a (narrow16 .fp16 (modeOf c)) s

/-- CVT_BF16_F32 (R110). -/
def execCvtBf16F32 (c : Ctl) (d a : Reg) (s : State) : Host.Outcome State Fault Refusal :=
  funUnit (.cvtBf16F32 c d a) d a (narrow16 .bf16 (modeOf c)) s

/-- CVT_E4M3_F32 (R112). -/
def execCvtE4m3F32 (c : Ctl) (d a : Reg) (s : State) : Host.Outcome State Fault Refusal :=
  funUnit (.cvtE4m3F32 c d a) d a (cvtNarrow .e4m3 (modeOf c) (satOf c)) s

/-- CVT_E5M2_F32 (R112). -/
def execCvtE5m2F32 (c : Ctl) (d a : Reg) (s : State) : Host.Outcome State Fault Refusal :=
  funUnit (.cvtE5m2F32 c d a) d a (cvtNarrow .e5m2 (modeOf c) (satOf c)) s

/-- CVT_E2M1_F32 (R112). -/
def execCvtE2m1F32 (c : Ctl) (d a : Reg) (s : State) : Host.Outcome State Fault Refusal :=
  funUnit (.cvtE2m1F32 c d a) d a (cvtNarrow .e2m1 (modeOf c) (satOf c)) s

/-- CVT_F32_UE4M3 (R112). -/
def execCvtF32Ue4m3 (c : Ctl) (d a : Reg) (s : State) : Host.Outcome State Fault Refusal :=
  funUnit (.cvtF32Ue4m3 c d a) d a cvtF32Ue4m3 s

/-- CVT_I32_RNS24 (R113). -/
def execCvtI32Rns24 (c : Ctl) (d a : Reg) (s : State) : Host.Outcome State Fault Refusal :=
  funUnit (.cvtI32Rns24 c d a) d a cvtI32Rns24 s

/-- CVT_N32_RNS24 (R113). -/
def execCvtN32Rns24 (c : Ctl) (d a : Reg) (s : State) : Host.Outcome State Fault Refusal :=
  funUnit (.cvtN32Rns24 c d a) d a cvtN32Rns24 s

/-- CVT_RNS24_I32 (R113). -/
def execCvtRns24I32 (c : Ctl) (d a : Reg) (s : State) : Host.Outcome State Fault Refusal :=
  funUnit (.cvtRns24I32 c d a) d a (fun x => cvtRns24 (satOf c) (-8257920) 8257919 x.toInt) s

/-- CVT_RNS24_N32 (R113). -/
def execCvtRns24N32 (c : Ctl) (d a : Reg) (s : State) : Host.Outcome State Fault Refusal :=
  funUnit (.cvtRns24N32 c d a) d a (fun x => cvtRns24 (satOf c) 0 16515839 x.toNat) s

/-- CVT_F32_F16 (R111). -/
def execCvtF32F16 (c : Ctl) (d a : Reg) (s : State) : Host.Outcome State Fault Refusal :=
  unUnit (.cvtF32F16 c d a) d a (fun x => widen .fp16 (x.toNat % 2 ^ 16)) s

/-- CVT_F32_BF16 (R111). -/
def execCvtF32Bf16 (c : Ctl) (d a : Reg) (s : State) : Host.Outcome State Fault Refusal :=
  unUnit (.cvtF32Bf16 c d a) d a (fun x => widen .bf16 (x.toNat % 2 ^ 16)) s

/-- CVT_F32_E4M3 (R111). -/
def execCvtF32E4m3 (c : Ctl) (d a : Reg) (s : State) : Host.Outcome State Fault Refusal :=
  unUnit (.cvtF32E4m3 c d a) d a (fun x => widen .e4m3 (x.toNat % 2 ^ 8)) s

/-- CVT_F32_E5M2 (R111). -/
def execCvtF32E5m2 (c : Ctl) (d a : Reg) (s : State) : Host.Outcome State Fault Refusal :=
  unUnit (.cvtF32E5m2 c d a) d a (fun x => widen .e5m2 (x.toNat % 2 ^ 8)) s

/-- CVT_F32_E2M1 (R111). -/
def execCvtF32E2m1 (c : Ctl) (d a : Reg) (s : State) : Host.Outcome State Fault Refusal :=
  unUnit (.cvtF32E2m1 c d a) d a (fun x => widen .e2m1 (x.toNat % 2 ^ 4)) s

/-- RCP_F32 (R114). -/
def execRcpF32 (c : Ctl) (d a : Reg) (s : State) : Host.Outcome State Fault Refusal :=
  funUnit (.rcpF32 c d a) d a (sfu sfuRcp) s

/-- RSQRT_F32 (R114). -/
def execRsqrtF32 (c : Ctl) (d a : Reg) (s : State) : Host.Outcome State Fault Refusal :=
  funUnit (.rsqrtF32 c d a) d a (sfu sfuRsqrt) s

/-- SQRT_F32 (R114). -/
def execSqrtF32 (c : Ctl) (d a : Reg) (s : State) : Host.Outcome State Fault Refusal :=
  funUnit (.sqrtF32 c d a) d a (sfu sfuSqrt) s

/-- EXP2_F32 (R114). -/
def execExp2F32 (c : Ctl) (d a : Reg) (s : State) : Host.Outcome State Fault Refusal :=
  funUnit (.exp2F32 c d a) d a (sfu sfuExp2) s

/-- LOG2_F32 (R114). -/
def execLog2F32 (c : Ctl) (d a : Reg) (s : State) : Host.Outcome State Fault Refusal :=
  funUnit (.log2F32 c d a) d a (sfu sfuLog2) s

/-- SIN_F32 (R114). -/
def execSinF32 (c : Ctl) (d a : Reg) (s : State) : Host.Outcome State Fault Refusal :=
  funUnit (.sinF32 c d a) d a (sfu sfuSin) s

/-- COS_F32 (R114). -/
def execCosF32 (c : Ctl) (d a : Reg) (s : State) : Host.Outcome State Fault Refusal :=
  funUnit (.cosF32 c d a) d a (sfu sfuCos) s

/-- TANH_F32 (R114). -/
def execTanhF32 (c : Ctl) (d a : Reg) (s : State) : Host.Outcome State Fault Refusal :=
  funUnit (.tanhF32 c d a) d a (sfu sfuTanh) s

/-- GNEXT_B32 (R122). -/
def execGnextB32 (c : Ctl) (d a : Reg) (s : State) : Host.Outcome State Fault Refusal :=
  aluUnit (.gnextB32 c d a) (fun t g =>
    let r := gnext (t.gen a).val
    ⟨[.v d.toNat r.1, .g a.toNat r.2], (t.gen a).tag.join g, ⟨r.1, (t.gen a).tag.join g⟩, 0⟩) s

/-- GSEED (R122). -/
def execGseed (c : Ctl) (d a : Reg) (s : State) : Host.Outcome State Fault Refusal :=
  aluUnit (.gseed c d a) (fun t g =>
    let w := fun k : Nat => t.reg (a + BitVec.ofNat 7 k)
    ⟨[.g d.toNat (Sys2Proof.gseed (w 0).val (w 1).val (w 2).val (w 3).val)],
      joinTags [(w 0).tag, (w 1).tag, (w 2).tag, (w 3).tag, g], untagged 0, 0⟩) s

/-- CKZ (R123): the accumulator takes the guard's tag alone. -/
def execCkz (c : Ctl) (d : Reg) (s : State) : Host.Outcome State Fault Refusal :=
  aluUnit (.ckz c d) (fun _ g => ⟨[.k d.toNat 0], g, untagged 0, 0⟩) s

/-- CKA_MOD (R123). -/
def execCkaMod (c : Ctl) (d a : Reg) (s : State) : Host.Outcome State Fault Refusal :=
  foldUnit (.ckaMod c d a) d a Sys2Proof.ckaMod s

/-- CKA_F (R123). -/
def execCkaF (c : Ctl) (d a : Reg) (s : State) : Host.Outcome State Fault Refusal :=
  foldUnit (.ckaF c d a) d a Sys2Proof.ckaF s

/-- CKV_MOD (R124). -/
def execCkvMod (c : Ctl) (d a : Reg) (s : State) : Host.Outcome State Fault Refusal :=
  checkUnit (.ckvMod c d a) d a (fun t => (t.acc d).val.toNat % p61 ≠ (t.acc a).val.toNat % p61) s

/-- CKV_F (R124). -/
def execCkvF (c : Ctl) (d a b : Reg) (s : State) : Host.Outcome State Fault Refusal :=
  checkUnit (.ckvF c d a b) d a (fun t => ckvFFails (t.acc d).val (t.acc a).val (t.reg b).val) s

end Sys2Proof.Machine
end

