-- ==== Sys2Proof/Machine/NearMem.lean ====
section
/-! DEFINITION. Near loads and stores (spec/06_thread_instructions.md R117, R118), the spill stack (R121, R85, R86), near atomics,
signals and waits (spec/08_core_instructions.md R171 to R173). -/

namespace Sys2Proof.Machine

open Sys2Proof

/-! ## Uncorrectable errors (R84, R180) -/

/-- An uncorrectable error noted in a die's black box, of a world and a unit (R388). -/
def noteError (s : State) (die w unit : Nat) : State := boxEvent s die 2 w unit (List.replicate 16 0)

/-- The slices of the chunks of a launch's Crucible allocation, by its space (R269). -/
def Launch.chunksIn (l : Launch) (sp : Nat) : Option (List Nat) :=
  (l.ownChunks.find? sp).orElse fun _ =>
    (List.find? (fun d : Nat × Nat => d.2 = sp) l.crucSpace).map fun d => l.crucChunks.getD d.1 []

/-- What an allocated line of near memory belongs to: its die, its world and its UNIT (R388); none where no allocation holds it. -/
def lineOwner (s : State) (k : Nat) : Option (Nat × Nat × Nat) :=
  let sp := k / 2 ^ 57
  let n := k % 2 ^ 57
  let ofQuad := fun (w q : Nat) => (dieOfQuad q, w, q % 64 * 256)
  match List.find? (fun e : Nat × Team => e.2.bench = sp) s.teams, List.find? (fun e : Nat × Cluster => e.2.pool = sp) s.clusters with
  | some e, _ => some (dieOf e.2.core, e.2.world, coreUnit e.2.core)
  | _, some e => some (ofQuad (s.launch e.2.launch).world (((e.2.cores.map quadOf).eraseDups).getD (n / 2 ^ 13) 0))
  | _, _ => s.launches.findSome? fun e => (e.2.chunksIn sp).map fun ch => ofQuad e.2.world (ch.getD (n % ch.length) 0)

/-- Whether a read of a line finds an error: the data of an absent line are not read. -/
def Latent.foundIn (k : Nat) (present : Bool) : Latent → Bool
  | .data g => g / 16 = k && present
  | .tags l => l = k
  | _ => false

/-- A line read (R180): the errors in it are detected, with an event for each; they poison it, one in its tag bits with grade G3. -/
def detectLine (s : State) (k : Nat) : State :=
  let l := s.line k
  match s.latent.filter (Latent.foundIn k l.present) with
  | [] => s
  | e :: rest =>
    let tags := (e :: rest).contains (.tags k)
    let s := { s with latent := s.latent.filter fun e => !e.foundIn k l.present }
    let s := s.setLine k { l with tag := ⟨if tags then 3 else l.tag.grade, true⟩ }
    match lineOwner s k with
    | some (die, w, unit) => (e :: rest).foldl (fun s _ => noteError s die w unit) s
    | none => s

/-- The lines of [key, key + n) read (R180). -/
def senseNear (s : State) (key n : Nat) : State := (linesOf key n).foldl detectLine s

/-- The near address of format M (R45). -/
def effAddr (base : Word) (off : BitVec 8) (size : Nat) : Word := base + off.signExtend 32 * BitVec.ofNat 32 size

/-- The checks that a near access makes before presence (R117, R185): poison of the address register, alignment, mapping, range
locks. The key of the bytes where they pass. -/
def nearCheck (s : State) (tid : Nat) (base : Tagged Word) (ea : Word) (size : Nat) (load : Bool) : Except UnitResult Nat :=
  if base.tag.poison then .error (.kill base.val)
  else if ea.toNat % size ≠ 0 then .error (.trap .align ea 0 false)
  else match nearKey s (teamOf tid) ea.toNat size with
    | none => .error (.trap .nearRange ea 0 false)
    | some key => if locked s key size load then .error (.trap .rangeLock ea 0 false) else .ok key

/-- Threads filed again although they wait as in `bwait` (R152, R126), since they first did. -/
def markRetries (s : State) (tids : List Nat) : State :=
  tids.foldl (fun s x => s.modThread x fun t => { t with since := if t.retries then t.since else s.time, retries := true }) s

/-- A thread that meets an absent line (R181, R272): it parks on a presence watch, or where the line's slice has none free it is
filed again at the head of its chain 256 cc later. The active threads of a uniform unit wait on one watch (R182). `call`: the line
is of a service call's block, and the thread waits in that call (R126). -/
def parkOnLine (u : Issue) (s : State) (tid : Nat) (ea : Nat) (k : Nat) (call : Bool := false) : UnitResult × State :=
  let watch := fun sl => (.wait (.line k sl s.nextId call) false, s.newId.2)
  match sliceOf s (teamOf tid) ea with
  | some sl =>
    if watchesFull s sl then (.file u.head (s.time + 256), if call then markRetries s [tid] else s) else watch (some sl)
  | none => watch none

/-- Whether bytes read ahead for a thread cover [key, key + n). -/
def EarlyLoad.holds (e : EarlyLoad) (tid key n : Nat) : Bool :=
  e.tid = tid && e.key ≤ key && key + n ≤ e.key + e.bytes.length

/-- The value and the line's tag that a load reads: as memory is, or for a load out of its place as it was when it was read ahead
(R190). No store is seen before an earlier load of its thread has its value (notes/assumptions/10.md). -/
def loadedValue (late : Bool) (s : State) (tid key n : Nat) : Nat × Tag :=
  match if late then List.find? (fun e : EarlyLoad => e.holds tid key n) s.early else none with
  | some e => (leValue ((e.bytes.drop (key - e.key)).take n), e.tag)
  | none => (s.mem.readLe key n, (s.line (key / 128)).tag)

/-- The state in which a load out of its place reads: the thread's own late stores to its bytes are visible to it (R190),
and so to every other agent: the rule asks for the first only (DESIGN CHOICE, notes/assumptions/10.md). -/
def beforeLoad (late : Bool) (s : State) (tid key n : Nat) : State :=
  if late then drainLate s fun e => (neededLate tid key n s.late).contains e else s

/-- What was read ahead of bytes that a thread has loaded or stored is dropped, so that it never reads an older value afterwards
(R190). -/
def afterAccess (late : Bool) (s : State) (tid key n : Nat) : State :=
  if late then dropEarly s fun e => e.tid = tid && e.meets key n else s

/-- A near load (R117): `conv` makes the bytes' value the register's result. -/
def loadUnit (i : Instr) (a : Reg) (off : BitVec 8) (size : Nat) (res : Nat → Tag → Result) (s : State) :
    Host.Outcome State Fault Refusal :=
  issueUnit i (fun u s tid g =>
    let b := (s.thread tid).reg a
    let ea := effAddr b.val off size
    match nearCheck s tid b ea size true with
    | .error r => (r, s)
    | .ok key =>
      let s := beforeLoad u.late s tid key size
      if !(s.line (key / 128)).present then parkOnLine u s tid ea.toNat (key / 128)
      else
        let x := loadedValue u.late s tid key size
        (.done (res x.1 (joinTags [b.tag, x.2, g])), afterAccess u.late s tid key size)) s

/-- The bytes of a near store with their tag: visible at once, or, for a store out of its place, later (R118, R190). -/
def storeNear (late : Bool) (s : State) (tid key : Nat) (bytes : List Byte) (tag : Tag) : State :=
  if late then { afterAccess true s tid key bytes.length with late := s.late ++ [⟨tid, key, bytes, tag, false⟩] }
  else writeNear s key bytes tag

/-- A near store (R118): `data` reads the bytes' value with its tag. -/
def storeUnit (i : Instr) (a : Reg) (off : BitVec 8) (size : Nat) (data : Thread → Nat × Tag) (s : State) :
    Host.Outcome State Fault Refusal :=
  issueUnit i (fun u s tid g =>
    let t := s.thread tid
    let b := t.reg a
    let ea := effAddr b.val off size
    match nearCheck s tid b ea size false with
    | .error r => (r, s)
    | .ok key =>
      (.done .none, storeNear u.late s tid key (leBytes size (data t).1) (joinTags [(data t).2, b.tag, g]))) s

def regData (d : Reg) (t : Thread) : Nat × Tag := ((t.reg d).val.toNat, (t.reg d).tag)
def pairData (d : Reg) (t : Thread) : Nat × Tag := ((t.pair d).val.toNat, (t.pair d).tag)

/-- A loaded value in a register, by a reading of its low bits. -/
def loadReg (d : Reg) (f : Word → Word) (n : Nat) (t : Tag) : Result := .reg d (f (BitVec.ofNat 32 n)) t 0

def loadPair (d : Reg) (n : Nat) (t : Tag) : Result := .pair d (BitVec.ofNat 64 n) t

/-- Whether a unit is a near load (R117), or a near store (R118). -/
def isNearLoad : Instr → Bool
  | .ldN8 .. | .ldI8 .. | .ldN16 .. | .ldI16 .. | .ldB32 .. | .ldB64 .. => true
  | _ => false

def isNearStore : Instr → Bool
  | .stB8 .. | .stB16 .. | .stB32 .. | .stB64 .. => true
  | _ => false

/-- The plain accesses that may be performed out of their places (R190): those of lane units. -/
def mayBeLate (i : Instr) : Bool := (isNearLoad i || isNearStore i) && !i.ctl.k

/-- The late store at a place of the list becomes visible, where no earlier one of its thread shares a byte with it (R190). -/
def drainOne (n : Nat) (s : State) : State :=
  match s.late[n]? with
  | some e =>
    if (s.late.take n).any fun x => x.tid = e.tid && x.meets e.key e.bytes.length then s
    else performLate { s with late := s.late.eraseIdx n } e
  | none => s

/-- A thread's core reads near bytes of a present line ahead of a load (R190), and finds the errors there (R180). -/
def readAhead (tid key n : Nat) (s : State) : State :=
  let s := senseNear s key n
  if 0 < n && n ≤ 8 && key % n = 0 && (s.line (key / 128)).present && !locked s key n true && (s.thread tid).place != .ended &&
      !s.late.any (fun e => e.tid = tid && e.meets key n) then
    { s with early := s.early ++ [⟨tid, key, s.mem.readBytes key n, (s.line (key / 128)).tag⟩] }
  else s

/-! ## Read-modify-write (R64, R171) -/

/-- The new value and the flags of an atomic: `old` as found, `x` the operand (for cas.b32 the new value), `e` the value that
cas.b32 expects. -/
def atomicNew (op : BitVec 4) (old x e : Nat) : Nat × Flags :=
  let o : Word := BitVec.ofNat 32 old
  let w : Word := BitVec.ofNat 32 x
  match op.toNat with
  | 0 => ((o + w).toNat, 0)
  | 1 => ((minN o w).toNat, 0)
  | 2 => ((maxN o w).toNat, 0)
  | 3 => ((minI o w).toNat, 0)
  | 4 => ((maxI o w).toNat, 0)
  | 5 => ((o &&& w).toNat, 0)
  | 6 => ((o ||| w).toNat, 0)
  | 7 => ((o ^^^ w).toNat, 0)
  | 8 => (w.toNat, 0)
  | 9 => (if o = BitVec.ofNat 32 e then w.toNat else o.toNat, 0)
  | 10 => ((old + x) % 2 ^ 64, 0)
  | _ => let r := fadd .rne o w
         (r.1.toNat, r.2)

/-- The bytes that an atomic accesses. -/
def atomicSize (op : BitVec 4) : Nat := if op = 10 then 8 else 4

/-- The operand, the expected value and the tags of an atomic's data register or pair. -/
def atomicOperand (t : Thread) (d : Reg) (op : BitVec 4) : Nat × Nat × Tag :=
  if op = 9 then ((t.reg (d + 1)).val.toNat, (t.reg d).val.toNat, (t.pair d).tag)
  else if op = 10 then ((t.pair d).val.toNat, 0, (t.pair d).tag)
  else ((t.reg d).val.toNat, 0, (t.reg d).tag)

/-- The old value in the data register, or in the pair for add.n64 (R64). -/
def atomicResult (d : Reg) (op : BitVec 4) (old : Nat) (t : Tag) (fl : Flags) : Result :=
  if op = 10 then .pair d (BitVec.ofNat 64 old) t else .reg d (BitVec.ofNat 32 old) t fl

/-- Whether an ordering modifier releases, and whether it acquires (R64): `orderBefore` and the answer of an `atom` do what R171 and R304
ask of them. -/
def ordReleases (ord : BitVec 2) : Bool := ord = 2 || ord = 3
def ordAcquires (ord : BitVec 2) : Bool := ord = 1 || ord = 3

/-- NATOM (R171): one indivisible step at the line's home. -/
def execNatom (c : Ctl) (d a : Reg) (ord : BitVec 2) (op : BitVec 4) (s : State) : Host.Outcome State Fault Refusal :=
  issueUnordered (.natom c d a ord op) (fun _ s tid g =>
    let t := s.thread tid
    let b := t.reg a
    let size := atomicSize op
    match nearCheck s tid b b.val size false with
    | .error r => (r, s)
    | .ok key =>
      let (x, e, dt) := atomicOperand t d op
      let old := nearValue s key size
      let r := atomicNew op old x e
      let lt := (s.line (key / 128)).tag
      (.done (atomicResult d op old (joinTags [lt, dt, b.tag, g]) r.2),
        writeNear s key (leBytes size r.1) (joinTags [dt, b.tag, g]))) s

/-- BSIG (R172): a release, then the saturating add at the counter's home; BAR_SAT after the signal. -/
def execBsig (c : Ctl) (a : Reg) (b : OpB) (s : State) : Host.Outcome State Fault Refusal :=
  issueUnordered (.bsig c a b) (fun _ s tid g =>
    let t := s.thread tid
    let base := t.reg a
    let amount := (t.opb b).val.toNat
    match nearCheck s tid base base.val 8 false with
    | .error r => (r, s)
    | .ok key =>
      let new := min (nearValue s key 8 + amount) (2 ^ 64 - 1)
      let s := writeNear s key (leBytes 8 new) (joinTags [(t.opb b).tag, base.tag, g])
      (if new = 2 ^ 64 - 1 && amount ≠ 0 then .trap .barSat base.val 0 true else .done .none, s)) s

/-- The keys of the barrier-waiter entries in use on a core: (team, counter, target) (R150). -/
def waiterKeys (s : State) (core : Nat) : List (Nat × Nat × Nat) :=
  (List.filterMap (fun e : Nat × Thread => match e.2.place with
    | .waiting (.counter k target _) =>
      if (s.threadGroup e.1).core = core && !(s.threadGroup e.1).offCore then some (teamOf e.1, k, target) else none
    | _ => none) s.threads).eraseDups

/-- BWAIT (R173, R150 to R152): on while the counter is below its target the thread waits under its key, or where a core's 64
entries are taken it is filed again at the `bwait` 256 cc later. -/
def execBwait (c : Ctl) (a b : Reg) (s : State) : Host.Outcome State Fault Refusal :=
  issueUnit (.bwait c a b) (fun u s tid _ =>
    let t := s.thread tid
    let base := t.reg a
    let target := (t.pair b).val.toNat
    match nearCheck s tid base base.val 8 true with
    | .error r => (r, s)
    | .ok key =>
      let all := if c.k then u.tids else [tid]
      if target ≤ nearValue s key 8 then
        (.done .none, all.foldl (fun s x => s.modThread x fun t => { t with retries := false }) s)
      else
        let keys := waiterKeys s u.core
        let key3 := (teamOf tid, key, target)
        if keys.contains key3 || keys.length < 64 then (.wait (.counter key target u.head) true, s)
        else (.file u.head (s.time + 256), markRetries s all)) s

/-! ## The spill stack (R85, R86, R121) -/

/-- PUSH (R121). -/
def execPush (c : Ctl) (a : Reg) (n : BitVec 8) (s : State) : Host.Outcome State Fault Refusal :=
  issueUnit (.push c a n) (fun _ s tid g =>
    let t := s.thread tid
    let k := n.toNat
    if s.spillDepth tid < t.sp + k then (.trap .spillOvf (BitVec.ofNat 32 t.sp) 0 false, s)
    else
      let t := (List.range k).foldl (fun t j =>
        let r := t.reg (a + BitVec.ofNat 7 j)
        t.setSpill (t.sp + j) ⟨r.val, r.tag.join g⟩) t
      (.done .none, s.setThread tid { t with sp := t.sp + k })) s

/-- POP (R121): each register takes the tags of its spill word, the guard's joined. -/
def execPop (c : Ctl) (d : Reg) (n : BitVec 8) (s : State) : Host.Outcome State Fault Refusal :=
  issueUnit (.pop c d n) (fun _ s tid g =>
    let t := s.thread tid
    let k := n.toNat
    if t.sp < k then (.trap .spillOvf (BitVec.ofNat 32 t.sp) 0 false, s)
    else
      let word := fun j => let w := t.spillWord (t.sp - k + j)
                           (⟨w.val, w.tag.join g⟩ : Tagged Word)
      let t' := (List.range k).foldl (fun t j => t.setReg (d.toNat + j) (word j)) t
      (.done ⟨[], Tag.zero, word 0, 0⟩, s.setThread tid { t' with sp := t.sp - k })) s

/-- LD_N8 (R117). -/
def execLdN8 (c : Ctl) (d a : Reg) (off : BitVec 8) (s : State) : Host.Outcome State Fault Refusal :=
  loadUnit (.ldN8 c d a off) a off 1 (loadReg d (fun x => x)) s

/-- LD_I8 (R117). -/
def execLdI8 (c : Ctl) (d a : Reg) (off : BitVec 8) (s : State) : Host.Outcome State Fault Refusal :=
  loadUnit (.ldI8 c d a off) a off 1 (loadReg d (sxt 8)) s

/-- LD_N16 (R117). -/
def execLdN16 (c : Ctl) (d a : Reg) (off : BitVec 8) (s : State) : Host.Outcome State Fault Refusal :=
  loadUnit (.ldN16 c d a off) a off 2 (loadReg d (fun x => x)) s

/-- LD_I16 (R117). -/
def execLdI16 (c : Ctl) (d a : Reg) (off : BitVec 8) (s : State) : Host.Outcome State Fault Refusal :=
  loadUnit (.ldI16 c d a off) a off 2 (loadReg d (sxt 16)) s

/-- LD_B32 (R117). -/
def execLdB32 (c : Ctl) (d a : Reg) (off : BitVec 8) (s : State) : Host.Outcome State Fault Refusal :=
  loadUnit (.ldB32 c d a off) a off 4 (loadReg d (fun x => x)) s

/-- LD_B64 (R117). -/
def execLdB64 (c : Ctl) (d a : Reg) (off : BitVec 8) (s : State) : Host.Outcome State Fault Refusal :=
  loadUnit (.ldB64 c d a off) a off 8 (loadPair d) s

/-- ST_B8 (R118). -/
def execStB8 (c : Ctl) (d a : Reg) (off : BitVec 8) (s : State) : Host.Outcome State Fault Refusal :=
  storeUnit (.stB8 c d a off) a off 1 (regData d) s

/-- ST_B16 (R118). -/
def execStB16 (c : Ctl) (d a : Reg) (off : BitVec 8) (s : State) : Host.Outcome State Fault Refusal :=
  storeUnit (.stB16 c d a off) a off 2 (regData d) s

/-- ST_B32 (R118). -/
def execStB32 (c : Ctl) (d a : Reg) (off : BitVec 8) (s : State) : Host.Outcome State Fault Refusal :=
  storeUnit (.stB32 c d a off) a off 4 (regData d) s

/-- ST_B64 (R118). -/
def execStB64 (c : Ctl) (d a : Reg) (off : BitVec 8) (s : State) : Host.Outcome State Fault Refusal :=
  storeUnit (.stB64 c d a off) a off 8 (pairData d) s

end Sys2Proof.Machine
end

