-- ==== Sys2Proof/Machine/Control.lean ====
section
/-! DEFINITION. Branches, calls and returns (spec/06_thread_instructions.md R119, R120; spec/08_core_instructions.md R159), special
registers (R125, R74), software traps and the return from a handler (R128, R90). -/

namespace Sys2Proof.Machine

open Sys2Proof

/-- The target of a format B word (R46). -/
def branchTarget (u : Issue) (off : BitVec 18) : Word := u.addr + off.signExtend 32 * 4

/-- A tested branch for one thread: a poisoned predicate kills (R84); `go` is what a taken branch does. -/
def testedUnit (i : Instr) (g : BitVec 5) (n : Bool) (go : Issue → State → Nat → UnitResult × State) (s : State) :
    Host.Outcome State Fault Refusal :=
  issueUnit i (fun u s tid _ =>
    let p := (s.thread tid).pred g
    if p.tag.poison then (.kill (if p.val then 1 else 0), s)
    else if p.val != n then go u s tid
    else (.done .none, s)) s

/-- A taken branch. -/
def goBranch (off : BitVec 18) (u : Issue) (s : State) (_tid : Nat) : UnitResult × State := (.jump (branchTarget u off), s)

/-- A taken call (R120): the return address is pushed with grade G0. -/
def goCall (off : BitVec 18) (u : Issue) (s : State) (tid : Nat) : UnitResult × State :=
  let t := s.thread tid
  if s.spillDepth tid < t.sp + 1 then (.trap .spillOvf (BitVec.ofNat 32 t.sp) 0 false, s)
  else (.jump (branchTarget u off), s.setThread tid { t.setSpill t.sp (untagged (u.addr + 4)) with sp := t.sp + 1 })

/-- BRA (R119, R159). -/
def execBra (c : Ctl) (g : BitVec 5) (n : Bool) (off : BitVec 18) (s : State) : Host.Outcome State Fault Refusal :=
  testedUnit (.bra c g n off) g n (goBranch off) s

/-- BRA_ALWAYS (R119, R159). -/
def execBraAlways (c : Ctl) (off : BitVec 18) (s : State) : Host.Outcome State Fault Refusal :=
  issueUnit (.braAlways c off) (fun u s tid _ => goBranch off u s tid) s

/-- CALL (R120). -/
def execCall (c : Ctl) (g : BitVec 5) (n : Bool) (off : BitVec 18) (s : State) : Host.Outcome State Fault Refusal :=
  testedUnit (.call c g n off) g n (goCall off) s

/-- CALL_ALWAYS (R120). -/
def execCallAlways (c : Ctl) (off : BitVec 18) (s : State) : Host.Outcome State Fault Refusal :=
  issueUnit (.callAlways c off) (fun u s tid _ => goCall off u s tid) s

/-- RET (R120): the popped word must be clean and aligned; SP moves only with the jump. -/
def execRet (c : Ctl) (s : State) : Host.Outcome State Fault Refusal :=
  issueUnit (.ret c) (fun _ s tid _ =>
    let t := s.thread tid
    if t.sp < 1 then (.trap .spillOvf (BitVec.ofNat 32 t.sp) 0 false, s)
    else
      let w := t.spillWord (t.sp - 1)
      if w.tag.poison then (.kill w.val, s)
      else if w.val.toNat % 4 ≠ 0 then (.trapWith .align w, s)
      else (.jump w.val, s.setThread tid { t with sp := t.sp - 1 })) s

/-- BRX (R120). -/
def execBrx (c : Ctl) (a : Reg) (s : State) : Host.Outcome State Fault Refusal :=
  issueUnit (.brx c a) (fun _ s tid _ =>
    let x := (s.thread tid).reg a
    if x.tag.poison then (.kill x.val, s)
    else if x.val.toNat % 4 ≠ 0 then (.trap .align x.val 0 false, s)
    else (.jump x.val, s)) s

/-! ## Special registers (R69, R74) -/

/-- Lanes of one pipe from its fuses: at least 12 are good (R75). -/
def goodLanes (f : BitVec 16) : BitVec 16 :=
  if 12 ≤ onesBelow (f.setWidth 32) 16 then f else f ||| 0x0FFF

/-- Whether the package has lost a lane: bit b of the core's DLMAP (R18, R75). -/
def laneLost (core b : Nat) : Bool :=
  (List.finRange 2048).any fun k => match Config.lostLane k with
    | some (c, x) => c.val = core && x.val = b
    | none => false

/-- The lanes of a core that the package has not lost. -/
def fuseWord (core : Nat) : Word :=
  (List.range 32).foldl (fun w b => if laneLost core b then w else w ||| 1#32 <<< b) 0

def dlmap (core : Nat) : Word :=
  goodLanes ((fuseWord core).extractLsb' 16 16) ++ goodLanes ((fuseWord core).extractLsb' 0 16)

/-- A special register as a thread on a core reads it, with its tags (R74); the 64-bit ones whole. -/
def specialReg (s : State) (tid core : Nat) (n : BitVec 8) : Tagged DWord :=
  let t := s.thread tid
  let l := s.threadLaunch tid
  let cl := s.cluster (s.threadTeam tid).cluster
  let num : Nat → Tagged DWord := fun x => untagged (BitVec.ofNat 64 x)
  match n.toNat with
  | 0x00 => num (slotOf tid)
  | 0x01 => num (groupOf tid)
  | 0x02 => num (s.threadTeam tid).index
  | 0x03 => num cl.x
  | 0x04 => num cl.y
  | 0x05 => num cl.z
  | 0x06 => num l.gdx
  | 0x07 => num l.gdy
  | 0x08 => num l.gdz
  | 0x09 => num (s.threadGroup tid).role
  | 0x0A => num (s.threadWorld tid)
  | 0x0B => num (dlmap core).toNat
  | 0x0C => ⟨t.fflags.val.setWidth 64, t.fflags.tag⟩
  | 0x0D => untagged (s.cyc core)
  | 0x0E => num t.trapinfo.toNat
  | 0x0F => num t.trappc.toNat
  | 0x10 => ⟨t.trapval.val.setWidth 64, t.trapval.tag⟩
  | 0x11 => untagged (l.record &&& BitVec.ofNat 64 (2 ^ 55 - 1))
  | 0x12 => num l.rank
  | _ => num (s.threadGroup tid).seg

/-- Whether a special register is 64 bits wide (R69). -/
def specialWide (n : BitVec 8) : Bool := n = 0x0D || n = 0x11

/-- MFS (R125). -/
def execMfs (c : Ctl) (d : Reg) (n : BitVec 8) (s : State) : Host.Outcome State Fault Refusal :=
  issueUnit (.mfs c d n) (fun u s tid g =>
    let x := specialReg s tid u.core n
    (.done (if specialWide n then .pair d x.val (x.tag.join g) else .reg d (x.val.setWidth 32) (x.tag.join g) 0), s)) s

/-- MTS (R125): only FFLAGS may be written (R76); the others trap with PRIV. -/
def execMts (c : Ctl) (a : Reg) (n : BitVec 8) (s : State) : Host.Outcome State Fault Refusal :=
  issueUnit (.mts c a n) (fun u s tid g =>
    if n = 0x0C then
      let x := (s.thread tid).reg a
      (.done .none, s.modThread tid fun t => { t with fflags := ⟨x.val.setWidth 7, x.tag.join g⟩ })
    else (.trap .priv u.word 0 false, s)) s

/-! ## Traps -/

/-- TRAP (R128). -/
def execTrap (c : Ctl) (n : BitVec 8) (s : State) : Host.Outcome State Fault Refusal :=
  issueUnit (.trap c n) (fun _ s _ _ => (.trap .swtrap (zextImm n) 0 true, s)) s

/-- RTE (R90): outside a handler it traps with PRIV. -/
def execRte (c : Ctl) (s : State) : Host.Outcome State Fault Refusal :=
  issueUnit (.rte c) (fun u s tid _ =>
    if (s.thread tid).hnd then (.moved, returnFromTrap s tid) else (.trap .priv u.word 0 false, s)) s

end Sys2Proof.Machine
end

