-- ==== Sys2Proof/Machine/Matrix.lean ====
section
/-! DEFINITION. The value of a matrix pass (spec/11_cluster_anvil.md R213, R214, R222, R223, R227, R228) and of a tile conversion
(spec/12_cluster_instructions.md R241, R242), on bytes. -/

namespace Sys2Proof

/-! ## Elements (R213, R222) -/

def nibbles (l : List Byte) : List Nat := l.flatMap fun b => [b.toNat % 16, b.toNat / 16]

/-- The little-endian values of n bytes each. -/
def chunksLe (n : Nat) (l : List Byte) : List Nat :=
  (List.range (l.length / n)).map fun k => leValue ((l.drop (n * k)).take n)

def flushed (on : Bool) (v : FVal) (subnormal : Bool) : FVal :=
  if on && subnormal then
    match v with
    | .fin neg _ _ => .fin neg 0 0
    | v => v
  else v

/-- The elements of 32 bytes in a float or I8 format of a slot: AFMT and BFMT codes 0 to 4 (R224). -/
def elements (fmt : Nat) (fzs : Bool) (l : List Byte) : List FVal :=
  match fmt with
  | 0 => l.map fun b => Fmt.e4m3.decode b.toNat
  | 1 => l.map fun b => Fmt.e5m2.decode b.toNat
  | 2 => (nibbles l).map Fmt.e2m1.decode
  | 3 => l.map fun b => .fin b.msb b.toInt.natAbs 0
  | _ => (chunksLe 2 l).map fun x => flushed fzs (Fmt.bf16.decode x) (Fmt.bf16.isSubnormal x)

/-- The residues of the elements of 32 bytes, I8 or RNS24, and whether one was out of range (R223, R228). -/
def residues (fmt : Nat) (l : List Byte) : List (Nat × Nat × Nat) × Bool :=
  if fmt = 3 then
    (l.map fun b => ((b.toInt % 256).toNat, (b.toInt % 255).toNat, (b.toInt % 253).toNat), false)
  else
    let r := (chunksLe 4 l).map fun x => rnsResidues (BitVec.ofNat 32 x)
    (r.map (·.1), r.any (·.2))

/-! ## Sums (R227, R228) -/

/-- A scale byte: an invalid one makes the result NaN and sets FMT_INV. -/
def scaleValue (x : Nat) : FVal × Flags :=
  match ue4m3 x with
  | some v => (v, 0)
  | none => (.nan, Flags.fmtInv)

/-- p_k with its scales, and whether it is 0 · ∞. -/
def scaledProduct (a b : FVal) (scales : List (FVal × FVal)) (k : Nat) : FVal × Bool :=
  match scales with
  | [] => a.mul b
  | _ =>
    let sc := scales.getD (k / 32) (.nan, .nan)
    let p := a.mul b
    let q := p.1.mul sc.1
    let r := q.1.mul sc.2
    (r.1, p.2 || q.2 || r.2)

/-- A product of two I8 elements: integers have no −0, so a zero is +0 (R227). -/
def integerProduct (p : FVal × Bool) : FVal × Bool :=
  match p.1 with
  | .fin _ 0 _ => (.fin false 0 0, p.2)
  | _ => p

/-- S of R227: the exact sum with the flags that its operands raise. An exact zero is −0 only where every product is −0. -/
def productSum (ps : List (FVal × Bool)) : FVal × Flags :=
  let vs := ps.map (·.1)
  let r := FVal.sum .rne (.fin true 0 0 :: vs)
  let opposite := vs.any (fun v => v == .inf false) && vs.any fun v => v == .inf true
  (r.1, ivIf (r.2 || opposite || ps.any (·.2)))

/-- D[i][j] of R227 from S: `set` for `mma.set`, otherwise d is added. -/
def accumulate (slot : Word) (set : Bool) (sum : FVal × Flags) (d : Word) : Word × Flags :=
  let mode := Mode.ofSlot (fmtRnd slot)
  let dv := flushed (fmtFzs slot) (f32 d) (Fmt.fp32.isSubnormal d.toNat)
  let v := if set then (sum.1, false) else FVal.sum mode [dv, sum.1]
  let o := Fmt.fp32.round mode v.1
  let fl := o.2 ||| ivIf v.2 ||| sum.2
  if fmtFzr slot && Fmt.fp32.isSubnormal o.1 then
    (BitVec.ofNat 32 (o.1 / 2 ^ 31 * 2 ^ 31), fl ||| Flags.uf ||| Flags.nx)
  else (BitVec.ofNat 32 o.1, fl)

/-- D[i][j] of R228. -/
def rnsAccumulate (set : Bool) (ps : List ((Nat × Nat × Nat) × (Nat × Nat × Nat))) (range : Bool) (d : Word) : Word × Flags :=
  let s := ps.foldl (fun (s : Nat × Nat × Nat) p =>
    (s.1 + p.1.1 * p.2.1, s.2.1 + p.1.2.1 * p.2.2.1, s.2.2 + p.1.2.2 * p.2.2.2)) (0, 0, 0)
  let dr := if set then ((0, 0, 0), false) else rnsResidues d
  (rnsPack ((s.1 + dr.1.1) % 256, (s.2.1 + dr.1.2.1) % 255, (s.2.2 + dr.1.2.2) % 253),
    if range || dr.2 then Flags.rnsRng else 0)

/-- Byte j of word w of a row. -/
def rowBytes (row : List Word) (n : Nat) : List Byte := (row.take n).flatMap fun w => leBytes 4 w.toNat

/-- One row of a pass: the 32 new words of D and the flags of the row. `col j`: the 32 bytes of column j of the quarter;
`colScale j`: its scale bytes. -/
def passRow (slot : Word) (sub : Nat) (row : List Word) (col : Nat → List Byte) (colScale : Nat → List Nat)
    (d : Nat → Word) : List Word × Flags :=
  let set := sub = 2
  let out := (List.range 32).map fun j =>
    if fmtAccRns slot then
      let a := residues (fmtA slot) (rowBytes row 8)
      let b := residues (fmtB slot) (col j)
      rnsAccumulate set (a.1.zip b.1) (a.2 || b.2) (d j)
    else
      let a := elements (fmtA slot) (fmtFzs slot) (rowBytes row 8)
      let b := elements (fmtB slot) (fmtFzs slot) (col j)
      let blocks := if sub = 1 then (if fmtA slot = 2 then 2 else 1) else 0
      let aScale := (rowBytes (row.drop 8) 1).map (·.toNat)
      let sc := (List.range blocks).map fun h => (scaleValue (aScale.getD h 0), scaleValue ((colScale j).getD h 0))
      let scFlags := sc.foldl (fun fl x => fl ||| x.1.2 ||| x.2.2) (0 : Flags)
      let scales := sc.map fun x => (x.1.1, x.2.1)
      let products := (List.range a.length).map fun k => scaledProduct (a.getD k .nan) (b.getD k .nan) scales k
      let ps := if fmtA slot = 3 && fmtB slot = 3 then products.map integerProduct else products
      let s := productSum ps
      accumulate slot set (s.1, s.2 ||| scFlags) (d j)
  (out.map (·.1), out.foldl (fun fl x => fl ||| x.2) 0)

/-! ## Tile conversions (R242) -/

/-- One element to its target, as the target's bit pattern. -/
def convertElement (slot : Word) (x : Word) : Nat × Flags :=
  let mode := Mode.ofSlot (fmtRnd slot)
  let sat := fmtSat slot
  if fmtAccRns slot then
    let r := rnsResidues x
    let rng : Flags := if r.2 then Flags.rnsRng else 0
    if fmtB slot = 5 then ((rnsPack r.1).toNat, rng)
    else
      let v : Int := if fmtRnss slot then rnsCentre (rnsValue r.1) else rnsValue r.1
      if -128 ≤ v && v ≤ 127 then ((BitVec.ofInt 8 v).toNat, rng)
      else ((BitVec.ofInt 8 (if sat && 127 < v then 127 else -128)).toNat, Flags.rnsRng)
  else
    let v := flushed (fmtFzs slot) (f32 x) (Fmt.fp32.isSubnormal x.toNat)
    match fmtB slot with
    | 0 => narrow8 .e4m3 mode sat v
    | 1 => narrow8 .e5m2 mode sat v
    | 2 => narrow8 .e2m1 mode sat v
    | 3 => let r := cvtToInt mode sat (-128) 127 (-128) v
           ((BitVec.ofInt 8 r.1).toNat, r.2)
    | _ =>
      let r := narrow8 .bf16 mode sat v
      if fmtFzr slot && Fmt.bf16.isSubnormal r.1 then (r.1 / 2 ^ 15 * 2 ^ 15, r.2 ||| Flags.uf ||| Flags.nx) else r

/-- The nibble pairs as bytes. -/
def packNibbles : List Nat → List Byte
  | a :: b :: r => BitVec.ofNat 8 (a % 16 + b % 16 * 16) :: packNibbles r
  | [a] => [BitVec.ofNat 8 (a % 16)]
  | [] => []

/-- The 4,352 bytes of a converted tile (R241) and the OR of its elements' flags. -/
def convertTile (slot : Word) (words : List Word) : List Byte × Flags :=
  let r := words.map (convertElement slot)
  let bytes := match fmtB slot with
    | 2 => packNibbles (r.map (·.1))
    | 4 => r.flatMap fun x => leBytes 2 x.1
    | 5 => r.flatMap fun x => leBytes 4 x.1
    | _ => r.map fun x => BitVec.ofNat 8 x.1
  (bytes ++ List.replicate (4352 - bytes.length) 0, r.foldl (fun fl x => fl ||| x.2) 0)

end Sys2Proof
end

