-- ==== Sys2Proof/Machine/Anvil.lean ====
section
/-! DEFINITION. The quad's reservation table, its Anvil and its tile port (spec/11_cluster_anvil.md R209 to R221), the matrix and
tile instructions and the completion of what they post (spec/12_cluster_instructions.md R229 to R242). -/

namespace Sys2Proof.Machine

open Sys2Proof

/-! ## Answers to threads that wait in a unit -/

/-- The threads that wait for an answer take the result and wait no longer; one whose bundle a pre-emption has dissolved is
filed. -/
def answer (s : State) (req : Nat) (r : Result) : State :=
  s.threads.keys.foldl (fun s tid =>
    if (s.thread tid).request == some req then
      let waits := (s.thread tid).place == .waiting (.answer req)
      let s := s.modThread tid fun t => { t.apply r with request := none }
      if waits then wake s tid else s
    else s) s

/-! ## Tiles (R209, R210) -/

def tileBytes : Nat := 4352

def State.modTile (s : State) (team n : Nat) (f : Tile → Tile) : State :=
  let t := s.team team
  s.setTeam team { t with tiles := SMap.set noTile t.tiles n (f (t.tile n)) }

/-- A tile read (R212): the errors in it are detected, with an event for each; they poison it, one in its tag bits with grade G3. -/
def detectTile (s : State) (team n : Nat) : State :=
  let here := fun e : Latent => match e with
    | .tile t m _ => t = team && m = n
    | _ => false
  match s.latent.filter here with
  | [] => s
  | e :: rest =>
    let tags := (e :: rest).contains (.tile team n true)
    let s := State.modTile { s with latent := s.latent.filter fun e => !here e } team n fun t =>
      { t with tag := ⟨if tags then 3 else t.tag.grade, true⟩ }
    (e :: rest).foldl (fun s _ => noteError s (dieOf (s.team team).core) (s.team team).world (coreUnit (s.team team).core)) s

/-- A tile written whole holds an undetected error no longer (R212). -/
def mendTile (s : State) (team n : Nat) : State :=
  { s with latent := s.latent.filter fun e => match e with
      | .tile t m _ => !(t = team && m = n)
      | _ => true }

/-- The memory key of a byte of a tile. -/
def tileKey (s : State) (team n off : Nat) : Nat := spaceKey (s.team team).tileSpace (n * tileBytes + off)

/-- `tstat`'s word (R210). -/
def Tile.status (t : Tile) : Word :=
  BitVec.ofNat 32 ((if t.tag.poison then 64 else 0) + t.tag.grade.toNat * 16 + (if t.writers = 0 then 0 else 4) +
    (if t.d then 2 else 0) + (if t.v then 1 else 0))

/-! ## The reservation table (R211, R217, R218) -/

/-- The tiles that an operation reads. -/
def TileOp.reads : TileOp → List Nat
  | .pass _ _ _ tb _ _ _ _ => [tb]
  | .store td _ _ _ => [td]
  | .read ta _ _ => [ta]
  | .convert _ ta _ _ _ => [ta]
  | .zero _ _ | .load _ _ _ _ | .tilein _ _ => []

/-- The tiles that an operation writes. -/
def TileOp.writes : TileOp → List Nat
  | .pass _ _ td _ _ _ _ _ => [td]
  | .zero td _ => [td]
  | .load td _ _ _ => [td]
  | .convert td _ _ _ _ => [td]
  | .tilein td _ => [td]
  | .store _ _ _ _ | .read _ _ _ => []

def TileOp.isTileIn : TileOp → Bool
  | .tilein _ _ => true
  | _ => false

def TileOp.isPass : TileOp → Bool
  | .pass _ _ _ _ _ _ _ _ => true
  | _ => false

/-- Whether an entry waits for an earlier-posted one (R211). -/
def Posted.waitsFor (e earlier : Posted) : Bool :=
  e.team = earlier.team &&
    (earlier.op.writes.any (fun t => e.op.reads.contains t || e.op.writes.contains t) ||
      earlier.op.reads.any fun t => e.op.writes.contains t)

/-- The entries that R211 lets proceed become ready. -/
def markReady (now : Nat) : List Posted → List Posted → List Posted
  | _, [] => []
  | before, e :: rest =>
    let e' := if e.ready.isNone && !before.any e.waitsFor then { e with ready := some now } else e
    e' :: markReady now (before ++ [e']) rest

def tableRoom (s : State) (q : Nat) : Bool := (s.quad q).table.length < 32

/-- An entry posted to a quad's table: the tiles it writes have F set (R210, R217). -/
def post (s : State) (q team : Nat) (op : TileOp) : State :=
  let (id, s) := s.newId
  let e : Posted := ⟨id, team, (s.team team).prio, op, none⟩
  let s := op.writes.foldl (fun s t => s.modTile team t fun x => { x with writers := x.writers + 1 }) s
  s.setQuad q { s.quad q with table := markReady s.time [] ((s.quad q).table ++ [e]) }

/-- Whether entry a ranks before b (R218). -/
def Posted.before (now : Nat) (a b : Posted) : Bool :=
  let ra := a.ready.getD now
  let rb := b.ready.getD now
  let oldA := 4096 < now - ra
  let oldB := 4096 < now - rb
  if oldA || oldB then oldA && (!oldB || ra < rb)
  else b.prio < a.prio || (a.prio = b.prio && ra < rb)

/-- The entry that ranks first among those of a list; of equals the one posted first (notes/assumptions/126.md). -/
def firstRanked (now : Nat) : List Posted → Option Posted
  | [] => none
  | e :: rest => match firstRanked now rest with
    | none => some e
    | some r => if r.before now e then some r else some e

/-- An entry removed from the table; the tiles it wrote have F cleared where no other writer is posted (R210). -/
def unpost (s : State) (q : Nat) (e : Posted) : State :=
  let s := e.op.writes.foldl (fun s t => s.modTile e.team t fun x => { x with writers := x.writers - 1 }) s
  let x := s.quad q
  s.setQuad q { x with
    table := markReady s.time [] (x.table.filter fun y => y.id ≠ e.id)
    passes := x.passes.filter (· ≠ e.id)
    ports := x.ports.filter (·.1 ≠ e.id) }

/-! ## Matrix operations (R215, R216, R232, R233) -/

def noConv : Conv := ⟨0, 0, none, none, 0, false, none, []⟩

def Group.convReg (g : Group) (n : Nat) : Conv := g.conv.getD n noConv

def State.setConv (s : State) (gid n : Nat) (c : Conv) : State :=
  let g := s.group gid
  s.setGroup gid { g with conv := SMap.set noConv g.conv n c }

/-- A matrix instruction without Va, as R215 compares it; its prefix is no part of the word. -/
def withoutVa : Instr → Instr
  | .mma c t _ b q s n r => .mma { c with pre := none } t 0 b q s n r
  | .mmaSc c t _ b q s n r => .mmaSc { c with pre := none } t 0 b q s n r
  | .mmaSet c t _ b q s n r => .mmaSet { c with pre := none } t 0 b q s n r
  | i => i

/-- The mask of a group's threads that have ended. -/
def endedMask (s : State) (gid : Nat) : Word :=
  (List.range 32).foldl (fun m k => if (s.thread (tidOf gid k)).place == .ended then m ||| 1#32 <<< k else m) 0

def Word.has (w : Word) (k : Nat) : Bool := w.getLsbD k

/-- The latches that a group's convergence registers keep by reuse given back once all its threads have ended, but that of an
operation not yet posted (R24, R216). -/
def releaseGroup (s : State) (gid : Nat) : State :=
  if (List.range 32).all fun k => (s.thread (tidOf gid k)).place == .ended then
    (List.range 4).foldl (fun s n =>
      let c := (s.group gid).convReg n
      if c.signed = 0 && c.latch.isSome then
        (freeLatch s (quadOf (s.group gid).core) c.latch).setConv gid n { c with latch := none }
      else s) s
  else s

/-- A row of a latch as an operation reads it (R221, R83): the scale word's tag counts for `mma.sc` alone, and the guard of the
slot's signature joins. -/
def LatchRow.asRead (x : LatchRow) (sub : Nat) (guard : Tag) : LatchRow :=
  ⟨x.words, joinTags [x.tag, if sub = 1 then x.scaleTag else Tag.zero, guard], Tag.zero⟩

/-- A row that `mma.sc` reads with a scale word: where plain `mma` or `mma.set` has captured it, none was captured, and the word is one
that the spec leaves open, a part of the number n for each slot (R216; notes/assumptions/122.md). -/
def LatchRow.scaled (x : LatchRow) (sub slot n : Nat) : LatchRow :=
  if sub = 1 && x.words.length < 9 then ⟨x.words ++ [BitVec.ofNat 32 (n / 2 ^ (32 * slot))], x.tag, x.scaleTag⟩ else x

/-- The completed operation of C[n] posted to the quad's table (R215, R216, R232): its rows are the latch's, its latch is its own
unless the reuse bit keeps it, and the members that have ended leave the set. -/
def postMatrix (s : State) (gid n : Nat) : State :=
  let g := s.group gid
  let c := g.convReg n
  let q := quadOf g.core
  let go := fun (sub : Nat) (t b : BitVec 5) (qr : BitVec 2) (slot : BitVec 3) (r : Bool) =>
    let team := teamOfGid gid
    let latch := (c.latch.bind fun l => (s.quad q).latches.find? l).getD []
    let (free, s) := if sub = 1 && latch.any fun e => e.2.words.length < 9 then s.free else (0, s)
    let rows := (latch.filter fun e => Word.has c.declared e.1).map fun e =>
      (e.1, (e.2.scaled sub e.1 free).asRead sub (c.guards.getD e.1 Tag.zero))
    let sw := (s.launch (s.team team).launch).fmt.getD slot.toNat 0
    let s := post s q team (.pass gid sub t.toNat b.toNat qr.toNat sw rows (if r then none else c.latch))
    let s := s.setConv gid n { c with
      declared := c.declared &&& ~~~(endedMask s gid), signed := 0, op := none,
      latch := if r then c.latch else none, signer := none, guards := [] }
    match c.signer with
    | some req => answer s req .none
    | none => s
  match c.op with
  | some (.mma _ t _ b qr slot _ r) => go 0 t b qr slot r
  | some (.mmaSc _ t _ b qr slot _ r) => go 1 t b qr slot r
  | some (.mmaSet _ t _ b qr slot _ r) => go 2 t b qr slot r
  | _ => s

/-- Whether the operation of C[n] is signed by every member and waits to be posted. -/
def Conv.complete (c : Conv) : Bool := c.signed ≠ 0 && c.signed = c.declared

/-- The operation of C[n] posted where it is complete and the table has room (R217). -/
def tryPost (s : State) (gid n : Nat) : State :=
  if ((s.group gid).convReg n).complete && tableRoom s (quadOf (s.group gid).core) then releaseGroup (postMatrix s gid n) gid else s

/-- A member that ends leaves the sets of the operations that it has not signed (R128, R215). -/
def leaveConvs (s : State) (tid : Nat) : State :=
  (List.range 4).foldl (fun s n =>
    let c := (s.threadGroup tid).convReg n
    if Word.has c.declared (slotOf tid) && !Word.has c.signed (slotOf tid) then
      tryPost (s.setConv (gidOf tid) n { c with declared := c.declared &&& ~~~(1#32 <<< slotOf tid) }) (gidOf tid) n
    else s) s

/-- The words and tags of a signer's row: eight registers, and for `mma.sc` the ninth (R213, R214). -/
def latchRow (t : Thread) (a : Reg) (n : Nat) : LatchRow :=
  let rs := (List.range n).map fun k => t.reg (a + BitVec.ofNat 7 k)
  ⟨rs.map (·.val), joinTags ((rs.take 8).map (·.tag)), joinTags ((rs.drop 8).map (·.tag))⟩

/-- A row captured under a guard (R83). -/
def LatchRow.under (x : LatchRow) (g : Tag) : LatchRow := ⟨x.words, x.tag.join g, x.scaleTag.join g⟩

/-- One thread signs, its guard's tag given (R232). -/
def signUnit (i : Instr) (sub : Nat) (a : Reg) (n : BitVec 2) (u : Issue) (s : State) (tid : Nat) (guard : Tag) :
    UnitResult × State :=
  let gid := gidOf tid
  let slot := slotOf tid
  let q := quadOf (s.threadCore tid)
  let c := (s.group gid).convReg n.toNat
  let op := withoutVa i
  if !Word.has c.declared slot then (.trap .illegalOperand u.word 0 false, s)
  else if Word.has c.signed slot then (.hold, s)
  else if c.signed ≠ 0 && c.op ≠ some op then (.trap .illegalOperand u.word 0 false, s)
  else if c.latch.isSome && c.latchVa ≠ a then
    (.trap .reuseMismatch (BitVec.ofNat 32 (c.latchVa.toNat * 256 + a.toNat)) 0 false, s)
  else
    if c.latch.isNone && 16 ≤ (s.quad q).latches.length then (.hold, s)
    else
      let (l, s) := match c.latch with
        | some l => (l, s)
        | none => s.newId
      let first := c.signed = 0
      let c := { c with
        op := some op, latch := some l, latchVa := a, isFresh := if first then c.latch.isNone else c.isFresh }
      let rows := ((s.quad q).latches.find? l).getD []
      let rows := if c.isFresh then rows.insert slot ((latchRow (s.thread tid) a (if sub = 1 then 9 else 8)).under guard) else rows
      let s := s.setQuad q { s.quad q with latches := (s.quad q).latches.insert l rows, latchVas := (s.quad q).latchVas.insert l a }
      let c := { c with signed := c.signed ||| 1#32 <<< slot, guards := SMap.set Tag.zero c.guards slot guard }
      let s := s.setConv gid n.toNat c
      if c.complete then
        if tableRoom s q then (.done .none, postMatrix s gid n.toNat)
        else
          let (req, s) := s.newId
          (.sent req, s.setConv gid n.toNat { c with signer := some req })
      else (.done .none, s)

/-- MMA (R230, R232): D := D + A·B. -/
def execMma (c : Ctl) (t : BitVec 5) (a : Reg) (b : BitVec 5) (q : BitVec 2) (f : BitVec 3) (n : BitVec 2) (r : Bool)
    (s : State) : Host.Outcome State Fault Refusal :=
  issueUnit (.mma c t a b q f n r) (fun u s tid g => signUnit (.mma c t a b q f n r) 0 a n u s tid g) s

/-- MMA_SC (R230, R232): block-scaled. -/
def execMmaSc (c : Ctl) (t : BitVec 5) (a : Reg) (b : BitVec 5) (q : BitVec 2) (f : BitVec 3) (n : BitVec 2) (r : Bool)
    (s : State) : Host.Outcome State Fault Refusal :=
  issueUnit (.mmaSc c t a b q f n r) (fun u s tid g => signUnit (.mmaSc c t a b q f n r) 1 a n u s tid g) s

/-- MMA_SET (R230, R232): D := A·B. -/
def execMmaSet (c : Ctl) (t : BitVec 5) (a : Reg) (b : BitVec 5) (q : BitVec 2) (f : BitVec 3) (n : BitVec 2) (r : Bool)
    (s : State) : Host.Outcome State Fault Refusal :=
  issueUnit (.mmaSet c t a b q f n r) (fun u s tid g => signUnit (.mmaSet c t a b q f n r) 2 a n u s tid g) s

/-! ## The tile group (R234 to R242) -/

/-- A posting that finds the table full waits before issue (R217). -/
def postOrHold (u : Issue) (s : State) (tid : Nat) (op : TileOp) : UnitResult × State :=
  if tableRoom s (quadOf u.core) then (.done .none, post s (quadOf u.core) (teamOf tid) op) else (.hold, s)

/-- TZERO (R236). -/
def execTzero (c : Ctl) (d : Reg) (s : State) : Host.Outcome State Fault Refusal :=
  issueUnit (.tzero c d) (fun u s tid g => postOrHold u s tid (.zero d.toNat g.grade)) s

/-- The checks of a tile's near address (R237, R238): poison, ALIGN to 128, mapping, range locks. -/
def tileAddrCheck (s : State) (tid : Nat) (base : Tagged Word) (load : Bool) : Except UnitResult Nat :=
  if base.tag.poison then .error (.kill base.val)
  else if base.val.toNat % 128 ≠ 0 then .error (.trap .align base.val 0 false)
  else match nearKey s (teamOf tid) base.val.toNat tileBytes with
    | none => .error (.trap .nearRange base.val 0 false)
    | some key => if locked s key tileBytes load then .error (.trap .rangeLock base.val 0 false) else .ok key

/-- Whether a near address lies in a Bench. -/
def inBench (ea : Nat) : Bool := ea < poolBase

/-- Whether a range can be registered as a source (R279, R280): an entry of the quad's range table for a Bench range, a source
count below 15 on each line otherwise. -/
def sourceRoom (s : State) (q key n : Nat) (bench : Bool) : Bool :=
  if bench then (s.ranges.filter fun r => r.bench && r.quad = q).length < 256
  else (linesOf key n).all fun k =>
    (s.ranges.filter fun r => r.isSrc && !r.bench && r.lo < k * 128 + 128 && k * 128 < r.hi).length < 15

/-- TLD (R237): its source is registered as an outbound range until the tile is read. -/
def execTld (c : Ctl) (d a : Reg) (s : State) : Host.Outcome State Fault Refusal :=
  issueUnit (.tld c d a) (fun u s tid g =>
    let b := (s.thread tid).reg a
    match tileAddrCheck s tid b true with
    | .error r => (r, s)
    | .ok key =>
      match absentLine s key tileBytes with
      | some k => parkOnLine u s tid (b.val.toNat + (k * 128 - key)) k
      | none =>
        let q := quadOf u.core
        let bench := inBench b.val.toNat
        if !tableRoom s q || !sourceRoom s q key tileBytes bench then (.hold, s)
        else
          let (op, s) := (settleRange s key (key + tileBytes) true).newId
          let s := { s with ranges := s.ranges ++ [⟨op, true, key, key + tileBytes, q, bench⟩] }
          (.done .none, post s q (teamOf tid) (.load d.toNat key (b.tag.join g) op))) s

/-- TST (R238): the thread waits in the unit until the store completes. -/
def execTst (c : Ctl) (d a : Reg) (s : State) : Host.Outcome State Fault Refusal :=
  issueUnit (.tst c d a) (fun u s tid g =>
    let b := (s.thread tid).reg a
    match tileAddrCheck s tid b false with
    | .error r => (r, s)
    | .ok key =>
      let q := quadOf u.core
      if !tableRoom s q then (.hold, s)
      else
        let (req, s) := s.newId
        (.sent req, post s q (teamOf tid) (.store d.toNat key (b.tag.join g) req))) s

/-- TSTAT (R239): sampled at issue. -/
def execTstat (c : Ctl) (d a : Reg) (s : State) : Host.Outcome State Fault Refusal :=
  issueUnit (.tstat c d a) (fun _ s tid g =>
    (.done (.reg d ((s.threadTeam tid).tile a.toNat).status ⟨g.grade, false⟩ 0), s)) s

/-- The quad's table with a word more read by the entry that the unit has posted, whose numbers begin at `since`; none where the unit
has posted no entry yet (R235: one entry serves the threads of a unit). -/
def joinRead (since : Nat) (item : Nat × Tag × Nat) : List Posted → Option (List Posted)
  | [] => none
  | e :: rest => match joinRead since item rest with
    | some l => some (e :: l)
    | none => match e.op with
      | .read ta d items => if since ≤ e.id then some ({ e with op := .read ta d (items ++ [item]) } :: rest) else none
      | _ => none

/-- TRD (R240): the threads of the unit share one entry of the table. -/
def execTrd (c : Ctl) (d a : Reg) (s : State) : Host.Outcome State Fault Refusal :=
  let since := s.nextId
  issueUnit (.trd c d a) (fun u s tid g =>
    let x := (s.thread tid).reg d
    let w := x.val.toNat % 2048
    let q := quadOf u.core
    if 1088 ≤ w then (.trap .illegalOperand u.word 0 false, s)
    else match joinRead since (w, x.tag.join g, s.nextId) (s.quad q).table with
      | some table => (.sent s.nextId, s.newId.2.setQuad q { s.quad q with table := table })
      | none =>
        if !tableRoom s q then (.hold, s)
        else (.sent s.nextId, post s.newId.2 q (teamOf tid) (.read a.toNat d [(w, x.tag.join g, s.nextId)]))) s

/-- TCVT (R241). -/
def execTcvt (c : Ctl) (d a : Reg) (f : BitVec 3) (s : State) : Host.Outcome State Fault Refusal :=
  issueUnit (.tcvt c d a f) (fun u s tid g =>
    postOrHold u s tid (.convert d.toNat a.toNat ((s.threadLaunch tid).fmt.getD f.toNat 0) g
      (if c.k then u.tids else [tid]))) s

/-! ## Grants and completions -/

/-- Flags delivered to a thread that has not ended, with a grade (R221, R242). -/
def deliverFlags (s : State) (tid : Nat) (fl : Flags) (grade : BitVec 2) : State :=
  if (s.thread tid).place == .ended then s else s.modThread tid fun t => t.raise fl grade

/-- A pass performed (R213, R221, R227, R228): each row of the mask in ascending order. -/
def performPass (s : State) (team gid sub td tb quarter : Nat) (slot : Word) (rows : SMap LatchRow) : State :=
  let bytes := fun off n => s.mem.readBytes (tileKey s team tb off) n
  let col := fun j => bytes (1024 * quarter + 32 * j) 32
  let colScale := fun j => (bytes (4096 + 64 * quarter + 2 * j) 2).map (·.toNat)
  let dWord := fun i j => (BitVec.ofNat 32 (s.mem.readLe (tileKey s team td (4 * (32 * i + j))) 4) : Word)
  let tm := s.team team
  let rows := (List.range 32).filterMap fun i => (rows.find? i).map fun r => (i, r)
  let base := if sub = 2 then (tm.tile tb).tag else (tm.tile tb).tag.join (tm.tile td).tag
  let s' := rows.foldl (fun st e =>
    let r := passRow slot sub e.2.words col colScale (dWord e.1)
    let st : State := { st with
      mem := st.mem.writeBytes (tileKey s team td (128 * e.1)) (r.1.flatMap fun w => leBytes 4 w.toNat) }
    deliverFlags st (tidOf gid e.1) r.2 (base.join e.2.tag).grade) s
  s'.modTile team td fun x => { x with tag := base.join (joinTags (rows.map fun e => e.2.tag)), v := true, d := true }

/-- What the completion of an entry does (R221, R236 to R242). -/
def TileOp.perform (s : State) (team : Nat) : TileOp → State
  | .pass gid sub td tb quarter slot rows _ => performPass s team gid sub td tb quarter slot rows
  | .zero td grade =>
    let s : State := { s with mem := s.mem.writeBytes (tileKey s team td 0) (List.replicate tileBytes 0) }
    s.modTile team td fun x => { x with tag := ⟨grade, false⟩, v := true, d := true }
  | .load td key tag op =>
    let lt := lineTags s key tileBytes
    let s : State := { s with
      mem := s.mem.writeBytes (tileKey s team td 0) (s.mem.readBytes key tileBytes)
      ranges := s.ranges.filter fun r => r.op ≠ op }
    s.modTile team td fun x => { x with tag := ⟨gradeMax lt.grade tag.grade, lt.poison⟩, v := true, d := false }
  | .store td key tag req =>
    let t := ((s.team team).tile td).tag
    let s := writeNear s key (s.mem.readBytes (tileKey s team td 0) tileBytes) ⟨gradeMax t.grade tag.grade, t.poison⟩
    answer s req .none
  | .read ta d items => items.foldl (fun s x =>
      let v : Word := BitVec.ofNat 32 (s.mem.readLe (tileKey s team ta (4 * x.1)) 4)
      answer s x.2.2 (.reg d v (((s.team team).tile ta).tag.join x.2.1) 0)) s
  | .convert td ta slot tag tids =>
    let src := (List.range 1024).map fun k => (BitVec.ofNat 32 (s.mem.readLe (tileKey s team ta (4 * k)) 4) : Word)
    let r := convertTile slot src
    let t := ((s.team team).tile ta).tag.join tag
    let s : State := { s with mem := s.mem.writeBytes (tileKey s team td 0) r.1 }
    let s := s.modTile team td fun x => { x with tag := t, v := true, d := true }
    tids.foldl (fun s tid => deliverFlags s tid r.2 t.grade) s
  | .tilein _ _ => s

/-- What an operation reads as it completes: a pass that adds reads its destination too. The errors there are detected (R180, R212). -/
def TileOp.sense (s : State) (team : Nat) (op : TileOp) : State :=
  let s := op.reads.foldl (fun s n => detectTile s team n) s
  match op with
  | .pass _ sub td _ _ _ _ _ => if sub = 2 then s else detectTile s team td
  | .load _ key _ _ => senseNear s key tileBytes
  | _ => s

/-- What an operation has written whole as it completes: a tile, or near bytes, which come after what their thread read ahead there
(R180, R190, R212). -/
def TileOp.settle (s : State) (team : Nat) : TileOp → State
  | .zero td _ | .load td _ _ _ | .convert td _ _ _ _ => mendTile s team td
  | .store _ key _ req =>
    dropEarly (mendWords s key tileBytes) fun e => (s.thread e.tid).request == some req && e.meets key tileBytes
  | _ => s

/-- An entry completes: its effect, its latch freed, its place in the table free. -/
def completePosted (s : State) (q : Nat) (e : Posted) : State :=
  let s := e.op.perform ((e.op.settle (e.op.sense s e.team) e.team)) e.team
  let s := match e.op with
    | .pass _ _ _ _ _ _ _ latch => freeLatch s q latch
    | _ => s
  unpost s q e

/-- MATRIX_POST (R217): an operation that all have signed is posted when an entry is free, while its world is on the cores. -/
def execMatrixPost (gid n : Nat) (s : State) : Host.Outcome State Fault Refusal :=
  if (s.world (s.team (teamOfGid gid)).world).stat ≤ 2 then .next (tryPost s gid n) else .next s

/-- The candidate for a grant: ready and not granted. -/
def grantable (s : State) (q : Nat) (pass : Bool) : Option Posted :=
  let x := s.quad q
  firstRanked s.time (x.table.filter fun e =>
    e.op.isPass == pass && !e.op.isTileIn && e.ready.isSome && !x.passes.contains e.id && !x.ports.any fun p => p.1 = e.id)

/-- ANVIL_GRANT (R218). -/
def execAnvilGrant (quad : Nat) (s : State) : Host.Outcome State Fault Refusal :=
  match grantable s quad true with
  | some e => .next (s.setQuad quad { s.quad quad with passes := (s.quad quad).passes ++ [e.id] })
  | none => .next s

/-- The distance in quads of a die's 8 × 8 mesh (R272). -/
def meshDist (a b : Nat) : Nat :=
  let d := fun x y : Nat => (x - y) + (y - x)
  d (a % 8) (b % 8) + d (a % 64 / 8) (b % 64 / 8)

/-- The latency that near memory at a key adds to a tile transfer of quad `q` (R235, R272): none for a Bench, 64 cc for the pool,
40 + 4·h for the Crucible, by the slice of the first line. -/
def memLatency (s : State) (q team key : Nat) : Nat :=
  let tm := s.team team
  if key / 2 ^ 64 = tm.bench then 0
  else if key / 2 ^ 64 = (s.cluster tm.cluster).pool then 64
  else 40 + 4 * meshDist q ((sliceOf s team (crucBase + key % 2 ^ 64)).getD q)

/-- The cc for which an operation occupies the tile port, and those from its grant to its completion (R235). -/
def TileOp.portTimes (s : State) (q team : Nat) : TileOp → Nat × Nat
  | .zero _ _ => (2, 4)
  | .load _ key _ _ => (34, 40 + memLatency s q team key)
  | .store _ key _ _ => (34, 40 + memLatency s q team key)
  | .read _ _ items => ((items.length + 7) / 8, 12 + (items.length + 7) / 8)
  | .convert _ _ _ _ _ => (8, 16)
  | .pass _ _ _ _ _ _ _ _ | .tilein _ _ => (0, 0)

/-- TILE_PORT_GRANT (R235): a free port takes the entry that ranks first, which completes after its time. -/
def execTilePortGrant (quad : Nat) (s : State) : Host.Outcome State Fault Refusal :=
  let x := s.quad quad
  if s.time < x.portFree then .next s
  else match grantable s quad false with
    | some e =>
      let t := e.op.portTimes s quad e.team
      .next (s.setQuad quad { x with ports := x.ports ++ [(e.id, s.time + t.2)], portFree := s.time + t.1 })
    | none => .next s

/-- The entry granted first among those of a list. -/
def firstGranted (s : State) (q : Nat) (ids : List Nat) : Option Posted :=
  match ids with
  | [] => none
  | id :: _ => List.find? (fun e => e.id = id) (s.quad q).table

/-- PASS_COMPLETE (R219, R221). -/
def execPassComplete (quad : Nat) (s : State) : Host.Outcome State Fault Refusal :=
  match firstGranted s quad (s.quad quad).passes with
  | some e => .next (completePosted s quad e)
  | none => .next s

/-- The granted tile-port entry that completes first (R235); of two at one time the one granted first. -/
def firstDue : List (Nat × Nat) → Option (Nat × Nat)
  | [] => none
  | p :: rest => match firstDue rest with
    | none => some p
    | some r => if r.2 < p.2 then some r else some p

/-- TILE_OP_COMPLETE (R235 to R242): at the end of the entry's time. -/
def execTileOpComplete (quad : Nat) (s : State) : Host.Outcome State Fault Refusal :=
  match firstGranted s quad ((firstDue ((s.quad quad).ports.filter fun p => p.2 ≤ s.time)).toList.map (·.1)) with
  | some e => .next (completePosted s quad e)
  | none => .next s

end Sys2Proof.Machine
end

