-- ==== Sys2Proof/Machine/Group.lean ====
section
/-! DEFINITION. The group and team instructions (spec/08_core_instructions.md R160 to R170, R175) and `exit`
(spec/06_thread_instructions.md R128). -/

namespace Sys2Proof.Machine

open Sys2Proof

/-! ## Masks and members (R157, R163) -/

def Group.mask (g : Group) (m : Nat) : Word := g.masks.getD m 0xFFFFFFFF

def State.setMask (s : State) (gid m : Nat) (w : Word) : State :=
  let g := s.group gid
  s.setGroup gid { g with masks := SMap.set 0xFFFFFFFF g.masks m w }

def Group.arrivals (g : Group) (m : Nat) : List Arrival := g.arrived.getD m []

def State.setArrivals (s : State) (gid m : Nat) (l : List Arrival) : State :=
  let g := s.group gid
  s.setGroup gid { g with arrived := SMap.set [] g.arrived m l }

/-- The slots of a mask whose threads have not ended. -/
def liveMembers (s : State) (gid m : Nat) : List Nat :=
  (List.range 32).filter fun k => Word.has ((s.group gid).mask m) k && (s.thread (tidOf gid k)).place != .ended

/-- Whether an instruction only waits for the others (R163). -/
def onlyWaits : Instr → Bool
  | .waitm .. | .join .. => true
  | _ => false

/-! ## What a rendezvous bundle computes (R166 to R170) -/

/-- A member with its slot and thread. -/
abbrev Member := Nat × Thread

/-- The members of the segment of a slot, in ascending slot order; `size`: slots of a segment. -/
def segment (size : Nat) (ms : List Member) (slot : Nat) : List Member := ms.filter fun m => m.1 / size = slot / size

/-- `combine` of R170 for the kinds 0 to 7. -/
def combine (kind : BitVec 3) (u v : Word) : Word × Flags :=
  match kind.toNat with
  | 0 => (u + v, 0)
  | 1 => (minN u v, 0)
  | 2 => (maxN u v, 0)
  | 3 => (minI u v, 0)
  | 4 => (maxI u v, 0)
  | 5 => fadd .rne u v
  | 6 => (fminmax true u v, 0)
  | _ => (fminmax false u v, 0)

/-- `combine` with absent operands. -/
def combineOpt (kind : BitVec 3) (u v : Option (Word × Flags)) : Option (Word × Flags) :=
  match u, v with
  | none, v => v
  | u, none => u
  | some x, some y => let r := combine kind x.1 y.1
                      some (r.1, x.2 ||| y.2 ||| r.2)

/-- One level of the tree of `sred`. -/
def pairUp (kind : BitVec 3) : List (Option (Word × Flags)) → List (Option (Word × Flags))
  | a :: b :: r => combineOpt kind a b :: pairUp kind r
  | l => l

/-- The tree of `sred` from 2^n values. -/
def reduceTree (kind : BitVec 3) : Nat → List (Option (Word × Flags)) → Option (Word × Flags)
  | 0, l => (l.headD none)
  | n + 1, l => reduceTree kind n (pairUp kind l)

/-- x of R170 for a segment: Va of the member at each position. -/
def segmentValues (size : Nat) (ms : List Member) (slot : Nat) (a : Reg) : List (Option (Word × Flags)) :=
  (List.range size).map fun p =>
    (List.find? (fun m => m.1 = slot / size * size + p) ms).map fun m => ((m.2.reg a).val, (0 : Flags))

/-- `agree` on predicates (R168): the operands of a segment's members. -/
def segmentPreds (size : Nat) (ms : List Member) (slot : Nat) (na : Bool) (pa : BitVec 5) : List (Nat × Tagged Bool) :=
  (segment size ms slot).map fun m => (m.1, ⟨(m.2.pred pa).val != na, (m.2.pred pa).tag⟩)

/-- `xlane` (R169): the source position in the segment, none where there is no such position. -/
def xlaneSource (kind : BitVec 3) (size p delta : Nat) : Option Nat :=
  match kind.toNat with
  | 0 => some (delta % size)
  | 1 => if delta ≤ p then some (p - delta) else none
  | 2 => if p + delta < size then some (p + delta) else none
  | _ => if p ^^^ delta < size then some (p ^^^ delta) else none

/-- A member's result of a collective instruction, read from all members before any is written. -/
def collective (i : Instr) (size : Nat) (ms : List Member) (slot : Nat) (t : Thread) : Result :=
  let levels := Nat.log2 size
  match i with
  | .agreeEvery _ p na pa _ =>
    let ps := segmentPreds size ms slot na pa
    .pred p (ps.all fun x => x.2.val) (joinTags (ps.map fun x => x.2.tag))
  | .agreeSome _ p na pa _ =>
    let ps := segmentPreds size ms slot na pa
    .pred p (ps.any fun x => x.2.val) (joinTags (ps.map fun x => x.2.tag))
  | .agreeMask _ d na pa _ =>
    let ps := segmentPreds size ms slot na pa
    .reg d (ps.foldl (fun w x => if x.2.val then w ||| 1#32 <<< x.1 else w) 0) (joinTags (ps.map fun x => x.2.tag)) 0
  | .agreeSame _ p a _ =>
    let xs := (segment size ms slot).map fun m => m.2.reg a
    .pred p (xs.all fun x => x.val = (t.reg a).val) (joinTags (xs.map fun x => x.tag))
  | .xlane _ d a kind _ =>
    let src := (xlaneSource kind size (slot % size) ((t.reg d).val.toNat % 32)).bind fun q =>
      (List.find? (fun m => m.1 = slot / size * size + q) ms).map fun m => m.2.reg a
    let v := src.getD (t.reg a)
    .reg d v.val (v.tag.join (t.reg d).tag) 0
  | .sred _ d a kind _ =>
    let r := (reduceTree kind levels (segmentValues size ms slot a)).getD (0, 0)
    .reg d r.1 (joinTags ((segment size ms slot).map fun m => (m.2.reg a).tag)) r.2
  | .sscan _ d a kind _ =>
    let xs := (segmentValues size ms slot a).take (slot % size + 1)
    let r := (xs.foldl (combineOpt kind) none).getD (0, 0)
    .reg d r.1 (joinTags (((segment size ms slot).filter fun m => m.1 ≤ slot).map fun m => (m.2.reg a).tag)) r.2
  | _ => .none

/-! ## Arrival and completion (R163) -/

/-- The arrived threads of a mismatch, or of a refused `cvset`, trap (R163, R167). -/
def trapArrivals (s : State) (gid : Nat) (l : List Arrival) : State :=
  l.foldl (fun s r =>
    let tid := tidOf gid r.slot
    takeTrap s tid ⟨.illegalOperand, ⟨r.word, s.sourceTag tid r.instr⟩, 0, false, r.pos, r.addr, r.head, false,
      (s.thread tid).hasPending⟩) s

/-- The rendezvous bundle takes its result and stands at the unit after the rendezvous (R143). -/
def releaseTo (s : State) (gid : Nat) (slots : List Nat) (pc : Word) (res : Nat → Thread → Result) : State :=
  let s := slots.foldl (fun s k => s.modThread (tidOf gid k) fun t => t.apply (res k t)) s
  formBundle s (s.group gid).core (slots.map (tidOf gid)) pc 6

/-- The slots of arrivals, ascending. -/
def arrivedSlots (l : List Arrival) : List Nat := (List.range 32).filter fun k => l.any fun r => r.slot = k

/-- The effect of a rendezvous that all arrived at with one word (R166 to R170). -/
def performCollective (s : State) (gid : Nat) (l : List Arrival) (first : Arrival) : State :=
  let slots := arrivedSlots l
  let go := fun s => releaseTo s gid slots first.next fun _ _ => .none
  match first.instr with
  | .pseg _ _ n => go (s.setGroup gid { s.group gid with seg := n.toNat % 8 })
  | .cvset _ d a =>
    let c := (s.group gid).convReg d.toNat
    if c.signed ≠ 0 then trapArrivals s gid l
    else
      let s := freeLatch s (quadOf (s.group gid).core) c.latch
      go (s.setConv gid d.toNat { noConv with declared := (s.group gid).mask a.toNat })
  | i =>
    let size := 32 / 2 ^ (s.group gid).seg
    let ms : List Member := slots.map fun k => (k, s.thread (tidOf gid k))
    releaseTo s gid slots first.next (collective i size ms)

/-- The threads released by `waitm` and `join`: those of one address form one bundle. -/
def releaseWaiters (s : State) (gid : Nat) (l : List Arrival) : State :=
  ((l.map (·.next)).eraseDups).foldl (fun s pc =>
    releaseTo s gid (arrivedSlots (l.filter fun r => r.next = pc)) pc fun _ _ => .none) s

/-- try_complete of R163. -/
def tryComplete (s : State) (gid m : Nat) : State :=
  let l := (s.group gid).arrivals m
  match l with
  | [] => s
  | first :: _ =>
    if (liveMembers s gid m).any fun k => !l.any fun r => r.slot = k then s
    else
      let s := s.setArrivals gid m []
      if l.all fun r => onlyWaits r.instr then releaseWaiters s gid l
      else if l.all fun r => r.word = first.word && r.addr = first.addr then performCollective s gid l first
      else trapArrivals s gid l

/-- Whether an event at a mask may reach the group entry now: of the events of one cc those at lower masks come first (R163). -/
def reaches (s : State) (gid m : Nat) : Bool :=
  match (s.group gid).entry with
  | some (t, k) => !(t = s.time && m < k)
  | none => true

/-- An event at a mask has reached the group entry (R163). -/
def State.noteEntry (s : State) (gid m : Nat) : State := s.setGroup gid { s.group gid with entry := some (s.time, m) }

/-- The arrival of a thread at a rendezvous. -/
def arrive (i : Instr) (u : Issue) (s : State) (tid m : Nat) : UnitResult × State :=
  if s.isKilled tid then (.moved, settleTeam (endNow s tid) (teamOf tid))
  else
    let gid := gidOf tid
    let s := (park s tid u.head (.mask m)).noteEntry gid m
    let s := s.setArrivals gid m ((s.group gid).arrivals m ++ [⟨slotOf tid, u.addr, u.word, u.next, u.head, u.pos, i⟩])
    (.moved, tryComplete s gid m)

/-- The arrival of a thread, or its wait for the next cc where an event at a higher mask has reached the entry in this one (R163). -/
def arriveInOrder (i : Instr) (u : Issue) (s : State) (tid m : Nat) : UnitResult × State :=
  if reaches s (gidOf tid) m then arrive i u s tid m else (.hold, s)

/-- A rendezvous instruction other than `waitm` and `join`: a thread that is no member traps (R163). -/
def rendezvousUnit (i : Instr) (m : Nat) (s : State) : Host.Outcome State Fault Refusal :=
  issueUnit i (fun u s tid _ =>
    if Word.has ((s.threadGroup tid).mask m) (slotOf tid) then arriveInOrder i u s tid m
    else (.trap .illegalOperand u.word 0 false, s)) s

/-- REFORM (R160). -/
def execReform (c : Ctl) (s : State) : Host.Outcome State Fault Refusal :=
  issueUnit (.reform c) (fun u s _ _ => (.file u.next s.time, s)) s

/-- YIELD (R161). -/
def execYield (c : Ctl) (s : State) : Host.Outcome State Fault Refusal :=
  issueUnit (.yield c) (fun u s tid _ => (.file u.next (s.time + (s.threadLaunch tid).age), s)) s

/-- WAITM (R162): a thread that is no member goes on. -/
def execWaitm (c : Ctl) (a : Reg) (s : State) : Host.Outcome State Fault Refusal :=
  issueUnit (.waitm c a) (fun u s tid _ =>
    if Word.has ((s.threadGroup tid).mask a.toNat) (slotOf tid) then arriveInOrder (.waitm c a) u s tid a.toNat
    else (.done .none, s)) s

/-- A slot's bit of a mask cleared, with the completions that this may bring (R162). -/
def leaveMask (s : State) (tid m : Nat) : State :=
  if Word.has ((s.threadGroup tid).mask m) (slotOf tid) then
    tryComplete ((s.setMask (gidOf tid) m ((s.threadGroup tid).mask m &&& ~~~(1#32 <<< slotOf tid))).noteEntry (gidOf tid) m)
      (gidOf tid) m
  else s

/-- Whether a thread's leaving of a mask may reach the group entry now (R163); one that is no member leaves nothing. -/
def leaves (s : State) (tid m : Nat) : Bool :=
  !Word.has ((s.threadGroup tid).mask m) (slotOf tid) || reaches s (gidOf tid) m

/-- LEAVE (R162). -/
def execLeave (c : Ctl) (a : Reg) (s : State) : Host.Outcome State Fault Refusal :=
  issueUnit (.leave c a) (fun _ s tid _ =>
    if leaves s tid a.toNat then (.done .none, leaveMask s tid a.toNat) else (.hold, s)) s

/-- JOIN (R162). -/
def execJoin (c : Ctl) (a : Reg) (s : State) : Host.Outcome State Fault Refusal :=
  issueUnit (.join c a) (fun u s tid _ =>
    let w := (s.threadGroup tid).mask a.toNat ||| 1#32 <<< slotOf tid
    if reaches s (gidOf tid) a.toNat then arrive (.join c a) u (s.setMask (gidOf tid) a.toNat w) tid a.toNat
    else (.hold, s)) s

/-- PSEG (R166). -/
def execPseg (c : Ctl) (m : Reg) (n : BitVec 8) (s : State) : Host.Outcome State Fault Refusal :=
  rendezvousUnit (.pseg c m n) m.toNat s

/-- CVSET (R167). -/
def execCvset (c : Ctl) (d a : Reg) (s : State) : Host.Outcome State Fault Refusal :=
  rendezvousUnit (.cvset c d a) a.toNat s

/-- AGREE_EVERY (R168). -/
def execAgreeEvery (c : Ctl) (p : BitVec 5) (na : Bool) (pa : BitVec 5) (m : BitVec 4) (s : State) :
    Host.Outcome State Fault Refusal := rendezvousUnit (.agreeEvery c p na pa m) m.toNat s

/-- AGREE_SOME (R168). -/
def execAgreeSome (c : Ctl) (p : BitVec 5) (na : Bool) (pa : BitVec 5) (m : BitVec 4) (s : State) :
    Host.Outcome State Fault Refusal := rendezvousUnit (.agreeSome c p na pa m) m.toNat s

/-- AGREE_MASK (R168). -/
def execAgreeMask (c : Ctl) (d : Reg) (na : Bool) (pa : BitVec 5) (m : BitVec 4) (s : State) :
    Host.Outcome State Fault Refusal := rendezvousUnit (.agreeMask c d na pa m) m.toNat s

/-- AGREE_SAME (R168). -/
def execAgreeSame (c : Ctl) (p : BitVec 5) (a : Reg) (m : BitVec 4) (s : State) : Host.Outcome State Fault Refusal :=
  rendezvousUnit (.agreeSame c p a m) m.toNat s

/-- XLANE (R169). -/
def execXlane (c : Ctl) (d a : Reg) (x : BitVec 3) (m : BitVec 4) (s : State) : Host.Outcome State Fault Refusal :=
  rendezvousUnit (.xlane c d a x m) m.toNat s

/-- SRED (R170). -/
def execSred (c : Ctl) (d a : Reg) (x : BitVec 3) (m : BitVec 4) (s : State) : Host.Outcome State Fault Refusal :=
  rendezvousUnit (.sred c d a x m) m.toNat s

/-- SSCAN (R170). -/
def execSscan (c : Ctl) (d a : Reg) (x : BitVec 3) (m : BitVec 4) (s : State) : Host.Outcome State Fault Refusal :=
  rendezvousUnit (.sscan c d a x m) m.toNat s

/-- FENCE_AR (R175): what its threads have stored late becomes visible, and what was read ahead for them is dropped, before it
(`orderBefore`); every other access was performed in the step that issued it. -/
def execFenceAr (c : Ctl) (s : State) : Host.Outcome State Fault Refusal :=
  issueUnit (.fenceAr c) (fun _ s _ _ => (.done .none, s)) s

/-- FENCE_ACQ (R175): what was read ahead for its threads is dropped (`orderBefore`). -/
def execFenceAcq (c : Ctl) (s : State) : Host.Outcome State Fault Refusal :=
  issueUnit (.fenceAcq c) (fun _ s _ _ => (.done .none, s)) s

/-- FENCE_REL (R175): what its threads have stored late becomes visible before what they store later (`orderBefore`). -/
def execFenceRel (c : Ctl) (s : State) : Host.Outcome State Fault Refusal :=
  issueUnit (.fenceRel c) (fun _ s _ _ => (.done .none, s)) s

/-- The threads of a unit that have exited leave every mask, the masks in ascending order, and the convergence sets that they have
not signed (R128, R163); the groups and the team settle. -/
def leaveAll (s : State) (tids : List Nat) : State :=
  let s := (List.range 12).foldl (fun s m => tids.foldl (fun s tid => leaveMask s tid m) s) s
  let s := tids.foldl leaveConvs s
  tids.foldl (fun s tid => settleTeam (releaseGroup s (gidOf tid)) (teamOf tid)) s

/-- Whether a thread may leave all its masks now (R163). -/
def mayExit (s : State) (tid : Nat) : Bool := (List.range 12).all fun m => leaves s tid m

/-- EXIT (R128): the threads of the unit end at one cc. -/
def execExit (c : Ctl) (s : State) : Host.Outcome State Fault Refusal :=
  match s.cur with
  | none => .refused .noBundle
  | some u =>
    let p := runAll u (.exit c) (fun s tid _ => if mayExit s tid then (.moved, endNow s tid) else (.hold, s))
      { s with cur := none } id
    let gone := u.tids.filter fun tid => (p.st.thread tid).place == .ended
    .next (finish u { p with st := leaveAll p.st gone })

end Sys2Proof.Machine
end

