-- ==== Sys2Proof/Machine/Issue.lean ====
section
/-! DEFINITION. The chain boundary: asynchronous causes (spec/05_thread_state.md R91, R93), fetching and decoding a whole chain
(spec/03_formats.md R39, R53, R54, R57), and a core's bundles (spec/07_core.md R133). -/

namespace Sys2Proof.Machine

open Sys2Proof

/-! ## Asynchronous causes (R91) -/

/-- The lowest pending cause of a thread taken, with the address it resumes at. -/
def takePending (s : State) (tid : Nat) (resume : Word) : State :=
  let t := s.thread tid
  match lowestPending t.pending with
  | none => s
  | some (c, val) =>
    let s := s.setThread tid { t with pending := t.pending.filter fun e => e.1 ≠ c }
    takeTrap s tid ⟨c, untagged val, 0, false, 0, resume, resume, true, (s.thread tid).hasPending⟩

/-- Whether a thread may take an asynchronous cause at a chain boundary. -/
def Thread.mayTake (t : Thread) : Bool := !t.hnd && !t.pending.isEmpty

/-- A record removed from a rendezvous (R164). -/
def withdraw (s : State) (tid m : Nat) : State :=
  s.setArrivals (gidOf tid) m (((s.threadGroup tid).arrivals m).filter fun r => r.slot ≠ slotOf tid)

/-- A thread's pending cause taken where R91 lets it: at a chain boundary, or in a wait that is abandoned, also while its group is
parked. A wait at a rendezvous lasts to the end of the cc, so that a completion in that cc comes first (R164). -/
def asyncTake (s : State) (tid : Nat) : State :=
  let t := s.thread tid
  if !t.mayTake || s.isKilled tid then s
  else match t.place with
    | .ended => s
    | .filed => takePending s tid t.pc
    | .inBundle b =>
      let x := s.bundle b
      if x.chain.isEmpty then takePending s tid x.pc
      else if x.held && !x.finished.contains tid && t.request.isNone then takePending s tid x.head
      else s
    | .waiting w => match w with
      | .counter _ _ head | .ring _ _ head => takePending s tid head
      | .line _ _ _ _ | .queue => takePending s tid t.pc
      | .mask _ | .service _ _ | .answer _ | .halted => s

/-- A thread that waits at a rendezvous while a cause is pending on it leaves the rendezvous and takes the cause (R91, R164). -/
def withdrawOne (s : State) (tid : Nat) : State :=
  let t := s.thread tid
  match t.place with
  | .waiting (.mask m) => if t.mayTake && !s.isKilled tid then takePending (withdraw s tid m) tid t.pc else s
  | _ => s

/-- A cc has ended: its completions at the rendezvous have been, and the causes pending on threads there are taken (R164). -/
def withdrawDue (s : State) : State := s.threads.keys.foldl withdrawOne s

/-- An asynchronous cause made pending on a thread, which abandons a wait that R91 lets it abandon, that before the issue of a unit
among them; one filed again by a `bwait` in a group that is parked abandons it too (R152, R155). -/
def pendOn (s : State) (tid : Nat) (c : Cause) (val : Word) : State :=
  let s := makePending s tid c val
  match (s.thread tid).place with
  | .waiting _ => asyncTake s tid
  | .filed => if (s.threadGroup tid).offCore then asyncTake s tid else s
  | .inBundle b => if (s.bundle b).chain.isEmpty then s else asyncTake s tid
  | .ended => s

/-- ASYNC_CAUSE_TAKEN (R91). -/
def execAsyncCauseTaken (tid : Nat) (s : State) : Host.Outcome State Fault Refusal := .next (asyncTake s tid)

/-! ## Fetching and decoding a chain -/

/-- A unit fetched and decoded, or the fault that meets it: its cause, TRAPVAL, VAHI and K bit. -/
inductive FetchedUnit where
  | unit (i : Instr) (word : Word) (len : Nat) (leaf : DWord)
  | bad (cause : Cause) (val : Word) (vahi : Nat) (uni : Bool)
  deriving DecidableEq, Repr

/-- TRAPVAL and VAHI of a failed translation (R94). -/
def xlVal (va : Nat) : Word := BitVec.ofNat 32 (va / 2 ^ 16)
def xlVahi (va : Nat) : Nat := va / 2 ^ 48 % 128

/-- The leaf through which the instruction word of a unit was fetched: the first word's, or under a prefix the second's. -/
def unitLeaf (ws : List (Word × DWord)) : DWord :=
  match ws with
  | [] => 0
  | (x, l) :: rest => if isPrefix x then (rest.headD (x, l)).2 else l

/-- The words of a unit fetched as far as decoding asks for them. -/
def fetchUnit (ctx : DecCtx) (q w : Nat) (entry : DWord) (pc : Word) : Nat → List (Word × DWord) → State → FetchedUnit × State
  | 0, _, s => (.bad .illegalOp 0 0 false, s)
  | fuel + 1, ws, s =>
    match decodeUnit ctx (ws.map (·.1)) with
    | .unit i word len => (.unit i word len (unitLeaf ws), s)
    | .bad c v k => (.bad c v 0 k, s)
    | .fetch n =>
      let at_ := pc + BitVec.ofNat 32 (4 * n)
      match fetchWord s q w entry at_ with
      | (.ok x, s) => fetchUnit ctx q w entry pc fuel (ws ++ [x]) s
      | (.error f, s) => let va := codeVa entry at_
                         (.bad f.cause (xlVal va) (xlVahi va) (ws.any fun x => !isPrefix x.1 && x.1.getLsbD 31), s)

/-- A chain read unit by unit, at most nine: the units, and the fault that ends the reading. -/
def readChain (ctx : DecCtx) (q w : Nat) (entry : DWord) :
    Nat → Word → State → List ChainUnit × Option (Word × Cause × Word × Nat × Bool) × State
  | 0, _, s => ([], none, s)
  | fuel + 1, pc, s =>
    match fetchUnit ctx q w entry pc 4 [] s with
    | (.bad c v h k, s) => ([], some (pc, c, v, h, k), s)
    | (.unit i word len leaf, s) =>
      let u : ChainUnit := ⟨i, word, pc, len, leaf⟩
      if i.ctl.c then
        let r := readChain ctx q w entry fuel (pc + BitVec.ofNat 32 (4 * len)) s
        (u :: r.1, r.2.1, r.2.2)
      else ([u], none, s)

/-- The latches that a unit reads, and whether it has enough predecessors (R47). -/
def latchesOk (i : Instr) (pos : Nat) : Bool :=
  (i.operands.flatMap Operand.latches).all fun k => k + 1 ≤ pos

/-- Rules 2 to 5 of R53 from a unit on: `pos` units precede it, which take the values of the registers `before` (R36, R56). -/
def chainRest : Nat → List RegName → List Instr → Bool
  | _, _, [] => true
  | pos, before, i :: rest =>
    (rest.isEmpty || (!i.form.effect && !i.form.last && !i.writes.any fun r => i.reads.contains r)) &&
    !(i.writes.any fun r => before.contains r) && latchesOk i pos &&
    chainRest (pos + 1) (before ++ i.takes) rest

/-- R53. -/
def chainLegal (l : List Instr) : Bool := l.length ≤ 8 && chainRest 0 [] l

/-- The whole chain at an address checked (R54): its units, or the trap of its first failure. -/
def fetchChain (s : State) (core : Nat) (tid : Nat) (pc : Word) :
    Except (TrapArgs) (List ChainUnit) × State :=
  let l := s.threadLaunch tid
  let r := readChain (s.decCtx tid) (quadOf core) (s.threadWorld tid) l.entry 9 pc s
  match r.2.1 with
  | some (at_, c, v, h, k) => (.error ⟨c, untagged v, h, k, r.1.length, at_, pc, false, (s.thread tid).hasPending⟩, r.2.2)
  | none =>
    if chainLegal (r.1.map (·.instr)) then (.ok r.1, r.2.2)
    else match r.1 with
      | [] => (.ok [], r.2.2)
      | u :: _ =>
        let first := (fetchWord s (quadOf core) (s.threadWorld tid) l.entry pc).1
        let w := match first with
          | .ok w => w.1
          | .error _ => u.word
        (.error ⟨.illegalChain, untagged w, 0, u.instr.ctl.k, 0, pc, pc, false, (s.thread tid).hasPending⟩, r.2.2)

/-! ## Bundles (R133) -/

/-- A displaced bundle's threads filed at their next units (R133). -/
def displace (s : State) (b : Nat) : State :=
  let x := s.bundle b
  x.tids.foldl (fun s tid => refile s tid x.pc s.time) s

/-- The bundles of a core. -/
def bundlesOf (s : State) (core : Nat) : List (Nat × Bundle) := s.bundles.filter fun e => e.2.core = core

/-- Whether a bundle holds one of its core's 64 entries (R133): those that were drawn while all were in use take the ones that are freed
in the order of their draws. -/
def hasEntry (s : State) (b : Nat) (x : Bundle) : Bool :=
  !x.waits || ((bundlesOf s x.core).filter fun e => !e.2.waits || e.1 < b).length < 64

end Sys2Proof.Machine
end

