-- ==== Sys2Proof/Machine/CoreEvents.lean ====
section
/-! DEFINITION. The steps of a core beside issue: draws, ageing, displacement (spec/07_core.md R131 to R133), parking off-core and
reloading (R153 to R155). -/

namespace Sys2Proof.Machine

open Sys2Proof

/-! ## Draws (R131, R132) -/

/-- Whether a world's teams may be drawn: it is RUNNING (R341, R373). -/
def mayDraw (s : State) (team : Nat) : Bool := (s.world (s.team team).world).stat = 1

/-- Whether a filed thread may be drawn: its world is RUNNING, or it is halting and the thread has entered its handler (R93). -/
def mayRun (s : State) (team tid : Nat) : Bool :=
  mayDraw s team || ((s.world (s.team team).world).stat = 2 && (s.thread tid).enters)

/-- The filed threads of a bin that may be drawn now: `yield` and a refused `bwait` set a later runnable time (R161, R152). -/
def drawable (s : State) (b : Bin) : List Nat :=
  b.members.filter fun tid => (s.thread tid).runnable ≤ s.time && mayRun s b.team tid

/-- The earliest runnable time among threads. -/
def oldestOf (s : State) (l : List Nat) : Option Nat :=
  l.foldl (fun m tid => match m with
    | none => some (s.thread tid).runnable
    | some x => some (min x (s.thread tid).runnable)) none

/-- Whether every slot 0 to 31 has a thread. -/
def fullBin (l : List Nat) : Bool := (List.range 32).all fun k => l.any fun tid => slotOf tid = k

/-- The age limit of a team's launch. -/
def ageOf (s : State) (team : Nat) : Nat := (s.launch (s.team team).launch).age

/-- Whether the oldest thread of a bin has waited longer than the age limit (R131). -/
def binIsOld (s : State) (b : Bin) : Bool :=
  match oldestOf s (drawable s b) with
  | some t => ageOf s b.team < s.time - t
  | none => false

/-- The bins of a core whose oldest thread has waited longer than the age limit marked, and no others. -/
def ageBins (s : State) (core : Nat) : State :=
  let c := s.core core
  s.setCore core { c with bins := c.bins.map fun e => (e.1, { e.2 with aged := binIsOld s e.2 }) }

/-- BIN_AGED (R131): the bins whose oldest thread has waited longer than the age limit become eligible. -/
def execBinAged (core : Nat) (s : State) : Host.Outcome State Fault Refusal := .next (ageBins s core)

/-- Whether a bin is eligible: all its slots are ready, or its oldest thread is over age (R131). Only threads that may be drawn now count
(notes/assumptions/124.md). -/
def eligible (s : State) (b : Bin) : Bool := fullBin (drawable s b) || (b.aged && !(drawable s b).isEmpty)

/-- The eligible bin whose oldest thread became runnable first; ties go to the lower number. -/
def chooseBin (s : State) (bins : SMap Bin) : Option (Nat × Bin) :=
  (bins.filter fun e => eligible s e.2).foldl (fun m e => match m with
    | none => some e
    | some x =>
      if (oldestOf s (drawable s e.2)).getD 0 < (oldestOf s (drawable s x.2)).getD 0 then some e else some x) none

/-- For each slot the thread that became runnable first, ties to the lower group. -/
def takeSlots (s : State) (l : List Nat) : List Nat :=
  (List.range 32).filterMap fun k =>
    (l.filter fun tid => slotOf tid = k).foldl (fun m tid => match m with
      | none => some tid
      | some x =>
        let a := (s.thread tid).runnable
        let b := (s.thread x).runnable
        if a < b || (a = b && groupOf tid < groupOf x) then some tid else some x) none

/-- The bundle that has gone longest since its draw (R133). -/
def longestDrawn (l : List (Nat × Bundle)) : Option (Nat × Bundle) :=
  l.foldl (fun m e => match m with
    | none => some e
    | some x => if e.2.drawn < x.2.drawn then some e else some x) none

/-- A draw that finds 64 bundles drawn displaces one, that which has gone longest since its draw (R133): it takes the entry that this
frees. -/
def displaceOne (s : State) (core : Nat) : State :=
  if (bundlesOf s core).length < 64 then s
  else match longestDrawn ((bundlesOf s core).filter fun e => !e.2.displaced && hasEntry s e.1 e.2) with
    | some (b, x) => { s with bundles := s.bundles.insert b { x with displaced := true } }
    | none => s

/-- A bundle of threads drawn from bin `i`; where the core's 64 entries are in use it waits for one (notes/assumptions/111.md). -/
def drawFrom (s : State) (core i : Nat) (bin : Bin) : State :=
  let tids := takeSlots s (drawable s bin)
  let c := s.core core
  let left := bin.members.filter fun tid => !tids.contains tid
  let bins := if left.isEmpty then c.bins.erase i else c.bins.insert i { bin with members := left, aged := false }
  formBundle (drainQueue (s.setCore core { c with bins := bins }) core c.queue) core tids bin.pc 2
    (64 ≤ (bundlesOf s core).length)

/-- One counted draw of a world whose WTEST is armed (R338): whether it acts as a PREEMPT write. -/
def countDraw (s : State) (w : Nat) : Bool × State :=
  let x := s.world w
  if !x.testArm then (false, s)
  else if x.testN ≤ x.testSeen + 1 then (true, s.setWorld w { x with testArm := false, testSeen := 0 })
  else (false, s.setWorld w { x with testSeen := x.testSeen + 1 })

/-- One draw of a core (R132), which displaces a bundle where it finds 64 drawn (R133). The world whose test draw this was. -/
def drawFromBins (s : State) (core : Nat) : State × Option Nat :=
  match chooseBin s (s.core core).bins with
  | none => (s, none)
  | some (i, bin) =>
    let w := (s.team bin.team).world
    let r := countDraw { drawFrom (displaceOne s core) core i bin with lastDraw := some (s.time, core) } w
    (r.2, if r.1 then some w else none)

/-- A draw with the bins' ages as they are now (R131). -/
def drawBundle (s : State) (core : Nat) : State × Option Nat := drawFromBins (ageBins s core) core

/-! ## Parking and reloading (R153 to R156) -/

/-- The threads of a group that have not ended. -/
def groupThreads (s : State) (gid : Nat) : List Nat :=
  ((List.range 32).map (tidOf gid)).filter fun tid => (s.threads.find? tid).isSome && (s.thread tid).place != .ended

/-- Whether a thread counts as blocked in a group all of whose threads wait (R153); every wait of a service call counts, also that for a
line of its block (R126). -/
def blockedThread (s : State) (tid : Nat) : Bool :=
  let t := s.thread tid
  match t.place with
  | .filed => t.retries
  | .waiting w => match w with
    | .counter _ _ _ | .ring _ _ _ | .service _ _ => true
    | .line _ _ _ call => call
    | .mask m => ((s.threadGroup tid).arrivals m).any fun r => r.slot = slotOf tid && onlyWaits r.instr
    | _ => false
  | _ => false

/-- Whether every thread of a group that has not ended has been blocked for 2,000 cc without a break, all of them at once: since the
last of them blocked, since a thread of the group last ended (R153, R156), and since the group was last reloaded or tried in vain
(R155, R340). -/
def wholeBlocked (s : State) (gid : Nat) : Bool :=
  let l := groupThreads s gid
  !l.isEmpty && 2000 ≤ s.time - (s.group gid).lastEnd && 2000 ≤ s.time - (s.group gid).parkFrom &&
    l.all fun tid => blockedThread s tid && 2000 ≤ s.time - (s.thread tid).since

/-- The groups that hold granules and an entry of a core: a killed team's do not (R146, R195). -/
def residentGroups (s : State) (core : Nat) : List (Nat × Group) :=
  s.groups.filter fun e => e.2.core = core && !e.2.offCore && !(groupThreads s e.1).isEmpty &&
    (s.team (teamOfGid e.1)).killed.isNone

def groupRole (s : State) (gid : Nat) : Role :=
  (s.launch (s.team (teamOfGid gid)).launch).roles.getD (s.group gid).role noRole

/-- The granules in use on a core (R145, R148). -/
def granulesInUse (s : State) (core : Nat) : List Nat := (residentGroups s core).flatMap fun e => e.2.granules
def granulesUsed (s : State) (core : Nat) : Nat := (granulesInUse s core).length

/-- A group's map filled with the lowest free granules of its core, r/8 of them (R145, R146). -/
def fillGranules (s : State) (gid : Nat) : State :=
  let g := s.group gid
  let s := s.setGroup gid { g with granules := [] }
  let used := granulesInUse s g.core
  s.setGroup gid { g with
    granules := ((List.range 384).filter fun k => !used.contains k).take ((groupRole s gid).regs / 8) }

/-- The granule and the byte in it of register Vn of a slot (R145). -/
def Group.registerPlace (g : Group) (n slot : Nat) : Option (Nat × Nat) :=
  (g.granules[n / 8]?).map fun x => (x, 128 * (n % 8) + 4 * slot)

/-- Whether a core has free granules and a free entry for a group. -/
def groupFits (s : State) (core gid : Nat) : Bool :=
  granulesUsed s core + (groupRole s gid).regs / 8 ≤ 384 && (residentGroups s core).length + 1 ≤ 48

/-- The group leaves its core (R154): its filed threads leave the bins, its granules are free. -/
def leaveCore (s : State) (gid : Nat) : State :=
  let s := (groupThreads s gid).foldl (fun s tid =>
    if (s.thread tid).place == .filed then unfileThread s tid else s) s
  s.setGroup gid { s.group gid with offCore := true, granules := [], woken := false }

/-- Whether a thread of a parked group has been woken: its wait is over (R155). -/
def wokenThread (s : State) (tid : Nat) : Bool :=
  let t := s.thread tid
  t.place == .filed && (!t.retries || t.runnable ≤ s.time)

/-- Whether a wake has occurred for a parked group (R155): one of its threads is woken, or a cause has become pending on one. -/
def groupWoken (s : State) (gid : Nat) : Bool := (s.group gid).woken || (groupThreads s gid).any (wokenThread s)

/-- The core that a group reloads on (R155): its home core, or the lowest-numbered core of the quad with room. -/
def reloadCore (s : State) (gid : Nat) : Option Nat :=
  let home := (s.team (teamOfGid gid)).core
  if groupFits s home gid then some home
  else (List.range 1024).find? fun c => quadOf c = quadOf home && groupFits s c gid

/-- A thread of a reloaded group: a filed one takes a bin; one that waits in `bwait` takes a waiter entry on the new core, or is
filed again 256 cc later where none is free (R150, R152). `keys`: the entries taken on the core. -/
def reloadThread (p : State × List (Nat × Nat × Nat)) (tid : Nat) : State × List (Nat × Nat × Nat) :=
  let s := p.1
  let t := s.thread tid
  match t.place with
  | .filed => (fileThread s tid t.runnable, p.2)
  | .waiting (.counter k target head) =>
    let key := (teamOf tid, k, target)
    if p.2.contains key then p
    else if p.2.length < 64 then (s, key :: p.2)
    else (fileThread (s.modThread tid fun t => { t with pc := head, retries := true }) tid (s.time + 256), p.2)
  | _ => p

def reloadGroup (s : State) (gid core : Nat) : State :=
  let keys := waiterKeys s core
  let s := fillGranules (s.setGroup gid { s.group gid with offCore := false, core := core, woken := false, parkFrom := s.time }) gid
  ((groupThreads s gid).foldl reloadThread (s, keys)).1

/-- DISPLACEMENT (R133): at a chain boundary of a displaced bundle. -/
def execDisplacement (bid : Nat) (s : State) : Host.Outcome State Fault Refusal :=
  let x := s.bundle bid
  if x.displaced && x.chain.isEmpty then .next (displace s bid) else .next s

end Sys2Proof.Machine
end

