-- ==== Sys2Proof/Machine/Tables.lean ====
section
/-! DEFINITION. Main memory and its frames: bytes and their errors, references and pins (spec/13_die_frames.md R251, R264), table
writes (R254 to R260), purges (R263), retypes (R265, R266); the fault log (spec/17_package_launch.md R315). -/

namespace Sys2Proof.Machine

open Sys2Proof

/-! ## Bytes -/

/-- Whether bytes read from HBM hold an uncorrectable error (R84, R361). -/
def isBad (s : State) (key n : Nat) : Bool := s.bad.any fun w => w * 8 < key + n && key < w * 8 + 8

/-- Bytes written into main memory; a word of 8 bytes written whole holds an error no longer. -/
def writeMain (s : State) (key : Nat) (bytes : List Byte) : State :=
  { s with
    mem := s.mem.writeBytes key bytes
    bad := s.bad.filter fun w => !(key ≤ w * 8 && w * 8 + 8 ≤ key + bytes.length) }

/-- Bytes that an access for a world has read or written at the memory slices (R378); host memory lies at no slice. -/
def countHbm (s : State) (w key n : Nat) : State :=
  if key < 2 ^ 64 then
    { s with assayer := { s.assayer with hbm := s.assayer.hbm.insert w (s.assayer.hbm.getD w 0 + n) } }
  else s

/-- An HBM frame zeroed; a host-aperture frame is left as it is (R265). -/
def zeroFrame (s : State) (f : Nat) : State :=
  if isAperture f then s
  else
    { s with
      mem := List.filter (fun e => !(f * 2 ^ 16 ≤ e.1 && e.1 < (f + 1) * 2 ^ 16)) s.mem
      bad := s.bad.filter fun w => !(f * 2 ^ 13 ≤ w && w < (f + 1) * 2 ^ 13) }

/-! ## References (R251) -/

/-- COUNT of a frame. -/
def State.count (s : State) (f : Nat) : Nat := (s.refs.filter fun r => r.1 ≤ f && f < r.1 + r.2).length

/-- One more reference to each frame of a run. -/
def addRef (s : State) (r : Nat × Nat) : State := { s with refs := r :: s.refs }

/-- One reference to each frame of a run less. -/
def dropRef (s : State) (r : Nat × Nat) : State := { s with refs := s.refs.erase r }

/-- A frame pinned and unpinned (R264). -/
def pin (s : State) (f : Nat) : State := addRef s (f, 1)
def unpin (s : State) (f : Nat) : State := dropRef s (f, 1)

/-! ## Owned lines (R283, R284) -/

/-- A line's owner recalled: it is written back at its slice (R378) and its frame unpinned. The model's memory holds the line's value
wherever it is owned (R285). -/
def recallFrom (s : State) (q k : Nat) : State :=
  match (s.quad q).owned.find? fun o => o.line = k with
  | some o =>
    let s := s.setQuad q { s.quad q with owned := (s.quad q).owned.filter fun o => o.line ≠ k }
    unpin (countHbm s o.via.world (k * 128) 128) (k / 512)
  | none => s

/-- The quads that hold an owned line. -/
def owners (s : State) (k : Nat) : List Nat :=
  List.filterMap (fun e : Nat × Quad => if e.2.owned.any fun o => o.line = k then some e.1 else none) s.quads

def recallLine (s : State) (k : Nat) : State := (owners s k).foldl (fun s q => recallFrom s q k) s

/-- Every owned line of a range of HBM recalled. -/
def recallRange (s : State) (key n : Nat) : State := (linesOf key n).foldl recallLine s

/-! ## Translation caches (R263) -/

def State.cache (s : State) : CacheId → List Xlat
  | .quad q => (s.quad q).cache
  | .host w => s.hostCaches.getD w []
  | .fab w => s.fabCaches.getD w []

def State.setCache (s : State) (c : CacheId) (l : List Xlat) : State :=
  match c with
  | .quad q => s.setQuad q { s.quad q with cache := l }
  | .host w => { s with hostCaches := s.hostCaches.insert w l }
  | .fab w => { s with fabCaches := s.fabCaches.insert w l }

/-- A checked translation through any cache, as `access` makes it through a quad's (R261, R262). -/
def accessIn (s : State) (c : CacheId) (w va : Nat) (acc : Access) (ladle : Bool) : Except XlFault Xlat × State :=
  let r := accessCache s (s.cache c) w va acc ladle
  (r.1, match r.2 with
    | some l => s.setCache c l
    | none => s)

/-- The caches that may hold a translation of a world (R260, R395), or in a quad an owned line or a cell that one of it has brought
there (R284, R405). -/
def cachesOf (s : State) (w : Nat) : List CacheId :=
  (List.filterMap (fun q => if (s.world w).quads.getLsbD q || (s.quad q).cache.any (·.world = w) ||
      (s.quad q).owned.any (·.via.world = w) || (s.quad q).cells.any (·.world = w) then some (.quad q) else none) (List.range 256)) ++ [.host w, .fab w]

/-- The pins of a frame (R264): those of requests and of segments, of owned lines (R283), and of remote writes whose purge is out. -/
def pinsOf (s : State) (f : Nat) : Nat :=
  (List.filter (fun e : Nat × Request => e.2.pin = some f) s.requests).length +
  (s.ladles.map fun e => (List.filter (fun g : Nat × Segment => g.2.pins.contains f) e.2.segs).length).sum +
  (s.quads.map fun e => (e.2.owned.filter fun o => o.line / 512 = f).length).sum +
  (List.filter (fun e : Nat × Purge => match e.2.after with
    | .reply _ g => g = f
    | _ => false) s.purges).length

/-- Whether an entry or a reservation still names a frame, or the removal of one is not acknowledged: otherwise no new pin of it begins
(R312). -/
def stillNamed (s : State) (f : Nat) : Bool := pinsOf s f < s.count f

/-- The owned lines of a run of frames recalled where nothing names their frames any longer (R312): a grant that passes a purge on its
way is not held through a translation that a later purge drops. -/
def recallUnnamed (s : State) (r : Nat × Nat) : State :=
  (s.quads.flatMap fun q => q.2.owned.map (·.line)).foldl (fun s k =>
    if r.1 ≤ k / 512 && k / 512 < r.1 + r.2 && !stillNamed s (k / 512) then recallLine s k else s) s

/-- Whether a purge drops an entry (R263, R310). -/
def PurgeOf.drops (w : Nat) (x : Xlat) : PurgeOf → Bool
  | .table f => x.seen.contains f
  | .grant g => x.world = w && entGrant x.leaf = g
  | .va a => x.world = w && x.page = a / leafSize x.level
  | .all => x.world = w

/-! ## Ranks and cell caches (R394, R395, R405) -/

def State.rankEntry (s : State) (w r : Nat) : DWord := (s.world w).ranks.getD r (s.world w).rankBase

def rankValid (e : DWord) : Bool := e.getLsbD 63
def rankIsLost (e : DWord) : Bool := e.getLsbD 62
def rankNode (e : DWord) : Nat := (e.extractLsb' 0 12).toNat
def rankWorld (e : DWord) : Nat := (e.extractLsb' 32 6).toNat

/-- The home of a remote cell that a request asks, by its node and the world there (R405). -/
def Request.cellHome (s : State) (r : Request) : Option Nat :=
  match r.asked with
  | .cell _ (some k) _ _ _ _ _ _ _ _ =>
    some (rankNode (s.rankEntry r.world k) * 64 + rankWorld (s.rankEntry r.world k))
  | _ => none

/-- Whether a request of a quad has taken a translation that a purge drops (R263). -/
def Request.isUnder (r : Request) (q w : Nat) (what : PurgeOf) : Bool :=
  match r.asked with
  | .cell _ _ _ _ _ _ _ _ _ (some x) => quadOf r.core = q && what.drops w x
  | _ => false

/-- The requests that fit a test install nothing with their answers (R263, R405). -/
def markPurged (s : State) (p : Request → Bool) : State :=
  { s with requests := s.requests.map fun e => (e.1, if p e.2 then { e.2 with purged := true } else e.2) }

/-- The live ports of a node's route (R393). -/
def livePorts (s : State) (node : Nat) : List Nat :=
  (List.range 36).filter fun p => (s.fabric.routes.getD node 0).testBit p && !s.fabric.dead.contains p

/-- The other nodes that the route table reaches over a live port (R405). -/
def reachedNodes (s : State) : List Nat :=
  List.filterMap (fun e : Nat × Nat => if e.1 ≠ s.fabric.node && !(livePorts s e.1).isEmpty then some e.1 else none) s.fabric.routes

/-- The entries of the fabric cell cache for a home's node and the world there dropped (R405); an answer on its way from there installs
none. -/
def dropCells (s : State) (node w : Nat) : State :=
  let s := markPurged s fun r => r.cellHome s == some (node * 64 + w)
  { s with fabric := { s.fabric with cells := s.fabric.cells.filter fun e => e.home ≠ node * 64 + w } }

/-- A flit counted at a port to a world (R392). -/
def countFlit (s : State) (port w : Nat) : State :=
  let k := port * 64 + w
  { s with fabric := { s.fabric with flits := s.fabric.flits.insert k (s.fabric.flits.getD k 0 + 1) } }

/-- A packet that leaves by a port, with the next sequence number of its flow (R391, R392). -/
def leaveBy (s : State) (port : Nat) (p : Packet) : State :=
  let k := p.dst.toNat * 64 + p.sworld.toNat
  let n := s.fabric.seqs.getD k 0
  countFlit { s with fabric := { s.fabric with
    sent := (port, { p with seq := BitVec.ofNat 64 n }) :: s.fabric.sent, seqs := s.fabric.seqs.insert k (n + 1) } } port p.sworld.toNat

/-- One of the live ports of a node's route, by a value that the spec leaves open; none where no port is live (R393). -/
def pickPort (s : State) (node : Nat) : Option Nat × State :=
  let (n, s) := s.free
  let ports := livePorts s node
  (ports[n % ports.length]?, s)

/-- A packet sent: by one of the live ports of its node's route (R393), or to this package itself where it names this node (R395).
Without a live port it waits for one (R398). -/
def sendPacket (s : State) (p : Packet) : State :=
  if p.dst.toNat = s.fabric.node then
    let (id, s) := s.newId
    { s with fabric := { s.fabric with inbox := s.fabric.inbox.insert id ⟨p, true⟩ } }
  else
    match pickPort s p.dst.toNat with
    | (some port, s) => leaveBy s port p
    | (none, s) => { s with fabric := { s.fabric with unsent := s.fabric.unsent ++ [p] } }

/-- The packets that have found no live port sent again, with their REQIDs (R398). -/
def resendAll (s : State) : State :=
  s.fabric.unsent.foldl sendPacket { s with fabric := { s.fabric with unsent := [] } }

/-- The REQID of a packet that no operation has sent (notes/assumptions/133.md): one that R343 gives to none. -/
def noReqid : DWord := 0xFFFFFFFFFFFFFFFF

/-- A management packet of a world of this package: a RANK_DOWN (8), a fabric purge (9) or its acknowledgement (10), on VF3 with PKEY
0xFFFF (R391, R392); also a reject (7), to which R396 gives no key. -/
def managePacket (s : State) (op node dworld sworld : Nat) (reqid : DWord) (payload : List Byte) : Packet :=
  { pkey := 0xFFFF, dst := BitVec.ofNat 12 node, vf := 3, src := BitVec.ofNat 12 s.fabric.node
    dworld := BitVec.ofNat 6 dworld, sworld := BitVec.ofNat 6 sworld, op := BitVec.ofNat 8 op, inc := (s.world sworld).inc
    srank := 0, len := payload.length, reqid := reqid, addr := 0, seq := 0, payload := payload, grade := 0, poison := false }

/-- A purge sent (R260, step 2), a fabric purge to each node among `nodes` (R405). -/
def startPurge (s : State) (w : Nat) (what : PurgeOf) (nodes : List Nat) (runs : List (Nat × Nat)) (grants : List Nat)
    (after : PurgeEnd) : Nat × State :=
  let (id, s) := s.newId
  let s := { s with purges := s.purges.insert id ⟨w, what, cachesOf s w, nodes, runs, grants, after⟩ }
  (id, nodes.foldl (fun s n => sendPacket s (managePacket s 9 n w w noReqid [])) s)

/-- Whether a purge takes the owned lines with the translations: that of a removal does (R260, R284), an `xlpurge` does not, which
changes no COUNT (R310). -/
def PurgeOf.recalls : PurgeOf → Bool
  | .table _ | .grant _ => true
  | .va _ | .all => false

/-- What an acknowledging cache drops: its entries, and for a quad the cells and the owned lines that it holds through them, also the
cells that answers on their way would install (R263, R284, R310, R405). -/
def dropFrom (s : State) (c : CacheId) (w : Nat) (what : PurgeOf) : State :=
  let s := s.setCache c ((s.cache c).filter fun x => !what.drops w x)
  match c with
  | .quad q =>
    let s := markPurged s fun r => r.isUnder q w what
    let s := s.setQuad q { s.quad q with cells := (s.quad q).cells.filter fun e => match e.via with
      | some x => !what.drops w x
      | none => true }
    ((s.quad q).owned.filter fun o => what.recalls && what.drops w o.via).foldl (fun s o => recallFrom s q o.line) s
  | _ => s

/-! ## Grants (R257) -/

def State.setGrant (s : State) (w g : Nat) (x : Grant) : State :=
  s.setWorld w { s.world w with grants := SMap.set noGrant (s.world w).grants g x }

def addUse (s : State) (w g : Nat) : State := s.setGrant w g { s.grant w g with uses := (s.grant w g).uses + 1 }
def dropUse (s : State) (w g : Nat) : State := s.setGrant w g { s.grant w g with uses := (s.grant w g).uses - 1 }

/-! ## Table writes (R255, R258 to R260) -/

/-- The level of a table type (R250). -/
def tableLevel (type : Nat) : Nat := 6 - type

/-- The run of frames that an entry names (R253). -/
def targetRun (level : Nat) (e : DWord) : Nat × Nat := (entFrame e, if entL e then runLength level else 1)

/-- Whether every frame of a run has a property. -/
def runFrames (s : State) (first n : Nat) (p : Frame → Bool) : Bool :=
  let listed := List.filter (fun e : Nat × Frame => first ≤ e.1 && e.1 < first + n) s.frames
  listed.all (fun e => p e.2) && (n ≤ listed.length || p noFrame)

/-- Whether every frame of a run exists (R248, R384). -/
def runExists (s : State) (first n : Nat) : Bool :=
  (apertureLo ≤ first && first + n ≤ apertureHi) ||
    (first + n ≤ frameTop && dieRuns s (dieOfFrame first) && dieRuns s (dieOfFrame (first + n - 1)))

/-- Whether a type admits a leaf's permissions (R256). -/
def admits (type : Nat) (e : DWord) : Bool :=
  match type with
  | 1 | 3 | 4 | 5 | 8 => !entX e && !entCell e
  | 2 => !entW e && !entCell e
  | 6 => !entW e && !entX e && !entCell e
  | 7 => !entR e && !entW e && !entX e
  | _ => false

/-- The lowest of rules 1 to 5 and 10 of R255 that an entry of world `w`'s table of a level breaks. FRAME[47:46] counts as a reserved
field (notes/assumptions/127.md); rule 10, which speaks of a run, is applied to leaves and not to pointers
(notes/assumptions/132.md). -/
def sliceRule (s : State) (w level : Nat) (e : DWord) : Option Nat :=
  if !entV e && e ≠ 0 then some 1
  else if e.extractLsb' 56 8 ≠ 0 || e.extractLsb' 46 2 ≠ 0 || e.extractLsb' 12 4 ≠ 0 || entPath e = 3 then some 2
  else if entV e && !entL e && (entGrant e ≠ 0 || entPath e ≠ 0 || entGrade e ≠ 0 || entScope e ≠ 0 || entCell e || entX e ||
      entW e || entR e) then some 3
  else if entV e && !entL e && (level = 1 || (s.frame (entFrame e)).type ≠ 7 - level ||
      (s.frame (entFrame e)).owner ≠ w) then some 4
  else if entV e && entL e && !entR e && !entW e && !entX e && !entCell e then some 5
  else if entV e && entL e && isAperture (entFrame e) && (entScope e ≠ 3 || entPath e ≠ 0 || entX e) then some 10
  else none

/-- Whether a grant lets a leaf of a run through (R255, rule 9). -/
def grantAllows (s : State) (g : Grant) (first n : Nat) (e : DWord) : Bool :=
  g.gv && !g.closing && g.first ≤ first && first + n ≤ g.first + g.nframes && runFrames s first n (·.owner = g.owner) &&
    (!entR e || g.perm.getLsbD 0) && (!entW e || g.perm.getLsbD 1) && (!entX e || g.perm.getLsbD 2) &&
    (!entCell e || g.perm.getLsbD 3)

/-- The lowest of rules 6 to 9 of R255 that a leaf breaks. -/
def homeRule (s : State) (w level : Nat) (e : DWord) : Option Nat :=
  if !entV e || !entL e then none
  else
    let first := entFrame e
    let n := runLength level
    if first % n ≠ 0 || !runExists s first n then some 6
    else if !runFrames s first n fun f => admits f.type e then some 7
    else if entGrant e = 0 then (if runFrames s first n (·.owner = w) then none else some 8)
    else if grantAllows s (s.grant w (entGrant e)) first n e then none else some 9

/-- The rule of R255 that an entry is refused by (R258). -/
def badRule (s : State) (w level : Nat) (e : DWord) : Option Nat :=
  match sliceRule s w level e with
  | some r => some r
  | none => homeRule s w level e

/-- The entries that a unit's bytes write, by offset in the frame, in ascending order; none where they do not cover whole
entries. -/
def unitEntries (writes : List (Nat × List Byte)) : Option (List (Nat × DWord)) :=
  let m : SMap Byte := writes.foldl (fun m w =>
    (List.range w.2.length).foldl (fun m k => SMap.insert m (w.1 + k) (w.2.getD k 0)) m) []
  let idx := (m.keys.map (· / 8)).eraseDups
  if idx.all fun i => (List.range 8).all fun k => (m.find? (8 * i + k)).isSome then
    some (idx.map fun i => (i, BitVec.ofNat 64 (leValue ((List.range 8).map fun k => m.getD (8 * i + k) 0))))
  else none

/-- The entry of a table frame. -/
def tableEntry (s : State) (f i : Nat) : DWord := BitVec.ofNat 64 (s.mem.readLe (physKey (f * 2 ^ 16 + 8 * i)) 8)

/-- The entries that a write unit changes, with their old and new values; none where its bytes do not cover whole entries. -/
def unitChanges (s : State) (f : Nat) (writes : List (Nat × List Byte)) : Option (List (Nat × DWord × DWord)) :=
  (unitEntries writes).map fun es => List.filterMap (fun e : Nat × DWord =>
    if tableEntry s f e.1 = e.2 then none else some (e.1, tableEntry s f e.1, e.2)) es

/-- A write unit checked (R258): the entries that it changes with their old and new values, or the rule that the first bad entry
breaks, 0 for a unit that does not cover whole entries. -/
def checkWrites (s : State) (f : Nat) (writes : List (Nat × List Byte)) : Except Nat (List (Nat × DWord × DWord)) :=
  let m := s.frame f
  match unitChanges s f writes with
  | none => .error 0
  | some ch =>
    match ch.findSome? fun e => badRule s m.owner (tableLevel m.type) e.2.2 with
    | some r => .error r
    | none => .ok ch

/-- An accepted unit written (R258, R259), as one step in which no other operation of a home falls, so that CHG is never seen odd
(notes/assumptions/18.md): reservations become counts, USES and VALID follow, CHG grows by 2 where a mapping
changes. The runs and grants of the entries removed, and whether a mapping changed. -/
def applyUnit (s : State) (f : Nat) (ch : List (Nat × DWord × DWord)) : State × List (Nat × Nat) × List Nat × Bool :=
  let m := s.frame f
  let lv := tableLevel m.type
  let s := ch.foldl (fun s e =>
    let s := if entV e.2.2 then addRef s (targetRun lv e.2.2) else s
    let s := if entV e.2.2 && entGrant e.2.2 ≠ 0 then addUse s m.owner (entGrant e.2.2) else s
    writeMain s (physKey (f * 2 ^ 16 + 8 * e.1)) (leBytes 8 e.2.2.toNat)) s
  let old := ch.filter fun e => entV e.2.1
  let fresh := ch.filter fun e => entV e.2.2
  let s := s.setFrame f { m with
    valid := m.valid + fresh.length - old.length
    chg := if old.isEmpty then m.chg else m.chg + 2 }
  (s, old.map (fun e => targetRun lv e.2.1),
    (old.map fun e => entGrant e.2.1).filter (· ≠ 0), !old.isEmpty)

/-- The reservations of a write unit taken entry by entry (R258), until one is refused: one on each frame of an entry's target run, and
the USES of its grant. -/
def reserveEach (s : State) (level : Nat) (h : Held) : List (Nat × DWord × DWord) → State × Held
  | [] => (s, h)
  | e :: rest =>
    if (badRule s h.owner level e.2.2).isSome then (s, { h with refused := true })
    else if !entV e.2.2 then reserveEach s level h rest
    else
      let s := addRef s (targetRun level e.2.2)
      let h := { h with runs := targetRun level e.2.2 :: h.runs }
      if entGrant e.2.2 = 0 then reserveEach s level h rest
      else reserveEach (addUse s h.owner (entGrant e.2.2)) level { h with uses := entGrant e.2.2 :: h.uses } rest

/-- The reservations of a write unit released (R258). -/
def releaseHeld (s : State) (h : Held) : State := h.uses.foldl (fun s g => dropUse s h.owner g) (h.runs.foldl dropRef s)

/-- An accepted unit's writes and the start of its removal protocol (R260): the number of its purge, none where no mapping
changes. -/
def acceptUnit (s : State) (f : Nat) (ch : List (Nat × DWord × DWord)) (after : PurgeEnd) : Option Nat × State :=
  let w := (s.frame f).owner
  let r := applyUnit s f ch
  if r.2.2.2 then
    let cells := r.2.1.any fun run => !runFrames r.1 run.1 run.2 fun x => x.type ≠ 7
    let s := if cells then dropCells r.1 r.1.fabric.node w else r.1
    let p := startPurge s w (.table f) (if cells then reachedNodes s else []) r.2.1 r.2.2.1 after
    (some p.1, p.2)
  else (none, r.1)

/-- The decrements of R260, step 4. -/
def settlePurge (s : State) (p : Purge) : State :=
  let s := p.runs.foldl recallUnnamed (p.runs.foldl dropRef s)
  p.grants.foldl (fun s g => dropUse s p.world g) s

/-! ## Retype (R265, R266) -/

/-- Whether a change of type may be asked by an owner, and by world 0 (R265). -/
def retypePair (old new : Nat) : Bool × Bool :=
  match old with
  | 0 => (new = 1 || new = 2 || new = 3 || new = 4 || new = 5 || new = 7 || new = 8, new ≠ 0 && new ≤ 8)
  | 1 => (new = 2 || new = 0, new = 2 || new = 0)
  | 2 => (new = 1 || new = 0, new = 1 || new = 0)
  | 3 | 4 | 5 | 8 => (new = 0, new = 0)
  | 6 | 7 => (false, new = 0)
  | _ => (false, false)

/-- The retype of a frame: its result word (R266) and the state after it. -/
def retype (s : State) (w f new : Nat) (owner : Option Nat) : Nat × State :=
  let m := s.frame f
  if !hasFrame s f then (5, s)
  else if m.owner ≠ w && w ≠ 0 then (2, s)
  else
    let ok := match owner with
      | none => let p := retypePair m.type new
                if w = 0 then p.2 else p.1
      | some o => w = 0 && m.type = 0 && new = 0 && o ≠ m.owner
    if !ok then (3, s)
    else if isTableType m.type && m.valid ≠ 0 then (4, s)
    else if s.count f ≠ 0 then (1, s)
    else
      let moved := match owner with
        | some o => o ≠ m.owner
        | none => false
      let s := if isTableType new || new = 7 || m.type = 6 || m.type = 7 || moved then
          countHbm (zeroFrame s f) w (physKey (f * 2 ^ 16)) (2 ^ 16) else s
      (0, s.setFrame f { m with type := new, owner := owner.getD m.owner, gen := m.gen + 1, valid := 0 })

/-- The metadata words of a frame (R250). -/
def metaWords (s : State) (f : Nat) : List Word :=
  let m := s.frame f
  [BitVec.ofNat 32 (m.type + m.owner * 2 ^ 10 + m.valid * 2 ^ 18), BitVec.ofNat 32 (s.count f), m.chg, m.gen]

/-- The answer of `fquery` (R307). -/
def queryWords (s : State) (w f : Nat) : List Word :=
  if !hasFrame s f then [0xE, 0, 0, 0]
  else if (s.frame f).owner = w || w = 0 then metaWords s f
  else [0xF, 0, 0, 0]

/-! ## The functions' windows -/

/-- Whether a function's window answers: there are 64 functions, one for each world (R23), and in ERROR every access is answered with
Unsupported Request (R366). -/
def windowOpen (s : State) (w : Nat) : Bool := w < 64 && (s.world w).tdi ≠ .error

/-! ## Rings, messages and the fault log (R313 to R315) -/

/-- The page of a ring as a world's tables map it: the physical address of byte 0 and the grade, where it is a RING frame with the
permissions asked for. -/
def ringPage (s : State) (w : Nat) (base : DWord) (read : Bool) : Option (Nat × BitVec 2) :=
  let va := base.toNat / 2 ^ 16 * 2 ^ 16
  match walk s w va with
  | .notMapped => none
  | .leaf x =>
    if entW x.leaf && (!read || entR x.leaf) && (checkLeaf s w x va .write false).isNone &&
      (s.frame (x.phys va / 2 ^ 16)).type = 8 then some (x.phys va, entGrade x.leaf)
    else none

def raiseMsix (s : State) (w v : Nat) : State := { s with msix := (w, v) :: s.msix }

/-- What an entry of the fault log holds beside its time and its drops (R315, R369). -/
structure LogEntry where
  kind   : Nat
  detail : Nat := 0
  at_    : Word := 0
  reqid  : DWord := 0
  addr   : Nat := 0
  opc    : Nat := 0
  deriving DecidableEq, Repr

/-- An entry written into a world's fault log, or dropped and counted (R314, R315). -/
def logFault (s : State) (w : Nat) (e : LogEntry) (time : DWord) : State :=
  let x := s.world w
  match ringPage s w x.flbase false with
  | none => s.setWorld w { x with drops := min (x.drops + 1) (2 ^ 32 - 1) }
  | some (pa, _) =>
    if x.flhead - x.fltail = 1024 then s.setWorld w { x with drops := min (x.drops + 1) (2 ^ 32 - 1) }
    else
      let bytes := leBytes 4 (e.kind + e.detail % 256 * 256) ++ leBytes 4 e.at_.toNat ++ leBytes 8 e.reqid.toNat ++
        leBytes 8 e.addr ++ [BitVec.ofNat 8 e.opc] ++ List.replicate 7 0 ++ leBytes 8 time.toNat ++ leBytes 4 x.drops ++
        List.replicate 20 0
      let key := physKey (pa + 64 * (x.flhead.toNat % 1024))
      let s := countHbm (writeMain s key bytes) w key 64
      raiseMsix (s.setWorld w { x with flhead := x.flhead + 1, drops := 0 }) w 1

/-- An entry whose time is the Assayer's. -/
def logEvent (s : State) (w : Nat) (e : LogEntry) : State := logFault s w e (micros s)

/-- The next REQID of a world and a core (R343). -/
def nextReqid (s : State) (w core : Nat) : DWord × State :=
  let n := (s.world w).seqs.getD core 0
  (BitVec.ofNat 64 (w * 2 ^ 58 + core * 2 ^ 48 + n % 2 ^ 48),
    s.setWorld w { s.world w with seqs := (s.world w).seqs.insert core (n + 1) })

/-- Whether a request holds one of its core's entries: a main-memory atomic or a cell operation (R17, R274). -/
def Asked.holdsEntry : Asked → Bool
  | .atomic _ _ _ _ _ _ _ _ | .hostAtomic _ _ _ _ _ _ _ _ _ | .cell _ _ _ _ _ _ _ _ _ _ => true
  | .fquery _ _ | .fretype _ _ _ _ | .purge _ => false

/-- The requests outstanding on a core (R274); a replay entry that has not been reissued is none (R344). -/
def outstanding (s : State) (core : Nat) : Nat :=
  (List.filter (fun e : Nat × Request => e.2.core = core && e.2.asked.holdsEntry && !e.2.replay) s.requests).length +
    s.ladles.foldl (fun n e => if e.2.core = core then
      n + (List.filter (fun g : Nat × Segment => g.2.state != .queued && !g.2.replay) e.2.segs).length else n) 0

end Sys2Proof.Machine
end

