-- ==== Sys2Proof/Machine/Commands.lean ====
section
/-! DEFINITION. Hardware queues: the completion of a command and the flush of a queue (spec/17_package_launch.md R319 to R321,
R335, R336). -/

namespace Sys2Proof.Machine

open Sys2Proof

def State.cmdQueue (s : State) (w q : Nat) : CmdQueue := (s.world w).queues.getD q {}

def State.setCmdQueue (s : State) (w q : Nat) (x : CmdQueue) : State :=
  s.setWorld w { s.world w with queues := SMap.set {} (s.world w).queues q x }

/-- The outcomes of R321. -/
inductive Outcome where
  | ok | refused | failed | flushed
  deriving DecidableEq, Repr

def Outcome.code : Outcome → Nat
  | .ok => 0
  | .refused => 1
  | .failed => 2
  | .flushed => 3

/-- The completion statuses' codes (R95). -/
def statusCode : Status → Nat
  | .ok => 0
  | .tableRefused => 1
  | .rangeFault => 2
  | .unsup => 3
  | .rankLost => 4
  | .pkey => 5
  | .flrAbort => 6

/-- A STATUS word (R321). -/
def statusWord (o : Outcome) (reason estat : Nat) : Nat := 2 ^ 31 + o.code * 2 ^ 28 + reason % 256 * 2 ^ 16 + estat % 256

/-- The virtual address of a queue's command number n (R314). -/
def commandVa (x : CmdQueue) (n : Word) : Nat := x.base.toNat / 2 ^ 16 * 2 ^ 16 + 64 * (n.toNat % 1024)

/-- STATUS written into the entry at a virtual address, where its page still is a RING frame mapped with W. -/
def writeStatus (s : State) (w va word : Nat) : State :=
  match ringPage s w (BitVec.ofNat 64 va) false with
  | some (pa, _) =>
    let key := physKey (pa + va % 2 ^ 16 + 4)
    countHbm (writeMain s key (leBytes 4 word)) w key 4
  | none => s

/-- The command that a queue runs completes: STATUS, then QHEAD, past the commands that a flush has completed (R335, R336). -/
def finishCommand (s : State) (w q : Nat) (o : Outcome) (reason estat : Nat) : State :=
  let x := s.cmdQueue w q
  let s := writeStatus s w x.runVa (statusWord o reason estat)
  s.setCmdQueue w q { x with head := x.head + 1 + BitVec.ofNat 32 x.flushed, running := none, runVa := 0, flushed := 0 }

/-- A flush (R336): every pending command up to QTAIL completes FLUSHED, a running WAITCOUNT too; STOPPED is set and vector 3
raised. -/
def flushQueue (s : State) (w q estat : Nat) : State :=
  let x := s.cmdQueue w q
  let keep := match x.running with
    | some (.launch _) | some (.copy _) => true
    | _ => false
  let first : Word := x.head + (if keep then 1 else 0) + BitVec.ofNat 32 x.flushed
  let n := (x.tail - first).toNat
  let word := statusWord .flushed 0 estat
  let s := (List.range n).foldl (fun s k => writeStatus s w (commandVa x (first + BitVec.ofNat 32 k)) word) s
  let s := match x.running with
    | some (.waitcount _ _) => writeStatus s w x.runVa word
    | _ => s
  raiseMsix (s.setCmdQueue w q { x with
    stopped := true
    head := if keep then x.head else x.tail
    flushed := if keep then x.flushed + n else 0
    running := if keep then x.running else none }) w 3

/-- Every queue of a world flushed, those without a command too (R336, R366, R368). -/
def flushWorld (s : State) (w estat : Nat) : State :=
  (List.range 64).foldl (fun s q => flushQueue s w q estat) s

/-- The queue that runs a COPY by an operation. -/
def copyQueue (s : State) (w op : Nat) : Option Nat :=
  (List.find? (fun e : Nat × CmdQueue => e.2.running == some (.copy op)) (s.world w).queues).map (·.1)

end Sys2Proof.Machine
end

