-- ==== Sys2Proof/Machine/Ladle.lean ====
section
/-! DEFINITION. The Ladles (spec/14_die_memory.md R273 to R281): how operations are cut into segments, how segments start, land and
fail, and the counter blocks. -/

namespace Sys2Proof.Machine

open Sys2Proof

/-! ## Cutting (R273) -/

def Loc.add (l : Loc) (n : Nat) : Loc :=
  match l with
  | .near k => .near (k + n)
  | .main va => .main ((va + n) % 2 ^ 64)
  | .tile o => .tile (o + n)

def Loc.offset : Loc → Nat
  | .near k => k
  | .main va => va
  | .tile o => o

/-- The bytes that one piece may hold: up to the end of the destination's line, and of the source's page where it lies on the
package. -/
def pieceRoom (out : Bool) (src dst : Loc) : Nat :=
  let d := 128 - dst.offset % 128
  match src with
  | .main va => if out then d else min d (2 ^ 16 - va % 2 ^ 16)
  | _ => d

/-- Bytes cut at the destination's lines and the source's pages; `out`: the source lies on another package, where one packet may name
bytes of two pages (R398). -/
def cutPieces (out : Bool) : Nat → Loc → Loc → Nat → List Piece
  | 0, _, _, _ => []
  | fuel + 1, src, dst, n =>
    if n = 0 then []
    else
      let k := min n (pieceRoom out src dst)
      ⟨src, dst, k⟩ :: cutPieces out fuel (src.add k) (dst.add k) (n - k)

/-- Pieces with the keys of their segments, in ascending destination address: one for each destination line, or, where each element forms
segments of its own (`own`, R302), one for an element's bytes in a line, those of one address in the order of the elements. `last`:
the element, the line and the key of the piece before. -/
def keyPieces (own : Bool) : Option (Nat × Nat × Nat) → List (Nat × Piece) → List (Nat × Piece)
  | _, [] => []
  | last, e :: rest =>
    let line := e.2.dst.offset / 128
    let fresh := line * 2 ^ 32 + (if own then e.2.dst.offset % 128 * 2 ^ 25 + e.1 + 1 else 0)
    let key := match last with
      | some (x, l, k) => if x = e.1 && l = line then k else fresh
      | none => fresh
    (key, e.2) :: keyPieces own (some (e.1, line, key)) rest

/-- Segments of pieces, in ascending destination address (R273). -/
def makeSegments (own : Bool) (moves : List (Nat × Piece)) : SMap Segment :=
  (keyPieces own none moves).foldl (fun (m : SMap Segment) e =>
    let g : Segment := m.getD e.1 ⟨[], .queued, 0, Tag.zero, [], [], false, none, false, none⟩
    m.insert e.1 { g with pieces := g.pieces ++ [e.2], bytes := g.bytes + e.2.len }) []

/-! ## Counter blocks (R277) -/

/-- The engine's write to a counter block: the STATUS bits, then the saturating add to COUNT. -/
def counterAdd (s : State) (key : Nat) (st : Status) (n : Nat) : State :=
  let sum := nearValue s key 8 + n
  let bits := (if st = .ok then 0 else 2 ^ statusCode st) + (if 2 ^ 64 ≤ sum then 128 else 0)
  let s := if bits = 0 then s else writeNear s (key + 8) (leBytes 4 (nearValue s (key + 8) 4 ||| bits)) Tag.zero
  writeNear s key (leBytes 8 (min sum (2 ^ 64 - 1))) Tag.zero

/-! ## Ranges (R279 to R281) -/

def releaseSource (s : State) (op : Nat) : State :=
  { s with ranges := s.ranges.filter fun r => !(r.op = op && r.isSrc) }

def releaseRanges (s : State) (op : Nat) : State := { s with ranges := s.ranges.filter fun r => r.op ≠ op }

/-! ## Segments end (R276 to R278, R299, R303) -/

def State.setLadle (s : State) (op : Nat) (o : Ladle) : State := { s with ladles := s.ladles.insert op o }

def Ladle.setSeg (o : Ladle) (n : Nat) (g : Segment) : Ladle := { o with segs := o.segs.insert n g }

/-- The asynchronous cause of a status (R299). -/
def statusCause : Status → Option Cause
  | .rankLost => some .rankLost
  | .pkey => some .pkey
  | _ => none

/-- The tile of a complete TILEIN (R303): V, D, its tags, and its entry of the reservation table. -/
def settleTile (s : State) (o : Ladle) : State :=
  match o.tile, o.team with
  | some (n, entry), some team =>
    let q := quadOf o.core
    let s := (mendTile s team n).modTile team n fun x => { x with v := true, d := false, tag := o.tileTag }
    match List.find? (fun e => e.id = entry) (s.quad q).table with
    | some e => unpost s q e
    | none => s
  | _, _ => s

/-- An operation none of whose segments is left (R278, R281, R322). -/
def completeLadle (s : State) (op : Nat) (o : Ladle) : State :=
  let s := releaseRanges { s with ladles := s.ladles.erase op } op
  match copyQueue s o.world op with
  | some q => finishCommand s o.world q .ok 0 o.estat
  | none => s

/-- The reservations that a segment still holds released. -/
def Segment.release (s : State) (g : Segment) : State :=
  match g.held with
  | some h => releaseHeld s h
  | none => s

/-- A segment ends with a status: the reservations that it still holds are released, the tile's status before the last add,
STATUS and COUNT, the cause that a lost rank or key raises, the unpins, and the operation's completion. -/
def endSegment (s : State) (op n : Nat) (st : Status) : State :=
  match s.ladles.find? op with
  | none => s
  | some o => match o.segs.find? n with
    | none => s
    | some g =>
      let o := { o with
        segs := o.segs.erase n
        estat := if st = .ok then o.estat else if o.estat = 0 then statusCode st else min o.estat (statusCode st) }
      let s := g.release s
      let s := if o.segs.isEmpty then settleTile s o else s
      let s := match o.counter with
        | some key => counterAdd s key st g.bytes
        | none => s
      let r := match statusCause st, o.team with
        | some c, some _ =>
          if o.raised.contains c then (o, s)
          else ({ o with raised := c :: o.raised }, pendOn s o.tid c (BitVec.ofNat 32 (o.rank.getD 0)))
        | _, _ => (o, s)
      let s := g.pins.foldl unpin (r.2.setLadle op r.1)
      if r.1.segs.isEmpty then completeLadle s op r.1 else s

/-- A segment fails (R277): it writes nothing, and its near destination line becomes present as it was. -/
def failSegment (s : State) (op n : Nat) (st : Status) : State :=
  match s.ladles.find? op with
  | none => s
  | some o => match o.segs.find? n with
    | none => s
    | some g =>
      let s := g.pieces.foldl (fun s p => match p.dst with
        | .near k => setPresent s (k / 128)
        | _ => s) s
      endSegment s op n st

/-- The landed bytes of a near line (R276): a load that finds them present returns no older ones (R192). -/
def landNear (s : State) (bytes : List (Nat × List Byte)) (tag : Tag) : State :=
  match bytes with
  | [] => s
  | (k, _) :: _ =>
    let line := k / 128
    let whole := 128 ≤ (bytes.map fun b => b.2.length).sum
    let s := bytes.foldl (fun s b =>
      { dropEarly (mendWords s b.1 b.2.length) (fun e => e.meets b.1 b.2.length) with mem := s.mem.writeBytes b.1 b.2 }) s
    let s := if whole then { s with latent := s.latent.filter (· ≠ .tags line) } else s
    let old := s.line line
    let s := setPresent (s.setLine line { old with tag := if whole then tag else old.tag.join tag }) line
    bytes.foldl (fun s b => notifyCounters s b.1 b.2.length) s

/-- The near bytes among a segment's. -/
def nearBytes (l : List (Loc × List Byte)) : List (Nat × List Byte) :=
  l.filterMap fun e => match e.1 with
    | .near k => some (k, e.2)
    | _ => none

/-- The main-memory bytes among a segment's, by physical key. -/
def mainBytes (l : List (Loc × List Byte)) : List (Nat × List Byte) :=
  l.filterMap fun e => match e.1 with
    | .main k => some (k, e.2)
    | _ => none

/-- The frame of the table that a segment writes. -/
def tableOf (s : State) (l : List (Loc × List Byte)) : Option Nat :=
  match mainBytes l with
  | [] => none
  | (k, _) :: _ => if isTableType (s.frame (keyFrame k)).type then some (keyFrame k) else none

/-- A started segment's bytes performed at their homes (R276). -/
def performBytes (s : State) (o : Ladle) (bytes : List (Loc × List Byte)) (tag : Tag) : State :=
  let s := landNear s (nearBytes bytes) tag
  bytes.foldl (fun s e => match e.1, o.tile, o.team with
    | .tile off, some (n, _), some team => { s with mem := s.mem.writeBytes (tileKey s team n off) e.2 }
    | .main k, _, _ => countHbm (writeMain (recallRange s k e.2.length) k e.2) o.world k e.2.length
    | _, _, _ => s) s

/-- SEGMENT_LAND (R276, R298): a segment into a table frame lands by TABLE_WRITE_UNIT. -/
def landSegment (s : State) (op n : Nat) : State :=
  match s.ladles.find? op with
  | none => s
  | some o => match o.segs.find? n with
    | none => s
    | some g => match g.state with
      | .started bytes =>
        if (tableOf s bytes).isSome then s
        else
          let s := performBytes s o bytes g.tag
          let s := s.setLadle op { o with tileTag := if o.tile.isSome then o.tileTag.join g.tag else o.tileTag }
          endSegment s op n .ok
      | _ => s

def execSegmentLand (op seg : Nat) (s : State) : Host.Outcome State Fault Refusal := .next (landSegment s op seg)

/-! ## Starting a segment (R273, R298) -/

/-- The kill of the team of an operation that finds its source bytes poisoned (R298, R196). -/
def killByCopy (s : State) (o : Ladle) (value : Word) : State :=
  match o.team with
  | some t => killTeam s t (unitRecord s o.tid (causeCode .poisonUse) 0 o.pos o.pc value)
  | none => s

/-- What the translations and reads of a segment's pieces have come to. -/
structure Gather where
  bytes : List (Loc × List Byte) := []
  tag   : Tag := ⟨0, false⟩
  pins  : List Nat := []
  /-- the least grade of a page written -/
  page  : Nat := 3
  isMain : Bool := false
  value : Word := 0
  /-- a source byte lies in host memory -/
  host  : Bool := false

/-- Whether a piece is part of an element whose main-memory address is not a multiple of its size (R302): an aligned element is never
cut, so a piece that is less than its element is part of such a one. -/
def Piece.misaligned (p : Piece) (va align : Nat) : Bool := va % align ≠ 0 || p.len % align ≠ 0

/-- The source bytes of a piece with their tag, and the frame pinned; none where the translation fails. Errors in near sources are found
(R180). -/
def readSource (s : State) (o : Ladle) (p : Piece) : Option (List Byte × Tag × List Nat) × State :=
  match p.src with
  | .near k =>
    let s := senseNear s k p.len
    (some (s.mem.readBytes k p.len, lineTags s k p.len, []), s)
  | .tile _ => (some ([], Tag.zero, []), s)
  | .main va =>
    if p.misaligned va o.align then (none, s)
    else match access s (quadOf o.core) o.world va .read true with
      | (.error _, s) => (none, s)
      | (.ok x, s) =>
        let k := physKey (x.phys va)
        let s := countHbm (recallRange s k p.len) o.world k p.len
        (some (s.mem.readBytes k p.len, ⟨entGrade x.leaf, isBad s k p.len⟩, [x.phys va / 2 ^ 16]), s)

/-- A frame among those that a segment pins, each once (R264). -/
def withPin (f : Nat) (l : List Nat) : List Nat := if l.contains f then l else f :: l

/-- A piece read and its destination found: the physical place, the pins and the page's grade; none where a translation fails. -/
def gatherPiece (s : State) (o : Ladle) (g : Gather) (p : Piece) : Option Gather × State :=
  match readSource s o p with
  | (none, s) => (none, s)
  | (some (b, tag, pins), s) =>
    let g := { g with
      host := g.host || pins.any isAperture
      tag := g.tag.join tag, pins := pins.foldr withPin g.pins,
      value := if g.tag.poison then g.value else BitVec.ofNat 32 (leValue (b.take 4)) }
    match p.dst with
    | .main va =>
      if p.misaligned va o.align then (none, s)
      else match access s (quadOf o.core) o.world va .write true with
        | (.error _, s) => (none, s)
        | (.ok x, s) =>
          (some { g with
            bytes := g.bytes ++ [(.main (physKey (x.phys va)), b)]
            pins := withPin (x.phys va / 2 ^ 16) g.pins
            page := min g.page (entGrade x.leaf).toNat
            isMain := true }, s)
    | d => (some { g with bytes := g.bytes ++ [(d, b)] }, s)

def gatherAll (s : State) (o : Ladle) : Gather → List Piece → Option Gather × State
  | g, [] => (some g, s)
  | g, p :: ps => match gatherPiece s o g p with
    | (none, s) => (none, s)
    | (some g, s) => gatherAll s o g ps

/-- The address on the main-memory side of a piece. -/
def Piece.mainVa (p : Piece) : Option Nat :=
  match p.src, p.dst with
  | .main va, _ => some va
  | _, .main va => some va
  | _, _ => none

/-- The host page that a frame of the aperture stands for (R248): the function whose requests reach it, and its address there. -/
def hostPage (s : State) (f : Nat) : Option (Nat × Nat) :=
  if isAperture f then some ((s.frame f).owner, (f - apertureLo) * 2 ^ 16) else none

/-- The host page that a place's virtual address leads to. -/
def Loc.hostPage (s : State) (w : Nat) : Loc → Option (Nat × Nat)
  | .main va => match walk s w va with
    | .leaf x => Sys2Proof.Machine.hostPage s (x.phys va / 2 ^ 16)
    | .notMapped => none
  | _ => none

/-- The host pages that the two ends of a piece lead to. -/
def Piece.hostPages (s : State) (w : Nat) (p : Piece) : List (Nat × Nat) := [p.src, p.dst].filterMap (Loc.hostPage s w)

/-- Whether an end of a piece leads to a host-aperture frame. -/
def inAperture (s : State) (w : Nat) (p : Piece) : Bool := !(p.hostPages s w).isEmpty

/-- A segment that reads or writes host memory carries a REQID (R343); one that is replayed keeps its own (R344). -/
def nameSegment (s : State) (o : Ladle) (g : Segment) : Segment × State :=
  if g.reqid.isNone && g.pieces.any (inAperture s o.world) then
    let (r, s) := nextReqid s o.world o.core
    ({ g with reqid := some r }, s)
  else (g, s)

/-- A segment of an operation whose main-memory side lies on the package (R298). -/
def startNamed (s : State) (op n : Nat) (o : Ladle) (g : Segment) : State :=
  let fail := fun (s : State) => s.setLadle op (o.setSeg n { g with state := .failing .rangeFault })
  match gatherAll s o {} g.pieces with
  | (none, s) => fail s
  | (some r, s) =>
    if r.isMain && r.tag.poison then killByCopy (fail s) o r.value
    else if r.isMain && r.page < (gradeMax o.grade (if o.counter.isSome then 0 else r.tag.grade)).toNat then fail s
    else r.pins.foldl pin (s.setLadle op (o.setSeg n
      { g with state := .started r.bytes, tag := r.tag, pins := r.pins, fromHost := r.host }))

def startLocal (s : State) (op n : Nat) (o : Ladle) (g : Segment) : State :=
  let r := nameSegment s o g
  startNamed r.2 op n o r.1

/-! ## Remote segments (R391, R395, R398) -/

/-- The status with which an operation of a rank completes at issue (R398, R401). -/
def rankStatus (s : State) (w r : Nat) : Status :=
  let e := s.rankEntry w r
  if !rankValid e then .rangeFault else if rankIsLost e then .rankLost else .ok

/-- Whether a packet to a node can leave: the node is this package, or a live port of its route exists (R393, R398). -/
def canSend (s : State) (node : Nat) : Bool := node = s.fabric.node || (reachedNodes s).contains node

/-- A request packet of a world under a rank entry (R391). -/
def requestPacket (s : State) (w : Nat) (e : DWord) (op : Nat) (rank : Nat) (len : Nat) (reqid : DWord) (va : Nat)
    (payload : List Byte) (grade : BitVec 2) : Packet :=
  { pkey := e.extractLsb' 40 16, dst := e.extractLsb' 0 12, vf := e.extractLsb' 38 2, src := BitVec.ofNat 12 s.fabric.node
    dworld := e.extractLsb' 32 6, sworld := BitVec.ofNat 6 w, op := BitVec.ofNat 8 op, inc := (s.world w).inc
    srank := BitVec.ofNat 12 rank, len := len, reqid := reqid, addr := BitVec.ofNat 64 va, seq := 0
    payload := payload, grade := grade, poison := false }

/-- The rank of an operation's grid. -/
def Ladle.gridRank (s : State) (o : Ladle) : Nat :=
  match o.launch with
  | some l => (s.launch l).rank
  | none => 0

/-- The runs of addresses on the main-memory side of pieces, in order, adjoining ones joined. -/
def mainRuns (ps : List Piece) : List (Nat × Nat) :=
  ps.foldr (fun p l => match p.mainVa with
    | none => l
    | some va => match l with
      | (a, n) :: rest => if va + p.len = a then (va, p.len + n) :: rest else (va, p.len) :: l
      | [] => [(va, p.len)]) []

/-- Whether a segment's source bytes lie on another package. -/
def readsRemotely (g : Segment) : Bool :=
  g.pieces.any fun p => match p.src with
    | .main _ => true
    | _ => false

/-- The request packet of a segment (R398): a read of its sources, or a write of its bytes; where they are several runs at the remote
end, with the address and length of each. -/
def segmentPacket (s : State) (o : Ladle) (e : DWord) (g : Segment) (reqid : DWord) : Packet :=
  let runs := mainRuns g.pieces
  let bytes := g.pieces.flatMap fun p => match p.src with
    | .near k => s.mem.readBytes k p.len
    | _ => []
  let q := if readsRemotely g then
      requestPacket s o.world e 1 (o.gridRank s) g.bytes reqid (runs.headD (0, 0)).1 [] 0
    else requestPacket s o.world e 3 (o.gridRank s) g.bytes reqid (runs.headD (0, 0)).1 bytes o.grade
  { q with rows := if runs.length ≤ 1 then [] else runs }

/-- Whether a piece's main-memory address is one that no translation admits or is misaligned (R301, R302). -/
def Piece.badVa (p : Piece) (align : Nat) : Bool :=
  match p.mainVa with
  | some va => 2 ^ 55 < va + p.len || p.misaligned va align
  | none => false

/-- A segment of a remote operation (R398). -/
def startRemote (s : State) (op n rank : Nat) (o : Ladle) (g : Segment) : State :=
  let fail := fun (st : Status) => s.setLadle op (o.setSeg n { g with state := .failing st })
  let e := s.rankEntry o.world rank
  let src := g.pieces.filterMap fun p => match p.src with
    | .near k => some (k, p.len)
    | _ => none
  match rankStatus s o.world rank with
  | .ok =>
    let s := src.foldl (fun s x => senseNear s x.1 x.2) s
    let fail := fun (st : Status) => s.setLadle op (o.setSeg n { g with state := .failing st })
    let tag := joinTags (src.map fun x => lineTags s x.1 x.2)
    if g.pieces.any fun p => p.badVa o.align then fail .rangeFault
    else if tag.poison then
      killByCopy (fail .rangeFault) o (BitVec.ofNat 32 (s.mem.readLe ((src.headD (0, 0)).1) 4))
    else
      let (reqid, s) := match g.reqid with
        | some x => (x, s)
        | none => nextReqid s o.world o.core
      (sendPacket s (segmentPacket s o e g reqid)).setLadle op (o.setSeg n { g with state := .remote, reqid := some reqid })
  | st => fail st

/-- The place of a page-request group among those that a function has sent, with its incarnation (R367). -/
def pageKey (inc : BitVec 5) (grp : Nat) : Nat := inc.toNat * 16 + grp % 16

/-- A free page-request group of a function: at most 16 are outstanding (R367). -/
def freePageGroup (s : State) (w : Nat) : Option Nat :=
  (List.range 16).find? fun k => ((s.world w).pages.find? (pageKey (s.world w).inc k)).isNone

/-- A page request of a function sent for an address of the host (R248, R318). -/
def requestPage (s : State) (fn grp addr : Nat) : State :=
  let x := s.world fn
  s.setWorld fn { x with pages := x.pages.insert (pageKey x.inc grp) addr }

/-- A segment started. Where the world outside answers that a host page is not present, of its source or of its destination, the segment
waits for the response to a page request (R318). -/
def startSegment (s : State) (op n : Nat) (o : Ladle) (g : Segment) : State :=
  match o.rank with
  | some r => if canSend s (rankNode (s.rankEntry o.world r)) then startRemote s op n r o g else s
  | none =>
    match ((g.pieces.flatMap (Piece.hostPages s o.world)).filter fun x => !g.paged.contains x).eraseDups with
    | [] => startLocal s op n o g
    | pages =>
      let (f, s) := s.free
      match pages[f % (pages.length + 1)]? with
      | none => startLocal s op n o g
      | some (fn, addr) => match freePageGroup s fn with
        | none => s
        | some grp =>
          (requestPage s fn grp addr).setLadle op (o.setSeg n { g with state := .paging fn grp, paged := (fn, addr) :: g.paged })

/-- Whether a segment that has not read its bytes would be recorded at a save: it touches another package, or reads host memory
(R342). -/
def recordable (s : State) (o : Ladle) (g : Segment) : Bool :=
  o.rank.isSome || g.pieces.any fun p => (p.src.hostPage s o.world).isSome

/-- Whether a segment that has not started may start in its world's state: not a replay entry that is still to be reissued (R344), nor,
while the world halts, one that would become a replay entry, since the estimate has counted none of them (R340, R342). -/
def mayBegin (s : State) (o : Ladle) (g : Segment) : Bool :=
  let stat := (s.world o.world).stat
  g.state == .queued && (!g.replay || stat = 1) && (stat < 2 || stat = 5 || !recordable s o g)

/-- The first segment of an operation that may start: those that a halting world passes over hold up no other (R342). -/
def Ladle.nextSeg (s : State) (o : Ladle) : Option (Nat × Segment) :=
  if (s.world o.world).stat = 2 then List.find? (fun g : Nat × Segment => mayBegin s o g.2) o.segs
  else (List.find? (fun g : Nat × Segment => g.2.state == .queued) o.segs).filter fun g => mayBegin s o g.2

/-- Whether an operation's channel serves it: a TILEIN's once its entry is ready (R211, R303), and that of a world that is saved, once it
is on the package again (R344). In minimal mode the Ladles of one die work (R384). -/
def channelReady (s : State) (o : Ladle) : Bool :=
  dieRuns s (dieOf o.core) && (s.world o.world).onPackage &&
  match o.tile with
  | some (_, entry) => (s.quad (quadOf o.core)).table.any fun e => e.id = entry && e.ready.isSome
  | none => true

/-- Whether a segment of an operation may start. -/
def mayStart (s : State) (o : Ladle) : Bool := channelReady s o && (o.nextSeg s).isSome

/-- Whether a segment still has its source bytes to read: one that reads remotely has them with its answer. -/
def Segment.unread (g : Segment) : Bool :=
  match g.state with
  | .queued | .paging _ _ => true
  | .remote => readsRemotely g
  | _ => false

/-- The source range released when the last segment has read its bytes (R281). -/
def sourceRead (s : State) (op : Nat) : State :=
  match s.ladles.find? op with
  | some o => if o.segs.any fun g => g.2.unread then s else releaseSource s op
  | none => s

/-- Whether an operation is the one whose segment a core's channel starts next: the oldest with one that has not started (R273); while the
world halts, the oldest that may start one, so that nothing which the save records holds up what is to land (R342). -/
def Ladle.isNext (s : State) (core : Nat) (o : Ladle) : Bool :=
  o.core = core && if (s.world o.world).stat = 2 then mayStart s o else o.segs.any fun g => g.2.state == .queued

/-- SEGMENT_START (R273, R274): the channel of a core starts the next segment of its oldest operation that has one. -/
def execSegmentStart (core : Nat) (s : State) : Host.Outcome State Fault Refusal :=
  match List.find? (fun e : Nat × Ladle => e.2.isNext s core) s.ladles with
  | some (op, o) => match o.nextSeg s with
    | some (n, g) =>
      if mayStart s o && outstanding s core < 4096 then .next (sourceRead (startSegment s op n o g) op) else .next s
    | none => .next s
  | none => .next s

/-- Whether a segment touches host memory, where the host link can lose it (R298): one that has read its bytes as it read them, whatever
the tables say now (R311). -/
def touchesHost (s : State) (o : Ladle) (g : Segment) : Bool :=
  o.rank.isNone && match g.state with
    | .started b => g.fromHost || (mainBytes b).any fun e => 2 ^ 64 ≤ e.1
    | _ => g.pieces.any (inAperture s o.world)

/-- SEGMENT_FAIL (R277, R298): a failing segment fails; FLR_ABORT also takes one that the host link lost. -/
def execSegmentFail (op seg : Nat) (st : Status) (s : State) : Host.Outcome State Fault Refusal :=
  match s.ladles.find? op with
  | none => .next s
  | some o => match o.segs.find? seg with
    | none => .next s
    | some g => match g.state with
      | .failing f => .next (sourceRead (failSegment s op seg f) op)
      | .started _ => if st = .flrAbort && touchesHost s o g then .next (failSegment s op seg .flrAbort) else .next s
      | _ => .next s

/-- The bytes that a started segment writes into a table frame, by offset (R258). -/
def unitWrites (bytes : List (Loc × List Byte)) : List (Nat × List Byte) :=
  (mainBytes bytes).map fun e => (e.1 % 2 ^ 16, e.2)

/-- The bytes that a segment writes into HBM counted for its world (R378). -/
def countUnit (s : State) (w : Nat) (bytes : List (Loc × List Byte)) : State :=
  (mainBytes bytes).foldl (fun s e => countHbm s w e.1 e.2.length) s

/-- The reservations of a segment's write unit reach the homes ahead of its verdict (R258, R267). -/
def reserveUnit (op seg : Nat) (s : State) : State :=
  match s.ladles.find? op with
  | none => s
  | some o => match o.segs.find? seg with
    | none => s
    | some g => match g.state, g.held with
      | .started bytes, none =>
        match (tableOf s bytes).bind fun f => (unitChanges s f (unitWrites bytes)).map fun ch => (f, ch) with
        | some (f, ch) =>
          let m := s.frame f
          let r := reserveEach s (tableLevel m.type) ⟨m.owner, ch, [], [], false⟩ ch
          r.1.setLadle op (o.setSeg seg { g with held := some r.2 })
        | none => s
      | _, _ => s

/-- The verdict on a segment's write unit (R258), with its reservations released: that of the homes where they have been asked before and
the table is as it was then, otherwise that of a check now. -/
def unitVerdict (s : State) (op seg f : Nat) (o : Ladle) (g : Segment) (bytes : List (Loc × List Byte)) :
    State × Except Nat (List (Nat × DWord × DWord)) :=
  match g.held with
  | none => (s, checkWrites s f (unitWrites bytes))
  | some h =>
    let s := (releaseHeld s h).setLadle op (o.setSeg seg { g with held := none })
    if unitChanges s f (unitWrites bytes) = some h.changes then (s, if h.refused then .error 0 else .ok h.changes)
    else (s, checkWrites s f (unitWrites bytes))

/-- TABLE_WRITE_UNIT (R258 to R260): a segment into a table frame as one write unit. -/
def execTableWriteUnit (op seg : Nat) (s : State) : Host.Outcome State Fault Refusal :=
  match s.ladles.find? op with
  | none => .next s
  | some o => match o.segs.find? seg with
    | none => .next s
    | some g => match g.state with
      | .started bytes => match tableOf s bytes with
        | none => .next s
        | some f =>
          let v := unitVerdict s op seg f o g bytes
          match v.2 with
          | .error _ => .next (failSegment v.1 op seg .tableRefused)
          | .ok ch => match acceptUnit (countUnit v.1 o.world bytes) f ch (.segment op seg) with
            | (some id, s) => .next (s.setLadle op (o.setSeg seg { g with state := .purging id, held := none }))
            | (none, s) => .next (endSegment s op seg .ok)
      | _ => .next s

/-- The bytes of a read answer at the places of a segment's pieces. -/
def placeBytes : List Piece → List Byte → List (Loc × List Byte)
  | [], _ => []
  | p :: ps, b => (p.dst, b.take p.len) :: placeBytes ps (b.drop p.len)

/-- The answer to the packet of a segment (R398): bytes read with their tag, an acknowledgement, or a failure. -/
def answerSegment (s : State) (op n : Nat) (r : Except Status (List Byte × Tag)) : State :=
  match s.ladles.find? op with
  | none => s
  | some o => match o.segs.find? n with
    | none => s
    | some g => match g.state, r with
      | .remote, .error st => s.setLadle op (o.setSeg n { g with state := .failing st })
      | .remote, .ok (b, tag) =>
        sourceRead (s.setLadle op (o.setSeg n { g with
          state := .started (if readsRemotely g then placeBytes g.pieces b else []), tag := g.tag.join tag })) op
      | _, _ => s

/-- The segment that waits for the answer to a REQID: operation and segment; an answer to a saved world is dropped (R342). -/
def segmentOf (s : State) (reqid : DWord) : Option (Nat × Nat) :=
  s.ladles.findSome? fun e => e.2.segs.findSome? fun g =>
    if g.2.state == .remote && !g.2.replay && g.2.reqid == some reqid then some (e.1, g.1) else none

/-- The status that a reject's payload names (R391, R396, R398). -/
def rejectStatus (p : Packet) : Status :=
  match (p.payload.headD 0).toNat with
  | 1 => .tableRefused
  | 2 => .rangeFault
  | 4 => .rankLost
  | _ => .pkey

/-- An answer taken by the segment that waits for its REQID: read data (2), a write acknowledgement (4) or a failure (7); the
answer to a cell request that still waits for one (6) is kept until it is taken. -/
def takeAnswer (s : State) (p : Packet) : State :=
  if p.op = 6 then
    if s.requests.any fun e => e.2.reqid = p.reqid && !e.2.replay then
      let (id, s) := s.newId
      { s with fabric := { s.fabric with inbox := s.fabric.inbox.insert id ⟨p, false⟩ } }
    else s
  else match segmentOf s p.reqid with
    | none => s
    | some (op, n) =>
      if p.op = 2 then answerSegment s op n (.ok (p.payload, ⟨p.grade, p.poison⟩))
      else if p.op = 4 then answerSegment s op n (.ok ([], Tag.zero))
      else if p.op = 7 then answerSegment s op n (.error (rejectStatus p))
      else s

/-- An answer sent to the node that asked, or taken at once where that is this package. -/
def reply (s : State) (p : Packet) : State :=
  if p.dst.toNat = s.fabric.node then takeAnswer s p else sendPacket s p

/-! ## The window of performed requests (spec/18_package_trust.md R343) -/

/-- The answer recorded for a request of another package that has been performed. -/
def recorded (s : State) (p : Packet) : Option Packet :=
  (s.fabric.window.find? fun e => e.1 = p.src.toNat && e.2.reqid = p.reqid).map (·.2)

/-- An answer recorded: of each node, world and core the last 4,096. -/
def record (s : State) (a : Packet) : State :=
  let l := (a.dst.toNat, a) :: s.fabric.window
  let same := l.filter fun e => e.1 = a.dst.toNat && e.2.reqid.extractLsb' 48 16 = a.reqid.extractLsb' 48 16
  let l := if 4096 < same.length then (match same.getLast? with
    | some e => l.erase e
    | none => l) else l
  { s with fabric := { s.fabric with window := l } }

/-- An answer recorded and sent. -/
def replyOnce (s : State) (a : Packet) : State := reply (record s a) a

/-- The segments that wait for a page-request group of a function go on, or fail with RANGE_FAULT (R318). -/
def answerPages (s : State) (fn grp : Nat) (ok : Bool) : State :=
  s.ladles.foldl (fun s e => e.2.segs.foldl (fun s g =>
      match s.ladles.find? e.1 with
      | some o => match o.segs.find? g.1 with
        | some x => if x.state == .paging fn grp then
            s.setLadle e.1 (o.setSeg g.1 { x with state := if ok then .queued else .failing .rangeFault })
          else s
        | none => s
      | none => s) s) s

end Sys2Proof.Machine
end

