-- ==== Sys2Proof/Machine/Copies.lean ====
section
/-! DEFINITION. The copy instructions (spec/15_die_instructions.md R295 to R303; spec/22_fabric.md R398): their checks at issue, the
registration of their ranges, and the descriptor of `lcpx`. -/

namespace Sys2Proof.Machine

open Sys2Proof

/-- A copy as its instruction or its descriptor describes it. Hulls are near addresses with lengths; `moves` gives the pieces, with
the number of their row or element, once the memory keys of the source, destination and index hulls are known. -/
structure Copy where
  len    : Nat
  cb     : Tagged Word
  src    : Option (Nat × Nat) := none
  dst    : Option (Nat × Nat) := none
  index  : Option (Nat × Nat) := none
  moves  : State → Nat → Nat → Nat → List (Nat × Piece)
  own    : Bool := false
  rank   : Option Nat := none
  grade  : BitVec 2
  /-- the greatest grade among all its operands (R303) -/
  operands : BitVec 2 := 0
  align  : Nat := 1
  tile   : Option Nat := none
  toMain : Bool

/-- The value that a kill by a poisoned line records (R196): the first word of the lowest poisoned line. -/
def poisonWord (s : State) (key n : Nat) : Word :=
  match (linesOf key n).find? fun k => (s.line k).tag.poison with
  | some k => BitVec.ofNat 32 (s.mem.readLe (k * 128) 4)
  | none => 0

/-- The first poisoned value among address operands (R295). -/
def firstPoison (l : List (Tagged Word)) : Option Word := (l.find? fun x => x.tag.poison).map (·.val)

/-- Presence and poison of a near source hull's lines (R297, R302): the unit parks on the lowest absent line, or kills. -/
def sourceCheck (u : Issue) (s : State) (tid : Nat) (lines : List Nat) (ea key : Nat) : Option (UnitResult × State) :=
  match lines.find? fun k => !(s.line k).present with
  | some k => some (parkOnLine u s tid (ea + k * 128 - key) k)
  | none => match lines.find? fun k => (s.line k).tag.poison with
    | some k => some (.kill (BitVec.ofNat 32 (s.mem.readLe (k * 128) 4)), s)
    | none => none

/-- The lines that hold a copy's near source bytes, in ascending order. -/
def sourceLines (moves : List (Nat × Piece)) : List Nat :=
  (moves.foldl (fun (m : SMap Unit) e => match e.2.src with
    | .near k => (linesOf k e.2.len).foldl (fun m l => SMap.insert m l ()) m
    | _ => m) []).keys

/-- The first page among a copy's destinations that translates with W and whose GRADE is below G (R297). -/
def gradeFault (q w : Nat) (g : BitVec 2) : List (Nat × Piece) → State → Option (BitVec 2) × State
  | [], s => (none, s)
  | e :: rest, s => match e.2.dst with
    | .main va => match access s q w va .write true with
      | (.ok x, s) => if (entGrade x.leaf).toNat < g.toNat then (some (entGrade x.leaf), s) else gradeFault q w g rest s
      | (.error _, s) => gradeFault q w g rest s
    | _ => gradeFault q w g rest s

/-- A near hull rounded outward to lines (R279). -/
def roundOut (key n : Nat) : Nat × Nat := (key / 128 * 128, (key + n + 127) / 128 * 128)

def overlaps (a b : Nat × Nat) : Bool := a.1 < b.2 && b.1 < a.2

/-- Whether a range conflicts with the registered ones (R280), or finds its quad's table full (R279). -/
def rangeConflict (s : State) (q : Nat) (isSrc bench : Bool) (r : Nat × Nat) : Bool :=
  s.ranges.any (fun x => overlaps (x.lo, x.hi) r && (!isSrc || !x.isSrc)) ||
    (if isSrc then !sourceRoom s q r.1 (r.2 - r.1) bench
     else bench && 256 ≤ (s.ranges.filter fun x => x.bench && x.quad = q).length)

/-- Whether an operation's ranges can all be registered, one after the other (R279, R280). -/
def rangesFit (s : State) (q : Nat) : List (Bool × Bool × Nat × Nat) → Bool
  | [] => true
  | r :: rest => !rangeConflict s q r.1 r.2.1 r.2.2 &&
      rangesFit { s with ranges := s.ranges ++ [⟨s.nextId, r.1, r.2.2.1, r.2.2.2, q, r.2.1⟩] } q rest

/-- The near ranges of a copy: source or destination, in a Bench or not, with their keys. -/
def copyRanges (c : Copy) (srcKey dstKey idxKey : Nat) : List (Bool × Bool × Nat × Nat) :=
  (match c.src with
    | some (ea, n) => [(true, inBench ea, roundOut srcKey n)]
    | none => []) ++
  (match c.index with
    | some (ea, n) => [(true, inBench ea, roundOut idxKey n)]
    | none => []) ++
  (match c.dst with
    | some (ea, n) => [(false, inBench ea, roundOut dstKey n)]
    | none => [])

/-- A range registered (R279): a destination's lines lose their presence. -/
def registerRange (s : State) (op q : Nat) (r : Bool × Bool × Nat × Nat) : State :=
  let s := settleRange s r.2.2.1 r.2.2.2 r.1
  let s := { s with ranges := s.ranges ++ [⟨op, r.1, r.2.2.1, r.2.2.2, q, r.2.1⟩] }
  if r.1 then s
  else (linesOf r.2.2.1 (r.2.2.2 - r.2.2.1)).foldl (fun s k => s.setLine k { s.line k with present := false }) s

/-- A copy that registers nothing and completes at issue with a status (R277, R280, R398, R401). -/
def failAtIssue (s : State) (tid : Nat) (c : Copy) (cbKey : Nat) (st : Status) : UnitResult × State :=
  let s := counterAdd s cbKey st c.len
  (.done .none, match statusCause st with
    | some cause => makePending s tid cause (BitVec.ofNat 32 (c.rank.getD 0))
    | none => s)

/-- A copy registered and queued (R274, R279, R303). -/
def queueCopy (u : Issue) (s : State) (tid : Nat) (c : Copy) (cbKey : Nat) (grade : BitVec 2) (moves : List (Nat × Piece))
    (ranges : List (Bool × Bool × Nat × Nat)) : State :=
  let q := quadOf u.core
  let team := teamOf tid
  let (op, s) := s.newId
  let s := ranges.foldl (fun s r => registerRange s op q r) s
  let (tile, s) := match c.tile with
    | some n => (some (n, s.nextId), post s q team (.tilein n op))
    | none => (none, s)
  s.setLadle op
    { core := u.core, world := s.threadWorld tid, team := some team, tid := tid, launch := some (s.threadTeam tid).launch
      rank := c.rank, counter := some cbKey, grade := grade, align := c.align, tile := tile, tileTag := ⟨c.operands, false⟩
      segs := makeSegments c.own moves, raised := [], estat := 0, pos := u.pos, pc := u.addr
      spaces := ((cbKey :: ranges.map fun r => r.2.2.1).map (· / 2 ^ 64)).eraseDups }

/-- The checks of R297 and R303 from the length test on, and the issue. Of the hulls the source is tested first, then the destination,
then the index array, and a rank entry after the overlap test and before presence and poison (R398, R401): choices of the model, which
notes/assumptions/130.md names. -/
def issueCopy (u : Issue) (s : State) (tid : Nat) (c : Copy) : UnitResult × State :=
  let team := teamOf tid
  let q := quadOf u.core
  let w := s.threadWorld tid
  let cb := c.cb.val
  let key := fun (h : Option (Nat × Nat)) => match h with
    | some (ea, n) => nearKey s team ea n
    | none => some 0
  let ea := fun (h : Option (Nat × Nat)) => match h with
    | some (ea, _) => ea
    | none => 0
  if 0x1000000 < c.len then (.trap .illegalOperand (BitVec.ofNat 32 c.len) 0 false, s)
  else if cb.toNat % 16 ≠ 0 then (.trap .align cb 0 false, s)
  else match nearKey s team cb.toNat 16 with
    | none => (.trap .nearRange cb 0 false, s)
    | some cbKey =>
      if locked s cbKey 16 false then (.trap .rangeLock cb 0 false, s)
      else if c.len = 0 then (.done .none, s)
      else match key c.src, key c.dst, key c.index with
        | none, _, _ => (.trap .nearRange (BitVec.ofNat 32 (ea c.src)) 0 false, s)
        | _, none, _ => (.trap .nearRange (BitVec.ofNat 32 (ea c.dst)) 0 false, s)
        | _, _, none => (.trap .nearRange (BitVec.ofNat 32 (ea c.index)) 0 false, s)
        | some sk, some dk, some ik =>
          let ranges := copyRanges c sk dk ik
          let srcs := (ranges.filter fun r => r.1).map fun r => r.2.2
          let dsts := (ranges.filter fun r => !r.1).map fun r => r.2.2
          let hulls := (match c.src with
            | some (_, n) => [roundOut sk n]
            | none => []) ++ dsts
          if hulls.any (overlaps (cbKey, cbKey + 16)) || srcs.any fun a => dsts.any fun b => overlaps a b then
            failAtIssue s tid c cbKey .rangeFault
          else
            let st := match c.rank with
              | some r => rankStatus s w r
              | none => .ok
            if st ≠ .ok then failAtIssue s tid c cbKey st
            else
              let idxLines := match c.index with
                | some (_, n) => linesOf ik n
                | none => []
              match sourceCheck u s tid idxLines (ea c.index) ik with
              | some r => r
              | none =>
                let moves := c.moves s sk dk ik
                match sourceCheck u s tid (sourceLines moves) (ea c.src) sk with
                | some r => r
                | none =>
                  let g := gradeMax c.grade (joinTags ((sourceLines moves).map fun k => (s.line k).tag)).grade
                  let r := if c.toMain && c.rank.isNone then gradeFault q w g moves s else (none, s)
                  match r.1 with
                  | some pg => (.trapWith .gradeDown ⟨BitVec.ofNat 32 (g.toNat * 4 + pg.toNat), ⟨g, false⟩⟩, r.2)
                  | none =>
                    let s := r.2
                    if !rangesFit s q ranges || (c.tile.isSome && !tableRoom s q) then
                      (.hold, s)
                    else (.done .none, queueCopy u s tid c cbKey g moves ranges)

/-- A linear copy (R296, R297). -/
def linearCopy (i : Instr) (toMain : Bool) (d a b : Reg) (s : State) : Host.Outcome State Fault Refusal :=
  issueUnit i (fun u s tid g =>
    let t := s.thread tid
    let near := t.reg d
    let len := t.reg b
    let cb := t.reg (b + 1)
    match firstPoison [near, t.reg a, t.reg (a + 1), len, cb] with
    | some v => (.kill v, s)
    | none =>
      let va := (t.pair a).val.toNat
      let hull := some (near.val.toNat, len.val.toNat)
      issueCopy u s tid
        { len := len.val.toNat, cb := cb, src := if toMain then hull else none, dst := if toMain then none else hull
          moves := fun _ sk dk _ =>
            let p := if toMain then cutPieces false len.val.toNat (.near sk) (.main va) len.val.toNat
              else cutPieces false len.val.toNat (.main va) (.near dk) len.val.toNat
            p.map fun x => (0, x)
          grade := (joinTags [near.tag, (t.pair a).tag, g]).grade, toMain := toMain }) s

/-- LCP_IN (R296, R297). -/
def execLcpIn (c : Ctl) (d a b : Reg) (s : State) : Host.Outcome State Fault Refusal := linearCopy (.lcpIn c d a b) false d a b s

/-- LCP_OUT (R296, R297). -/
def execLcpOut (c : Ctl) (d a b : Reg) (s : State) : Host.Outcome State Fault Refusal := linearCopy (.lcpOut c d a b) true d a b s

/-! ## Descriptor copies (R300 to R303) -/

/-- A descriptor (R300). -/
structure Descriptor where
  ctl    : Word
  elem   : Nat
  count  : Nat
  aux    : Nat
  stride : DWord
  zero   : DWord
  deriving DecidableEq, Repr

def Descriptor.kind (x : Descriptor) : Nat := x.ctl.toNat % 16
def Descriptor.isRemote (x : Descriptor) : Bool := x.ctl.getLsbD 28
def Descriptor.rank (x : Descriptor) : Nat := (x.ctl.extractLsb' 16 12).toNat
def Descriptor.shift (x : Descriptor) : Nat := (x.ctl.extractLsb' 8 4).toNat
def Descriptor.indexSize (x : Descriptor) : Nat := 2 ^ ((x.ctl.extractLsb' 4 2).toNat + 1)
def Descriptor.isGather (x : Descriptor) : Bool := x.kind = 2 || x.kind = 3

/-- The descriptor at a memory key. -/
def readDescriptor (m : Memory) (key : Nat) : Descriptor :=
  ⟨BitVec.ofNat 32 (m.readLe key 4), m.readLe (key + 4) 4, m.readLe (key + 8) 4, m.readLe (key + 12) 4,
    BitVec.ofNat 64 (m.readLe (key + 16) 8), BitVec.ofNat 64 (m.readLe (key + 24) 8)⟩

/-- Whether a descriptor keeps the limits of R300 and R301. -/
def Descriptor.legal (x : Descriptor) (nb : Word) (va1 : Word) : Bool :=
  let few := x.count ≤ 1
  let rows := 1 ≤ x.elem && x.elem ≤ 65536
  x.ctl &&& 0xE000F080 = 0 && x.zero = 0 && x.kind ≤ 5 && (x.isRemote || x.rank = 0) && !(x.isRemote && x.kind = 5) &&
    x.shift ≤ 12 && (x.ctl.extractLsb' 4 2).toNat ≠ 3 &&
    (x.isGather || x.ctl &&& 0x0F70 = 0) &&
    match x.kind with
    | 0 => rows && (few || x.elem ≤ x.aux)
    | 1 => rows && (few || x.elem ≤ x.stride.toInt.natAbs)
    | 2 | 3 => (List.range 8).any (fun k => x.elem = 2 ^ k) && nb.toNat % x.elem = 0 && x.aux % x.indexSize = 0
    | 4 => x.elem = 0 && x.count = 0 && x.aux < 32
    | _ => rows && va1 = 0 && (few || x.elem ≤ (x.stride.setWidth 32).toInt.natAbs)

/-- The main-memory address of an element (R301, R302). -/
def elementVa (s : State) (x : Descriptor) (mb idxKey e : Nat) : Nat :=
  let w := x.indexSize
  let n := s.mem.readLe (idxKey + e * w) w
  let n := if x.ctl.getLsbD 6 && 2 ^ (8 * w - 1) ≤ n then n + (2 ^ 64 - 2 ^ (8 * w)) else n
  (mb + n * 2 ^ x.shift) % 2 ^ 64

/-- The main-memory address of a row. -/
def rowVa (x : Descriptor) (mb r : Nat) : Nat := (mb + r * x.stride.toNat) % 2 ^ 64

/-- The pieces of one row or element. -/
def rowPieces (out : Bool) (r : Nat) (src dst : Loc) (n : Nat) : List (Nat × Piece) := (cutPieces out n src dst n).map fun p => (r, p)

/-- The lowest byte and the length of the near rows that start at `base + r · stride`, modulo 2^32; a hull that leaves the near
address space has no region (R301). One whose lowest byte would lie below 0 is given the byte 2^32, of which TRAPVAL shows 0: the spec
states no address there (notes/assumptions/40.md). -/
def nearHull (base : Nat) (stride : Int) (count elem : Nat) : Nat × Nat :=
  let span := stride * ((count : Int) - 1)
  let lo := (base : Int) + min 0 span
  if lo < 0 then (2 ^ 32, elem) else (lo.toNat, span.natAbs + elem)

/-- The copy that a descriptor describes (R301 to R303). -/
def Descriptor.copy (x : Descriptor) (mb : Nat) (nb : Word) (cb : Tagged Word) (grade operands : BitVec 2) : Copy :=
  let rank := if x.isRemote then some x.rank else none
  let rows := List.range x.count
  let nbn := nb.toNat
  let hull := nearHull nbn x.aux x.count x.elem
  match x.kind with
  | 0 => { len := x.count * x.elem, cb := cb, dst := some hull, rank := rank, grade := grade, toMain := false
           moves := fun _ _ dk _ => rows.flatMap fun r => rowPieces x.isRemote r (.main (rowVa x mb r)) (.near (dk + r * x.aux)) x.elem }
  | 1 => { len := x.count * x.elem, cb := cb, src := some hull, rank := rank, grade := grade, toMain := true
           moves := fun _ sk _ _ => rows.flatMap fun r => rowPieces x.isRemote r (.near (sk + r * x.aux)) (.main (rowVa x mb r)) x.elem }
  | 2 => { len := x.count * x.elem, cb := cb, dst := some (nbn, x.count * x.elem), rank := rank, grade := grade, toMain := false
           index := some (x.aux, x.count * x.indexSize), own := true, align := x.elem
           moves := fun s _ dk ik => rows.flatMap fun e =>
             rowPieces x.isRemote e (.main (elementVa s x mb ik e)) (.near (dk + e * x.elem)) x.elem }
  | 3 => { len := x.count * x.elem, cb := cb, src := some (nbn, x.count * x.elem), rank := rank, grade := grade, toMain := true
           index := some (x.aux, x.count * x.indexSize), own := true, align := x.elem
           moves := fun s sk _ ik => rows.flatMap fun e =>
             rowPieces x.isRemote e (.near (sk + e * x.elem)) (.main (elementVa s x mb ik e)) x.elem }
  | 4 => { len := 4352, cb := cb, rank := rank, grade := grade, operands := operands, toMain := false, tile := some x.aux
           moves := fun _ _ _ _ => (List.range 34).flatMap fun r =>
             rowPieces x.isRemote r (.main (rowVa x mb r)) (.tile (128 * r)) 128 }
  | _ =>
    let st := (x.stride.setWidth 32).toInt
    let th := nearHull (mb % 2 ^ 32) st x.count x.elem
    { len := x.count * x.elem, cb := cb, src := some hull, dst := some th, grade := grade, toMain := false
      moves := fun _ sk dk _ => rows.flatMap fun r =>
        rowPieces x.isRemote r (.near (sk + r * x.aux)) (.near (((dk : Int) + (mb % 2 ^ 32 : Nat) - th.1 + r * st).toNat)) x.elem }

/-- LCPX (R300 to R303, R398). -/
def execLcpx (c : Ctl) (d a b : Reg) (s : State) : Host.Outcome State Fault Refusal :=
  issueUnit (.lcpx c d a b) (fun u s tid g =>
    let t := s.thread tid
    let at_ := t.reg d
    let nb := t.reg b
    let cb := t.reg (b + 1)
    match firstPoison [at_, t.reg a, t.reg (a + 1), nb, cb] with
    | some v => (.kill v, s)
    | none =>
      if at_.val.toNat % 32 ≠ 0 then (.trap .align at_.val 0 false, s)
      else match nearKey s (teamOf tid) at_.val.toNat 32 with
        | none => (.trap .nearRange at_.val 0 false, s)
        | some key =>
          if locked s key 32 true then (.trap .rangeLock at_.val 0 false, s)
          else if !(s.line (key / 128)).present then parkOnLine u s tid at_.val.toNat (key / 128)
          else if (s.line (key / 128)).tag.poison then (.kill (poisonWord s key 32), s)
          else
            let x := readDescriptor s.mem key
            let tag := (s.line (key / 128)).tag
            if !x.legal nb.val (t.reg (a + 1)).val then (.trapWith .illegalOperand ⟨x.ctl, tag⟩, s)
            else if x.kind = 4 && (s.threadLaunch tid).tileCount ≤ x.aux then
              (.trapWith .tileLimit ⟨BitVec.ofNat 32 x.aux, tag⟩, s)
            else
              let r := issueCopy u s tid (x.copy (t.pair a).val.toNat nb.val cb (joinTags [at_.tag, (t.pair a).tag, g]).grade
                (joinTags [at_.tag, (t.pair a).tag, g, nb.tag, cb.tag]).grade)
              (r.1.joinTrap tag, r.2)) s

end Sys2Proof.Machine
end

