-- ==== Sys2Proof/Machine/Atomic.lean ====
section
/-! DEFINITION. Main-memory atomics (spec/15_die_instructions.md R304, R305; spec/14_die_memory.md R283 to R287), the frame group
(R306 to R310), walks and purges (spec/13_die_frames.md R260, R261), host accesses, `declass` (spec/18_package_trust.md R362). -/

namespace Sys2Proof.Machine

open Sys2Proof

/-! ## Requests -/

/-- A request of a thread, sent: its number. -/
def newRequest (s : State) (tid core : Nat) (guard : Tag) (asked : Asked) (frame : Option Nat) : Nat × State :=
  let w := s.threadWorld tid
  let (reqid, s) := nextReqid s w core
  let (id, s) := s.newId
  let s := match frame with
    | some f => pin s f
    | none => s
  (id, { s with requests := s.requests.insert id ⟨w, core, tid, reqid, guard, asked, frame, false, false⟩ })

/-- The answer to a request: its pin is released and its threads take the result. -/
def answerRequest (s : State) (id : Nat) (r : Request) (res : Result) : State :=
  let s := { s with requests := s.requests.erase id }
  let s := match r.pin with
    | some f => unpin s f
    | none => s
  answer s id res

/-- The rank of the scope of a page (R288): DIE 1, PACKAGE 2, FABRIC 3, SYSTEM 4. -/
def pageRank (leaf : DWord) : Nat := entScope leaf + 1

/-- An acquire of the threads that wait for a request, whose edge reaches the ranks up to r (R290). -/
def acquireFor (s : State) (req r : Nat) : State :=
  dropEarly s fun e => (s.thread e.tid).request == some req && nearRank s e.tid e.key ≤ r

/-! ## Atomics (R304, R305) -/

/-- The register result of an atomic that completes with UNSUP (R305), with its guard's tag (R83). -/
def unsupResult (d : Reg) (op : BitVec 4) (guard : Tag) : Result :=
  if op = 10 then .pair d 0xFFFFFFFFFFFFFFFF guard else .reg d 0xFFFFFFFF guard 0

/-- Whether a PCIe AtomicOp stands for an operation (R286): add.n32, add.n64, exch.b32, cas.b32. -/
def hasAtomicOp (op : BitVec 4) : Bool := op = 0 || op = 8 || op = 9 || op = 10

/-- ATOM (R304, R305): the checks, then the request to the home or over the host link. -/
def execAtom (c : Ctl) (d a : Reg) (ord : BitVec 2) (op : BitVec 4) (s : State) : Host.Outcome State Fault Refusal :=
  issueUnit (.atom c d a ord op) (fun u s tid g =>
    let t := s.thread tid
    let va := (t.pair a).val.toNat
    let (x, e, dt) := atomicOperand t d op
    let size := atomicSize op
    match firstPoison [t.reg a, t.reg (a + 1)] with
    | some v => (.kill v, s)
    | none =>
      if dt.poison then (.kill ((firstPoison [t.reg d, t.reg (d + 1)]).getD 0), s)
      else if va % size ≠ 0 then (.trap .align (t.reg a).val 0 false, s)
      else match access s (quadOf u.core) (s.threadWorld tid) va .atomic false with
        | (.error f, s) => (.trap f.cause (xlVal va) (xlVahi va) false, s)
        | (.ok tr, s) =>
          let page := entGrade tr.leaf
          let dg := (joinTags [dt, (t.pair a).tag, g]).grade
          let tag : Tag := ⟨(joinTags [⟨page, false⟩, (t.pair a).tag, g]).grade, false⟩
          let f := tr.phys va / 2 ^ 16
          let key := physKey (tr.phys va)
          if page.toNat < dg.toNat then
            (.trap .gradeDown (BitVec.ofNat 32 (dg.toNat * 4 + page.toNat)) 0 false, s)
          else if isAperture f && !hasAtomicOp op then (.done (unsupResult d op g), s)
          else if 4096 ≤ outstanding s u.core then (.hold, s)
          else if !isAperture f then
            let r := newRequest s tid u.core g (.atomic key ord op d x e tag tr) (some f)
            (.sent r.1, r.2)
          else
            let (n, s) := s.free
            let fn := (s.frame f).owner
            if n % 2 = 0 then
              let r := newRequest s tid u.core g (.hostAtomic key ord op d x e tag va none) (some f)
              (.sent r.1, r.2)
            else match freePageGroup s fn with
              | none => (.hold, s)
              | some grp =>
                let r := newRequest (requestPage s fn grp ((f - apertureLo) * 2 ^ 16)) tid u.core g
                  (.hostAtomic key ord op d x e tag va (some (fn, grp))) (some f)
                (.sent r.1, r.2)) s

/-- The predictor of a line's slice consulted for a quad (R283): the run count and the state after it. -/
def predict (s : State) (k q : Nat) : Nat × State :=
  let sl := (Config.sliceOfLine k).val
  let l := s.slices.getD sl []
  let old := (l.find? fun e => e.line = k).getD ⟨k, q, 0⟩
  let new : Predictor := if old.quad = q then ⟨k, q, min (old.run + 1) 7⟩ else ⟨k, q, 1⟩
  (new.run, { s with slices := s.slices.insert sl ((new :: l.filter fun e => e.line ≠ k).take 2048) })

/-- A line granted to a quad's atomic cache (R283): it is read at its slice (R378) and its frame is pinned; beyond 64 lines the least
recently used is evicted. -/
def grantLine (s : State) (k q : Nat) (via : Xlat) : State :=
  let s := countHbm (pin s (k / 512)) via.world (k * 128) 128
  let l := (s.quad q).owned
  let s := if l.length < 64 then s else match l.getLast? with
    | some o => recallFrom s q o.line
    | none => s
  s.setQuad q { s.quad q with owned := ⟨k, via⟩ :: (s.quad q).owned }

/-- The translation of a line as a walk gives it now, where it still is the leaf through which an atomic was translated and admits
atomics of the line's frame: its tables are those through which the line is reached now. -/
def stillMapped (s : State) (via : Xlat) (k : Nat) : Option Xlat :=
  let va := via.page * leafSize via.level + (k * 128 - entFrame via.leaf * 2 ^ 16)
  match walk s via.world va with
  | .leaf x =>
    if x.leaf = via.leaf && x.level = via.level && (checkLeaf s via.world x va .atomic false).isNone then some x else none
  | .notMapped => none

/-- The place of an atomic of a quad (R283): its own cache, or the home after a recall. -/
def atomicPlace (s : State) (k q : Nat) (via : Xlat) : State :=
  let l := (s.quad q).owned
  match l.find? fun o => o.line = k with
  | some o => s.setQuad q { s.quad q with owned := o :: l.filter fun x => x.line ≠ k }
  | none =>
    let r := predict (recallLine s k) k q
    if 4 ≤ r.1 && stillNamed r.2 (k / 512) then grantLine r.2 k q ((stillMapped r.2 via k).getD via) else r.2

/-- Whether a quad owns a line: it performs an atomic on it without the home (R283). -/
def ownsLine (s : State) (q k : Nat) : Bool := (s.quad q).owned.any fun o => o.line = k

/-- ATOMIC_AT_HOME (R283, R285, R304): the read-modify-write as one step; at the home its slice reads and writes the bytes (R378). -/
def execAtomicAtHome (req : Nat) (s : State) : Host.Outcome State Fault Refusal :=
  match s.requests.find? req with
  | some r => match r.asked with
    | .atomic key ord op d x e tag via =>
      let size := atomicSize op
      let slice := if ownsLine s (quadOf r.core) (key / 128) then 0 else 2 * size
      let s := atomicPlace s (key / 128) (quadOf r.core) via
      let old := s.mem.readLe key size
      let n := atomicNew op old x e
      let tag := { tag with poison := isBad s key size }
      let s := countHbm (writeMain s key (leBytes size n.1)) r.world key slice
      .next (answerRequest (if ordAcquires ord then acquireFor s req (pageRank via.leaf) else s) req r (atomicResult d op old tag n.2))
    | _ => .next s
  | none => .next s

/-- HOST_ATOM_UR in the world's fault log (R369), at the time of the core that issued the atomic, which its REQID names (R343). -/
def logHostAtomic (s : State) (r : Request) (code : BitVec 3) (ord : BitVec 2) (op : BitVec 4) (va : Nat) : State :=
  logFault s r.world
    { kind := 0x40, detail := code.toNat, at_ := whereWord s r.tid, reqid := r.reqid, addr := va
      opc := ord.toNat * 64 + op.toNat * 4 } (s.cyc (r.reqid.extractLsb' 48 10).toNat)

/-- The acquire of a host atomic that is complete (R304): its page's SCOPE is SYSTEM (R255, rule 10). -/
def hostAcquire (s : State) (req : Nat) (r : Request) : State :=
  match r.asked with
  | .hostAtomic _ ord _ _ _ _ _ _ _ => if ordAcquires ord then acquireFor s req 4 else s
  | _ => s

/-- The result of a host atomic, given at once, or kept for the restore of a saved world (R344). -/
def giveHostResult (s : State) (req : Nat) (r : Request) (res : Result) (late : Late) : State :=
  if r.replay && (s.world r.world).stat ≠ 1 then
    s.setWorld r.world { s.world r.world with late := (s.world r.world).late ++ [(req, late)] }
  else answerRequest (hostAcquire s req r) req r res

/-- HOST_ATOMIC_COMPLETION (R286, R305, R369): completed, or turned away with Unsupported Request (1) or Completer Abort (4). -/
def execHostAtomicCompletion (req : Nat) (code : BitVec 3) (s : State) : Host.Outcome State Fault Refusal :=
  match s.requests.find? req with
  | some r => match r.asked with
    | .hostAtomic key ord op d x e tag va none =>
      if (s.world r.world).late.any fun l => l.1 = req then .next s
      else if code = 0 then
        let old := s.mem.readLe key (atomicSize op)
        let n := atomicNew op old x e
        .next (giveHostResult (writeMain s key (leBytes (atomicSize op) n.1)) req r
          (atomicResult d op old tag 0) (.value old))
      else if code = 1 || code = 4 then
        .next (giveHostResult (logHostAtomic s r code ord op va) req r (unsupResult d op r.guard) .unsup)
      else .next s
    | _ => .next s
  | none => .next s

/-- The host atomics that wait for a page-request group of a function go on, or complete with a value that the spec leaves open
(R318). -/
def answerAtomics (s : State) (fn grp : Nat) (ok : Bool) : State :=
  s.requests.foldl (fun s e => match e.2.asked with
    | .hostAtomic key ord op d x y tag va (some g) =>
      if g = (fn, grp) then
        if ok then
          let r : Request := { e.2 with asked := .hostAtomic key ord op d x y tag va none }
          { s with requests := s.requests.insert e.1 r }
        else
          let (n, s) := s.free
          giveHostResult s e.1 e.2 (atomicResult d op n tag 0) (.value n)
      else s
    | _ => s) s

/-- PAGE_REQUEST_RESPONSE (R318, R367) to a function: one that carries another incarnation than the current one is dropped and
logged in world 0's fault log. -/
def execPageRequestResponse (w : Nat) (inc : BitVec 5) (grp : Nat) (ok : Bool) (s : State) :
    Host.Outcome State Fault Refusal :=
  let x := s.world w
  let page := x.pages.find? (pageKey inc grp)
  let s := s.setWorld w { x with pages := x.pages.erase (pageKey inc grp) }
  if inc ≠ x.inc then .next (logEvent s 0 { kind := 0x83, detail := inc.toNat, addr := page.getD 0, opc := w })
  else if page.isNone then .next s
  else .next (answerAtomics (answerPages s w (grp % 16) ok) w (grp % 16) ok)

/-! ## The frame group (R306 to R310) -/

/-- FQUERY (R307). -/
def execFquery (c : Ctl) (d a : Reg) (s : State) : Host.Outcome State Fault Refusal :=
  issueUnit (.fquery c d a) (fun u s tid g =>
    let t := s.thread tid
    if (t.reg a).tag.poison then (.kill (t.reg a).val, s)
    else
      let r := newRequest s tid u.core g (.fquery (t.reg a).val.toNat d) none
      (.sent r.1, r.2)) s

/-- FRETYPE (R308): a release, then the home's retype. -/
def execFretype (c : Ctl) (d a : Reg) (t : BitVec 4) (s : State) : Host.Outcome State Fault Refusal :=
  issueUnit (.fretype c d a t) (fun u s tid g =>
    let x := s.thread tid
    let o := (x.reg (a + 1)).val
    match firstPoison [x.reg a, x.reg (a + 1)] with
    | some v => (.kill v, s)
    | none =>
      let owner := if o.getLsbD 6 then some (o.extractLsb' 0 6).toNat else none
      let r := newRequest s tid u.core g (.fretype (x.reg a).val.toNat t.toNat owner d) none
      (.sent r.1, r.2)) s

/-- METADATA_HOME_OPERATION (R249, R265, R307): the query or the retype that a thread asked for, as one step. -/
def execMetadataHomeOperation (req : Nat) (s : State) : Host.Outcome State Fault Refusal :=
  match s.requests.find? req with
  | some r => match r.asked with
    | .fquery f d => .next (answerRequest s req r (.regs d (queryWords s r.world f) r.guard))
    | .fretype f t owner d =>
      let x := retype s r.world f t owner
      .next (answerRequest x.2 req r (.reg d (BitVec.ofNat 32 x.1) r.guard 0))
    | _ => .next s
  | none => .next s

/-- The translation word of a leaf for an address (R309). -/
def probeWord (x : Xlat) (va : Nat) : DWord :=
  BitVec.ofNat 64 (entGrant x.leaf * 2 ^ 48 + x.phys va / 2 ^ 16 * 2 ^ 16 + x.level * 2 ^ 12 + x.leaf.toNat % 4096)

/-- XLPROBE (R309). -/
def execXlprobe (c : Ctl) (d a : Reg) (s : State) : Host.Outcome State Fault Refusal :=
  issueUnit (.xlprobe c d a) (fun u s tid g =>
    let t := s.thread tid
    let va := (t.pair a).val.toNat
    match firstPoison [t.reg a, t.reg (a + 1)] with
    | some v => (.kill v, s)
    | none => match translate s (quadOf u.core) (s.threadWorld tid) va with
      | (.notMapped, s) => (.done (.pair d 0 g), s)
      | (.leaf x, s) => (.done (.pair d (probeWord x va) g), s)) s

/-- The caches that a translation purge goes to (R310). -/
def purgeCaches (s : State) (w : Nat) : List CacheId := (cachesOf s w).filter fun c => c ≠ .fab w

/-- XLPURGE (R310). -/
def execXlpurge (c : Ctl) (d a : Reg) (s : State) : Host.Outcome State Fault Refusal :=
  issueUnit (.xlpurge c d a) (fun u s tid g =>
    let t := s.thread tid
    match firstPoison [t.reg a, t.reg (a + 1)] with
    | some v => (.kill v, s)
    | none =>
      let w := s.threadWorld tid
      let what := if (t.reg (a + 1)).val.getLsbD 31 then PurgeOf.all else .va (t.pair a).val.toNat
      let r := newRequest s tid u.core g (.purge d) none
      let (id, s) := r.2.newId
      (.sent r.1, { s with purges := s.purges.insert id ⟨w, what, purgeCaches s w, [], [], [], .request r.1⟩ })) s

/-- What follows a purge whose last acknowledgement has arrived (R260, R310, R376). -/
def finishPurge (s : State) (id : Nat) (p : Purge) : State :=
  let s := settlePurge { s with purges := s.purges.erase id } p
  match p.after with
  | .segment op seg => endSegment s op seg .ok
  | .request req => match s.requests.find? req with
    | some r => match r.asked with
      | .purge d => answerRequest s req r (.reg d 0 r.guard 0)
      | _ => s
    | none => s
  | .management => { s with mgmt := { s.mgmt with go := false, result := 0 } }
  | .reply p f => replyOnce (unpin s f) p
  | .nothing => s

/-- A purge checked for its end. -/
def checkPurge (s : State) (id : Nat) : State :=
  match s.purges.find? id with
  | some p => if p.caches.isEmpty && p.nodes.isEmpty then finishPurge s id p else s
  | none => s

/-- PURGE_ACK (R260, R263, R264): each request pins its frame in the step that takes its translation, so that a cache may
acknowledge as soon as it has dropped its entries. -/
def execPurgeAck (purge : Nat) (cache : CacheId) (s : State) : Host.Outcome State Fault Refusal :=
  match s.purges.find? purge with
  | some p =>
    if p.caches.contains cache then
      let s := dropFrom s cache p.world p.what
      .next (checkPurge { s with purges := s.purges.insert purge { p with caches := p.caches.filter (· ≠ cache) } } purge)
    else .next s
  | none => .next s

/-- WALK_COMPLETE (R261, R263): a walk's validated leaf that R262 admits is installed. -/
def execWalkComplete (cache : CacheId) (w : Nat) (va : DWord) (acc : Access) (s : State) :
    Host.Outcome State Fault Refusal :=
  let mine := match cache with
    | .quad q => q < 256 && (s.world w).quads.getLsbD q
    | .host x | .fab x => x = w
  if !mine then .next s
  else match walk s w va.toNat with
    | .leaf x =>
      if (checkLeaf s w x va.toNat acc false).isNone then .next (s.setCache cache (cacheUse (s.cache cache) x)) else .next s
    | .notMapped => .next s

/-! ## Host accesses (R258, R284, R287) -/

/-- The bytes of a host access split at frames. -/
def splitFrames : Nat → Nat → List Byte → List (Nat × List Byte)
  | 0, _, _ => []
  | fuel + 1, va, b =>
    let k := min b.length (2 ^ 16 - va % 2 ^ 16)
    if k = 0 then [] else (va, b.take k) :: splitFrames fuel (va + k) (b.drop k)

/-- A host write to one frame: into a TABLE frame it is a write unit (R258). -/
def hostWriteFrame (s : State) (w : Nat) (va : Nat) (b : List Byte) : State :=
  match accessIn s (.host w) w va .write true with
  | (.error _, s) => s
  | (.ok x, s) =>
    let pa := x.phys va
    let f := pa / 2 ^ 16
    if isTableType (s.frame f).type then
      match checkWrites s f [(pa % 2 ^ 16, b)] with
      | .error r => logEvent s w { kind := 0x80, detail := r, addr := pa }
      | .ok ch => (acceptUnit (countHbm s w (physKey pa) b.length) f ch .nothing).2
    else countHbm (writeMain (recallRange s (physKey pa) b.length) (physKey pa) b) w (physKey pa) b.length

/-- HOST_WRITE (R258, R284): a write of host agents through the function's window, translated in its host-interface cache. -/
def execHostWrite (w va : Nat) (bytes : List Byte) (s : State) : Host.Outcome State Fault Refusal :=
  if windowOpen s w then .next ((splitFrames bytes.length va bytes).foldl (fun s e => hostWriteFrame s w e.1 e.2) s)
  else .next s

/-- HOST_READ (R284): the bytes of each frame that it may read; a frame that it may not gives none. A closed window answers with
Unsupported Request (R366). -/
def execHostRead (w va len : Nat) (s : State) : Host.Outcome State Fault Refusal :=
  let r := (splitFrames len va (List.replicate len 0)).foldl (fun (r : List Byte × State) e =>
    match accessIn r.2 (.host w) w e.1 .read true with
    | (.error _, s) => (r.1, s)
    | (.ok x, s) =>
      let key := physKey (x.phys e.1)
      let s := countHbm (recallRange s key e.2.length) w key e.2.length
      (r.1 ++ s.mem.readBytes key e.2.length, s)) ([], s)
  if windowOpen s w then .next { r.2 with toHost := some r.1 :: r.2.toHost } else .next { s with toHost := none :: s.toHost }

/-- The new value of a host AtomicOp: 0 FetchAdd, 1 Swap, 2 CAS of x over the expected y. -/
def hostAtomicNew (op : BitVec 4) (size old x y : Nat) : Nat :=
  if op = 0 then (old + x) % 2 ^ (8 * size) else if op = 1 then x % 2 ^ (8 * size)
  else if old = y % 2 ^ (8 * size) then x % 2 ^ (8 * size) else old

/-- HOST_ATOMICOP_REQUEST (R287): at the home slice, after any recall; the old value is the completion. A 128-bit CAS, and every
request to a closed window (R366), completes with Unsupported Request. To one that does not translate, lies in the aperture or has
another size, operation or alignment the spec gives no answer: the model changes nothing and completes nothing
(notes/assumptions/131.md). -/
def execHostAtomicopRequest (w : Nat) (va : DWord) (size : Nat) (op : BitVec 4) (x y : DWord) (s : State) :
    Host.Outcome State Fault Refusal :=
  if !windowOpen s w || (size = 16 && op = 2) then .next { s with toHost := none :: s.toHost }
  else if (size ≠ 4 && size ≠ 8) || 3 ≤ op.toNat || va.toNat % size ≠ 0 then .next s
  else match accessIn s (.host w) w va.toNat .atomic false with
    | (.error _, s) => .next s
    | (.ok t, s) =>
      let pa := t.phys va.toNat
      if isAperture (pa / 2 ^ 16) then .next s
      else
        let key := physKey pa
        let s := recallRange s key size
        let old := s.mem.readLe key size
        let s := countHbm (writeMain s key (leBytes size (hostAtomicNew op size old x.toNat y.toNat))) w key (2 * size)
        .next { s with toHost := some (leBytes size old) :: s.toHost }

/-! ## Declassification (R362) -/

/-- Whether the leaf through which a thread's unit was fetched names a grant that lets it declassify. -/
def mayDeclass (s : State) (u : Issue) (tid : Nat) : Bool :=
  entGrant u.leaf ≠ 0 && (s.grant (s.threadWorld tid) (entGrant u.leaf)).declass

/-- DECLASS (R362): the guard's grade is no source. -/
def execDeclass (c : Ctl) (d a : Reg) (i : BitVec 8) (s : State) : Host.Outcome State Fault Refusal :=
  issueUnit (.declass c d a i) (fun u s tid _ =>
    let x := (s.thread tid).reg a
    if mayDeclass s u tid then (.done (.reg d x.val ⟨i.setWidth 2, x.tag.poison⟩ 0), s)
    else (.trap .priv u.word 0 false, s)) s

end Sys2Proof.Machine
end

