-- ==== Sys2Proof/Machine/Service.lean ====
section
/-! DEFINITION. The teams' queues (spec/12_cluster_instructions.md R243 to R246) and service calls (spec/06_thread_instructions.md
R126, R127; spec/10_program_service_call.md R200 to R202; spec/17_package_launch.md R314). -/

namespace Sys2Proof.Machine

open Sys2Proof

/-! ## Queues (R206, R244 to R246) -/

/-- The team with a number in a cluster. -/
def teamAt (s : State) (cluster index : Nat) : Option Nat :=
  (List.find? (fun e : Nat × Team => e.2.cluster = cluster && e.2.index = index) s.teams).map (·.1)

/-- The entries in a team's queue. -/
def Team.queued (t : Team) : Nat := (t.tail - t.head).toNat

/-- An entry appended to a team's queue: every thread that watches the queue is filed (R245). -/
def appendEntry (s : State) (team : Nat) (e : QueueEntry) : State :=
  let t := s.team team
  let s := s.setTeam team { t with entries := t.entries.insert (t.tail.toNat % 64) e, tail := t.tail + 1 }
  ((teamThreads s team).filter fun tid => (s.thread tid).place == .waiting .queue).foldl wake s

/-- QSEND (R244). -/
def execQsend (c : Ctl) (d : Reg) (s : State) : Host.Outcome State Fault Refusal :=
  issueUnit (.qsend c d) (fun u s tid g =>
    let t := s.thread tid
    let dst := t.reg d
    let n := dst.val.toNat % 16
    if dst.tag.poison then (.kill dst.val, s)
    else if s.teamCount (teamOf tid) ≤ n then (.trap .illegalOperand u.word 0 false, s)
    else
      let tag := dst.tag.join g
      match teamAt s (s.threadTeam tid).cluster n with
      | none => (.done (.reg d 0x40000000 tag 0), s)
      | some x =>
        let p := t.pair (d + 2)
        if (s.team x).ended then (.done (.reg d 0x40000000 tag 0), s)
        else if (s.team x).queued = 64 then (.done (.reg d 0 tag 0), s)
        else
          let s := appendEntry s x ⟨p.val, (s.threadTeam tid).index, p.tag⟩
          (.done (.reg d (0x80000000 + BitVec.ofNat 32 (64 - (s.team x).queued)) tag 0), s)) s

/-- QRECV (R245): on an empty queue the thread watches it. -/
def execQrecv (c : Ctl) (d : Reg) (s : State) : Host.Outcome State Fault Refusal :=
  issueUnit (.qrecv c d) (fun _ s tid g =>
    let tm := s.threadTeam tid
    match tm.queued with
    | 0 => (.wait .queue false, s)
    | _ =>
      let e := tm.entries.getD (tm.head.toNat % 64) ⟨0, 0, Tag.zero⟩
      (.done (.pair d e.payload ⟨gradeMax e.tag.grade g.grade, e.tag.poison⟩),
        s.setTeam (teamOf tid) { tm with head := tm.head + 1 })) s

/-- QCRED (R246). -/
def execQcred (c : Ctl) (d : Reg) (s : State) : Host.Outcome State Fault Refusal :=
  issueUnit (.qcred c d) (fun u s tid g =>
    let dst := (s.thread tid).reg d
    let n := dst.val.toNat % 16
    if dst.tag.poison then (.kill dst.val, s)
    else if s.teamCount (teamOf tid) ≤ n then (.trap .illegalOperand u.word 0 false, s)
    else
      let r : Word := match teamAt s (s.threadTeam tid).cluster n with
        | some x => if (s.team x).ended then 0x40000000 else BitVec.ofNat 32 (64 - (s.team x).queued)
        | none => 0x40000000
      (.done (.reg d r (dst.tag.join g) 0), s)) s

/-! ## Service calls (R126, R127, R200) -/

/-- Whether a world's service ring has a free entry (R314). -/
def World.ringRoom (x : World) : Bool := (x.srhead - x.srtail).toNat < 512

/-- The ORIGIN word (R127). -/
def originWord (s : State) (tid service : Nat) : Nat := service * 2 ^ 24 + (whereWord s tid).toNat

/-- A request entry appended at a ring's page (R127): the thread waits for its completion. -/
def appendService (s : State) (tid : Nat) (c : Call) (pa : Nat) : Nat × State :=
  let w := s.threadWorld tid
  let (reqid, s) := nextReqid s w c.core
  let (id, s) := s.newId
  let x := s.world w
  let idx := x.srhead.toNat % 512
  let bytes := leBytes 8 reqid.toNat ++ leBytes 4 (originWord s tid c.service) ++ leBytes 4 w ++ leBytes 4 0xFFFFFFFF ++
    List.replicate 44 0 ++ s.mem.readBytes c.block 64
  let key := physKey (pa + 128 * idx)
  let s := countHbm (writeMain s key bytes) w key 128
  let s := s.setWorld w { x with srhead := x.srhead + 1 }
  let s := { s with services := s.services.insert id ⟨w, tid, idx, c.block, c.dst, reqid, c⟩ }
  (id, raiseMsix s w 2)

/-- The grade of a call's data: its address and the lines of its block (R126). -/
def callGrade (s : State) (c : Call) : BitVec 2 := gradeMax c.grade (lineTags s c.block 64).grade

/-- The threads of a world that wait for a free entry, in the order in which they came. -/
def ringWaiters (s : State) (w : Nat) : List (Nat × Nat × Call × Word) :=
  let l := List.filterMap (fun e : Nat × Thread => match e.2.place with
    | .waiting (.ring o c h) => if s.threadWorld e.1 = w then some (o, e.1, c, h) else none
    | _ => none) s.threads
  (l.foldl (fun (m : SMap (Nat × Call × Word)) e => SMap.insert m e.1 e.2) [])

/-- The trap of a call whose data the ring's page may not take (R126). -/
def callTrap (c : Call) (head : Word) (data page : BitVec 2) (pend : Bool) : TrapArgs :=
  ⟨.gradeDown, ⟨BitVec.ofNat 32 (data.toNat * 4 + page.toNat), ⟨gradeMax data c.guard.grade, false⟩⟩, 0, c.uni, c.pos, c.addr,
    head, false, pend⟩

/-- Whether a thread still waits for a ring entry in an order. -/
def waitsRing (s : State) (tid order : Nat) : Bool :=
  match (s.thread tid).place with
  | .waiting (.ring o _ _) => o = order
  | _ => false

/-- The waiting calls of a world take entries in their order as far as entries are free (R200); a thread that an earlier one's trap
has ended takes none. -/
def serveList (s : State) (w : Nat) : List (Nat × Nat × Call × Word) → State
  | [] => s
  | (order, tid, c, head) :: rest =>
    match ringPage s w (s.world w).srbase false with
    | none => s
    | some (pa, grade) =>
      if !(s.world w).ringRoom then s
      else if !waitsRing s tid order then serveList s w rest
      else
        let g := callGrade s c
        if grade.toNat < g.toNat then serveList (takeTrap s tid (callTrap c head g grade (s.thread tid).hasPending)) w rest
        else
          let r := appendService s tid c pa
          serveList (r.2.modThread tid fun t => { t with place := .waiting (.service r.1 head) }) w rest

def serveRing (s : State) (w : Nat) : State := serveList s w (ringWaiters s w)

/-- The rings of every world that has waiting calls served: a ring may have come to translate (R314). -/
def serveRings (s : State) : State :=
  (List.range 64).foldl (fun s w => if (ringWaiters s w).isEmpty then s else serveRing s w) s

/-- SVC (R126). -/
def execSvc (c : Ctl) (d a : Reg) (i : BitVec 8) (s : State) : Host.Outcome State Fault Refusal :=
  issueUnit (.svc c d a i) (fun u s tid guard =>
    let b := (s.thread tid).reg a
    let ea := b.val.toNat
    if 128 ≤ i.toNat then (.trap .svc (zextImm i) 0 true, s)
    else if b.tag.poison then (.kill b.val, s)
    else if ea % 64 ≠ 0 then (.trap .align b.val 0 false, s)
    else match nearKey s (teamOf tid) ea 64 with
      | none => (.trap .nearRange b.val 0 false, s)
      | some key =>
        if locked s key 64 false then (.trap .rangeLock b.val 0 false, s)
        else match absentLine s key 64 with
          | some k => parkOnLine u s tid (ea + k * 128 - key) k true
          | none =>
            if (lineTags s key 64).poison then (.kill (poisonWord s key 64), s)
            else
              let w := s.threadWorld tid
              let call : Call := ⟨i.toNat, d, key, b.tag.grade, guard, c.k, u.pos, u.addr, u.core⟩
              let wait := fun (s : State) => let (o, s) := s.newId
                                             ((.wait (.ring o call u.head) true, s) : UnitResult × State)
              match ringPage s w (s.world w).srbase false with
              | none => wait s
              | some (pa, grade) =>
                if !(ringWaiters s w).isEmpty || !(s.world w).ringRoom then wait s
                else
                  let g := callGrade s call
                  if grade.toNat < g.toNat then (.trapWith .gradeDown ⟨BitVec.ofNat 32 (g.toNat * 4 + grade.toNat), ⟨g, false⟩⟩, s)
                  else
                    let r := appendService s tid call pa
                    (.wait (.service r.1 u.head) true, r.2)) s

/-- Whether the thread of a service request still waits for its completion. -/
def isServed (s : State) (id : Nat) (v : Service) : Bool :=
  match (s.thread v.tid).place with
  | .waiting (.service n _) => n = id
  | _ => false

/-- A reply written into a call's block (R126, R201): its bytes and the grade of its lines, neither their presence nor their poison. A
counter of a present line which it makes reach a target is told by its home (R151). -/
def writeReply (s : State) (block : Nat) (reply : List Byte) (grade : BitVec 2) : State :=
  let s := { s with mem := s.mem.writeBytes block reply }
  let s := (linesOf block reply.length).foldl (fun s k =>
    s.setLine k { s.line k with tag := (s.line k).tag.join ⟨grade, false⟩ }) s
  notifyCounters s block reply.length

/-- A doorbell taken (R201, R202): STATUS and the reply read once, the reply into the block, where it comes after what the thread read
ahead (R187, R190), Vd with the grade of the ring's page and
the tag of the guard (R83), the wake. -/
def takeDoorbell (s : State) (w idx : Nat) : State :=
  match List.find? (fun e : Nat × Service => e.2.world = w && e.2.index = idx && isServed s e.1 e.2) s.services,
    ringPage s w (s.world w).srbase false with
  | some (id, v), some (pa, grade) =>
    let key := physKey (pa + 128 * idx)
    let status := s.mem.readLe (key + 16) 4
    let s := countHbm s w key 4
    if status = 0xFFFFFFFF then s
    else
      let reply := s.mem.readBytes (key + 64) 64
      let s := countHbm s w key 64
      let s := { s with services := s.services.erase id }
      let s := dropEarly (mendWords s v.block 64) fun e => e.tid = v.tid && e.meets v.block 64
      let s := writeReply s v.block reply grade
      wake (s.modThread v.tid fun t =>
        t.setReg v.dst.toNat ⟨BitVec.ofNat 32 status, Tag.join ⟨grade, false⟩ v.call.guard⟩) v.tid
  | _, _ => s

/-- SERVICE_COMPLETION_DOORBELL (R201, R202, R345): a world that is being saved or is saved takes it at its restore, once, where it
names an outstanding entry. -/
def execServiceCompletionDoorbell (w : Nat) (v : Word) (s : State) : Host.Outcome State Fault Refusal :=
  let x := s.world w
  let idx := v.toNat % 512
  if !windowOpen s w then .next s
  else if 3 ≤ x.stat then
    if x.doorbells.contains idx || !s.services.any (fun e => e.2.world = w && e.2.index = idx && isServed s e.1 e.2) then .next s
    else .next (s.setWorld w { x with doorbells := x.doorbells ++ [idx] })
  else .next (takeDoorbell s w idx)

/-- SRTAIL_WRITE (R314): a write that moves it backwards or past SRHEAD is ignored and logged. -/
def execSrtailWrite (w : Nat) (v : Word) (s : State) : Host.Outcome State Fault Refusal :=
  let x := s.world w
  if !windowOpen s w then .next s
  else if (x.srhead - x.srtail).toNat < (x.srhead - v).toNat then .next (logEvent s w { kind := 0x85, addr := v.toNat })
  else .next (serveRing (s.setWorld w { x with srtail := v }) w)

/-- A thread whose service call the host link lost: HOST_LINK is pending and it stands at the head of its chain (R94, R126). -/
def loseService (s : State) (id : Nat) (v : Service) : State :=
  let s := { s with services := s.services.erase id }
  match (s.thread v.tid).place with
  | .waiting (.service n head) =>
    if n ≠ id then s
    else
      let s := makePending s v.tid .hostLink (v.reqid.setWidth 32)
      if 3 ≤ (s.world v.world).stat then s.modThread v.tid fun t => { t with pc := head, place := .waiting .halted }
      else fileThread (s.modThread v.tid fun t => { t with pc := head }) v.tid s.time
  | _ => s

/-- A host atomic that the link lost (R305): Vd is unchanged and HOST_LINK pending. -/
def loseAtomic (s : State) (id : Nat) (r : Request) : State :=
  makePending (answerRequest s id r .none) r.tid .hostLink (r.reqid.setWidth 32)

/-- HOST_LINK (R94, R305, R344): the host link loses a service request or a host atomic; the loss of a HOSTWAIT entry of a saved world
is kept for its restore. -/
def execHostLink (req : Nat) (s : State) : Host.Outcome State Fault Refusal :=
  match s.services.find? req with
  | some v => .next (loseService s req v)
  | none => match s.requests.find? req with
    | some r => match r.asked with
      | .hostAtomic _ _ _ _ _ _ _ _ none =>
        if (s.world r.world).late.any fun l => l.1 = req then .next s
        else if r.replay && (s.world r.world).stat ≠ 1 then
          .next (s.setWorld r.world { s.world r.world with late := (s.world r.world).late ++ [(req, .lost)] })
        else .next (loseAtomic s req r)
      | _ => .next s
    | none => .next s

end Sys2Proof.Machine
end

