-- ==== Sys2Proof/Machine/Launch.lean ====
section
/-! DEFINITION. Commands (spec/17_package_launch.md R319 to R322), launch records (R323 to R329), the distribution of clusters
(R330 to R333; spec/11_cluster_anvil.md R203, R204, R208; spec/14_die_memory.md R269) and the completion of a launch (R335, R336). -/

namespace Sys2Proof.Machine

open Sys2Proof

/-! ## Commands -/

/-- A command entry (R320). -/
structure Command where
  opw  : Nat
  a    : DWord
  b    : DWord
  c    : DWord
  rest : Bool
  deriving DecidableEq, Repr

def Command.op (x : Command) : Nat := x.opw % 256

/-- The rank that a command gives its grid (R326). -/
def Command.rank (x : Command) : Nat := if x.opw / 256 % 2 = 1 then x.opw / 2 ^ 20 else 0

def readCommand (m : Memory) (key : Nat) : Command :=
  ⟨m.readLe key 4, BitVec.ofNat 64 (m.readLe (key + 8) 8), BitVec.ofNat 64 (m.readLe (key + 16) 8),
    BitVec.ofNat 64 (m.readLe (key + 24) 8), (m.readBytes (key + 32) 32).any (· ≠ 0)⟩

/-- Whether a command entry is refused with reason 9 (R322). -/
def Command.bad (x : Command) : Bool :=
  x.op = 0 || 5 < x.op || x.opw / 2 ^ 9 % 2 ^ 11 ≠ 0 || x.rest ||
    match x.op with
    | 1 => x.b ≠ 0 || x.c ≠ 0
    | 4 => 0x10000000 < x.c.toNat
    | _ => x.c ≠ 0 || x.a.toNat % 8 ≠ 0

/-- What a queue finds when it is due to start a command (R319). -/
inductive NextCommand where
  | none
  | noRing
  | entry (va key : Nat) (c : Command)
  deriving DecidableEq, Repr

def nextCommand (s : State) (w q : Nat) : NextCommand :=
  let x := s.cmdQueue w q
  if !x.en || x.stopped || x.running.isSome || x.head = x.tail then .none
  else match ringPage s w x.base true with
    | none => .noRing
    | some (pa, _) =>
      let key := physKey (pa + commandVa x x.head % 2 ^ 16)
      .entry (commandVa x x.head) key (readCommand s.mem key)

/-- A queue whose ring does not translate stops (R319). -/
def stopQueue (s : State) (w q : Nat) : State :=
  let x := s.cmdQueue w q
  let s := raiseMsix (s.setCmdQueue w q { x with stopped := true }) w 3
  logEvent s w { kind := 0x87, detail := q, addr := x.base.toNat }

/-- The command's entry noted, so that its STATUS can be written. -/
def noteCommand (s : State) (w q va : Nat) : State := s.setCmdQueue w q { s.cmdQueue w q with runVa := va }

/-- A command's entry of 64 bytes read and noted. -/
def takeCommand (s : State) (w q va key : Nat) : State := noteCommand (countHbm s w key 64) w q va

/-- The start of a queue's next command where it is the one expected; a bad entry is refused. Between reset entry and the end of a
start-up, and after one that has failed, no queue runs (R383, R384). -/
def startCommand (s : State) (w q op : Nat) (act : Command → State → State) : State :=
  if s.assayer.entered then s
  else match nextCommand s w q with
    | .none => s
    | .noRing => stopQueue s w q
    | .entry va key c =>
      if c.bad then finishCommand (takeCommand s w q va key) w q .refused 9 0
      else if c.op = op then act c (takeCommand s w q va key) else s

/-- An address operand translated as an atomic access (R322): its memory key. -/
def operandKey (s : State) (w va : Nat) : Option Nat :=
  match walk s w va with
  | .leaf x => if (checkLeaf s w x va .atomic false).isNone then some (physKey (x.phys va)) else none
  | .notMapped => none

def setRunning (s : State) (w q : Nat) (r : Running) : State := s.setCmdQueue w q { s.cmdQueue w q with running := some r }

/-- A WAITCOUNT checked against its counter. -/
def tryWait (s : State) (w q va target : Nat) : State :=
  match operandKey s w va with
  | none => finishCommand s w q .ok 0 (statusCode .rangeFault)
  | some key =>
    if target ≤ s.mem.readLe key 8 then finishCommand (countHbm s w key 8) w q .ok 0 0
    else if (s.cmdQueue w q).running.isSome then s
    else setRunning (countHbm s w key 8) w q (.waitcount va target)

/-- WAITCOUNT (R322). -/
def execWaitcount (w q : Nat) (s : State) : Host.Outcome State Fault Refusal :=
  .next (startCommand s w q 2 fun c s => tryWait s w q c.a.toNat c.b.toNat)

/-- WAITCOUNT_SATISFIED (R322). -/
def execWaitcountSatisfied (w q : Nat) (s : State) : Host.Outcome State Fault Refusal :=
  match (s.cmdQueue w q).running with
  | some (.waitcount va target) => .next (tryWait s w q va target)
  | _ => .next s

/-- SIGNALCOUNT (R322): a saturating add at the home as one step. -/
def execSignalcount (w q : Nat) (s : State) : Host.Outcome State Fault Refusal :=
  .next (startCommand s w q 3 fun c s =>
    match operandKey s w c.a.toNat with
    | none => finishCommand s w q .ok 0 (statusCode .rangeFault)
    | some key =>
      let s := recallRange s key 8
      let n := min (s.mem.readLe key 8 + c.b.toNat) (2 ^ 64 - 1)
      finishCommand (countHbm (writeMain s key (leBytes 8 n)) w key 16) w q .ok 0 0)

/-- MARK (R322). -/
def execMark (w q : Nat) (s : State) : Host.Outcome State Fault Refusal :=
  .next (startCommand s w q 5 fun c s =>
    match operandKey s w c.a.toNat with
    | none => finishCommand s w q .ok 0 (statusCode .rangeFault)
    | some key =>
      let s := countHbm (writeMain (recallRange s key 8) key (leBytes 8 c.b.toNat)) w key 8
      finishCommand (raiseMsix s w 0) w q .ok 0 0)

/-- The lowest-numbered core of a quad (R203). -/
def quadCore (q : Nat) : Nat := q / 64 * 256 + q % 64 / 8 * 32 + q % 8 * 2

/-- The lowest-numbered quad granted to a world, of those that run (R384). -/
def lowestQuad (s : State) (x : World) : Option Nat :=
  (List.range 256).find? fun q => x.quads.getLsbD q && dieRuns s (dieOfQuad q)

/-- COPY (R322): through the Ladle of the world's lowest-numbered granted quad; without one the command waits to start. -/
def execCopy (w q : Nat) (s : State) : Host.Outcome State Fault Refusal :=
  match lowestQuad s (s.world w) with
  | none => .next (startCommand s w q 0 fun _ s => s)
  | some quad =>
    .next (startCommand s w q 4 fun c s =>
      let n := c.c.toNat
      if n = 0 then finishCommand s w q .ok 0 0
      else
        let (op, s) := s.newId
        let moves := (cutPieces false n (.main c.a.toNat) (.main c.b.toNat) n).map fun p => (0, p)
        setRunning (s.setLadle op
          { core := quadCore quad, world := w, team := none, tid := 0, launch := none, rank := none, counter := none
            grade := 0, align := 1, tile := none, tileTag := Tag.zero, segs := makeSegments false moves, raised := []
            estat := 0, pos := 0, pc := 0 }) w q (.copy op))

/-! ## Launch records (R323 to R328) -/

/-- A launch record's bytes as fields (R323). -/
structure Record where
  entry : DWord
  grid  : Nat
  done  : DWord
  ctl   : Nat
  bench : Nat
  cruc  : Nat
  mbz   : Nat
  roles : List Nat
  fmt   : List Word
  tail  : Bool
  deriving DecidableEq, Repr

def readRecord (m : Memory) (k : Nat) : Record :=
  ⟨BitVec.ofNat 64 (m.readLe k 8), m.readLe (k + 8) 8, BitVec.ofNat 64 (m.readLe (k + 24) 8), m.readLe (k + 32) 4,
    m.readLe (k + 36) 4, m.readLe (k + 40) 4, m.readLe (k + 44) 4,
    (List.range 4).map (fun j => m.readLe (k + 48 + 4 * j) 4),
    (List.range 8).map (fun j => BitVec.ofNat 32 (m.readLe (k + 64 + 4 * j) 4)), (m.readBytes (k + 96) 32).any (· ≠ 0)⟩

def Record.grade (r : Record) : Nat := r.ctl / 2 ^ 8 % 4
def Record.age (r : Record) : Nat := r.ctl / 2 ^ 16 % 2 ^ 11
def Record.shape (r : Record) : Nat := r.ctl % 8
def Record.poolMode (r : Record) : Bool := r.ctl / 8 % 2 = 1
def Record.dim (r : Record) (k : Nat) : Nat := r.grid / 2 ^ (16 * k) % 2 ^ 16

def roleGroups (x : Nat) : Nat := x / 2 ^ 20 % 64
def roleTiles (x : Nat) : Nat := x / 2 ^ 14 % 64
def roleSpill (x : Nat) : Nat := x / 2 ^ 4 % 2 ^ 10
def roleRegs (x : Nat) : Nat := x % 16

/-- A role word as a role (R325). -/
def toRole (x : Nat) : Role := ⟨roleRegs x * 8, roleSpill x * 128, roleTiles x, roleGroups x⟩

/-- The granules, groups and Bench bytes that a team demands (R148). -/
def demandGranules (roles : List Role) : Nat := (roles.map fun r => r.groups * (r.regs / 8)).sum
def demandGroups (roles : List Role) : Nat := (roles.map (·.groups)).sum
def demandBench (bench : Nat) (roles : List Role) (poolMode : Bool) : Nat :=
  (bench + 127) / 128 * 128 + (roles.map fun r => r.groups * r.spill).sum + (if poolMode then 0 else 1152)

/-- A shape's width and height in quads (R324). -/
def shapeSize (shape : Nat) : Nat × Nat :=
  match shape with
  | 0 => (1, 1)
  | 1 => (2, 1)
  | 2 => (1, 2)
  | 3 => (3, 1)
  | _ => (1, 3)

/-- The rectangles of a shape in the search order of R331: die, column and row of the lowest quad. -/
def rectangles (shape : Nat) : List (Nat × Nat × Nat) :=
  let (w, h) := shapeSize shape
  (List.range 4).flatMap fun die => (List.range 64).filterMap fun k =>
    if k % 8 + w ≤ 8 && k / 8 + h ≤ 8 then some (die, k % 8, k / 8) else none

/-- The quads under a rectangle. -/
def rectQuads (shape : Nat) (r : Nat × Nat × Nat) : List Nat :=
  let (w, h) := shapeSize shape
  (List.range h).flatMap fun j => (List.range w).map fun i => r.1 * 64 + (r.2.2 + j) * 8 + r.2.1 + i

/-- The cores of a rectangle in the order of `TEAM` (R203). -/
def rectCores (shape : Nat) (r : Nat × Nat × Nat) : List Nat :=
  let (w, h) := shapeSize shape
  (List.range (4 * w * h)).map fun k =>
    r.1 * 256 + 16 * (2 * r.2.2 + k / (2 * w)) + 2 * r.2.1 + k % (2 * w)

/-- Whether a rectangle lies within a world's granted quads. -/
def rectGranted (x : World) (shape : Nat) (r : Nat × Nat × Nat) : Bool := (rectQuads shape r).all fun q => x.quads.getLsbD q

/-- Whether an address translates for a kind of access, and its page's grade. -/
def translates (s : State) (w va : Nat) (acc : Access) : Option (Xlat) :=
  match walk s w va with
  | .leaf x => if (checkLeaf s w x va acc false).isNone then some x else none
  | .notMapped => none

/-- Whether a DONE address takes a status block of a grade (R327, R329). -/
def doneOk (s : State) (w : Nat) (done : DWord) (grade : Nat) : Bool :=
  match translates s w done.toNat .write with
  | some x => done.toNat % 64 = 0 && grade ≤ (entGrade x.leaf).toNat
  | none => false

/-- The reason for which a record is refused (R327), after the entry checks. -/
def recordRefusal (s : State) (w : Nat) (r : Record) : Option Nat :=
  let roles := r.roles.map toRole
  if r.done ≠ 0 && !doneOk s w r.done r.grade then some 1
  else if r.grid / 2 ^ 48 ≠ 0 || r.mbz ≠ 0 || r.tail || r.ctl / 2 ^ 27 ≠ 0 || r.ctl / 2 ^ 10 % 2 ^ 6 ≠ 0 || r.ctl / 2 ^ 7 % 2 ≠ 0 ||
      r.roles.any (fun x => x / 2 ^ 26 ≠ 0) then some 2
  else if 5 ≤ r.shape || (List.range 3).any (fun k => r.dim k = 0) || r.age < 16 || 1024 < r.age then some 3
  else if r.roles.any (fun x => 32 < roleGroups x || 32 < roleTiles x || 512 < roleSpill x ||
      (roleGroups x ≠ 0 && roleRegs x = 0) || (roleGroups x = 0 && x ≠ 0)) ||
      demandGroups roles = 0 || 32 < demandGroups roles then some 4
  else if 384 < demandGranules roles || 48 < demandGroups roles || 524288 < demandBench r.bench roles r.poolMode ||
      240 < roles.foldl (fun n x => max n x.tiles) 0 then some 5
  else if 0x8000000 < r.cruc then some 6
  else if r.entry.toNat % 4 ≠ 0 || (translates s w r.entry.toNat .fetch).isNone then some 7
  else if !(rectangles r.shape).any (rectGranted (s.world w) r.shape) then some 8
  else none

/-- The launch that a record describes (R326). -/
def newLaunch (s : State) (w q : Nat) (c : Command) (r : Record) : Launch :=
  { noLaunch with
    world := w, queue := q, record := c.a, entry := r.entry, gdx := r.dim 0, gdy := r.dim 1, gdz := r.dim 2, age := r.age
    prio := r.ctl / 2 ^ 4 % 4, poolMode := r.poolMode, shape := r.shape, abortOnFail := r.ctl / 2 ^ 6 % 2 = 1
    bench := r.bench, cruc := r.cruc, doneVa := r.done, grade := BitVec.ofNat 2 r.grade, roles := r.roles.map toRole
    fmt := r.fmt, rank := c.rank, since := s.span }

/-- LAUNCH (R322, R327). -/
def execLaunch (w q : Nat) (s : State) : Host.Outcome State Fault Refusal :=
  .next (startCommand s w q 1 fun c s =>
    if c.a.toNat % 128 ≠ 0 then finishCommand s w q .refused 1 0
    else match translates s w c.a.toNat .read with
      | none => finishCommand s w q .refused 1 0
      | some x =>
        let r := readRecord s.mem (physKey (x.phys c.a.toNat))
        let s := countHbm s w (physKey (x.phys c.a.toNat)) 128
        match recordRefusal s w r with
        | some n => finishCommand s w q .refused n 0
        | none =>
          let (l, s) := s.newId
          setRunning (s.setLaunch l (newLaunch s w q c r)) w q (.launch l))

/-! ## What is free (R149, R195, R209) -/

/-- Whether a team is resident on its cores: it has not ended and its world is not saved. -/
def teamResident (s : State) (t : Nat) (x : Team) : Bool :=
  !x.ended && (s.world x.world).onPackage && (s.teams.find? t).isSome

/-- Whether a team's Bench allocation is held (R195). -/
def holdsBench (s : State) (t : Nat) (x : Team) : Bool :=
  teamResident s t x || (s.ladles.any fun e => e.2.team = some t && (s.world x.world).onPackage)

/-- Whether a team's tile slots are held (R209). -/
def holdsTiles (s : State) (t : Nat) (x : Team) : Bool :=
  teamResident s t x || (x.tiles.any fun e => e.2.writers ≠ 0) && (s.world x.world).onPackage

/-- The Bench bytes in use on a core. -/
def benchUsed (s : State) (core : Nat) : Nat :=
  s.teams.foldl (fun n e =>
    if e.2.core = core && holdsBench s e.1 e.2 then
      let l := s.launch e.2.launch
      n + demandBench l.bench l.roles l.poolMode
    else n) 0

/-- The tile slots in use on a quad. -/
def tilesUsed (s : State) (q : Nat) : Nat :=
  s.teams.foldl (fun n e => if quadOf e.2.core = q && holdsTiles s e.1 e.2 then n + (s.launch e.2.launch).tileCount else n) 0

/-- Whether a group waits to reload on a quad: it takes what frees before any new team (R155). -/
def reloadWaits (s : State) (q : Nat) : Bool :=
  s.groups.any fun e => e.2.offCore && quadOf (s.team (teamOfGid e.1)).core = q && mayDraw s (teamOfGid e.1) &&
    groupWoken s e.1

/-- Whether a quad holds a matrix operation of such worlds that every member has signed and that no entry of its table has been free
for (R217). -/
def unpostedOn (s : State) (q : Nat) (p : Nat → Bool) : Bool :=
  s.groups.any fun e => quadOf e.2.core = q && p (s.team (teamOfGid e.1)).world &&
    (s.world (s.team (teamOfGid e.1)).world).onPackage && e.2.conv.any fun c => c.2.complete

/-- Whether a quad serves a world alone (R24, R25): no team, segment, posted or completed operation of another world is on it. -/
def quadClear (s : State) (w q : Nat) : Bool :=
  !unpostedOn s q (fun x => x ≠ w) &&
  s.teams.all (fun e => quadOf e.2.core ≠ q || e.2.world = w || !teamResident s e.1 e.2) &&
    s.ladles.all (fun e => quadOf e.2.core ≠ q || e.2.world = w) &&
    (s.quad q).table.all fun e => (s.team e.team).world = w

/-- Whether a team of a launch fits on a core and its quad holds the tiles of the cluster's four teams there (R149). -/
def teamFits (s : State) (l : Launch) (core : Nat) : Bool :=
  granulesUsed s core + demandGranules l.roles ≤ 384 && (residentGroups s core).length + demandGroups l.roles ≤ 48 &&
    benchUsed s core + demandBench l.bench l.roles l.poolMode ≤ 524288 &&
    tilesUsed s (quadOf core) + 4 * l.tileCount ≤ 240 && !reloadWaits s (quadOf core)

/-! ## The Crucible's chunks (R269, R208) -/

/-- Whether a cluster holds its pool: a team of it is resident. -/
def clusterResident (s : State) (c : Nat) : Bool := s.teams.any fun e => e.2.cluster = c && teamResident s e.1 e.2

/-- The chunks of a slice, by quad, that are taken. -/
def chunksUsed (s : State) (q : Nat) : Nat :=
  s.launches.foldl (fun n e => n + ((e.2.crucChunks.getD (q / 64) []).filter (· = q)).length +
    (e.2.ownChunks.map fun c => (c.2.filter (· = q)).length).sum) 0 +
    16 * (List.filter (fun e : Nat × Cluster => (s.launch e.2.launch).poolMode && (e.2.cores.map quadOf).contains q &&
      clusterResident s e.1) s.clusters).length

/-- Chunks taken one from each slice in turn, skipping full ones; `used` are those already counted. -/
def takeChunks (s : State) (die : Nat) (reserve : List Nat) : Nat → Nat → List Nat → List Nat
  | 0, _, acc => acc
  | rounds + 1, n, acc =>
    let free := ((List.range 64).map (die * 64 + ·)).filter fun q =>
      chunksUsed s q + (acc.filter (· = q)).length + (if reserve.contains q then 16 else 0) < 32
    if n = 0 then acc else takeChunks s die reserve rounds (n - free.length) (acc ++ free.take n)

/-- The chunks that a launch takes on a die, or none where too few are free. -/
def crucChunksFor (s : State) (l : Launch) (die : Nat) (reserve : List Nat) : Option (List Nat) :=
  let n := (l.cruc + 65535) / 65536
  let got := takeChunks s die reserve 32 n []
  if got.length = n then some got else none

/-- Whether a rectangle takes a launch's next cluster (R331). -/
def rectFits (s : State) (l : Launch) (r : Nat × Nat × Nat) : Bool :=
  let quads := rectQuads l.shape r
  dieRuns s r.1 && rectGranted (s.world l.world) l.shape r && quads.all (quadClear s l.world) && (rectCores l.shape r).all (teamFits s l) &&
    (!l.poolMode || quads.all fun q => chunksUsed s q + 16 ≤ 32) &&
    ((l.crucSpace.find? r.1).isSome || (crucChunksFor s l r.1 (if l.poolMode then quads else [])).isSome)

/-! ## Placing a cluster (R203, R204, R326) -/

/-- A fresh space of the near memories: 0 is main memory, 1 host memory. Its lines are absent, of grade G0 and without poison
(R26, R270). -/
def newSpace (s : State) : Nat × State :=
  let (n, s) := s.newId
  (n + 2, { s with lines := List.filter (fun e : Nat × Line => e.1 / 2 ^ 57 ≠ n + 2) s.lines })

/-- The role of each group of a team, in role order (R325). -/
def groupRoles (roles : List Role) : List Nat :=
  (List.range roles.length).flatMap fun k => List.replicate (roles.getD k noRole).groups k

/-- A group's granule map filled and its threads at their start (R72, R129, R146). -/
def startGroup (s : State) (gid role core : Nat) (pc : Word) : State :=
  let s := s.setGroup gid { noGroup with role := role, core := core }
  let s := ((List.range 32).map (tidOf gid)).foldl (fun s tid => fileThread (s.setThread tid { noThread with pc := pc }) tid s.time) s
  fillGranules s gid

/-- A team made resident on a core. -/
def startTeam (s : State) (lid : Nat) (l : Launch) (cluster index core prio : Nat) : State :=
  let (team, s) := s.newId
  let (bench, s) := newSpace s
  let (tiles, s) := newSpace s
  let s := s.setTeam team
    { noTeam with world := l.world, launch := lid, cluster := cluster, index := index, core := core, bench := bench
                  tileSpace := tiles, prio := prio, ended := false }
  let rs := groupRoles l.roles
  (List.range rs.length).foldl (fun s g => startGroup s (team * 32 + g) (rs.getD g 0) core (l.entry.setWidth 32)) s

/-- The priority in force for a launch's clusters (R330): in the cc of a write of QCTL, the one before it (R333). -/
def queuePrio (s : State) (l : Launch) : Nat :=
  let x := s.cmdQueue l.world l.queue
  match if x.wroteAt = s.time then x.oldPrio else if x.psel then some x.prio else none with
  | some p => p
  | none => l.prio

/-- A launch's Crucible allocation on a die taken with its first cluster there (R269). -/
def takeCrucible (s : State) (lid : Nat) (l : Launch) (die : Nat) (reserve : List Nat) : State :=
  if (l.crucSpace.find? die).isSome then s
  else
    let (sp, s) := newSpace s
    s.setLaunch lid { l with
      crucSpace := l.crucSpace.insert die sp
      crucChunks := l.crucChunks.insert die ((crucChunksFor s l die reserve).getD []) }

/-- A cluster made resident whole on a rectangle (R204, R331, R373). -/
def placeCluster (s : State) (lid : Nat) (l : Launch) (r : Nat × Nat × Nat) : State :=
  let s := takeCrucible s lid l r.1 (if l.poolMode then rectQuads l.shape r else [])
  let l := s.launch lid
  let (pool, s) := newSpace s
  let (cid, s) := s.newId
  let n := l.nextIndex
  let cores := rectCores l.shape r
  let s := { s with clusters := s.clusters.insert cid ⟨lid, n % l.gdx, n / l.gdx % l.gdy, n / (l.gdx * l.gdy), cores, pool, l.crucSpace.find? r.1⟩ }
  let prio := queuePrio s l
  let s := (List.range cores.length).foldl (fun s k => startTeam s lid l cid k (cores.getD k 0) prio) s
  let s := s.setLaunch lid { s.launch lid with nextIndex := n + 1, since := s.span, reserving := false }
  let x := s.world l.world
  if x.stat = 0 then s.setWorld l.world { x with stat := 1 } else s

/-! ## Arbitration (R330 to R332) -/

def Launch.total (l : Launch) : Nat := l.gdx * l.gdy * l.gdz

/-- Whether a cluster of a launch remains to be distributed. -/
def Launch.hasMore (l : Launch) : Bool := !l.complete && !l.stopped && l.nextIndex < l.total

/-- Whether a launch has a cluster that may be distributed now. -/
def wantsCluster (s : State) (l : Launch) : Bool := l.hasMore && (s.world l.world).stat ≤ 1 && !s.assayer.entered

/-- A millisecond, in the units of `State.span` (R19). -/
def oneMs : Nat := 2450448000000

/-- Whether a launch's next cluster is reserving (R332): it has been the next one of its queue for 1 ms. -/
def isReserving (s : State) (l : Launch) : Bool := l.reserving || oneMs ≤ s.span - l.since

/-- The launches that take part: where a world has a reserving one, only that one, of several the one whose next cluster has waited
longest (R332). -/
def candidates (s : State) : List (Nat × Launch) :=
  let l := List.filter (fun e : Nat × Launch => wantsCluster s e.2) s.launches
  l.filter fun e => !l.any fun x => x.2.world = e.2.world && isReserving s x.2 && x.1 ≠ e.1 &&
    (!isReserving s e.2 || x.2.since < e.2.since || (x.2.since = e.2.since && x.1 < e.1))

/-- Where a launch stands in the order of the arbitration, the lowest first: its priority, then its turn. -/
def turnKey (s : State) (l : Launch) : Nat :=
  let k := l.world * 64 + l.queue
  let last := s.lastWinner.1 * 64 + s.lastWinner.2
  (3 - queuePrio s l) * 2 ^ 16 + (if last < k then k - last else k + 4096 - last)

/-- The first candidate in order whose next cluster fits, with its rectangle. -/
def winner (s : State) (l : List (Nat × Launch)) : Option (Nat × Launch × Nat × Nat × Nat) :=
  let sorted : SMap (Nat × Launch) := l.foldl (fun m e => SMap.insert m (turnKey s e.2) e) []
  sorted.findSome? fun e => ((rectangles e.2.2.shape).find? (rectFits s e.2.2)).map fun r => (e.2.1, e.2.2, r)

/-- Whether a place lies in a space of the near memories. -/
def Loc.inSpace (sp : Nat) : Loc → Bool
  | .near k => k / 2 ^ 64 = sp
  | _ => false

/-- Whether a Ladle operation that is not complete reads or writes a space, its counter block and its index among what it names. -/
def spaceInUse (s : State) (sp : Nat) : Bool :=
  s.ladles.any fun e => e.2.spaces.contains sp || (s.ranges.any fun r => r.op = e.1 && r.lo / 2 ^ 64 = sp) ||
    e.2.segs.any fun g => g.2.pieces.any fun p => p.src.inSpace sp || p.dst.inSpace sp

/-- The chunks of a launch's allocations returned where R269 lets them. -/
def returnChunks (s : State) (lid : Nat) (l : Launch) : State :=
  if l.hasMore then s
  else
    let busy := fun sp => s.teams.any fun e => e.2.launch = lid && (s.cluster e.2.cluster).cruc = some sp && !e.2.ended
    let gone := (List.filter (fun e : Nat × Nat => !busy e.2 && !spaceInUse s e.2) l.crucSpace).map (·.1)
    let l := { l with ownChunks := List.filter (fun e : Nat × List Nat => busy e.1 || spaceInUse s e.1) l.ownChunks }
    s.setLaunch lid (gone.foldl (fun (l : Launch) die =>
      { l with crucSpace := l.crucSpace.erase die, crucChunks := l.crucChunks.erase die }) l)

/-- SCHEDULER_ARBITRATION (R330, R331). -/
def execSchedulerArbitration (s : State) : Host.Outcome State Fault Refusal :=
  let s := s.launches.foldl (fun s e => returnChunks s e.1 (s.launch e.1)) s
  match winner s (candidates s) with
  | some (lid, l, r) => .next { placeCluster s lid l r with lastWinner := (l.world, l.queue) }
  | none => .next s

/-- CLUSTER_RESERVING (R332): after 1 ms as the next cluster of its queue. -/
def execClusterReserving (w q : Nat) (s : State) : Host.Outcome State Fault Refusal :=
  match (s.cmdQueue w q).running with
  | some (.launch lid) =>
    let l := s.launch lid
    if wantsCluster s l && oneMs ≤ s.span - l.since then .next (s.setLaunch lid { l with reserving := true }) else .next s
  | _ => .next s

/-! ## Completion (R329, R335, R336) -/

/-- Whether a launch has completed its work (R335); the cc of a team's end is over, so that a kill in it has counted (R337). -/
def launchDone (s : State) (lid : Nat) (l : Launch) : Bool :=
  (l.stopped || l.total ≤ l.nextIndex) && s.teams.all (fun e => e.2.launch ≠ lid || (e.2.ended && e.2.endedAt < s.time)) &&
    s.ladles.all (fun e => e.2.launch ≠ some lid) && s.groups.all (fun e => (s.team (teamOfGid e.1)).launch ≠ lid || !e.2.conv.any fun c => c.2.complete) &&
    s.quads.all fun q => q.2.table.all fun e => (s.team e.team).launch ≠ lid

/-- A kill record's 32 bytes (R196). -/
def killBytes (l : Launch) : List Byte :=
  match l.firstKill with
  | some (_, r) => leBytes 4 r.causeword.toNat ++ leBytes 4 r.at_.toNat ++ leBytes 4 r.pc.toNat ++ leBytes 4 r.value.toNat ++
      leBytes 8 l.record.toNat ++ leBytes 8 r.time.toNat
  | none => List.replicate 32 0

/-- Whether a launch failed: a team of it was killed, or it was stopped before its last cluster was distributed (R335, R336). -/
def Launch.failed (l : Launch) : Bool := l.killed ≠ 0 || (l.stopped && l.nextIndex < l.total)

/-- The status block written at DONE (R329). In a frame of a TABLE type it is a write unit, which the slice checks and may refuse
(R256, R258). -/
def writeDone (s : State) (l : Launch) : State :=
  if l.doneVa = 0 || !doneOk s l.world l.doneVa l.grade.toNat then s
  else match translates s l.world l.doneVa.toNat .write with
    | none => s
    | some x =>
      let bytes := leBytes 4 (if l.failed then 2 else 0) ++ leBytes 4 l.killed ++ List.replicate 8 0 ++ killBytes l ++
        List.replicate 16 0
      let pa := x.phys l.doneVa.toNat
      if isTableType (s.frame (pa / 2 ^ 16)).type then
        match checkWrites s (pa / 2 ^ 16) [(pa % 2 ^ 16, bytes)] with
        | .ok ch => (acceptUnit (countHbm s l.world (physKey pa) 64) (pa / 2 ^ 16) ch .nothing).2
        | .error _ => s
      else countHbm (writeMain (recallRange s (physKey pa) 64) (physKey pa) bytes) l.world (physKey pa) 64

/-- LAUNCH_COMPLETE (R335): the status block, STATUS, QHEAD; an ABORT flush follows (R336). -/
def execLaunchComplete (lid : Nat) (s : State) : Host.Outcome State Fault Refusal :=
  let l := s.launch lid
  if (s.cmdQueue l.world l.queue).running ≠ some (.launch lid) || l.complete || !launchDone s lid l then .next s
  else
    let s := returnChunks (writeDone s l) lid { l with complete := true, stopped := true }
    let s := finishCommand s l.world l.queue (if l.failed then .failed else .ok) 0 0
    .next (if l.abortOnFail && l.killed ≠ 0 then flushQueue s l.world l.queue 0 else s)

/-! ## Kills and flushes of whole worlds and launches (R198, R336, R366) -/

/-- Every team of a list that has not ended killed at once with a cause that no thread raises (R193). -/
def killTeams (s : State) (l : List Nat) (c : Cause) : State :=
  let hit := l.filter fun t => !(s.team t).isOver s.time
  let s := l.foldl (fun s t => killOne s t (plainRecord s t c)) s
  hit.foldl (fun s t => abortLaunch s (s.team t).launch) s

/-- The teams of a world. -/
def worldTeams (s : State) (w : Nat) : List Nat := s.teams.keys.filter fun t => (s.team t).world = w

/-- A launch that distributes no more, with its teams killed. -/
def stopLaunch (s : State) (lid : Nat) (c : Cause) : State :=
  killTeams (s.setLaunch lid { s.launch lid with stopped := true }) (launchTeams s lid) c

/-- The running launches of a world stopped (R336). -/
def stopWorld (s : State) (w : Nat) (c : Cause) : State :=
  (List.filter (fun e : Nat × Launch => e.2.world = w && !e.2.complete) s.launches).foldl (fun s e => stopLaunch s e.1 c) s

/-- KILL (R338): every team of the world ends with TEAM_KILLED. -/
def killWorld (s : State) (w : Nat) : State := killTeams s (worldTeams s w) .teamKilled

def execKill (w : Nat) (s : State) : Host.Outcome State Fault Refusal := .next (killWorld s w)

/-! ## The errors of an interface (spec/18_package_trust.md R364 to R366) and unpinned errors (R198, R336) -/

/-- A world's launches stopped, its teams killed with TEAM_KILLED and its queues flushed with FLR_ABORT (R336, R366). -/
def killAndFlush (s : State) (w : Nat) : State :=
  flushWorld (killWorld (stopWorld s w .teamKilled) w) w (statusCode .flrAbort)

/-- Entry to ERROR (R366). -/
def tdiError (s : State) (w : Nat) : State := killAndFlush (s.setWorld w { s.world w with tdi := .error }) w

/-- Whether a world's configuration is frozen (R365). -/
def World.frozen (x : World) : Bool := x.tdi = .locked || x.tdi = .run

/-- An event that takes a locked or running interface to ERROR (R364). -/
def tdiFailure (s : State) (w : Nat) : State := if (s.world w).frozen then tdiError s w else s

/-- An unpinned error of a world (R336): the affected launches' teams are killed with QUEUE_FLUSHED and their queues flushed. -/
def unpinned (s : State) (w : Nat) (launches : List Nat) : State :=
  let s := launches.foldl (fun s l =>
    flushQueue (stopLaunch s l .queueFlushed) (s.launch l).world (s.launch l).queue 0) s
  tdiFailure s w

/-- The launches of a world that have not completed. -/
def openLaunches (s : State) (w : Nat) : List Nat :=
  (List.filter (fun e : Nat × Launch => e.2.world = w && !e.2.complete) s.launches).map (·.1)

/-- A tag that has failed for the fourth time (R358, R392): event 3 in a die's black box and an unpinned error of the world. -/
def cipherFailure (s : State) (die w unit : Nat) : State :=
  unpinned (boxEvent s die 3 w unit (List.replicate 16 0)) w (openLaunches s w)

end Sys2Proof.Machine
end

