-- ==== Sys2Proof/Machine/Cells.lean ====
section
/-! DEFINITION. Strike cells: the home (spec/22_fabric.md R402 to R404), the caches (R405), the instructions (R406 to R410) and
the answers. -/

namespace Sys2Proof.Machine

open Sys2Proof

/-! ## The home (R402 to R404) -/

/-- A cell (R402): STATE 0 EMPTY, 1 DECIDED, every other value RETIRED. -/
structure Cell where
  value  : DWord
  gen    : Word
  state  : Nat
  winner : Nat
  deriving DecidableEq, Repr

def readCell (m : Memory) (key : Nat) : Cell :=
  ⟨BitVec.ofNat 64 (m.readLe key 8), BitVec.ofNat 32 (m.readLe (key + 8) 4), m.readLe (key + 12) 1, m.readLe (key + 13) 3⟩

def Cell.bytes (c : Cell) : List Byte :=
  leBytes 8 c.value.toNat ++ leBytes 4 c.gen.toNat ++ leBytes 1 c.state ++ leBytes 3 c.winner

/-- What a home answers: the result code, a generation, a value and the WINNER. -/
structure CellReply where
  code   : Nat
  gen    : Word
  value  : DWord := 0
  winner : Nat := 0
  deriving DecidableEq, Repr

/-- REFUSED (R404, R406). -/
def refusedReply : CellReply := ⟨4, 0xFFFFFFFF, 0, 0⟩

/-- The table of R404: operation 0 `cprop`, 1 `cread`, 2 `crecyc` on a cell, for generation g; `who`: the proposer's WINNER;
`mine`: the acting world owns the frame. The answer and the cell afterwards. -/
def cellRule (kind : Nat) (c : Cell) (g : Word) (v : DWord) (who : Nat) (mine : Bool) : CellReply × Cell :=
  if 2 ≤ c.state then (refusedReply, c)
  else if kind = 2 && !mine then (refusedReply, c)
  else if g.toNat < c.gen.toNat then (⟨2, c.gen, 0, 0⟩, c)
  else if c.gen.toNat < g.toNat then (⟨3, c.gen, 0, 0⟩, c)
  else if c.state = 0 then
    (if kind = 0 then (⟨0, c.gen, v, who⟩, ⟨v, c.gen, 1, who⟩) else (⟨5, c.gen, 0, 0⟩, c))
  else if kind = 2 then
    (⟨0, c.gen, 0, 0⟩, if g = 0xFFFFFFFF then { c with state := 2 } else ⟨0, c.gen + 1, 0, 0⟩)
  else (⟨1, c.gen, c.value, c.winner⟩, c)

/-- An operation performed on the cell at a memory key (R403), for an acting world. -/
def performCell (s : State) (kind key : Nat) (g : Word) (v : DWord) (who w : Nat) : CellReply × State :=
  let c := readCell s.mem key
  let r := cellRule kind c g v who ((s.frame (keyFrame key)).owner = w)
  (r.1, if r.2 = c then countHbm s w key 16 else countHbm (writeMain s key r.2.bytes) w key 32)

/-- Whether an operation may be the next that a cell's home performs: of those that arrive in one cc, the one of the least REQID
comes first (R403). -/
def cellTurn (s : State) (key : Nat) (reqid : DWord) : Bool :=
  match s.cellTimes.find? key with
  | some (time, last) => time ≠ s.time || last.toNat ≤ reqid.toNat
  | none => true

/-- An operation noted as the latest that a cell's home has performed. -/
def noteCell (s : State) (key : Nat) (reqid : DWord) : State :=
  { s with cellTimes := SMap.insert (List.filter (fun e : Nat × Nat × DWord => e.2.1 = s.time) s.cellTimes) key (s.time, reqid) }

/-- The WINNER field of a proposer (R402): its grid's rank, and the die and core of its REQID. -/
def winnerOf (rank : Nat) (reqid : DWord) : Nat := rank % 4096 * 4096 + (reqid.extractLsb' 48 10).toNat

/-! ## The caches (R405) -/

/-- An entry looked up, and the cache with it most recently used. -/
def cellFind (l : List CellEntry) (w : Nat) (addr : DWord) (g : Word) : Option (CellEntry × List CellEntry) :=
  (l.find? fun e => e.world = w && e.addr = addr && e.gen = g).map fun e => (e, e :: l.erase e)

/-- A decided generation installed; beyond the size the least recently used is replaced. -/
def cellInstall (size : Nat) (l : List CellEntry) (e : CellEntry) : List CellEntry :=
  (e :: l.filter fun x => !(x.world = e.world && x.addr = e.addr && x.gen = e.gen)).take size

/-- The entry that an answer to a `cprop` or `cread` installs in the quad's or the package's cache, unless what it would be installed
under has been purged since the request was sent (R263, R405). -/
def installCell (s : State) (r : Request) (a : CellReply) (page : BitVec 2) : State :=
  match r.asked with
  | .cell kind rank named _ _ _ _ _ _ via =>
    if 2 ≤ kind || 2 ≤ a.code || r.purged then s
    else match rank with
      | none =>
        let q := quadOf r.core
        s.setQuad q { s.quad q with
          cells := cellInstall 128 (s.quad q).cells ⟨r.world, named, a.gen, a.value, a.winner, page, via, 0⟩ }
      | some k =>
        let e := s.rankEntry r.world k
        { s with fabric := { s.fabric with
            cells := cellInstall 4096 s.fabric.cells
              ⟨r.world, named, a.gen, a.value, a.winner, page, none, rankNode e * 64 + rankWorld e⟩ } }
  | _ => s

/-! ## Results (R407 to R410) -/

/-- The register results of an answer. -/
def cellResult (kind : Nat) (d : Reg) (a : CellReply) (tag : Tag) : Result :=
  let code : Word := BitVec.ofNat 32 (if kind = 1 && a.code = 1 then 1 + a.winner * 256 else a.code)
  if kind = 2 then .reg d code tag 0
  else .regs d [code, a.gen, a.value.setWidth 32, a.value.extractLsb' 32 32] tag

/-- The answer of an operation that completes with RANK_LOST or PKEY: REFUSED, zeros beside it. -/
def lostReply : CellReply := ⟨4, 0, 0, 0⟩

/-- Whether an answer acquires (R408, R409, R294): a proposal's WON and LOST, a read's LOST. -/
def cellAcquires (kind code : Nat) : Bool := (kind = 0 && code ≤ 1) || (kind = 1 && code = 1)

/-- The rank of a cell's page (R288): a remote cell's has SCOPE FABRIC at least (R406). -/
def cellRank (via : Option Xlat) : Nat :=
  match via with
  | some x => pageRank x.leaf
  | none => 3

/-- An answer delivered to the threads that wait for it; `page`: the page's grade. -/
def giveCell (s : State) (id : Nat) (r : Request) (a : CellReply) (page : BitVec 2) : State :=
  match r.asked with
  | .cell kind _ _ _ _ _ _ d tag via =>
    let s := if cellAcquires kind a.code then acquireFor s id (cellRank via) else s
    answerRequest (installCell s r a page) id r (cellResult kind d a { tag with grade := gradeMax tag.grade page })
  | _ => s

/-- The end of a cell operation by a lost rank or a refused key: the cause becomes pending with the rank (R407). -/
def loseCell (s : State) (id : Nat) (r : Request) (st : Status) : State :=
  match r.asked with
  | .cell kind (some k) _ _ _ _ _ d tag _ =>
    let s := answerRequest s id r (cellResult kind d lostReply tag)
    match statusCause st with
    | some c => makePending s r.tid c (BitVec.ofNat 32 k)
    | none => s
  | _ => s

/-! ## The instructions (R406 to R410) -/

/-- The payload of a cell request (5). -/
def cellPayload (kind : Nat) (g : Word) (v : DWord) : List Byte := leBytes 4 kind ++ leBytes 4 g.toNat ++ leBytes 8 v.toNat

/-- A decided value that a cache answers acquires for every thread that takes it, as the home's LOST does (R294, R409). -/
def readDecided (all : List Nat) (s : State) (rank : Nat) : State := all.foldl (fun s tid => acquireUpTo s tid rank) s

/-- A request, under the tag `held` of its guard, to a cell of another package, or of this one under a rank entry (R395, R406): sent where its node can be reached. -/
def askRemote (u : Issue) (s : State) (tid kind k : Nat) (named : DWord) (v : DWord) (g : Word) (grade : BitVec 2) (d : Reg)
    (tag held : Tag) (all : List Nat) : UnitResult × State :=
  let w := s.threadWorld tid
  let e := s.rankEntry w k
  match rankStatus s w k with
  | .rankLost => (.done (cellResult kind d lostReply tag), makePending s tid .rankLost (BitVec.ofNat 32 k))
  | .ok =>
    match if kind = 1 then cellFind s.fabric.cells w named g else none with
    | some (x, l) =>
      (.done (cellResult 1 d ⟨1, x.gen, x.value, x.winner⟩ { tag with grade := gradeMax tag.grade x.grade }),
        readDecided all { s with fabric := { s.fabric with cells := l } } (cellRank none))
    | none =>
      if !canSend s (rankNode e) || 4096 ≤ outstanding s u.core then (.hold, s)
      else
        let r := newRequest s tid u.core held (.cell kind (some k) named 0 v g grade d tag none) none
        let reqid := ((r.2.requests.find? r.1).map (·.reqid)).getD 0
        (.sent r.1, sendPacket r.2
          (requestPacket r.2 w e 5 (s.threadLaunch tid).rank 16 reqid (named.toNat % 2 ^ 51) (cellPayload kind g v) grade))
  | _ => (.done (cellResult kind d refusedReply tag), s)

/-- A request to a cell of a frame that the world maps. -/
def askLocal (u : Issue) (s : State) (tid kind : Nat) (named : DWord) (v : DWord) (g : Word) (grade : BitVec 2) (d : Reg)
    (tag held : Tag) (all : List Nat) : UnitResult × State :=
  let w := s.threadWorld tid
  let q := quadOf u.core
  match access s q w named.toNat .cell false with
  | (.error f, s) => (.trap f.cause (xlVal named.toNat) (xlVahi named.toNat) false, s)
  | (.ok x, s) =>
    let page := entGrade x.leaf
    if kind = 0 && page.toNat < grade.toNat then
      (.trap .gradeDown (BitVec.ofNat 32 (grade.toNat * 4 + page.toNat)) 0 false, s)
    else match if kind = 1 then cellFind (s.quad q).cells w named g else none with
      | some (e, l) =>
        (.done (cellResult 1 d ⟨1, e.gen, e.value, e.winner⟩ { tag with grade := gradeMax tag.grade page }),
          readDecided all (s.setQuad q { s.quad q with cells := l }) (cellRank (some x)))
      | none =>
        if 4096 ≤ outstanding s u.core then (.hold, s)
        else
          let r := newRequest s tid u.core held (.cell kind none named (physKey (x.phys named.toNat)) v g grade d tag (some x))
            (some (x.phys named.toNat / 2 ^ 16))
          (.sent r.1, r.2)

/-- A cell instruction (R407): the value pair `b`, where there is one, and the generation register. -/
def cellUnit (i : Instr) (kind : Nat) (d a : Reg) (b : Option Reg) (gr : Reg) (s : State) : Host.Outcome State Fault Refusal :=
  issueUnit i (fun u s tid guard =>
    let t := s.thread tid
    let named := (t.pair a).val
    let value := match b with
      | some r => [t.reg r, t.reg (r + 1)]
      | none => []
    let v : DWord := match b with
      | some r => (t.pair r).val
      | none => 0
    let g := t.reg gr
    let addr := joinTags [(t.reg a).tag, (t.reg (a + 1)).tag, guard]
    let tag : Tag := ⟨(addr.join g.tag).grade, g.tag.poison⟩
    let grade := (joinTags (addr :: value.map (·.tag))).grade
    match firstPoison ([t.reg a, t.reg (a + 1)] ++ value) with
    | some x => (.kill x, s)
    | none =>
      let all := if i.ctl.k then u.tids else [tid]
      if named.toNat % 16 ≠ 0 then (.trap .align (t.reg a).val 0 false, s)
      else if named.getLsbD 63 then
        askRemote u s tid kind (named.extractLsb' 51 12).toNat named v g.val grade d tag guard all
      else askLocal u s tid kind named v g.val grade d tag guard all) s

/-- CPROP (R408). -/
def execCprop (c : Ctl) (d a b : Reg) (s : State) : Host.Outcome State Fault Refusal :=
  cellUnit (.cprop c d a b) 0 d a (some b) (b + 2) s

/-- CREAD (R409). -/
def execCread (c : Ctl) (d a b : Reg) (s : State) : Host.Outcome State Fault Refusal := cellUnit (.cread c d a b) 1 d a none b s

/-- CRECYC (R410). -/
def execCrecyc (c : Ctl) (d a b : Reg) (s : State) : Host.Outcome State Fault Refusal := cellUnit (.crecyc c d a b) 2 d a none b s

/-! ## Requests of other packages (R343, R395, R396) -/

/-- The rank entry of a world that names the sender of a packet (R396): the entry, where one is valid; `lost`: a lost one. -/
def senderEntry (s : State) (p : Packet) (lost : Bool) : Option DWord :=
  (List.find? (fun e : Nat × DWord => rankValid e.2 && rankIsLost e.2 == lost && rankNode e.2 = p.src.toNat &&
    rankWorld e.2 = p.sworld.toNat) (s.world p.dworld.toNat).ranks).map (·.2)

/-- The answer to a packet, on VF3, under the key that this package has for the sender's world. -/
def answerPacket (s : State) (p : Packet) (op : Nat) (payload : List Byte) (grade : BitVec 2) (poison : Bool) : Packet :=
  let key := match senderEntry s p false with
    | some e => e.extractLsb' 40 16
    | none => p.pkey
  { pkey := key, dst := p.src, vf := 3, src := BitVec.ofNat 12 s.fabric.node, dworld := p.sworld, sworld := p.dworld
    op := BitVec.ofNat 8 op, inc := (s.world p.dworld.toNat).inc, srank := p.srank, len := payload.length, reqid := p.reqid
    addr := 0, seq := 0, payload := payload, grade := grade, poison := poison }

/-- Whether a packet answers a request: the operation that its REQID names was issued at its destination. -/
def isAnswer (p : Packet) : Bool := p.op = 2 || p.op = 4 || p.op = 6

/-- A reject of a packet: its REQID and a status, to the package and the world that issued the operation (R396, R398). -/
def rejectPacket (s : State) (p : Packet) (st : Status) : Packet :=
  managePacket s 7 (if isAnswer p then p.dst else p.src).toNat (if isAnswer p then p.dworld else p.sworld).toNat p.dworld.toNat p.reqid
    [BitVec.ofNat 8 (statusCode st)]

/-- Whether an incarnation is older than another: it comes before it within half the 32 numbers. -/
def isOlder (a b : BitVec 5) : Bool := a ≠ b && (b - a).toNat < 16

/-- Whether RANK_DOWN has announced a newer incarnation of a packet's source. -/
def isStale (s : State) (p : Packet) : Bool :=
  match s.fabric.downs.find? (p.src.toNat * 64 + p.sworld.toNat) with
  | some i => isOlder p.inc i
  | none => false

/-- Whether this package's checks of a packet addressed to it pass (R396, R401): management packets and rejects carry no world's
key. -/
def worldAccepts (s : State) (p : Packet) : Bool :=
  !isStale s p &&
    if 7 ≤ p.op.toNat then p.pkey = 0xFFFF && p.vf = 3
    else (s.world p.dworld.toNat).wfab.extractLsb' 0 16 = p.pkey && (senderEntry s p false).isSome

/-- The status of a reject (R396): a lost entry counts at the destination. -/
def dropStatus (s : State) (p : Packet) : Status :=
  if (p.dst.toNat = s.fabric.node && (senderEntry s p true).isSome) || isStale s p then .rankLost else .pkey

/-- A reject taken (R396): the issuing operation completes with its status. -/
def takeReject (s : State) (p : Packet) : State :=
  let s' := takeAnswer s { p with op := 7 }
  match List.find? (fun e : Nat × Request => e.2.reqid = p.reqid && !e.2.replay) s.requests with
  | some (id, r) => loseCell s' id r (rejectStatus p)
  | none => s'

/-- The payload of a cell answer (6). -/
def CellReply.bytes (a : CellReply) : List Byte :=
  leBytes 4 a.code ++ leBytes 4 a.gen.toNat ++ leBytes 8 a.value.toNat ++ leBytes 4 a.winner

def replyOf (b : List Byte) : CellReply :=
  ⟨leValue (b.take 4), BitVec.ofNat 32 (leValue ((b.drop 4).take 4)), BitVec.ofNat 64 (leValue ((b.drop 8).take 8)),
    leValue ((b.drop 16).take 4)⟩

/-- A remote request performed at this package's cell (R395, R406): its answer with the page's grade. -/
def cellAtHome (s : State) (p : Packet) : CellReply × BitVec 2 × State :=
  let w := p.dworld.toNat
  let kind := leValue (p.payload.take 4)
  let g : Word := BitVec.ofNat 32 (leValue ((p.payload.drop 4).take 4))
  let v : DWord := BitVec.ofNat 64 (leValue ((p.payload.drop 8).take 8))
  match accessIn s (.fab w) w p.addr.toNat .cell false with
  | (.error _, s) => (refusedReply, 0, s)
  | (.ok x, s) =>
    let page := entGrade x.leaf
    if entScope x.leaf < 2 || (kind = 0 && page.toNat < p.grade.toNat) || p.addr.toNat % 16 ≠ 0 then (refusedReply, page, s)
    else
      let key := physKey (x.phys p.addr.toNat)
      let r := performCell (noteCell s key p.reqid) kind key g v (winnerOf p.srank.toNat p.reqid) w
      (r.1, page, r.2)

/-- The key of the cell that a remote request names, where its page is mapped. -/
def cellKey (s : State) (p : Packet) : Option Nat :=
  match walk s p.dworld.toNat p.addr.toNat with
  | .leaf x => some (physKey (x.phys p.addr.toNat))
  | .notMapped => none

/-- A remote cell request performed once, and answered. -/
def serveCell (s : State) (p : Packet) : State :=
  match recorded s p with
  | some a => reply s a
  | none =>
    let r := cellAtHome s p
    let a := answerPacket r.2.2 p 6 r.1.bytes r.2.1 false
    replyOnce r.2.2 a

/-- A packet of the inbox taken. -/
def takeInbox (s : State) (n : Nat) : State := { s with fabric := { s.fabric with inbox := s.fabric.inbox.erase n } }

/-- The answer of a cell request that has arrived: its place in the inbox and its packet. -/
def arrivedAnswer (s : State) (reqid : DWord) : Option (Nat × Packet) :=
  (List.find? (fun e : Nat × Incoming => e.2.packet.op = 6 && e.2.packet.reqid = reqid) s.fabric.inbox).map
    fun e => (e.1, e.2.packet)

/-- Whether a remote request may be performed now (R403). -/
def cellMayServe (s : State) (p : Packet) : Bool :=
  match cellKey s p with
  | some key => cellTurn s key p.reqid
  | none => true

/-- CELL_OPERATION (R403, R404): the home performs a local request, or one that has arrived from a package: in the order of the
events, and within one cc in ascending REQID on each cell. -/
def execCellOperation (req : Nat) (s : State) : Host.Outcome State Fault Refusal :=
  match s.requests.find? req with
  | some r => match r.asked with
    | .cell kind none _ key v g _ _ _ via =>
      if (arrivedAnswer s r.reqid).isSome || !cellTurn s key r.reqid then .next s
      else
        let a := performCell (noteCell s key r.reqid) kind key g v (winnerOf (s.threadLaunch r.tid).rank r.reqid) r.world
        let page := match via with
          | some x => entGrade x.leaf
          | none => 0
        let p := { managePacket s 6 s.fabric.node r.world r.world r.reqid a.1.bytes with grade := page }
        .next (takeAnswer a.2 p)
    | _ => .next s
  | none => match s.fabric.inbox.find? req with
    | some m =>
      let p := m.packet
      if p.op = 5 && cellMayServe s p then
        let s := takeInbox s req
        .next (if m.loop && !worldAccepts s p then takeReject s (rejectPacket s p (dropStatus s p)) else serveCell s p)
      else .next s
    | none => .next s

/-- CELL_ANSWER (R407): the answer to a request writes its results and installs a cache entry; one that meets a replay entry is dropped
(R347). -/
def execCellAnswer (req : Nat) (s : State) : Host.Outcome State Fault Refusal :=
  match s.requests.find? req with
  | some r => match arrivedAnswer s r.reqid with
    | some (n, p) =>
      if r.replay then .next (takeInbox s n) else .next (giveCell (takeInbox s n) req r (replyOf p.payload) p.grade)
    | none => .next s
  | none => .next s

end Sys2Proof.Machine
end

