-- ==== Sys2Proof/Machine/Fabric.lean ====
section
/-! DEFINITION. The Braze fabric (spec/22_fabric.md R390 to R401, R405): its registers, packets received and performed, lost ranks,
purges and ports. -/

namespace Sys2Proof.Machine

open Sys2Proof

/-! ## Registers (R393, R394, R397) -/

/-- FNODE_WRITE (R393). -/
def execFnodeWrite (v : Word) (s : State) : Host.Outcome State Fault Refusal :=
  if s.worlds.any fun e => e.2.stat = 1 then .next s
  else .next { s with fabric := { s.fabric with node := v.toNat % 4096 } }

/-- Whether a rank entry's value is refused (R394). -/
def badRankEntry (v : DWord) : Bool :=
  v.extractLsb' 56 6 ≠ 0 || v.extractLsb' 12 20 ≠ 0 || v.extractLsb' 40 16 = 0xFFFF || v.extractLsb' 38 2 = 3

/-- RTDATA_WRITE (R394): the entry that RTSEL selects; a write clears LOST. -/
def execRtdataWrite (v : DWord) (s : State) : Host.Outcome State Fault Refusal :=
  let w := (s.fabric.rtsel.extractLsb' 16 6).toNat
  let r := (s.fabric.rtsel.extractLsb' 0 12).toNat
  if badRankEntry v then .next (logEvent s 0 { kind := 0x84, addr := s.fabric.rtsel.toNat })
  else .next (s.setWorld w { s.world w with ranks := SMap.set (s.world w).rankBase (s.world w).ranks r (v &&& ~~~(1#64 <<< 62)) })

/-- The purges that wait for a node which no route reaches go on (R405). -/
def settleNodes (s : State) : State :=
  let reached := reachedNodes s
  s.purges.foldl (fun s e => match s.purges.find? e.1 with
    | some p => checkPurge { s with purges := s.purges.insert e.1 { p with nodes := p.nodes.filter reached.contains } } e.1
    | none => s) s

/-- Whether a packet that has been sent still waits for its answer: a read, a write or a cell request, or a fabric purge. -/
def unanswered (s : State) (p : Packet) : Bool :=
  match p.op.toNat with
  | 1 | 3 => (segmentOf s p.reqid).isSome
  | 5 => s.requests.any fun e => e.2.reqid = p.reqid && !e.2.replay
  | 9 => s.purges.any fun e => e.2.world = p.sworld.toNat && e.2.nodes.contains p.dst.toNat
  | _ => false

/-- Whether a packet is still to be sent: an answer, or a request that waits for one (R277, R398). -/
def stillDue (s : State) (p : Packet) : Bool := !(p.op = 1 || p.op = 3 || p.op = 5 || p.op = 9) || unanswered s p

/-- The fabric cell cache emptied (R405); an answer on its way installs none. -/
def emptyCells (s : State) : State :=
  markPurged { s with fabric := { s.fabric with cells := [] } } fun r => (r.cellHome s).isSome

/-- Routes or ports changed: the fabric cell cache empties where a node is reached that was not (R405), and the packets that no live
port has taken and that are still due are sent again (R398). -/
def settleRoutes (before : List Nat) (s : State) : State :=
  let s := settleNodes (if (reachedNodes s).any fun n => !before.contains n then emptyCells s else s)
  resendAll { s with fabric := { s.fabric with unsent := s.fabric.unsent.filter (stillDue s) } }

/-- ROUTEDATA_WRITE (R393): the route that ROUTESEL selects. -/
def execRoutedataWrite (v : DWord) (s : State) : Host.Outcome State Fault Refusal :=
  let n := (s.fabric.routesel.extractLsb' 0 12).toNat
  .next (settleRoutes (reachedNodes s)
    { s with fabric := { s.fabric with routes := SMap.set 0 s.fabric.routes n (v.toNat % 2 ^ 36) } })

/-- WFAB_WRITE (R397). -/
def execWfabWrite (w : Nat) (v : DWord) (s : State) : Host.Outcome State Fault Refusal :=
  if 64 ≤ w then .next s
  else if v.extractLsb' 0 16 = 0xFFFF then .next (logEvent s 0 { kind := 0x86, detail := w, addr := v.toNat })
  else .next (s.setWorld w { s.world w with wfab := v &&& 0xFFFFFFFF })

/-- BRAZE_PORT_LOST (R398): the packets that left by it and still wait for an answer are sent again, with the same REQID, on another
port of their route. -/
def execBrazePortLost (port : Nat) (s : State) : Host.Outcome State Fault Refusal :=
  if 36 ≤ port || s.fabric.dead.contains port then .next s
  else
    let again := ((s.fabric.sent.filter fun e => e.1 = port && unanswered s e.2).map (·.2)).reverse
    let s := { s with fabric := { s.fabric with dead := port :: s.fabric.dead } }
    .next (settleNodes (again.foldl sendPacket s))

/-- BRAZE_PORT_LIVE (R405); in minimal mode, and where no firmware image verifies, no port comes up (R384). -/
def execBrazePortLive (port : Nat) (s : State) : Host.Outcome State Fault Refusal :=
  if s.assayer.minimal || s.assayer.reason = 1 then .next s
  else .next (settleRoutes (reachedNodes s) { s with fabric := { s.fabric with dead := s.fabric.dead.filter (· ≠ port) } })

/-! ## Lost ranks (R398, R401) -/

/-- Whether a rank entry names a world of a node. -/
def rankNames (e : DWord) (node w : Nat) : Bool := rankValid e && rankNode e = node && rankWorld e = w

/-- LOST set in the entries of a world that name one of a node. -/
def markLost (x : World) (node w : Nat) : World :=
  { x with ranks := x.ranks.map fun e => (e.1, if rankNames e.2 node w then e.2 ||| 1#64 <<< 62 else e.2) }

/-- The segments of an operation that have neither landed nor failed, all failed with a status. -/
def failOperation (s : State) (op : Nat) (st : Status) : State :=
  match s.ladles.find? op with
  | some o => sourceRead (o.segs.foldl (fun s g => if g.2.replay then s else failSegment s op g.1 st) s) op
  | none => s

/-- RANK_DOWN taken (R401): entries, operations, and the incarnation. -/
def takeRankDown (s : State) (node w : Nat) (inc : BitVec 5) : State :=
  let names := fun (x : Nat) (r : Option Nat) => match r with
    | some r => rankNames (s.rankEntry x r) node w
    | none => false
  let ops := (List.filter (fun e : Nat × Ladle => names e.2.world e.2.rank) s.ladles).map (·.1)
  let reqs := List.filter (fun e : Nat × Request => !e.2.replay && (match e.2.asked with
    | .cell _ r _ _ _ _ _ _ _ _ => names e.2.world r
    | _ => false)) s.requests
  let s := { s with worlds := s.worlds.map fun e => (e.1, markLost e.2 node w) }
  let s := ops.foldl (fun s op => failOperation s op .rankLost) s
  let s := reqs.foldl (fun s e => loseCell s e.1 e.2 .rankLost) s
  { s with fabric := { s.fabric with downs := s.fabric.downs.insert (node * 64 + w) inc } }


/-- Whether a node is another one, to which no port leads: its route's mask is 0 (R393). -/
def noRoute (s : State) (node : Nat) : Bool := node ≠ s.fabric.node && s.fabric.routes.getD node 0 = 0

/-- ROUTE_TIMEOUT (R398): a segment whose node no route has reached for 100 µs; a replay entry of a saved world waits. -/
def execRouteTimeout (op seg : Nat) (s : State) : Host.Outcome State Fault Refusal :=
  match s.ladles.find? op with
  | some o => match o.rank, o.segs.find? seg with
    | some r, some g =>
      let out := match g.state with
        | .queued | .remote => true
        | _ => false
      if out && !g.replay && noRoute s (rankNode (s.rankEntry o.world r)) then .next (sourceRead (failSegment s op seg .rankLost) op) else .next s
    | _, _ => .next s
  | none => .next s

/-! ## Purges of cells (R405) -/

/-- FABRIC_PURGE (R405): the entries dropped and the acknowledgement sent. -/
def takeFabricPurge (s : State) (node w : Nat) : State :=
  let s := dropCells s node w
  sendPacket s (managePacket s 10 node w w noReqid [])

def execFabricPurge (node w : Nat) (s : State) : Host.Outcome State Fault Refusal := .next (takeFabricPurge s node w)

/-- An acknowledgement taken by the oldest purge of the world that waits for the node. -/
def takePurgeAck (s : State) (node w : Nat) : State :=
  match List.find? (fun e : Nat × Purge => e.2.world = w && e.2.nodes.contains node) s.purges with
  | some (id, p) => checkPurge { s with purges := s.purges.insert id { p with nodes := p.nodes.filter (· ≠ node) } } id
  | none => s

/-! ## Packets (R393, R395, R396) -/

/-- REJECT (R396). -/
def execReject (p : Packet) (s : State) : Host.Outcome State Fault Refusal := .next (takeReject s p)

/-- Whether a port lets a packet in (R396). -/
def portAccepts (s : State) (p : Packet) : Bool :=
  (p.pkey = 0xFFFF && p.vf = 3) || (List.range 64).any fun w => (s.world w).wfab.extractLsb' 0 16 = p.pkey ||
    (s.world w).ranks.any fun e => rankValid e.2 && e.2.extractLsb' 40 16 = p.pkey

def countUp (m : SMap Nat) (k : Nat) : SMap Nat := m.insert k (min (m.getD k 0 + 1) (2 ^ 32 - 1))

/-- A reject on its way to the operation that it names: taken at once where that was issued here. -/
def returnReject (s : State) (p : Packet) : State := if p.dst.toNat = s.fabric.node then takeReject s p else sendPacket s p

/-- A packet dropped and counted at a port, and rejected unless it is a reject. -/
def dropPacket (s : State) (port : Nat) (p : Packet) (st : Status) : State :=
  let s := { s with fabric := { s.fabric with drops := countUp s.fabric.drops port } }
  if p.op = 7 then s else returnReject s (rejectPacket s p st)

/-- RANK_DOWN (R401): one of an older incarnation than one taken is dropped and counted, at a port that the event does not name. -/
def execRankDown (node w : Nat) (inc : BitVec 5) (s : State) : Host.Outcome State Fault Refusal :=
  let p := { managePacket s 8 s.fabric.node w w noReqid [] with src := BitVec.ofNat 12 node, sworld := BitVec.ofNat 6 w, inc := inc }
  if isStale s p then
    let (n, s) := s.free
    .next (dropPacket s (n % 36) p .rankLost)
  else .next (takeRankDown s node w inc)

/-- A packet whose tag fails is dropped and counted; its sender sends it again up to three times, and a further failure is an
unpinned error of the world here (R358, R392). -/
def failTag (s : State) (port : Nat) (p : Packet) : State :=
  let s := { s with fabric := { s.fabric with badTags := countUp s.fabric.badTags port } }
  let key := (p.src.toNat * 64 + p.sworld.toNat, p.seq)
  let n : Nat := ((s.fabric.retries.find? fun e => e.1 == key).map (·.2)).getD 0
  let others := s.fabric.retries.filter fun e => e.1 ≠ key
  if n < 3 then { s with fabric := { s.fabric with retries := (key, n + 1) :: others } }
  else cipherFailure { s with fabric := { s.fabric with retries := others } } s.assayer.minDie p.dworld.toNat 0

/-- The packet at a place of the list of packets sent leaves once more by its port, with its sequence number, after its tag has failed
at the other end: up to three times (R358, R392). -/
def resendPacket (n : Nat) (s : State) : State :=
  match s.fabric.sent[n]? with
  | some (port, p) =>
    if p.src.toNat = s.fabric.node && !s.fabric.dead.contains port && stillDue s p &&
        (s.fabric.sent.filter fun e => e.2 = p).length ≤ 3 then
      countFlit { s with fabric := { s.fabric with sent := (port, p) :: s.fabric.sent } } port p.sworld.toNat
    else s
  | none => s

/-- A packet that passes through: it leaves by a port of its node's route as it came (R393). -/
def forwardPacket (s : State) (p : Packet) : State :=
  match pickPort s p.dst.toNat with
  | (some port, s) => countFlit { s with fabric := { s.fabric with sent := (port, p) :: s.fabric.sent } } port p.sworld.toNat
  | (none, s) => s

/-- A packet for this package taken in. -/
def takePacket (s : State) (p : Packet) : State :=
  match p.op.toNat with
  | 1 | 3 | 5 =>
    let (id, s) := s.newId
    { s with fabric := { s.fabric with inbox := s.fabric.inbox.insert id ⟨p, false⟩ } }
  | 2 | 4 | 6 => takeAnswer s p
  | 7 => takeReject s p
  | 8 => takeRankDown s p.src.toNat p.sworld.toNat p.inc
  | 9 => takeFabricPurge s p.src.toNat p.sworld.toNat
  | 10 => takePurgeAck s p.src.toNat p.sworld.toNat
  | _ => s

/-- BRAZE_PACKET_RECEIVE (R392, R393, R396, R401): counted at its port, and forwarded, taken in, or dropped. -/
def execBrazePacketReceive (port : Nat) (p : Packet) (tagOk : Bool) (s : State) : Host.Outcome State Fault Refusal :=
  if 36 ≤ port || s.fabric.dead.contains port then .next s
  else
    let s := countFlit s port p.dworld.toNat
    if !portAccepts s p then .next (dropPacket s port p (dropStatus s p))
    else if p.dst.toNat ≠ s.fabric.node then
      .next (if isStale s p then dropPacket s port p .rankLost else forwardPacket s p)
    else if !tagOk then .next (failTag s port p)
    else if !worldAccepts s p then .next (dropPacket s port p (dropStatus s p))
    else .next (takePacket s p)

/-- What names the key of a packet (R392): its pair of nodes, and its world but for the management packets, whose key is that of the two
Assayers. -/
def Packet.cipherKey (p : Packet) : List Byte :=
  leBytes 2 p.src.toNat ++ leBytes 2 p.dst.toNat ++ leBytes 2 (if 8 ≤ p.op.toNat then 64 else p.sworld.toNat)

/-- A packet as the flit of 256 bytes that a port carries (R390, R391): header, tag, and the payload as ciphertext, but for the
management packets (R392). -/
def Packet.flit (p : Packet) : List Byte :=
  let head := leBytes 2 p.pkey.toNat ++ leBytes 2 (p.dst.toNat + p.vf.toNat * 2 ^ 12) ++ leBytes 2 p.src.toNat ++
    leBytes 1 p.dworld.toNat ++ leBytes 1 p.sworld.toNat ++ leBytes 1 p.op.toNat ++ leBytes 1 p.inc.toNat ++
    leBytes 2 p.srank.toNat ++ leBytes 4 p.len ++ leBytes 8 p.reqid.toNat ++ leBytes 8 p.addr.toNat ++ leBytes 8 p.seq.toNat ++
    List.replicate 8 0
  let body := if 8 ≤ p.op.toNat then p.payload
    else (List.range p.payload.length).map (Config.cipherByte (Packet.cipherKey p ++ p.payload) p.seq.toNat)
  head ++ (List.range 8).map (Config.cipherByte (Packet.cipherKey p ++ head ++ p.payload) p.seq.toNat) ++ List.replicate 8 0 ++
    (body ++ List.replicate 192 0).take 192

/-! ## Remote reads and writes (R395, R398) -/

/-- A remote access translated: its physical address and the page's grade, where its SCOPE admits the fabric and its bytes lie in one
page. -/
def remotePage (s : State) (w va n : Nat) (acc : Access) : Option (Nat × BitVec 2) × State :=
  match accessIn s (.fab w) w va acc true with
  | (.error _, s) => (none, s)
  | (.ok x, s) =>
    if entScope x.leaf < 2 || 2 ^ 16 < va % 2 ^ 16 + n then (none, s) else (some (x.phys va, entGrade x.leaf), s)

/-- Bytes of one page read for a remote access, with the page's grade and whether one of them holds an error. -/
def readRemote (s : State) (w va n : Nat) : Option (List Byte × Tag) × State :=
  match remotePage s w va n .read with
  | (none, s) => (none, s)
  | (some (pa, grade), s) =>
    let s := countHbm (recallRange s (physKey pa) n) w (physKey pa) n
    (some (s.mem.readBytes (physKey pa) n, ⟨grade, isBad s (physKey pa) n⟩), s)

/-- The runs of bytes that a request names at this end (R398). -/
def Packet.runs (p : Packet) : List (Nat × Nat) := if p.rows.isEmpty then [(p.addr.toNat, p.len)] else p.rows

/-- Runs cut at the ends of pages. -/
def cutRuns (l : List (Nat × Nat)) : List (Nat × Nat) :=
  l.flatMap fun r =>
    let n := min r.2 (2 ^ 16 - r.1 % 2 ^ 16)
    if n = r.2 then [r] else [(r.1, n), (r.1 + n, r.2 - n)]

/-- The bytes of runs read one after the other, with their joined tags; none where one of them may not be read. -/
def readRuns (w : Nat) : List (Nat × Nat) → List Byte × Tag → State → Option (List Byte × Tag) × State
  | [], acc, s => (some acc, s)
  | r :: rest, acc, s => match readRemote s w r.1 r.2 with
    | (none, s) => (none, s)
    | (some (b, tag), s) => readRuns w rest (acc.1 ++ b, acc.2.join tag) s

/-- A remote read: its data with the pages' grade; bytes on several pages are read from each. -/
def serveRead (s : State) (p : Packet) : State :=
  match readRuns p.dworld.toNat (cutRuns (Packet.runs p)) ([], Tag.zero) s with
  | (none, s) => replyOnce s (rejectPacket s p .rangeFault)
  | (some (b, tag), s) => replyOnce s (answerPacket s p 2 b tag.grade tag.poison)

/-- The bytes of a remote write at their physical addresses, run by run, with the least grade of a page; none where one of them may
not be written. -/
def placeRuns (w : Nat) : List (Nat × Nat) → List Byte → List (Nat × List Byte) × Nat → State →
    Option (List (Nat × List Byte) × Nat) × State
  | [], _, acc, s => (some acc, s)
  | r :: rest, b, acc, s => match remotePage s w r.1 (min r.2 b.length) .write with
    | (none, s) => (none, s)
    | (some (pa, grade), s) => placeRuns w rest (b.drop r.2) (acc.1 ++ [(pa, b.take r.2)], min acc.2 grade.toNat) s

/-- A remote write: into a TABLE frame as one write unit (R258), whose acknowledgement waits for its purge, the frame pinned (R264). The bytes of a segment lie
in one line of their destination and so in one frame (R273). -/
def serveWrite (s : State) (p : Packet) : State :=
  let w := p.dworld.toNat
  match placeRuns w (Packet.runs p) p.payload ([], 3) s with
  | (none, s) => replyOnce s (rejectPacket s p .rangeFault)
  | (some (ws, grade), s) =>
    let f := (ws.headD (0, [])).1 / 2 ^ 16
    let count := fun (s : State) => ws.foldl (fun s e => countHbm s w (physKey e.1) e.2.length) s
    if grade < p.grade.toNat || ws.any (fun e => e.1 / 2 ^ 16 ≠ f) then replyOnce s (rejectPacket s p .rangeFault)
    else if isTableType (s.frame f).type then
      match checkWrites s f (ws.map fun e => (e.1 % 2 ^ 16, e.2)) with
      | .error _ => replyOnce s (rejectPacket s p .tableRefused)
      | .ok ch => match acceptUnit (count s) f ch (.reply (answerPacket s p 4 [] 0 false) f) with
        | (some _, s) => pin s f
        | (none, s) => replyOnce s (answerPacket s p 4 [] 0 false)
    else
      let s := ws.foldl (fun s e => writeMain (recallRange s (physKey e.1) e.2.length) (physKey e.1) e.2) s
      replyOnce (count s) (answerPacket s p 4 [] 0 false)

/-- Whether a table write that a packet asked for still waits for its purge. -/
def writePending (s : State) (p : Packet) : Bool :=
  s.purges.any fun e => match e.2.after with
    | .reply a _ => a.reqid = p.reqid && a.dst = p.src
    | _ => false

/-- REMOTE_ACCESS (R343, R395, R398): a request that has arrived is performed once for RWORLD; one that came by no port meets the
destination's checks here (R395, R396). -/
def execRemoteAccess (n : Nat) (s : State) : Host.Outcome State Fault Refusal :=
  match s.fabric.inbox.find? n with
  | none => .next s
  | some m =>
    let p := m.packet
    if p.op ≠ 1 && p.op ≠ 3 then .next s
    else
      let s := takeInbox s n
      match recorded s p with
      | some a => .next (reply s a)
      | none =>
        if m.loop && !worldAccepts s p then .next (takeReject s (rejectPacket s p (dropStatus s p)))
        else if writePending s p then .next s
        else .next (if p.op = 1 then serveRead s p else serveWrite s p)

end Sys2Proof.Machine
end

