-- ==== Sys2Proof/Machine/Sha.lean ====
section
/-! DEFINITION. SHA-256 (FIPS 180-4), which chains the records of the energy meters (spec/21_package_energy.md R380). -/

namespace Sys2Proof.Machine

open Sys2Proof

/-- The round constants. -/
def shaK : List Word :=
  [0x428A2F98, 0x71374491, 0xB5C0FBCF, 0xE9B5DBA5, 0x3956C25B, 0x59F111F1, 0x923F82A4, 0xAB1C5ED5] ++
  [0xD807AA98, 0x12835B01, 0x243185BE, 0x550C7DC3, 0x72BE5D74, 0x80DEB1FE, 0x9BDC06A7, 0xC19BF174] ++
  [0xE49B69C1, 0xEFBE4786, 0x0FC19DC6, 0x240CA1CC, 0x2DE92C6F, 0x4A7484AA, 0x5CB0A9DC, 0x76F988DA] ++
  [0x983E5152, 0xA831C66D, 0xB00327C8, 0xBF597FC7, 0xC6E00BF3, 0xD5A79147, 0x06CA6351, 0x14292967] ++
  [0x27B70A85, 0x2E1B2138, 0x4D2C6DFC, 0x53380D13, 0x650A7354, 0x766A0ABB, 0x81C2C92E, 0x92722C85] ++
  [0xA2BFE8A1, 0xA81A664B, 0xC24B8B70, 0xC76C51A3, 0xD192E819, 0xD6990624, 0xF40E3585, 0x106AA070] ++
  [0x19A4C116, 0x1E376C08, 0x2748774C, 0x34B0BCB5, 0x391C0CB3, 0x4ED8AA4A, 0x5B9CCA4F, 0x682E6FF3] ++
  [0x748F82EE, 0x78A5636F, 0x84C87814, 0x8CC70208, 0x90BEFFFA, 0xA4506CEB, 0xBEF9A3F7, 0xC67178F2]

/-- The initial hash value. -/
def shaInit : List Word := [0x6A09E667, 0xBB67AE85, 0x3C6EF372, 0xA54FF53A, 0x510E527F, 0x9B05688C, 0x1F83D9AB, 0x5BE0CD19]

/-- A big-endian word of four bytes. -/
def beWord (b : List Byte) : Word := b.foldl (fun w x => w <<< 8 ||| x.setWidth 32) 0

/-- A word's four bytes, big-endian. -/
def beBytes (w : Word) : List Byte := [w.extractLsb' 24 8, w.extractLsb' 16 8, w.extractLsb' 8 8, w.extractLsb' 0 8]

/-- The schedule's next word from the sixteen before it, newest first. -/
def shaNext (l : List Word) : Word :=
  let w := fun k => l.getD k 0
  let s0 := fun (x : Word) => x.rotateRight 7 ^^^ x.rotateRight 18 ^^^ x >>> 3
  let s1 := fun (x : Word) => x.rotateRight 17 ^^^ x.rotateRight 19 ^^^ x >>> 10
  s1 (w 1) + w 6 + s0 (w 14) + w 15

/-- The schedule extended by n words, newest first. -/
def shaSchedule : Nat → List Word → List Word
  | 0, l => l
  | n + 1, l => shaSchedule n (shaNext l :: l)

/-- One round on the eight working words. -/
def shaRound (v : List Word) (k w : Word) : List Word :=
  match v with
  | [a, b, c, d, e, f, g, h] =>
    let t1 := h + (e.rotateRight 6 ^^^ e.rotateRight 11 ^^^ e.rotateRight 25) + ((e &&& f) ^^^ (~~~e &&& g)) + k + w
    let t2 := (a.rotateRight 2 ^^^ a.rotateRight 13 ^^^ a.rotateRight 22) + ((a &&& b) ^^^ (a &&& c) ^^^ (b &&& c))
    [t1 + t2, a, b, c, d + t1, e, f, g]
  | v => v

/-- A block of 64 bytes compressed into a hash value. -/
def shaBlock (h : List Word) (block : List Byte) : List Word :=
  let first := (List.range 16).map fun k => beWord ((block.drop (4 * k)).take 4)
  let ws := (shaSchedule 48 first.reverse).reverse
  let v := (shaK.zip ws).foldl (fun v e => shaRound v e.1 e.2) h
  List.zipWith (· + ·) h v

/-- Blocks compressed in their order. -/
def shaBlocks : Nat → List Word → List Byte → List Word
  | 0, h, _ => h
  | n + 1, h, b => shaBlocks n (shaBlock h (b.take 64)) (b.drop 64)

/-- The digest of a message of whole bytes. -/
def sha256 (m : List Byte) : List Byte :=
  let n := (m.length + 9 + 63) / 64
  let zeros := n * 64 - m.length - 9
  let bits := (leBytes 8 (8 * m.length)).reverse
  (shaBlocks n shaInit (m ++ [0x80] ++ List.replicate zeros 0 ++ bits)).flatMap beBytes

end Sys2Proof.Machine
end

