-- ==== Sys2Proof/Machine/Trust.lean ====
section
/-! DEFINITION. Trust (spec/18_package_trust.md): errors of a world's interface and its scrub (R364 to R366), SPDM and TDISP (R363,
R364), the die network's ciphers (R358, R360), key rotation (R359); unpinned errors (spec/09_core_order.md R198,
spec/17_package_launch.md R336). -/

namespace Sys2Proof.Machine

open Sys2Proof

/-! ## The interface's errors (R364 to R366) -/

/-- The physical address of a byte of a context slot (R348). -/
def slotAddr (x : World) (slot : Nat) : Nat := (x.wctx + slot * (x.wctxn / 2)) * 2 ^ 16

/-- The bytes of a slot. -/
def slotSize (x : World) : Nat := x.wctxn / 2 * 2 ^ 16

/-- A byte of a world's stored image read and written back (R378). -/
def rewriteByte (s : State) (w key : Nat) (f : Byte → Byte) : State := countHbm (writeMain s key [f (s.mem.read key)]) w key 2

/-- VALID cleared in a slot (R349), whatever its frame's type is by then (notes/assumptions/101.md). -/
def clearValid (s : State) (w slot : Nat) : State :=
  let x := s.world w
  if slotSize x = 0 then s else rewriteByte s w (physKey (slotAddr x slot + 7)) (· &&& 0xFE)

/-- A scrub (R366): what entry to ERROR does, both images invalid, the key epoch advanced, the quads released. -/
def scrub (s : State) (w : Nat) : State :=
  let s := killAndFlush s w
  let s := clearValid (clearValid s w 0) w 1
  let x := s.world w
  s.setWorld w { x with tdi := .unlocked, epoch := x.epoch + 1, quads := 0 }

/-! ## Unpinned errors (R198, R336) -/

/-- The teams resident on a core: it is their home, or a group of theirs has reloaded on it (R155, R198). -/
def coreTeams (s : State) (core : Nat) : List Nat :=
  (List.filter (fun e : Nat × Team => teamResident s e.1 e.2 && (e.2.core = core ||
    s.groups.any fun g => teamOfGid g.1 = e.1 && g.2.core = core && !g.2.offCore)) s.teams).map (·.1)

/-- CORE_TABLE_ERROR (R198): every team resident on the core is killed; their launches' queues are flushed. -/
def execCoreTableError (core : Nat) (s : State) : Host.Outcome State Fault Refusal :=
  let ts := coreTeams s core
  match ts with
  | [] => .next s
  | t :: _ =>
    let w := (s.team t).world
    let ls := (ts.map fun t => (s.team t).launch).eraseDups
    let s := boxEvent s (dieOf core) 5 w (coreUnit core) (List.replicate 16 0)
    .next (unpinned (killTeams s ts .queueFlushed) w ls)

/-! ## SPDM (R363) -/

def answerDoe (s : State) (w : Nat) (d : Doe) : State := { s with doe := (w, d) :: s.doe }

/-- The signature over a statement, by the number of its making (R380). -/
def signature (rec : List Byte) (n : Nat) : List Byte := (List.range 2828).map (Config.cipherByte rec n)

/-- A hallmark: a statement that the Assayer signs, given as a vendor-defined payload (R363). -/
def giveHallmark (s : State) (w : Nat) (b : List Byte) : State :=
  let (n, s) := s.free
  answerDoe s w (.payload (b ++ signature b n))

/-- A request that is answered in some states of the connection. -/
def spdmStep (s : State) (w : Nat) (ok : Spdm → Bool) (next : Spdm → Spdm) : State :=
  let x := s.world w
  if 64 ≤ w then s
  else if ok x.spdm then answerDoe (s.setWorld w { x with spdm := next x.spdm }) w .done else answerDoe s w .error

/-- Whether the algorithms of a connection are agreed. -/
def Spdm.agreed : Spdm → Bool
  | .negotiated | .handshake | .secure => true
  | _ => false

/-- GET_VERSION (R363): it begins a connection. -/
def execGetVersion (w : Nat) (s : State) : Host.Outcome State Fault Refusal :=
  .next (spdmStep s w (fun _ => true) fun _ => .version)

/-- GET_CAPABILITIES (R363). -/
def execGetCapabilities (w : Nat) (s : State) : Host.Outcome State Fault Refusal :=
  .next (spdmStep s w (· = .version) fun _ => .capabilities)

/-- NEGOTIATE_ALGORITHMS (R363). -/
def execNegotiateAlgorithms (w : Nat) (s : State) : Host.Outcome State Fault Refusal :=
  .next (spdmStep s w (· = .capabilities) fun _ => .negotiated)

/-- GET_MEASUREMENTS (R363): the measurements, signed. -/
def execGetMeasurements (w : Nat) (s : State) : Host.Outcome State Fault Refusal :=
  .next (if (s.world w).spdm.agreed then giveHallmark s w (Config.measurements s.assayer.starts) else answerDoe s w .error)

/-- KEY_EXCHANGE (R363). -/
def execKeyExchange (w : Nat) (s : State) : Host.Outcome State Fault Refusal :=
  .next (spdmStep s w (· = .negotiated) fun _ => .handshake)

/-- FINISH (R363). -/
def execFinish (w : Nat) (s : State) : Host.Outcome State Fault Refusal :=
  .next (spdmStep s w (· = .handshake) fun _ => .secure)

/-- END_SESSION (R363). -/
def execEndSession (w : Nat) (s : State) : Host.Outcome State Fault Refusal :=
  .next (spdmStep s w (· = .secure) fun _ => .negotiated)

/-! ## TDISP (R363, R364) -/

/-- A TDISP message to a virtual function: accepted within a secure session and in the states that R364 lists for it; otherwise
answered with an error. -/
def tdispMessage (s : State) (w : Nat) (ok : Tdi → Bool) (act : State → State) : State :=
  let x := s.world w
  if 64 ≤ w then s
  else if w ≠ 0 && x.spdm = .secure && ok x.tdi then act s else answerDoe s w .error

/-- LOCK_INTERFACE_REQUEST (R364). -/
def execLockInterfaceRequest (w : Nat) (nonce : BitVec 256) (s : State) : Host.Outcome State Fault Refusal :=
  .next (tdispMessage s w (· = .unlocked) fun s =>
    answerDoe (s.setWorld w { s.world w with tdi := .locked, nonce := nonce }) w .done)

/-- A grant entry's 16 bytes (R257). -/
def Grant.bytes (g : Grant) : List Byte :=
  leBytes 4 ((if g.gv then 1 else 0) + g.perm.toNat * 16 + (if g.closing then 2 ^ 8 else 0) + (if g.declass then 2 ^ 9 else 0) +
    g.owner * 2 ^ 10) ++ leBytes 4 g.first ++ leBytes 4 g.nframes ++ leBytes 4 g.uses

/-- What an interface report names (R364): BAR0's size, with bit 0 of the next word for 64-bit addresses and bit 1 for
prefetching, WROOT, WQUADS, WCTX, WCTXN, SEALED, the digest of the
grant table, the nonce. -/
def interfaceReport (x : World) : List Byte :=
  leBytes 4 0x40000 ++ leBytes 4 1 ++ leBytes 4 x.root ++ leBytes 32 x.quads.toNat ++ leBytes 4 x.wctx ++ leBytes 4 x.wctxn ++
    leBytes 4 (if x.isSealed then 1 else 0) ++
    sha256 ((List.range 255).flatMap fun k => (x.grants.getD (k + 1) noGrant).bytes) ++ leBytes 32 x.nonce.toNat

/-- GET_DEVICE_INTERFACE_REPORT (R364): the report, signed. -/
def execGetDeviceInterfaceReport (w : Nat) (s : State) : Host.Outcome State Fault Refusal :=
  .next (tdispMessage s w (· = .locked) fun s => giveHallmark s w (interfaceReport (s.world w)))

/-- START_INTERFACE_REQUEST (R364). -/
def execStartInterfaceRequest (w : Nat) (s : State) : Host.Outcome State Fault Refusal :=
  .next (tdispMessage s w (· = .locked) fun s => answerDoe (s.setWorld w { s.world w with tdi := .run }) w .done)

/-- STOP_INTERFACE_REQUEST (R364, R366). -/
def execStopInterfaceRequest (w : Nat) (s : State) : Host.Outcome State Fault Refusal :=
  .next (tdispMessage s w (· ≠ .unlocked) fun s => answerDoe (scrub s w) w .done)

/-- IDE_INTEGRITY_FAILURE (R364). -/
def execIdeIntegrityFailure (w : Nat) (s : State) : Host.Outcome State Fault Refusal := .next (tdiFailure s w)

/-! ## The die network (R358, R360) -/

/-- A port's keys. -/
def State.portKey (s : State) (port : Nat) : PortKey := s.portKeys.getD port {}

/-- A flow's number as its sending port counts it: numbers are told apart by world and receiving port, which have keys of their
own. -/
def flowNumber (w dst number : Nat) : Nat := (dst * 64 + w) * 2 ^ 48 + number % 2 ^ 48

/-- The port key rotated (R360): new flows take the new key; the open ones keep theirs. -/
def rotateKey (s : State) (port : Nat) : State :=
  { s with portKeys := s.portKeys.insert port ⟨(s.portKey port).gen + 1, []⟩ }

/-- The open flow with a number, or a new one under the sending port's latest key, which rotates first where the number has been
used under it (R358, R360). -/
def flowOf (s : State) (w src dst number : Nat) : Flow × State :=
  match s.flows.find? fun f => f.world = w && f.src = src && f.dst = dst && f.number = number with
  | some f => (f, s)
  | none =>
    let n := flowNumber w dst number
    let s := if (s.portKey src).used.contains n then rotateKey s src else s
    let k := s.portKey src
    (⟨w, src, dst, number, k.gen, []⟩, { s with portKeys := s.portKeys.insert src { k with used := n :: k.used } })

/-- A flow as it stands after a packet: the last one closes it, and an old key is destroyed with the last flow under it. -/
def putFlow (s : State) (old new : Flow) (isLast : Bool) : State :=
  let others := s.flows.filter (· ≠ old)
  { s with flows := if isLast then others else new :: others }

/-- NETWORK_PACKET_RECEIVE (R358): a packet whose tag passes is delivered, which its operation's own step shows; one whose tag fails
is sent again up to three times, and a further failure is an unpinned error of the world. -/
def execNetworkPacketReceive (w port : Nat) (p : NetPacket) (tagOk : Bool) (s : State) : Host.Outcome State Fault Refusal :=
  let (f, s) := flowOf s w p.src port p.number
  let n := f.retries.getD p.seq 0
  if tagOk then .next (putFlow s f { f with retries := f.retries.erase p.seq } p.isLast)
  else if n < 3 then .next (putFlow s f { f with retries := f.retries.insert p.seq (n + 1) } false)
  else .next (cipherFailure (putFlow s f { f with retries := f.retries.erase p.seq } false) (port / 2 ^ 8 % 4) w (port % 2 ^ 8 * 2 ^ 8))

/-- PORT_KEY_ROTATION (R360). -/
def execPortKeyRotation (port : Nat) (s : State) : Host.Outcome State Fault Refusal := .next (rotateKey s port)

/-! ## Re-keying (R356, R357, R359) -/

/-- The runs of HBM frames that a world's leaves map as SEALED: in a sealed world every one. -/
def sealedRuns (s : State) (w : Nat) : List (Nat × Nat) :=
  (List.filter (fun e : Nat × Frame => isTableType e.2.type && e.2.owner = w) s.frames).flatMap fun e =>
    (List.range 8192).filterMap fun k =>
      let x := tableEntry s e.1 k
      if entV x && entL x && ((s.world w).isSealed || entPath x = 2) && !isAperture (entFrame x) then
        some (targetRun (tableLevel e.2.type) x)
      else none

/-- The lowest frame from a boundary on among runs. -/
def nextFrame (runs : List (Nat × Nat)) (b : Nat) : Option Nat :=
  runs.foldl (fun m r =>
    let f := max r.1 b
    if r.1 + r.2 ≤ f then m else match m with
      | none => some f
      | some x => some (min x f)) none

/-- REKEY (R359): ignored while a rotation runs. -/
def startRekey (s : State) (w : Nat) : State :=
  let x := s.world w
  if 64 ≤ w || x.rekey.isSome then s else s.setWorld w { x with rekey := some 0 }

def execRekey (w : Nat) (s : State) : Host.Outcome State Fault Refusal := .next (startRekey s w)

/-- REKEY_FRAME (R359): the next SEALED frame is decrypted under the old key and encrypted under the new one, which changes no value
that is read; after the last one the rotation ends. -/
def execRekeyFrame (w : Nat) (s : State) : Host.Outcome State Fault Refusal :=
  let x := s.world w
  match x.rekey with
  | none => .next s
  | some b => match nextFrame (sealedRuns s w) b with
    | none => .next (s.setWorld w { x with rekey := none })
    | some f => .next ((countHbm (recallRange s (f * 2 ^ 16) (2 ^ 16)) w (f * 2 ^ 16) (2 ^ 17)).setWorld w { x with rekey := some (f + 1) })

end Sys2Proof.Machine
end

