-- ==== Sys2Proof/Machine/Energy.lean ====
section
/-! DEFINITION. The Assayer (spec/21_package_energy.md): the energy counters and their records (R377 to R382), the black box (R387,
R388), the commands of the management window (R374 to R376, R386, R389). -/

namespace Sys2Proof.Machine

open Sys2Proof

/-! ## Who holds the quads (R25, R378) -/

/-- Whether a world still is on a quad: a team, a Ladle operation, a posted operation of it, or one that waits to be posted. -/
def staysOn (s : State) (w q : Nat) : Bool :=
  (s.teams.any fun e => quadOf e.2.core = q && e.2.world = w && teamResident s e.1 e.2) ||
    (s.ladles.any fun e => quadOf e.2.core = q && e.2.world = w) ||
    unpostedOn s q (fun x => x = w) || (s.quad q).table.any fun e => (s.team e.team).world = w

/-- Whether a world holds a quad's grant: its bit of WQUADS is set, or the quad has not passed out of it. -/
def holdsQuad (s : State) (w q : Nat) : Bool := (s.world w).quads.getLsbD q || staysOn s w q

/-- cc counted to the holders of the quads. -/
def tallyQuads (s : State) (cc : Nat) : State :=
  let held := s.worlds.foldl (fun (m : SMap Nat) e => (List.range 256).foldl (fun (m : SMap Nat) q =>
    if holdsQuad s e.1 q then m.insert (q * 64 + e.1) (m.getD (q * 64 + e.1) 0 + cc) else m) m) s.assayer.held
  { s with assayer := { s.assayer with held := held } }

/-! ## The division of an interval (R378, R379) -/

/-- A number listed for a key of a measure. -/
def listed (l : List (Nat × Nat)) (k : Nat) : Nat := ((l.filter fun e => e.1 = k).map (·.2)).sum

/-- The cc of an interval for which a world from 1 on held a quad, of those that the worlds below it leave. -/
def heldCc (held : SMap Nat) (len w q : Nat) : Nat :=
  min (held.getD (q * 64 + w) 0) (len - ((List.range (w - 1)).map fun x => held.getD (q * 64 + x + 1) 0).sum)

/-- The cc of an interval that a quad counts to a world; world 0 takes those for which no other world held it. -/
def quadCc (held : SMap Nat) (len w q : Nat) : Nat :=
  if w = 0 then len - ((List.range 63).map fun x => heldCc held len (x + 1) q).sum else heldCc held len w q

/-- The quad-cc of a world. -/
def worldCc (held : SMap Nat) (len w : Nat) : Nat := ((List.range 256).map (quadCc held len w)).sum

/-- The bytes and the flits of a world in the running interval, those of its fetches and walks among them, times their calibrated energy,
in picojoules (R378, R392). -/
def trafficTerm (m : Measure) (s : State) (w : Nat) : Nat :=
  m.hbm * (s.assayer.hbm.getD w 0 + Config.fetchBytes s.assayer.intervalStart w) + m.braze * ((List.range 36).map fun p => s.fabric.flits.getD (p * 64 + w) 0).sum

/-- A world's direct terms Q + H + B in picojoules, times the interval's length in cc. -/
def directTerm (m : Measure) (s : State) (len w : Nat) : Nat :=
  10 ^ 6 * ((List.range 256).map fun q => listed m.quads q * quadCc s.assayer.held len w q).sum + trafficTerm m s w * len

/-- ΣQ + ΣH + ΣB in picojoules. -/
def directSum (m : Measure) (s : State) : Nat :=
  10 ^ 6 * (m.quads.map (·.2)).sum + ((List.range 64).map (trafficTerm m s)).sum

/-- Whether an interval is scaled. -/
def isScaled (m : Measure) (s : State) : Bool := 10 ^ 6 * m.total < directSum m s

/-- The numerator of a world's exact share in microjoules, and the denominator. -/
def exactShare (m : Measure) (s : State) (len w : Nat) : Nat × Nat :=
  if isScaled m s then (directTerm m s len w * m.total, len * directSum m s)
  else (directTerm m s len w * 256 + (10 ^ 6 * m.total - directSum m s) * worldCc s.assayer.held len w, 256 * len * 10 ^ 6)

/-- The shares: each floored, the rest one each to the largest fractions, ties to the lower world (R379). -/
def shares (m : Measure) (s : State) (len : Nat) : List Nat :=
  let xs := (List.range 64).map (exactShare m s len)
  let floors := xs.map fun x => x.1 / x.2
  let left := m.total - floors.sum
  let order : SMap Nat := (List.range 64).foldl (fun o w =>
    let x := xs.getD w (0, 1)
    SMap.insert o ((x.2 - x.1 % x.2) * 64 + w) w) []
  let first := (order.map (·.2)).take left
  (List.range 64).map fun w => floors.getD w 0 + (if first.contains w then 1 else 0)

/-- The end of the running interval (R377 to R379): the counters grow by its shares, and the next one begins. -/
def closeInterval (m : Measure) (s : State) : State :=
  let s := if s.time = s.assayer.intervalStart then tallyQuads s 1 else s
  let xs := shares m s (max 1 (s.time - s.assayer.intervalStart))
  let scaled := isScaled m s
  let s := (List.range 64).foldl (fun s w =>
    let e := (s.world w).energy
    s.setWorld w { s.world w with energy := { e with
      counter := min (e.counter + xs.getD w 0) (2 ^ 64 - 1), scaled := e.scaled || scaled } }) s
  let s := { s with
    assayer := { s.assayer with held := [], hbm := [], intervalStart := s.time, intervalSpan := s.span }
    fabric := { s.fabric with flits := [] } }
  if scaled then boxEvent s s.assayer.minDie 7 0 0 (List.replicate 16 0) else s

/-- METERING_INTERVAL (R377 to R379): once its 1 ms has passed. -/
def execMeteringInterval (m : Measure) (s : State) : Host.Outcome State Fault Refusal :=
  .next (if oneMs ≤ s.span - s.assayer.intervalSpan then closeInterval m s else s)

/-! ## Records (R380 to R382) -/

/-- Bytes 0 to 63 of a record. -/
def recordBytes (s : State) (w kind seq counter : Nat) (gap scaled : Bool) (prev : List Byte) : List Byte :=
  leBytes 4 0x415A454D ++ leBytes 1 kind ++ leBytes 1 w ++ leBytes 2 Config.calibration ++ leBytes 8 seq ++
    leBytes 8 counter ++ leBytes 4 s.assayer.starts ++
    leBytes 1 ((if gap then 1 else 0) + (if kind = 3 && s.assayer.minimal then 2 else 0) + (if scaled then 4 else 0)) ++
    leBytes 3 0 ++ prev

/-- A record of a world made: its bytes with its signature (R380). -/
def makeRecord (s : State) (w kind : Nat) : List Byte × State :=
  let e := (s.world w).energy
  let prev := match e.last with
    | some r => sha256 r
    | none => List.replicate 32 0
  let rec_ := recordBytes s w kind (e.seq + 1) e.counter false e.scaled prev
  (rec_ ++ signature rec_ (e.seq + 1),
    s.setWorld w { s.world w with energy := { e with seq := e.seq + 1, last := some rec_, scaled := false } })

/-- A reading (R380): between a FINAL and the end of start-up the FINAL record answers it. -/
def takeReading (s : State) (w : Nat) : Option (List Byte) × State :=
  if s.assayer.entered then ((s.world w).energy.final, s)
  else
    let r := makeRecord s w 1
    (some r.1, r.2)

/-- COUNTER of a record (R380): bytes 16 to 23. -/
def recordCounter (r : List Byte) : Nat := leValue ((r.drop 16).take 8)

/-- What flash keeps of a world's chain (R381): the digest, COUNTER and number of its latest record, and whether it is a FINAL. -/
def storeRecord (s : State) (w : Nat) (isFinal : Bool) : State :=
  let e := (s.world w).energy
  match e.last with
  | some r => s.setWorld w { s.world w with energy := { e with stored := some (sha256 r, recordCounter r, e.seq, isFinal) } }
  | none => s

/-- The FINAL records of a reset entry (R381): none is made after a FINAL until a start-up completes, and those made stay. -/
def finalRecords (s : State) : State :=
  if s.assayer.entered then s
  else (List.range 64).foldl (fun s w =>
    if (s.world w).energy.last.isNone then
      s.setWorld w { s.world w with energy := { (s.world w).energy with final := none } }
    else
      let r := makeRecord s w 2
      let s := storeRecord r.2 w true
      s.setWorld w { s.world w with energy := { (s.world w).energy with final := some r.1 } }) s

/-- The FIRST record of a world that flash names (R382). -/
def firstRecord (s : State) (w : Nat) : State :=
  let e := (s.world w).energy
  match e.stored with
  | none => s
  | some (digest, counter, seq, isFinal) =>
    let rec_ := recordBytes s w 3 (seq + 1) counter (!isFinal) false digest
    s.setWorld w { s.world w with energy := { e with counter := counter, seq := seq + 1, last := some rec_, scaled := false } }

/-- METER_CHECKPOINT (R381): once the 60 s since the last one have passed. -/
def execMeterCheckpoint (s : State) : Host.Outcome State Fault Refusal :=
  .next (if s.assayer.entered || s.span - s.assayer.checkpoint < 60000 * oneMs then s
    else (List.range 64).foldl (fun s w => storeRecord s w false)
      { s with assayer := { s.assayer with checkpoint := s.span } })

/-- VENDOR_DEFINED_REQUEST (R363, R380): within a secure session a tenant obtains its own world's reading (0), the measurements (1), or,
in CONFIG_LOCKED, the interface report (2). -/
def execVendorDefinedRequest (w : Nat) (kind : Nat) (s : State) : Host.Outcome State Fault Refusal :=
  if (s.world w).spdm ≠ .secure then .next (answerDoe s w .error)
  else match kind with
    | 0 => match takeReading s w with
      | (some b, s) => .next (answerDoe s w (.payload b))
      | (none, s) => .next (answerDoe s w .error)
    | 1 => .next (giveHallmark s w (Config.measurements s.assayer.starts))
    | 2 => execGetDeviceInterfaceReport w s
    | _ => .next (answerDoe s w .error)

/-! ## The management window (R375) -/

/-- Whether GRANT_WRITE waits for the acknowledgements of its purge. -/
def mgmtWaits (s : State) : Bool := s.purges.any fun e => match e.2.after with
  | .management => true
  | _ => false

def State.mgmtWord (s : State) (k : Nat) : Nat := (s.mgmt.words.getD k 0).toNat

/-- The WORLD field of a command. -/
def State.mgmtWorld (s : State) : Nat := s.mgmtWord 0 / 2 ^ 8 % 64

/-- The end of a command: result, data, and GO last. -/
def endCommand (s : State) (code : Nat) (data : List Byte) : State :=
  { s with mgmt := { s.mgmt with go := false, result := BitVec.ofNat 32 code, data := data } }

/-- The command that GO has started, performed where it is the one named. -/
def command (s : State) (cmd : Nat) (act : State → State) : Host.Outcome State Fault Refusal :=
  .next (if s.mgmt.go && s.mgmtWord 0 % 256 = cmd && !mgmtWaits s then act s else s)

/-- METER_READ (R375, R380). -/
def execMeterRead (s : State) : Host.Outcome State Fault Refusal :=
  command s 0x10 fun s => match takeReading s s.mgmtWorld with
    | (some b, s) => endCommand s 0 b
    | (none, s) => endCommand s 4 []

/-- METER_FINAL (R375, R381). -/
def execMeterFinal (s : State) : Host.Outcome State Fault Refusal :=
  command s 0x11 fun s => match (s.world s.mgmtWorld).energy.final with
    | some b => endCommand s 0 b
    | none => endCommand s 4 []

/-- The start-status word (R386). -/
def startWord (a : Assayer) : Nat :=
  (if a.minimal then 2 ^ 31 else 0) + a.minDie % 4 * 2 ^ 26 + a.fwImage % 4 * 2 ^ 24 + a.lastReason % 256 * 2 ^ 16 +
    a.reason % 256 * 2 ^ 8 + min a.fails 255

/-- START_STATUS (R386). -/
def execStartStatus (s : State) : Host.Outcome State Fault Refusal :=
  command s 0x20 fun s => endCommand s 0 (leBytes 4 (startWord s.assayer))

/-- An event's 32 bytes (R388). -/
def Event.bytes (e : Event) : List Byte :=
  leBytes 8 e.time.toNat ++ leBytes 4 e.starts.toNat ++ leBytes 1 e.code ++ leBytes 1 e.world ++ leBytes 2 e.unit ++
    (e.data ++ List.replicate 16 0).take 16

/-- The entry of a die's ring for event n (R387): the latest event written there, or zeros. -/
def ringEntry (b : BlackBox) (n : Nat) : List Byte :=
  match (List.range b.events.length).find? fun k => (b.next - 1 - k) % 2048 = n % 2048 with
  | some k => ((b.events[k]?).map Event.bytes).getD (List.replicate 32 0)
  | none => List.replicate 32 0

/-- BBOX_READ (R388); in minimal mode only the die that runs has its ring (R375, R384). -/
def execBboxRead (s : State) : Host.Outcome State Fault Refusal :=
  command s 0x30 fun s =>
    let die := s.mgmtWord 1
    let n := s.mgmtWord 3
    if 4 ≤ die || n = 0 || 128 < n then endCommand s 1 []
    else if s.assayer.minimal && die ≠ s.assayer.minDie then endCommand s 2 []
    else
      let b := s.assayer.boxes.getD die {}
      endCommand s 0 ((List.range n).flatMap fun k => ringEntry b (s.mgmtWord 2 + k))

/-- The flip of a stored image's byte that the command words ask for, checked in R374's order; the slot's frame is
written whatever its type is by then (notes/assumptions/101.md). -/
def flipContext (s : State) : State :=
  let w := s.mgmtWorld
  let x := s.world w
  let w0 := s.mgmtWord 0
  let off := s.mgmtWord 1
  let mask := s.mgmtWord 2
  if w = 0 || w0 / 2 ^ 17 ≠ 0 || w0 / 2 ^ 14 % 4 ≠ 0 || 256 ≤ mask then endCommand s 1 []
  else if x.tdi ≠ .unlocked then endCommand s 6 []
  else if x.stat ≠ 4 then endCommand s 7 []
  else if slotSize x ≤ off then endCommand s 8 []
  else
    let key := physKey (slotAddr x (w0 / 2 ^ 16 % 2) + off)
    let s := rewriteByte s w key (· ^^^ BitVec.ofNat 8 mask)
    let f := keyFrame key
    endCommand (boxEvent s (if isAperture f then s.assayer.minDie else dieOfFrame f) 6 w 0 (leBytes 4 off ++ leBytes 4 mask ++ List.replicate 8 0)) 0 []

/-- CTX_FLIP (R374). -/
def execCtxFlip (s : State) : Host.Outcome State Fault Refusal := command s 0x31 flipContext

/-- A flip whose GO came before a RESTORE is performed before that RESTORE's header check (R374). -/
def flipFirst (s : State) : State :=
  if s.mgmt.go && s.mgmtWord 0 % 256 = 0x31 && !mgmtWaits s then flipContext s else s

/-- POWER_CAP (R375, R389). -/
def execPowerCap (s : State) : Host.Outcome State Fault Refusal :=
  command s 0x40 fun s =>
    let watts := s.mgmtWord 1
    if watts < 1000 || 3200 < watts then endCommand s 1 []
    else endCommand { s with assayer := { s.assayer with cap := watts } } 0 []

/-- The grant entry that GRANT_WRITE's words give, over an old one whose USES it keeps (R376). -/
def grantOf (old : Grant) (w1 w2 w3 : Nat) : Grant :=
  { gv := w1 % 2 = 1, perm := BitVec.ofNat 4 (w1 / 2 ^ 4), closing := w1 / 2 ^ 8 % 2 = 1, declass := w1 / 2 ^ 9 % 2 = 1
    owner := w1 / 2 ^ 10 % 64, first := w2, nframes := w3, uses := old.uses }

/-- The refusal of a GRANT_WRITE (R376). -/
def grantRefusal (x : World) (old new : Grant) (w1 : Nat) : Option Nat :=
  if w1 / 2 ^ 24 % 256 = 0 || w1 / 2 ^ 16 % 256 ≠ 0 || w1 / 2 % 8 ≠ 0 || (new.gv && new.nframes = 0) then some 1
  else if old.uses ≠ 0 && { new with closing := old.closing } ≠ old then some 5
  else if x.frozen then some 6
  else none

/-- GRANT_WRITE (R376): a write with CLOSING sends a grant purge and completes with its last acknowledgement; one that would change a
frozen table takes the interface to ERROR (R365). -/
def execGrantWrite (s : State) : Host.Outcome State Fault Refusal :=
  command s 0x50 fun s =>
    let w := s.mgmtWorld
    let w1 := s.mgmtWord 1
    let g := w1 / 2 ^ 24 % 256
    let old := s.grant w g
    let new := grantOf old w1 (s.mgmtWord 2) (s.mgmtWord 3)
    match grantRefusal (s.world w) old new w1 with
    | some 6 => endCommand (if new = old then s else tdiError s w) 6 []
    | some n => endCommand s n []
    | none =>
      let s := s.setGrant w g new
      if new.closing then (startPurge s w (.grant g) [] [] [] .management).2 else endCommand s 0 []

/-- GRANT_READ (R376). -/
def execGrantRead (s : State) : Host.Outcome State Fault Refusal :=
  command s 0x51 fun s =>
    let g := s.mgmtWord 1 / 2 ^ 24 % 256
    if g = 0 then endCommand s 1 [] else endCommand s 0 (s.grant s.mgmtWorld g).bytes

end Sys2Proof.Machine
end

