-- ==== Sys2Proof/Machine/Image.lean ====
section
/-! DEFINITION. Context images (spec/18_package_trust.md R340, R344, R349 to R352): the estimate, the header, the replay entries and the
seven sections. -/

namespace Sys2Proof.Machine

open Sys2Proof

/-! ## The estimate (R340) -/

/-- Whether something that a team of a world has left is outstanding: a Ladle operation, a posted operation, or one that is complete and
not posted (R195). -/
def leavesWork (s : State) (w t : Nat) : Bool :=
  (s.ladles.any fun e => e.2.team = some t) || ((s.world w).posted.any fun e => e.team = t) ||
    (s.quads.any fun q => q.2.table.any fun e => e.team = t) ||
    s.groups.any fun g => teamOfGid g.1 = t && g.2.conv.any fun c => c.2.complete

/-- Whether a team belongs to what a save holds: it has not ended, or its work is outstanding. -/
def Team.isKept (s : State) (w t : Nat) (tm : Team) : Bool := tm.world = w && (!tm.ended || leavesWork s w t)

/-- The teams of a world that a save holds. -/
def liveTeams (s : State) (w : Nat) : List Nat :=
  (List.filter (fun e : Nat × Team => e.2.isKept s w e.1) s.teams).map (·.1)

/-- The bytes counted for a team: Bench, spill and queue-area lines, tiles and groups. -/
def teamEstimate (l : Launch) : Nat :=
  129 * ((l.bench + 127) / 128 + (l.roles.map fun r => r.groups * (r.spill / 128)).sum + (if l.poolMode then 0 else 9)) +
    4360 * l.tileCount + (l.roles.map fun r => r.groups * (512 + 32 * (5 * r.regs + 448))).sum

/-- The latches held for a world's groups and passes, by quad. -/
def worldLatches (s : State) (w : Nat) : List Nat :=
  (List.filter (fun e : Nat × Group => (s.team (teamOfGid e.1)).world = w) s.groups).flatMap (fun e =>
    e.2.conv.filterMap fun c => c.2.latch) ++
  s.quads.flatMap (fun q => q.2.table.filterMap fun e => if (s.team e.team).world = w then (match e.op with
    | .pass _ _ _ _ _ _ _ latch => latch
    | _ => none) else none)

/-- The service calls that a world waits for. -/
def serviceWaits (s : State) (w : Nat) : Nat :=
  (List.filter (fun e : Nat × Service => e.2.world = w && isServed s e.1 e.2) s.services).length

/-- The request entries of a world's cores (R17, R274): those of its atomics and cell operations, and of its segments that have started
or, queued again, have a REQID of their own (R318, R344). -/
def worldRequests (s : State) (w : Nat) : Nat :=
  (List.filter (fun e : Nat × Request => e.2.world = w && e.2.asked.holdsEntry) s.requests).length +
    s.ladles.foldl (fun n e => if e.2.world = w then
      n + (List.filter (fun g : Nat × Segment => g.2.state != .queued || g.2.reqid.isSome) e.2.segs).length else n) 0

/-- The chunks of a world: of its launches' Crucible allocations, and of the pools of its clusters. -/
def worldChunks (s : State) (w : Nat) (clusters : List Nat) : Nat :=
  ((List.filter (fun e : Nat × Launch => e.2.world = w) s.launches).map fun e =>
    (e.2.crucChunks.map fun d => d.2.length).sum + (e.2.ownChunks.map fun d => d.2.length).sum).sum +
  (clusters.map fun c => if (s.launch (s.cluster c).launch).poolMode then 4 * (s.cluster c).cores.length else 0).sum

/-- Whether a registered range belongs to a team of a world: a Ladle operation or a tile load registered it (R279, R237). -/
def rangeOf (s : State) (w : Nat) (r : Range) : Bool :=
  (match s.ladles.find? r.op with
    | some o => o.world = w && o.team.isSome
    | none => false) ||
  s.quads.any fun q => q.2.table.any fun e => (s.team e.team).world = w && (match e.op with
    | .load _ _ _ op => op = r.op
    | _ => false)

/-- The launches and the clusters of those teams. -/
def liveLaunches (s : State) (w : Nat) : List Nat := ((liveTeams s w).map fun t => (s.team t).launch).eraseDups
def liveClusters (s : State) (w : Nat) : List Nat := ((liveTeams s w).map fun t => (s.team t).cluster).eraseDups

/-- The estimate of R340. -/
def estimate (s : State) (w : Nat) : Nat :=
  let teams := liveTeams s w
  let launches := liveLaunches s w
  let clusters := liveClusters s w
  let chunks := worldChunks s w clusters
  let ranges := (s.ranges.filter (rangeOf s w)).length
  let posted := (s.quads.map fun q => (q.2.table.filter fun e => (s.team e.team).world = w).length).sum
  256 + 112 + 256 * launches.length + 64 * clusters.length + (teams.map fun t => teamEstimate (s.launch (s.team t).launch)).sum +
    16 * ranges + 1168 * (worldLatches s w).length + 66048 * chunks + 64 * (worldRequests s w + serviceWaits s w) + 64 * posted

/-- Whether the context area holds an image of the estimate (R339). -/
def imageFits (s : State) (w : Nat) : Bool := estimate s w ≤ 32768 * (s.world w).wctxn

/-! ## The header and the replay entries (R344, R349) -/


/-- Where nothing is: the core of what belongs to a saved world. -/
def noPlace : Nat := 65536

/-- Bytes 0 to 63 of a header (R349). -/
def headerBytes (w savectr length : Nat) : List Byte :=
  leBytes 4 0x415A4358 ++ leBytes 2 1 ++ leBytes 1 w ++ leBytes 1 1 ++ leBytes 8 savectr ++ leBytes 8 length ++
    leBytes 8 savectr ++ leBytes 4 w ++ List.replicate 28 0

/-- The near address by which a team names a memory key. -/
def nearName (s : State) (team key : Nat) : Nat :=
  let tm := s.team team
  let off := key % 2 ^ 64
  if key / 2 ^ 64 = tm.bench then off else if key / 2 ^ 64 = (s.cluster tm.cluster).pool then poolBase + off else crucBase + off

/-- A replay entry's 64 bytes (R344). -/
def replayBytes (reqid kind opc size cb target operand near dest : Nat) : List Byte :=
  leBytes 8 reqid ++ leBytes 1 kind ++ leBytes 1 opc ++ leBytes 2 size ++ leBytes 4 cb ++ leBytes 8 target ++
    leBytes 16 operand ++ leBytes 8 near ++ leBytes 4 dest ++ List.replicate 12 0

/-- The address by which a world names a virtual address on a rank, or on the package (R406). -/
def targetAddr (rank : Option Nat) (va : Nat) : Nat :=
  match rank with
  | some r => 2 ^ 63 + r * 2 ^ 51 + va % 2 ^ 51
  | none => va

/-- The replay entry of a segment's request, of which the first piece gives the addresses. -/
def segmentEntry (s : State) (o : Ladle) (reqid : DWord) (p : Piece) (size : Nat) : List Byte :=
  let team := o.team.getD 0
  let near := fun (l : Loc) => match l with
    | .near k => nearName s team k
    | _ => 0
  let cb := (o.counter.map (nearName s team)).getD 0
  match p.src, p.dst with
  | .main va, d => replayBytes reqid.toNat 1 0 size cb (targetAddr o.rank va) 0 (near d) 0
  | x, d => replayBytes reqid.toNat 2 0 size cb (targetAddr o.rank d.offset) x.offset (near x) 0

/-- The replay entry of a segment whose request has its REQID. -/
def segmentEntries (s : State) (o : Ladle) (g : Segment) : List (List Byte) :=
  if !g.replay then []
  else match g.reqid with
    | some r => (g.pieces.head?.map fun p => segmentEntry s o r p g.bytes).toList
    | none => []

/-- The DEST word of a replay entry (R344). -/
def destWord (s : State) (tid : Nat) (d : Reg) : Nat :=
  slotOf tid * 2 ^ 22 + groupOf tid * 2 ^ 17 + (s.threadTeam tid).index * 2 ^ 13 + d.toNat

/-- The replay entry of a thread's request. -/
def requestEntry (s : State) (r : Request) : List Byte :=
  match r.asked with
  | .hostAtomic _ ord op d x e _ va _ =>
    replayBytes r.reqid.toNat 5 (ord.toNat * 64 + op.toNat * 4) (atomicSize op) 0 va (x % 2 ^ 64 + e % 2 ^ 64 * 2 ^ 64) 0
      (destWord s r.tid d)
  | .cell kind _ named _ v g _ d _ _ =>
    replayBytes r.reqid.toNat 4 kind 16 0 named.toNat (v.toNat + g.toNat * 2 ^ 64) 0 (destWord s r.tid d)
  | _ => replayBytes r.reqid.toNat 3 0 0 0 0 0 0 0

/-- The replay entries of a world; a HOSTWAIT whose result has come is held as that result (R344, R350). -/
def replayEntries (s : State) (w : Nat) : List (List Byte) :=
  (List.filter (fun e : Nat × Ladle => e.2.world = w) s.ladles).flatMap (fun e =>
    e.2.segs.flatMap fun g => segmentEntries s e.2 g.2) ++
  (List.filter (fun e : Nat × Request => e.2.world = w && e.2.replay && !(s.world w).late.any fun l => l.1 = e.1) s.requests).map
    fun e => requestEntry s e.2

/-- What the Assayer's key for an image follows from (R352). -/
def imageKey (w epoch savectr : Nat) : List Byte := leBytes 1 w ++ leBytes 8 epoch ++ leBytes 8 savectr

/-! ## The sections (R350). What each holds is the rule's; the order of the items within one and the coding of those to which the rule
gives none are the model's. -/

/-- A tag as a byte: grade [1:0], poison [2]. -/
def Tag.code (t : Tag) : Byte := BitVec.ofNat 8 (t.grade.toNat + if t.poison then 4 else 0)

/-- A register's bytes and its tag. -/
def taggedBytes (n val : Nat) (t : Tag) : List Byte := leBytes n val ++ [t.code]

/-- Bytes cut or filled with zeros to a length. -/
def fitBytes (n : Nat) (l : List Byte) : List Byte := (l ++ List.replicate n 0).take n

/-- A near line: its 128 bytes and its tag byte, P [0], grade [2:1], poison [3], W [4]; no watch is left at a save (R342). -/
def lineBytes (s : State) (k : Nat) : List Byte :=
  let l := s.line k
  s.mem.readBytes (k * 128) 128 ++
    [BitVec.ofNat 8 ((if l.present then 1 else 0) + l.tag.grade.toNat * 2 + if l.tag.poison then 8 else 0)]

/-- The first n lines of a space of the near memories. -/
def spaceLines (s : State) (sp n : Nat) : List Byte := (List.range n).flatMap fun j => lineBytes s (sp * 2 ^ 57 + j)

/-- A list of 128-byte groups as lines without presence and with clear tags. -/
def plainLines : Nat → List Byte → List Byte
  | 0, _ => []
  | n + 1, l => l.take 128 ++ [0] ++ plainLines n (l.drop 128)

/-- The queue area of a team (R206). -/
def queueArea (tm : Team) : List Byte :=
  leBytes 4 tm.head.toNat ++ leBytes 4 tm.tail.toNat ++ List.replicate 120 0 ++ (List.range 64).flatMap fun e =>
    let x := tm.entries.getD e ⟨0, 0, Tag.zero⟩
    leBytes 8 x.payload.toNat ++ leBytes 4 (x.sender % 16 + x.tag.grade.toNat * 16 + if x.tag.poison then 64 else 0) ++
      List.replicate 4 0

/-- The near lines of a team: its Bench's, and its queue area's (R340). -/
def benchLines (l : Launch) : Nat := (l.bench + 127) / 128
def queueLines (l : Launch) : Nat := if l.poolMode then 0 else 9

/-- A launch: its record's address, its format slots, and the number of its clusters with the number of each. -/
def launchBytes (s : State) (w lid : Nat) : List Byte :=
  let l := s.launch lid
  let mine := (liveClusters s w).filter fun c => (s.cluster c).launch = lid
  leBytes 8 l.record.toNat ++ (List.range 8).flatMap (fun k => leBytes 4 (l.fmt.getD k 0).toNat) ++
    leBytes 4 mine.length ++ mine.flatMap (leBytes 4)

/-- A cluster: shape, mode and index, then its queue areas or its pool. -/
def clusterBytes (s : State) (w c : Nat) : List Byte :=
  let x := s.cluster c
  let l := s.launch x.launch
  leBytes 1 l.shape ++ leBytes 1 (if l.poolMode then 1 else 0) ++ leBytes 2 x.x ++ leBytes 2 x.y ++ leBytes 2 x.z ++
    if l.poolMode then spaceLines s x.pool (x.poolSize / 128)
    else ((liveTeams s w).filter fun t => (s.team t).cluster = c).flatMap fun t => plainLines 9 (queueArea (s.team t))

/-- The team of the operation or tile load that registered a range (R279, R237). -/
def rangeTeam (s : State) (r : Range) : Option Nat :=
  ((s.ladles.find? r.op).bind (·.team)).orElse fun _ => s.quads.findSome? fun q => (q.2.table.find? fun e => match e.op with
    | .load _ _ _ op => op = r.op
    | _ => false).map (·.team)

/-- A registered range: its near address, its length and its direction. -/
def rangeBytes (s : State) (t : Nat) (r : Range) : List Byte :=
  fitBytes 16 (leBytes 4 (nearName s t r.lo) ++ leBytes 4 (r.hi - r.lo) ++ [if r.isSrc then 1 else 0])

/-- The rows of a tile that are outstanding: those of a TILEIN that have not landed (R303, R350). -/
def rowsLeft (s : State) (t n : Nat) : List Nat :=
  s.ladles.flatMap fun e => if e.2.team = some t && (e.2.tile.map (·.1)) == some n then
    e.2.segs.flatMap fun g => g.2.pieces.filterMap fun p => match p.dst with
      | .tile off => some (off / 128)
      | _ => none
    else []

/-- The tile registers of a team that an image holds, each as 4,352 bytes, its status, and its outstanding rows (R350). -/
def savedTiles (tm : Team) : List (Nat × Tile) := List.filter (fun e : Nat × Tile => e.2.v || e.2.writers ≠ 0) tm.tiles

def tileBytesOf (s : State) (t : Nat) (e : Nat × Tile) : List Byte :=
  s.mem.readBytes (tileKey s t e.1 0) tileBytes ++
    fitBytes 8 (leBytes 1 e.2.status.toNat ++ leBytes 1 e.1 ++ leBytes 5 (((rowsLeft s t e.1).eraseDups.map (2 ^ ·)).sum))

/-- A team: its Bench lines, its ranges and its tiles. -/
def teamBytes (s : State) (t : Nat) : List Byte :=
  let tm := s.team t
  spaceLines s tm.bench (benchLines (s.launch tm.launch)) ++
    (s.ranges.filter fun r => rangeTeam s r == some t).flatMap (rangeBytes s t) ++ (savedTiles tm).flatMap (tileBytesOf s t)

/-- The group state of R157, with ARRIVED held empty. -/
def groupState (g : Group) : List Byte :=
  leBytes 1 g.role ++ leBytes 1 g.seg ++ (List.range 12).flatMap (fun k => leBytes 4 (g.masks.getD k 0xFFFFFFFF).toNat) ++
    (List.range 4).flatMap fun k =>
      let c := g.convReg k
      leBytes 4 c.declared.toNat ++ leBytes 4 c.signed.toNat ++ leBytes 8 ((c.latch.map (· + 1)).getD 0)

/-- A thread: its registers with their tags, and what R350 lists beside them. -/
def threadBytes (regs : Nat) (t : Thread) : List Byte :=
  (List.range regs).flatMap (fun k => let x := t.v.getD k (untagged 0); taggedBytes 4 x.val.toNat x.tag) ++
    (List.range 32).flatMap (fun k => let x := t.p.getD k (untagged false); [BitVec.ofNat 8 (x.tag.code.toNat * 2 + if x.val then 1 else 0)]) ++
    (List.range 4).flatMap (fun k => let x := t.k.getD k (untagged 0); taggedBytes 8 x.val.toNat x.tag) ++
    (List.range 4).flatMap (fun k => let x := t.g.getD k (untagged 0); taggedBytes 16 x.val.toNat x.tag) ++
    taggedBytes 1 t.fflags.val.toNat t.fflags.tag ++ leBytes 2 t.sp ++ leBytes 4 t.pc.toNat ++ [if t.hnd then 1 else 0] ++
    leBytes 4 t.resume.toNat ++ leBytes 4 t.trapinfo.toNat ++ leBytes 4 t.trappc.toNat ++
    taggedBytes 4 t.trapval.val.toNat t.trapval.tag ++ leBytes 1 t.pending.length ++
    t.pending.flatMap fun c => leBytes 1 (causeCode c.1) ++ leBytes 4 c.2.toNat

/-- A line of a group's spill area: word n of every slot (R85), with the joined tags of its words. -/
def spillLine (s : State) (gid n : Nat) : List Byte :=
  let l := (List.range 32).map fun k => (s.thread (tidOf gid k)).spillWord n
  (l.flatMap fun x => leBytes 4 x.val.toNat) ++ [(joinTags (l.map (·.tag))).code]

/-- A group: its state, its threads that have not ended with their slots, and its spill words. -/
def groupImage (s : State) (gid : Nat) : List Byte :=
  let r := groupRole s gid
  groupState (s.group gid) ++ leBytes 4 (~~~(endedMask s gid)).toNat ++
    (groupThreads s gid).flatMap (fun tid => threadBytes r.regs (s.thread tid)) ++
    (List.range (r.spill / 128)).flatMap (spillLine s gid)

/-- What a latch belongs to: a group's convergence register, or a posted pass. -/
def latchOwner (s : State) (q : Quad) (n : Nat) : Nat :=
  ((s.groups.findSome? fun g => (List.find? (fun c : Nat × Conv => c.2.latch == some n) g.2.conv).map fun c =>
    g.1 * 4 + c.1 + 1).orElse fun _ => q.table.findSome? fun e => match e.op with
      | .pass _ _ _ _ _ _ _ latch => if latch = some n then some (2 ^ 63 + e.id) else none
      | _ => none).getD 0

/-- A latch: its 32 rows of nine words, its owner, and the Va that it was taken with. -/
def latchBytes (s : State) (q : Quad) (n : Nat) (rows : SMap LatchRow) : List Byte :=
  (List.range 32).flatMap (fun i => fitBytes 36 (((rows.getD i ⟨[], Tag.zero, Tag.zero⟩).words).flatMap fun w => leBytes 4 w.toNat)) ++
    leBytes 8 (latchOwner s q n) ++ leBytes 8 (q.latchVas.getD n 0).toNat

/-- What names a posted operation in its entry of 64 bytes. -/
def TileOp.code : TileOp → List Byte
  | .pass gid sub td tb quarter slot rows latch => [1] ++ leBytes 1 sub ++ leBytes 1 td ++ leBytes 1 tb ++ leBytes 1 quarter ++
      leBytes 4 slot.toNat ++ leBytes 8 gid ++ leBytes 8 ((latch.map (· + 1)).getD 0) ++ leBytes 4 ((rows.keys.map (2 ^ ·)).sum)
  | .zero td grade => [2] ++ leBytes 1 td ++ leBytes 1 grade.toNat
  | .load td key tag op => [3] ++ leBytes 1 td ++ [tag.code] ++ leBytes 16 key ++ leBytes 8 op
  | .store td key tag req => [4] ++ leBytes 1 td ++ [tag.code] ++ leBytes 16 key ++ leBytes 8 req
  | .read ta d items => [5] ++ leBytes 1 ta ++ leBytes 1 d.toNat ++ items.flatMap fun x => leBytes 1 (x.1 % 256)
  | .convert td ta slot tag tids => [6] ++ leBytes 1 td ++ leBytes 1 ta ++ leBytes 4 slot.toNat ++ [tag.code] ++
      leBytes 4 ((tids.map fun t => 2 ^ slotOf t).sum)
  | .tilein td op => [7] ++ leBytes 1 td ++ leBytes 8 op

def postedBytes (e : Posted) : List Byte := fitBytes 64 (leBytes 8 e.id ++ leBytes 8 e.team ++ leBytes 1 e.prio ++ e.op.code)

/-- What a quad holds for a world: its number, the latches, and the posted operations in posting order. -/
def quadBytes (s : State) (w : Nat) (q : Nat × Quad) : List Byte :=
  let held := List.filter (fun l : Nat × SMap LatchRow => (worldLatches s w).contains l.1) q.2.latches
  held.flatMap (fun l => latchBytes s q.2 l.1 l.2) ++
    (q.2.table.filter fun e => (s.team e.team).world = w).flatMap postedBytes

/-- The Crucible chunks of a world's launches on a die, of 512 lines each (R269): those of a launch's allocation there, and those of
clusters that have kept another. -/
def dieChunks (s : State) (w die : Nat) : List Byte :=
  s.launches.flatMap fun e => if e.2.world = w then (match e.2.crucSpace.find? die with
    | some sp => spaceLines s sp (512 * (e.2.crucChunks.getD die []).length)
    | none => []) ++ e.2.ownChunks.flatMap fun c =>
      if c.2.headD 0 / 64 = die then spaceLines s c.1 (512 * c.2.length) else [] else []

/-- The service calls of a world that wait, and a wait's 64 bytes. -/
def waitingCalls (s : State) (w : Nat) : List (Nat × Service) :=
  List.filter (fun e : Nat × Service => e.2.world = w && isServed s e.1 e.2) s.services

def waitBytes (s : State) (v : Service) : List Byte :=
  fitBytes 64 (leBytes 8 v.reqid.toNat ++ leBytes 4 (destWord s v.tid v.dst) ++ leBytes 4 v.index ++
    leBytes 4 (nearName s (teamOf v.tid) v.block))

/-- The recorded completions of a world (R344, R345). -/
def lateBytes (e : Nat × Late) : List Byte :=
  leBytes 8 e.1 ++ match e.2 with
    | .value old => [1] ++ leBytes 8 old
    | .unsup => [2]
    | .lost => [3]

/-- The seven sections of an image (R350): launches, clusters, teams, groups, quads, dies, entries. -/
def imageSections (s : State) (w : Nat) (entries : List (List Byte)) : List Section :=
  let teams := liveTeams s w
  let x := s.world w
  let groups := (List.filter (fun e : Nat × Group => teams.contains (teamOfGid e.1)) s.groups).map (·.1)
  let quads := List.filter (fun q : Nat × Quad => !(quadBytes s w q).isEmpty) s.quads
  let dies := (List.range 4).filter fun d => !(dieChunks s w d).isEmpty
  let waits := waitingCalls s w
  [ ⟨1, (liveLaunches s w).length, (liveLaunches s w).flatMap (launchBytes s w)⟩,
    ⟨2, (liveClusters s w).length, (liveClusters s w).flatMap (clusterBytes s w)⟩,
    ⟨3, teams.length, teams.flatMap (teamBytes s)⟩,
    ⟨4, groups.length, groups.flatMap (groupImage s)⟩,
    ⟨5, quads.length, quads.flatMap fun q => leBytes 2 q.1 ++ quadBytes s w q⟩,
    ⟨6, dies.length, dies.flatMap fun d => leBytes 1 d ++ dieChunks s w d⟩,
    ⟨7, entries.length + waits.length + x.late.length + x.doorbells.length,
      entries.flatten ++ waits.flatMap (fun e => waitBytes s e.2) ++ x.late.flatMap lateBytes ++
        x.doorbells.flatMap fun i => leBytes 2 i⟩ ]

/-- A section with its header of 16 bytes (R350). -/
def Section.full (c : Section) : List Byte := leBytes 4 c.kind ++ leBytes 4 c.count ++ leBytes 8 c.bytes.length ++ c.bytes

/-- An image: its header with its tag, and its body, the ciphertext of its sections (R349, R352). -/
def makeImage (x : World) (w savectr : Nat) (sections : List Section) (entries : List (List Byte)) : Image :=
  let plain := sections.flatMap Section.full
  let key := imageKey w x.epoch savectr
  let head := headerBytes w savectr plain.length
  let tag := (List.range 16).map (Config.cipherByte (key ++ head ++ plain) 0)
  ⟨x.epoch, head ++ tag ++ List.replicate 176 0, (List.range plain.length).map (Config.cipherByte (key ++ plain) 1), sections, entries⟩

end Sys2Proof.Machine
end

