-- ==== Sys2Proof/Machine/Worlds.lean ====
section
/-! DEFINITION. Pre-emption (spec/18_package_trust.md R338 to R354; spec/20_program_protected_preempt.md R372, R373): the estimate, the
halt, quiescence, the image, the restore; the draws and the parks that depend on them (spec/07_core.md R132, R154). What an image
holds stays where it is in the state while the world is saved: nothing of it can be reached. -/

namespace Sys2Proof.Machine

open Sys2Proof

/-- PREEMPT (R339). -/
def preempt (s : State) (w : Nat) : State :=
  let x := s.world w
  if x.stat ≠ 1 then s
  else if imageFits s w then s.setWorld w { x with stat := 2, estimate := estimate s w }
  else s.setWorld w { x with result := 3 }

def execPreempt (w : Nat) (s : State) : Host.Outcome State Fault Refusal := .next (preempt s w)

/-! ## Draws and parks (R132, R154, R372) -/

/-- Whether a core may draw now: a core draws once per cc (R132), and the draws of one cc stand in ascending order of the cores
(R372). -/
def mayDrawNow (s : State) (core : Nat) : Bool :=
  match s.lastDraw with
  | some (time, last) => time ≠ s.time || last < core
  | none => true

/-- Whether a core has a draw to make in this cc (R131, R132, R134): a bin is eligible. -/
def drawDue (s : State) (core : Nat) : Bool :=
  let s := ageBins s core
  mayDrawNow s core && (chooseBin s (s.core core).bins).isSome

/-- Whether a displaced bundle, at a chain boundary where nothing else happens to it, is still to be filed (R133). -/
def displaceDue (s : State) (x : Bundle) : Bool :=
  x.displaced && x.chain.isEmpty && x.tids.any fun tid =>
    (s.threadTeam tid).killed.isNone && (s.world (s.threadWorld tid)).stat = 1

/-- Whether a displaced bundle of a core is to be filed. -/
def shoveDue (s : State) (core : Nat) : Bool := (bundlesOf s core).any fun e => displaceDue s e.2

/-- BUNDLE_DRAW (R132): the draws of one cc stand in ascending order of the cores, and the N-th that WTEST counts acts as a PREEMPT
write (R372). -/
def execBundleDraw (core : Nat) (s : State) : Host.Outcome State Fault Refusal :=
  let s := ageBins s core
  if !drawDue s core || s.cores.any (fun e => e.1 < core && (drawDue s e.1 || shoveDue s e.1)) then .next s
  else match drawFromBins s core with
    | (s, some w) => .next (preempt s w)
    | (s, none) => .next s

/-- A group parks off-core (R154, R348): its image goes into the slot other than CUR, at a place and with bytes that the spec leaves
open, and it leaves its core. -/
def parkGroup (s : State) (gid : Nat) : State :=
  let w := (s.team (teamOfGid gid)).world
  let x := s.world w
  let (n, s) := s.free
  let plain := groupImage s gid
  let len := plain.length
  let key := physKey (slotAddr x (1 - x.cur) + 256 + n % (slotSize x - 255 - len))
  let bytes := (List.range len).map (Config.cipherByte (imageKey w x.epoch (x.saves + 1) ++ plain) (gid + 2))
  leaveCore (countHbm (writeMain s key bytes) w key len) gid

/-- GROUP_PARK (R153, R154): not while WCTXN is 0 (R348), nor where the image would not fit: the core then tries again after 2,000 cc
more of blocking (R340). -/
def execGroupPark (gid : Nat) (s : State) : Host.Outcome State Fault Refusal :=
  let w := (s.team (teamOfGid gid)).world
  if (s.groups.find? gid).isSome && !(s.group gid).offCore && wholeBlocked s gid &&
    !((groupThreads s gid).any fun tid => (s.thread tid).mayTake) && (s.world w).stat = 1 && (s.world w).wctxn ≠ 0 then
    if imageFits s w then .next (parkGroup s gid)
    else .next (s.setGroup gid { s.group gid with parkFrom := s.time })
  else .next s

/-- GROUP_RELOAD (R155): the group's image is read back (R378). -/
def execGroupReload (gid : Nat) (s : State) : Host.Outcome State Fault Refusal :=
  if (s.group gid).offCore && groupWoken s gid && mayDraw s (teamOfGid gid) then
    match reloadCore s gid with
    | some c =>
      let w := (s.team (teamOfGid gid)).world
      let x := s.world w
      .next (reloadGroup (countHbm s w (physKey (slotAddr x (1 - x.cur))) (groupImage s gid).length) gid c)
    | none => .next s
  else .next s

/-! ## The halt (R341) -/

/-- A thread taken out of its bin, wait or bundle, to run again at an address. -/
def haltAt (s : State) (tid : Nat) (pc : Word) : State :=
  let s := if (s.thread tid).place == .filed then unfileThread s tid else leaveBundle s tid
  s.modThread tid fun t => { t with pc := pc, place := .waiting .halted, retries := false }

/-- A thread of a HALTING world halted where it may be: at a chain boundary, or before a unit that has had no effect; its waits are
discarded. At the boundary of a chain that it has issued a pending cause is taken first, and a thread that has entered its handler
halts after the first chain of it (R93). A svc that still waits for an entry of its ring, which R341 and R342 do not name, halts at
the head of its chain and issues the call again after the restore (DESIGN CHOICE, notes/assumptions/49.md). -/
def haltThread (s : State) (tid : Nat) : State :=
  let t := s.thread tid
  if s.isKilled tid && !(match t.place with
      | .inBundle b => !(s.bundle b).chain.isEmpty
      | _ => false) then settleTeam (endNow s tid) (teamOf tid)
  else match t.place with
    | .ended => s
    | .filed => if t.enters then s else haltAt s tid t.pc
    | .inBundle b =>
      let x := s.bundle b
      if x.chain.isEmpty then
        (if t.mayTake then takePending s tid x.pc else if t.enters then s else haltAt s tid x.pc)
      else if x.held && !x.finished.contains tid && t.request.isNone then haltAt s tid x.head
      else s
    | .waiting w => match w with
      | .counter _ _ head | .ring _ _ head => haltAt s tid head
      | .line _ _ _ _ | .queue => haltAt s tid t.pc
      | .mask m => haltAt (withdraw s tid m) tid t.pc
      | .service _ _ | .answer _ | .halted => s

/-- THREAD_HALT (R341). -/
def execThreadHalt (tid : Nat) (s : State) : Host.Outcome State Fault Refusal :=
  if (s.threads.find? tid).isSome && (s.world (s.threadWorld tid)).stat = 2 then .next (haltThread s tid) else .next s

/-! ## Quiescence (R342) -/

/-- Whether a thread is halted, or waits for what the save records. -/
def isHalted (t : Thread) : Bool :=
  match t.place with
  | .ended => true
  | .waiting .halted | .waiting (.service _ _) | .waiting (.answer _) => true
  | _ => false

/-- Whether a segment becomes a replay entry: it reads host memory or touches another package, and has not landed. One that has read its
bytes is judged by where they came from (R311). -/
def replays (s : State) (o : Ladle) (g : Segment) : Bool :=
  match g.state with
  | .queued | .paging _ _ => recordable s o g
  | .remote => true
  | .started _ => g.fromHost
  | _ => false

/-- Whether the tile and matrix operations of a world on a quad are complete, but for those that wait for a TILEIN whose rows become
replay entries. -/
def tableQuiet (s : State) (w : Nat) (x : Quad) : Bool :=
  (x.table.filter fun e => (s.team e.team).world = w).all fun e =>
    (e.ready.isNone || e.op.isTileIn) && !x.passes.contains e.id && !x.ports.any fun p => p.1 = e.id

/-- Whether a segment is a row of a TILEIN whose entry waits for another tile operation: it is recorded with that entry,
unperformed. -/
def waitsForTile (s : State) (o : Ladle) (g : Segment) : Bool :=
  g.state == .queued && (match o.tile with
    | some (_, entry) => (s.quad (quadOf o.core)).table.any fun e => e.id = entry && e.ready.isNone
    | none => false)

/-- Whether a matrix operation of a world that every member has signed can still be posted before the save: it is, unless its quad's
table is full of entries that the save records (R217, R233). -/
def postsLater (s : State) (w : Nat) (e : Nat × Group) : Bool :=
  (s.team (teamOfGid e.1)).world = w && (e.2.conv.any fun c => c.2.complete) && tableRoom s (quadOf e.2.core)

/-- Whether every outstanding operation of a world has reached its outcome. -/
def quiesced (s : State) (w : Nat) : Bool :=
  (s.late.all fun e => s.threadWorld e.tid ≠ w) && (s.groups.all fun e => !postsLater s w e) &&
  (s.threads.all fun e => s.threadWorld e.1 ≠ w || isHalted e.2) &&
    (s.requests.all fun e => e.2.world ≠ w || e.2.replay) &&
    (s.ladles.all fun e => e.2.world ≠ w || e.2.segs.all fun g => replays s e.2 g.2 || waitsForTile s e.2 g.2) &&
    s.quads.all fun q => tableQuiet s w q.2

/-- A segment as a replay entry: what it has read is dropped; one whose packet is out keeps its REQID. -/
def replaySegment (s : State) (op n : Nat) (g : Segment) : State :=
  match s.ladles.find? op with
  | none => s
  | some o => if !replays s o g then s else
    let state := match g.state with
      | .remote => SegState.remote
      | _ => .queued
    let s := s.setLadle op (o.setSeg n { g with state := state, replay := true, pins := [], paged := [], fromHost := false })
    g.pins.foldl unpin s

/-- The segments of a world that replay entries stand for recorded (R342). -/
def replayAll (s : State) (w : Nat) : State :=
  (List.filter (fun e : Nat × Ladle => e.2.world = w) s.ladles).foldl (fun s e =>
    e.2.segs.foldl (fun s g => replaySegment s e.1 g.1 g.2) s) s

/-- The near lines and the tiles of a world that hold an error read: it is found as the save reads them (R180, R212, R350). -/
def senseWorld (s : State) (w : Nat) : State :=
  s.latent.foldl (fun s e => match e with
    | .data g => senseLineOf s w (g / 16)
    | .tags k => senseLineOf s w k
    | .tile t n _ => if (s.team t).world = w then detectTile s t n else s
    | .register _ _ _ => s) s
where
  /-- A line read where it belongs to the world. -/
  senseLineOf (s : State) (w k : Nat) : State :=
    match lineOwner s k with
    | some (_, x, _) => if x = w then detectLine s k else s
    | none => s

/-- WORLD_QUIESCED (R342): replay entries are recorded, owned lines recalled, and the save begins. -/
def execWorldQuiesced (w : Nat) (s : State) : Host.Outcome State Fault Refusal :=
  if (s.world w).stat ≠ 2 || !quiesced s w then .next s
  else
    let s := replayAll s w
    let s := s.quads.foldl (fun s q => (q.2.owned.filter fun o => o.via.world = w).foldl (fun s o =>
      recallFrom s q.1 o.line) s) s
    let s := senseWorld { s with early := s.early.filter fun e => s.threadWorld e.tid ≠ w } w
    .next (s.setWorld w { s.world w with stat := 3 })

/-- Whether a request may become a replay entry: an atomic to the host aperture, or a cell operation to another package. -/
def mayReplay (a : Asked) : Bool :=
  match a with
  | .hostAtomic _ _ _ _ _ _ _ _ _ => true
  | .cell _ (some _) _ _ _ _ _ _ _ _ => true
  | _ => false

/-- The answers to a cell request that have arrived dropped: the world is about to be saved (R347). -/
def dropAnswers (s : State) (reqid : DWord) : State :=
  { s with fabric := { s.fabric with inbox := s.fabric.inbox.filter fun e => !(e.2.packet.op = 6 && e.2.packet.reqid = reqid) } }

/-- The threads of a request's unit leave their bundles: they run on at the next unit once the answer comes, which a replay brings. -/
def replayRequest (s : State) (id : Nat) (r : Request) : State :=
  let s := dropAnswers s r.reqid
  let s := { s with requests := s.requests.insert id { r with replay := true, pin := none } }
  let s := match r.pin with
    | some f => unpin s f
    | none => s
  (s.threads.keys.filter fun tid => (s.thread tid).request == some id).foldl (fun s tid => match (s.thread tid).place with
    | .inBundle b =>
      let next := match (s.bundle b).chain with
        | u :: _ => u.addr + BitVec.ofNat 32 (4 * u.len)
        | [] => (s.bundle b).pc
      (leaveBundle s tid).modThread tid fun t => { t with pc := next, place := .waiting (.answer id) }
    | _ => s) s

/-- REPLAY_TIMEOUT (R342): a request of a HALTING world unanswered within 20 or 50 µs. -/
def execReplayTimeout (req : Nat) (s : State) : Host.Outcome State Fault Refusal :=
  match s.requests.find? req with
  | some r =>
    if (s.world r.world).stat = 2 && mayReplay r.asked && !r.replay then .next (replayRequest s req r) else .next s
  | none => .next s

/-! ## The save (R346) -/

/-- The world's posted operations and latches leave the quads (R350). -/
def leaveQuads (s : State) (w : Nat) : State :=
  let ids := worldLatches s w
  s.quads.foldl (fun s q =>
    let mine := q.2.table.filter fun e => (s.team e.team).world = w
    let held := List.filter (fun e : Nat × SMap LatchRow => ids.contains e.1) q.2.latches
    if mine.isEmpty && held.isEmpty then s
    else
      let x := s.world w
      let s := s.setWorld w { x with
        posted := x.posted ++ mine
        latches := held.foldl (fun m e => SMap.insert m e.1 e.2) x.latches
        latchVas := held.foldl (fun m e => SMap.insert m e.1 (q.2.latchVas.getD e.1 0)) x.latchVas }
      s.setQuad q.1 { q.2 with
        table := q.2.table.filter fun e => (s.team e.team).world ≠ w
        latches := List.filter (fun e : Nat × SMap LatchRow => !ids.contains e.1) q.2.latches
        latchVas := List.filter (fun e : Nat × Reg => !ids.contains e.1) q.2.latchVas }) s

/-- What a world has on the package passes out of the quads (R25): its groups, operations and requests are on no core, its chunks are
returned. -/
def leavePackage (s : State) (w : Nat) : State :=
  let mine := s.ranges.filter (rangeOf s w)
  let s := leaveQuads s w
  { s with
    groups := s.groups.map fun e => (e.1, if (s.team (teamOfGid e.1)).world = w then { e.2 with offCore := true, granules := [] } else e.2)
    ranges := s.ranges.map fun r => if mine.contains r then { r with quad := noPlace } else r
    ladles := s.ladles.map fun e => (e.1, if e.2.world = w then { e.2 with core := noPlace } else e.2)
    requests := s.requests.map fun e => (e.1, if e.2.world = w then { e.2 with core := noPlace } else e.2)
    launches := s.launches.map fun e => (e.1, if e.2.world = w then { e.2 with crucChunks := [], ownChunks := [] } else e.2)
    teams := s.teams.map fun e => (e.1, if e.2.world = w then
      { e.2 with tiles := e.2.tiles.map fun t => (t.1, { t.2 with d := false }) } else e.2) }

/-- SAVE_COMPLETE (R346): the image goes to the slot other than CUR, then the counter and CUR change in one step. -/
def execSaveComplete (w : Nat) (s : State) : Host.Outcome State Fault Refusal :=
  if (s.world w).stat ≠ 3 then .next s
  else
    let x := s.world w
    let slot := 1 - x.cur
    let entries := replayEntries s w
    let img := makeImage x w (x.saves + 1) (imageSections s w entries) entries
    let key := physKey (slotAddr x slot)
    let bytes := img.header ++ img.body
    let s := leavePackage (countHbm (writeMain s key bytes) w key bytes.length) w
    .next (s.setWorld w { s.world w with saves := x.saves + 1, cur := slot, stat := 4, result := 0, image := some img })

/-! ## The restore (R353, R354) -/

/-- The header check that a RESTORE of a slot fails first, by its result code (R353). -/
def headerRefusal (s : State) (w slot : Nat) : Option Nat :=
  let x := s.world w
  let h := s.mem.readBytes (physKey (slotAddr x slot)) 256
  let num := fun (a n : Nat) => leValue ((h.drop a).take n)
  let flags := num 7 1
  if num 0 4 ≠ 0x415A4358 || num 4 2 ≠ 1 || num 6 1 ≠ w || flags % 2 = 0 || 4 ≤ flags || num 24 8 ≠ num 8 8 || num 32 4 ≠ w ||
      (((h.drop 36).take 28).any (· ≠ 0)) || ((h.drop 80).any (· ≠ 0)) then some 1
  else if num 8 8 ≠ x.saves then some 1
  else match x.image with
    | none => some 2
    | some img =>
      if img.epoch = x.epoch && h = img.header &&
        s.mem.readBytes (physKey (slotAddr x slot + 256)) img.body.length = img.body then none
      else some 2

/-- The bytes of an image that its check reads (R353, R378): the header, and where the tag is checked the body of its LENGTH. -/
def countCheck (s : State) (w slot : Nat) : State :=
  let at_ := slotAddr (s.world w) slot
  let s' := countHbm s w (physKey at_) 256
  if headerRefusal s w slot = some 1 then s'
  else countHbm s' w (physKey (at_ + 256)) (min (s.mem.readLe (physKey (at_ + 16)) 8) (slotSize (s.world w) - 256))

/-- RESTORE (R353): accepted only while SAVED; its header check comes after a flip that came before it (R374). -/
def restore (s : State) (w : Nat) : State :=
  if (s.world w).stat ≠ 4 then s
  else
    let s := flipFirst s
    let x := s.world w
    let counted := countCheck s w x.rslot
    match headerRefusal s w x.rslot with
    | some n => counted.setWorld w { x with result := n }
    | none => counted.setWorld w { x with stat := 5 }

def execRestore (w : Nat) (s : State) : Host.Outcome State Fault Refusal := .next (restore s w)

/-- The teams of a cluster that a save holds. -/
def clusterTeams (s : State) (c : Nat) : List (Nat × Team) :=
  List.filter (fun e : Nat × Team => e.2.cluster = c && e.2.isKept s e.2.world e.1) s.teams

/-- What a restored team demands of its core (R148): all of it, or, of one that has ended, the Bench that its operations hold. -/
def Team.demand (l : Launch) (tm : Team) : Nat × Nat × Nat :=
  if tm.ended then (0, 0, demandBench l.bench l.roles l.poolMode)
  else (demandGranules l.roles, demandGroups l.roles, demandBench l.bench l.roles l.poolMode)

/-- The quads under a list of cores whose slices give a launch's pool. -/
def poolQuads (l : Launch) (cores : List Nat) : List Nat := if l.poolMode then (cores.map quadOf).eraseDups else []

/-- Whether a cluster that names the Crucible allocation of a space keeps it on a die where its launch has another (R269). -/
def keepsOwn (l : Launch) (die sp : Nat) : Bool :=
  match l.crucSpace.find? die with
  | some x => x ≠ sp
  | none => false

/-- Whether the Crucible allocation of a cluster has its chunks on a die, or finds them (R269, R331). -/
def chunksFit (s : State) (l : Launch) (cruc : Option Nat) (cores : List Nat) : Bool :=
  let die := dieOf (cores.headD 0)
  (match cruc with
    | some sp => if keepsOwn l die sp then (l.ownChunks.find? sp).isSome else (l.crucChunks.find? die).isSome
    | none => (l.crucChunks.find? die).isSome) || (crucChunksFor s l die (poolQuads l cores)).isSome

/-- Whether a cluster is restored on a list of cores: granted, with room for every team (R149), for the pool (R204) and for the
launch's Crucible allocation (R269). -/
def coresFit (s : State) (cid : Nat) (cores : List Nat) : Bool :=
  let c := s.cluster cid
  let l := s.launch c.launch
  let ts := clusterTeams s cid
  let quads := (cores.map quadOf).eraseDups
  dieRuns s (dieOf (cores.headD 0)) && chunksFit s l c.cruc cores && (quads.all fun q => (s.world l.world).quads.getLsbD q && quadClear s l.world q &&
    tilesUsed s q + (ts.filter fun e => quadOf (cores.getD e.2.index 0) = q).length * l.tileCount ≤ 240 &&
    (!l.poolMode || chunksUsed s q + 16 ≤ 32)) &&
  (ts.all fun e =>
    let core := cores.getD e.2.index 0
    let d := e.2.demand l
    granulesUsed s core + d.1 ≤ 384 && (residentGroups s core).length + d.2.1 ≤ 48 && benchUsed s core + d.2.2 ≤ 524288)

/-- A cluster's teams and groups on the cores chosen for it, their granule maps filled. Its Crucible bytes stay the ones that it had;
a later cluster of the launch on that die joins them (R269, R347). -/
def seat (s : State) (cid : Nat) (cores : List Nat) : State :=
  let c := s.cluster cid
  let l := s.launch c.launch
  let die := dieOf (cores.headD 0)
  let s := match c.cruc with
    | none => s
    | some sp =>
      let fresh := (crucChunksFor s l die (poolQuads l cores)).getD []
      if keepsOwn l die sp then
        s.setLaunch c.launch { l with
          ownChunks := if (l.ownChunks.find? sp).isSome then l.ownChunks else l.ownChunks.insert sp fresh }
      else s.setLaunch c.launch { l with
        crucSpace := if (l.crucSpace.find? die).isSome then l.crucSpace else l.crucSpace.insert die sp
        crucChunks := if (l.crucChunks.find? die).isSome then l.crucChunks else l.crucChunks.insert die fresh }
  let s := (clusterTeams s cid).foldl (fun s e =>
    let core := cores.getD e.2.index 0
    let s := s.setTeam e.1 { s.team e.1 with core := core }
    let gids := (s.groups.keys.filter fun g => teamOfGid g = e.1)
    let s := gids.foldl (fun s g => s.setGroup g { s.group g with core := core }) s
    (gids.filter fun g => !(groupThreads s g).isEmpty).foldl fillGranules s) s
  { s with clusters := s.clusters.insert cid { c with cores := cores } }

/-- A cluster restored whole: onto the rectangle that it left, or the first that fits in the order of R331. -/
def placeBack (s : State) (cid : Nat) (old : List Nat) : Option State :=
  let shape := (s.launch (s.cluster cid).launch).shape
  ((old :: (rectangles shape).map (rectCores shape)).find? (coresFit s cid)).map (seat s cid)

/-- The allocations of a world's launches on dies where they have no cluster left and distribute none are returned (R269). -/
def dropChunks (s : State) (w : Nat) : State :=
  (List.filter (fun e : Nat × Launch => e.2.world = w) s.launches).foldl (fun s e => returnChunks s e.1 (s.launch e.1)) s

/-- The chunks of a world's launches taken again on the other dies where they hold an allocation. -/
def retakeChunks (s : State) (w : Nat) : Option State :=
  (List.filter (fun e : Nat × Launch => e.2.world = w) s.launches).foldl (fun o e =>
    (s.launch e.1).crucSpace.foldl (fun o d => o.bind fun s =>
      if ((s.launch e.1).crucChunks.find? d.1).isSome then some s
      else (crucChunksFor s (s.launch e.1) d.1 []).map fun ch =>
        s.setLaunch e.1 { s.launch e.1 with crucChunks := (s.launch e.1).crucChunks.insert d.1 ch }) o) (some s)

/-- Whether a COPY of a world has a quad to run on, where it has one (R322). -/
def copyPlaced (s : State) (w : Nat) : Bool :=
  (s.ladles.all fun e => e.2.world ≠ w || e.2.team.isSome) || (lowestQuad s (s.world w)).isSome

/-- Every cluster of a world with a team that the save holds restored: none while one finds no rectangle (R354). A team that has ended
comes with its cluster, so that its operations run on a quad of the world (R24). -/
def placeAll (s : State) (w : Nat) : Option State :=
  let teams := liveTeams s w
  let clusters := (liveClusters s w).map fun c => (c, (s.cluster c).cores)
  let s := teams.foldl (fun s t => s.setTeam t { s.team t with core := noPlace }) s
  let s := clusters.foldl (fun s c => { s with clusters := s.clusters.insert c.1 { s.cluster c.1 with cores := [] } }) s
  let s := { s with groups := s.groups.map fun (g : Nat × Group) =>
    (g.1, if teams.contains (teamOfGid g.1) then { g.2 with core := noPlace, offCore := false, granules := [], woken := false } else g.2) }
  let s := s.setWorld w { s.world w with stat := 1 }
  if !copyPlaced s w then none
  else (clusters.foldl (fun o c => o.bind fun s => placeBack s c.1 c.2) (some s)).bind fun s => retakeChunks (dropChunks s w) w

/-- The posted operations and the latches of a world back on the quads of their teams (R350, R354), without a limit
(notes/assumptions/125.md). -/
def returnToQuads (s : State) (w : Nat) : State :=
  let x := s.world w
  let s := s.groups.foldl (fun s g =>
    if (s.team (teamOfGid g.1)).world ≠ w then s
    else g.2.conv.foldl (fun s c => match c.2.latch.bind fun l => (x.latches.find? l).map fun r => (l, r) with
      | some (l, r) =>
        let q := quadOf g.2.core
        s.setQuad q { s.quad q with
          latches := (s.quad q).latches.insert l r, latchVas := (s.quad q).latchVas.insert l (x.latchVas.getD l 0) }
      | none => s) s) s
  let s := x.posted.foldl (fun s e =>
    let q := quadOf (s.team e.team).core
    let s := match e.op with
      | .pass _ _ _ _ _ _ _ (some l) => s.setQuad q { s.quad q with
          latches := (s.quad q).latches.insert l (x.latches.getD l []), latchVas := (s.quad q).latchVas.insert l (x.latchVas.getD l 0) }
      | _ => s
    s.setQuad q { s.quad q with table := markReady s.time [] ((s.quad q).table ++ [{ e with ready := none }]) }) s
  s.setWorld w { s.world w with posted := [], latches := [], latchVas := [] }

/-- The operations and requests of a world on the cores of their teams again, and their ranges registered at the quads there (R354); a
COPY on the world's lowest-numbered granted quad. Ranges are registered without a limit (notes/assumptions/125.md). -/
def returnRequests (s : State) (w : Nat) : State :=
  let copyCore := ((lowestQuad s (s.world w)).map quadCore).getD noPlace
  { s with
    ladles := s.ladles.map fun e => (e.1, if e.2.world ≠ w then e.2 else { e.2 with core := match e.2.team with
      | some t => (s.team t).core
      | none => copyCore })
    requests := s.requests.map fun e => (e.1, if e.2.world = w then { e.2 with core := s.threadCore e.2.tid } else e.2)
    ranges := s.ranges.map fun r => match rangeTeam s r with
      | some t => if (s.team t).world = w then { r with quad := quadOf (s.team t).core } else r
      | none => r }

/-- A replay entry of an operation reissued, before any thread of the world issues anything (R344). -/
def reissueSegment (s : State) (op n : Nat) : State :=
  match s.ladles.find? op with
  | none => s
  | some o => match o.segs.find? n with
    | none => s
    | some g =>
      if !g.replay then s
      else
        let g := { g with replay := false }
        let o := o.setSeg n g
        let s := s.setLadle op o
        match g.state, rankStatus s o.world (o.rank.getD 0), g.reqid with
        | .remote, .ok, some r => sendPacket s (segmentPacket s o (s.rankEntry o.world (o.rank.getD 0)) g r)
        | .remote, st, _ => s.setLadle op (o.setSeg n { g with state := .failing st })
        | .queued, _, some _ => if channelReady s o then sourceRead (startSegment s op n o g) op else s
        | _, _, _ => s

/-- A cell operation reissued under its REQID. -/
def reissueRequest (s : State) (id : Nat) (r : Request) : State :=
  let r := { r with replay := false }
  let s := { s with requests := s.requests.insert id r }
  match r.asked with
  | .cell kind (some k) named _ v g grade _ _ _ =>
    match rankStatus s r.world k with
    | .ok =>
      sendPacket s { requestPacket s r.world (s.rankEntry r.world k) 5 (s.threadLaunch r.tid).rank 16 r.reqid
        (named.toNat % 2 ^ 51) (cellPayload kind g v) grade with inc := (s.world r.world).inc }
    | .rangeFault => giveCell s id r refusedReply 0
    | st => loseCell s id r st
  | _ => s

/-- A replay entry of a world: a segment by its operation and number, or a request. -/
inductive Replay where
  | seg (op n : Nat)
  | request (id : Nat) (r : Request)
  deriving DecidableEq, Repr

/-- The REQID of a segment that is a replay entry. -/
def Segment.replayId (g : Segment) : Option DWord := if g.replay then g.reqid else none

/-- The replay entries of a world by their REQIDs. -/
def replayOrder (s : State) (w : Nat) : SMap Replay :=
  let segs : SMap Replay := s.ladles.foldl (fun m e => if e.2.world ≠ w then m else e.2.segs.foldl (fun m g =>
    match g.2.replayId with
    | some r => SMap.insert m r.toNat (.seg e.1 g.1)
    | none => m) m) []
  (List.filter (fun e : Nat × Request => e.2.world = w && e.2.replay) s.requests).foldl
    (fun m e => SMap.insert m e.2.reqid.toNat (.request e.1 e.2)) segs

/-- The core on which a replay entry runs. -/
def Replay.core (s : State) : Replay → Nat
  | .seg op _ => ((s.ladles.find? op).map (·.core)).getD noPlace
  | .request _ r => r.core

/-- Replay entries reissued in their order: those of a core as far as its 4,096 entries reach (R17, R344). `full`: the cores that have
none free. -/
def reissueList : List Replay → List Nat → State → State
  | [], _, s => s
  | r :: rest, full, s =>
    let core := r.core s
    if full.contains core || 4096 ≤ outstanding s core then reissueList rest (core :: full) s
    else reissueList rest full (match r with
      | .seg op n => reissueSegment s op n
      | .request id r => reissueRequest s id r)

/-- The replay entries of a world reissued in ascending REQID (R344). -/
def reissue (s : State) (w : Nat) : State := reissueList ((replayOrder s w).map (·.2)) [] s

/-- The segments of a world that had not been started may start again. -/
def requeue (s : State) (w : Nat) : State :=
  (List.filter (fun e : Nat × Ladle => e.2.world = w) s.ladles).foldl (fun s e =>
    e.2.segs.foldl (fun s g => reissueSegment s e.1 g.1) s) s

/-- The results of HOSTWAIT entries that came while the world was saved (R344). -/
def takeLate (s : State) (w : Nat) : State :=
  let late := (s.world w).late
  late.foldl (fun s l => match s.requests.find? l.1 with
    | some r => match r.asked, l.2 with
      | .hostAtomic _ _ op d _ _ tag _ _, .value old => answerRequest (hostAcquire s l.1 r) l.1 r (atomicResult d op old tag 0)
      | .hostAtomic _ _ op d _ _ _ _ _, .unsup => answerRequest (hostAcquire s l.1 r) l.1 r (unsupResult d op r.guard)
      | .hostAtomic _ _ _ _ _ _ _ _ _, .lost => loseAtomic s l.1 r
      | _, _ => s
    | none => s) (s.setWorld w { s.world w with late := [] })

/-- The halted threads of a world filed at their addresses (R136, R354). -/
def fileHalted (s : State) (w : Nat) : State :=
  ((s.threads.filter fun e => e.2.place == .waiting .halted && s.threadWorld e.1 = w).map (·.1)).foldl wake s

/-- The state of a restored world loaded, once rectangles are free (R354). -/
def loadWorld (s : State) (w : Nat) : Option State :=
  if (s.world w).placed then some s
  else (placeAll s w).map fun s =>
    let s := returnRequests (returnToQuads s w) w
    s.setWorld w { s.world w with stat := 5, placed := true }

/-- The end of a restore (R354): the recorded completions are taken, the threads filed, and the save counter advances. -/
def finishRestore (s : State) (w : Nat) : State :=
  let s := takeLate (requeue (s.setWorld w { s.world w with stat := 1, placed := false }) w) w
  let bells := (s.world w).doorbells
  let s := bells.foldl (fun s i => takeDoorbell s w i) (s.setWorld w { s.world w with doorbells := [] })
  let s := fileHalted s w
  s.setWorld w { s.world w with saves := (s.world w).saves + 1, result := 0 }

/-- RESTORE_COMPLETE (R354): once rectangles are free the state is loaded and the replay entries are reissued; where a core has no entry
free for one of them the restore goes on when it has (R344). Then it ends. -/
def execRestoreComplete (w : Nat) (s : State) : Host.Outcome State Fault Refusal :=
  if (s.world w).stat ≠ 5 then .next s
  else
    match loadWorld s w with
    | none => .next s
    | some s =>
      let s := reissue s w
      if (replayOrder s w).isEmpty then .next (finishRestore s w) else .next s

end Sys2Proof.Machine
end

