-- ==== Sys2Proof/Machine/Resets.lean ====
section
/-! DEFINITION. Resets (spec/18_package_trust.md R367, R368; spec/21_package_energy.md R383 to R387; spec/22_fabric.md R400). -/

namespace Sys2Proof.Machine

open Sys2Proof

/-! ## A function's reset (R368) -/

/-- The operations of a world in flight end with FLR_ABORT; a table write that waits for its purge has been performed. -/
def abortOperations (s : State) (w : Nat) : State :=
  let s := (List.filter (fun e : Nat × Ladle => e.2.world = w) s.ladles).foldl (fun s e => sourceRead (e.2.segs.foldl (fun s g =>
    match g.2.state with
    | .purging _ => s
    | _ => failSegment s e.1 g.1 .flrAbort) s) e.1) s
  s.requests.foldl (fun s e =>
    if e.2.world ≠ w then s
    else match e.2.asked with
      | .hostAtomic _ _ _ _ _ _ _ _ (some _) => answerRequest s e.1 e.2 .none
      | _ => { s with requests := s.requests.insert e.1 { e.2 with replay := false } }) s

/-- Every rank entry of a world lost, and the other packages told of its new incarnation (R400). -/
def announceReset (s : State) (w : Nat) (inc : BitVec 5) : State :=
  let x := s.world w
  let base := x.rankBase ||| 1#64 <<< 62
  let s := s.setWorld w { x with
    inc := inc
    rankBase := base
    ranks := (x.ranks.map fun e => (e.1, e.2 ||| 1#64 <<< 62)).filter fun e => e.2 ≠ base }
  (reachedNodes s).foldl (fun s n => sendPacket s (managePacket s 8 n w w noReqid [])) s

/-- A thread of a saved world whose recorded completion is discarded: HOST_LINK meets it at the restore. -/
def dropBell (s : State) (w idx : Nat) : State :=
  match List.find? (fun e : Nat × Service => e.2.world = w && e.2.index = idx && isServed s e.1 e.2) s.services with
  | some (id, v) =>
    let s := makePending { s with services := s.services.erase id } v.tid .hostLink (v.reqid.setWidth 32)
    s.modThread v.tid fun t => match t.place with
      | .waiting (.service _ head) => { t with pc := head, place := .waiting .halted }
      | _ => t
  | none => s

/-- A HOSTWAIT result of a saved world discarded. -/
def dropLate (s : State) (id : Nat) : State :=
  match s.requests.find? id with
  | some r =>
    let s := makePending { s with requests := s.requests.erase id } r.tid .hostLink (r.reqid.setWidth 32)
    { s with threads := s.threads.map fun (e : Nat × Thread) => (e.1, if e.2.request = some id then
        { e.2 with request := none, place := match e.2.place with
          | .waiting (.answer _) => .waiting .halted
          | p => p } else e.2) }
  | none => s

/-- A restore abandoned (R368): what it has loaded leaves the package again, and what it has reissued without an answer is a replay
entry again. -/
def abandonRestore (s : State) (w : Nat) : State :=
  let s := if (s.world w).placed then
      let s := replayAll s w
      leavePackage { s with requests := s.requests.map fun e =>
        (e.1, if e.2.world = w then { e.2 with replay := true } else e.2) } w
    else s
  s.setWorld w { s.world w with stat := 4, placed := false }

/-- What STATE comes to (R368). -/
def resetState (s : State) (w : Nat) : State :=
  let x := s.world w
  match x.stat with
  | 2 | 3 =>
    let s := countCheck (clearValid s w (1 - x.cur)) w x.cur
    s.setWorld w { s.world w with result := 4, stat := if (headerRefusal s w x.cur).isNone then 4 else 0 }
  | 4 =>
    let s := x.doorbells.foldl (fun s i => dropBell s w i) s
    let s := x.late.foldl (fun s l => dropLate s l.1) s
    s.setWorld w { s.world w with doorbells := [], late := [] }
  | 5 => abandonRestore s w
  | _ => s

/-- The reset of a world's function (R368). -/
def functionReset (s : State) (w : Nat) : State :=
  let inc := (s.world w).inc + 1
  let s :=
    if (s.world w).stat = 4 || (s.world w).stat = 5 then flushWorld s w (statusCode .flrAbort)
    else abortOperations (killAndFlush s w) w
  let s := announceReset s w inc
  let s := if (s.world w).tdi = .unlocked then s else scrub s w
  resetState s w

/-! ## Cold and warm resets (R383 to R385) -/

/-- What remains of a world across a reset of the package, once its function's reset has been (R368, R385): after a cold one its key
epoch, its counters and its chain in flash, after a warm one every register, since the Reset column is that of a cold reset (R6), but no
operation, no image and no use of a grant, which lay in what is zeroed, and no session (notes/assumptions/70.md). -/
def keptWorld (cold : Bool) (x : World) : World :=
  let energy : Energy := { final := x.energy.final, stored := x.energy.stored }
  if cold then { noWorld with epoch := x.epoch, saves := x.saves, seqs := x.seqs, inc := x.inc, energy := energy }
  else { x with stat := 0, placed := false, posted := [], latches := [], latchVas := [], image := none, doorbells := [], late := []
                rekey := none, grants := x.grants.map fun g => (g.1, { g.2 with uses := 0 }), spdm := .none, energy := energy }

/-- What remains of the fabric: what has left the package, and after a warm reset the registers (R393, R394, R397). -/
def keptFabric (cold : Bool) (f : Fabric) : Fabric :=
  if cold then { sent := f.sent }
  else { sent := f.sent, node := f.node, rtsel := f.rtsel, routesel := f.routesel, routes := f.routes, drops := f.drops
         badTags := f.badTags, seqs := f.seqs, downs := f.downs }

/-- The package after a reset, before its start-up: everything at its reset value but host memory, flash, what the Assayer keeps, what
has left the package, and after a warm reset the registers. -/
def clearedPackage (s : State) (cold : Bool) : State :=
  let span := if cold then 0 else s.span
  { State.reset with
    worlds := s.worlds.map fun e => (e.1, keptWorld cold e.2)
    mem := List.filter (fun e => 2 ^ 64 ≤ e.1 && e.1 < 2 ^ 65) s.mem
    time := if cold then 0 else s.time, span := span
    turns := s.turns, turnCount := s.turnCount, freeCount := s.freeCount, nextId := s.nextId
    toHost := s.toHost, msix := s.msix, doe := s.doe, portKeys := s.portKeys
    fabric := keptFabric cold s.fabric
    mgmt := if cold then {} else { s.mgmt with go := false }
    assayer := { s.assayer with
      boxes := if cold then [] else s.assayer.boxes, cap := 3200, clock := 18, entered := true, held := [], hbm := []
      startSpan := span, intervalStart := if cold then 0 else s.time, intervalSpan := span
      checkpoint := span } }

/-- The start-up of R383 with the reason it records, 0 to 7, 0 where it succeeds. Where it does not, no port has come up; in minimal mode
none does (R384). Which image verifies and which die passes its self-test the
spec leaves to the package. -/
def startUp (s : State) (reason : Nat) : State :=
  let (n, s) := s.free
  let (m, s) := s.free
  let a := s.assayer
  let reason := reason % 8
  let minimal := decide (3 ≤ a.fails)
  let s := { s with assayer := { a with
    starts := a.starts + 1, fails := if reason = 0 then 0 else min 255 (a.fails + 1), minimal := minimal
    minDie := if minimal then n % 4 else 0, clock := if minimal then 6 else 18
    fwImage := if reason = 1 then 2 else m % 2, reason := reason
    lastReason := if reason = 0 then a.lastReason else reason, entered := decide (reason ≠ 0) } }
  let s := if minimal || reason ≠ 0 then { s with fabric := { s.fabric with dead := List.range 36 } } else s
  let s := if minimal then boxEvent s (n % 4) 9 0 0 (List.replicate 16 0) else s
  if reason = 0 then (List.range 64).foldl firstRecord s else s

/-- A reset of the package that the Assayer enters (R381, R385): the current interval ends, the FINAL records, every function's reset,
then the start-up. -/
def resetPackage (s : State) (cold : Bool) (reason : Nat) : State :=
  let s := finalRecords (closeInterval (Config.resetMeasure s.assayer.starts) s)
  startUp (clearedPackage ((List.range 64).foldl functionReset s) cold) reason

/-- COLD_RESET (R385). -/
def execColdReset (reason : Nat) (s : State) : Host.Outcome State Fault Refusal := .next (resetPackage s true reason)

/-- WARM_RESET (R385). -/
def execWarmReset (reason : Nat) (s : State) : Host.Outcome State Fault Refusal := .next (resetPackage s false reason)

/-- A reset whose start-up's outcome no event gives. -/
def resetFreely (s : State) (cold : Bool) : State :=
  let (n, s) := s.free
  resetPackage s cold (n % 8)

/-- FUNCTION_RESET (R368): that of the physical function is a warm reset (R385). -/
def execFunctionReset (w : Nat) (s : State) : Host.Outcome State Fault Refusal :=
  if w = 0 then .next (resetFreely s false) else if w < 64 then .next (functionReset s w) else .next s

/-- FATAL_ERROR (R387): the black boxes go to flash, then a cold reset. -/
def execFatalError (_ : Fatal) (s : State) : Host.Outcome State Fault Refusal :=
  .next (resetFreely { s with assayer := { s.assayer with savedBoxes := s.assayer.boxes } } true)

/-- THROTTLE (R389): over the cap or at 105 °C the core clock falls by 0.2 GHz; at 115 °C the junction trips, a fatal error. -/
def execThrottle (watts junction : Nat) (s : State) : Host.Outcome State Fault Refusal :=
  if 115 ≤ junction then execFatalError .junctionTrip s
  else if s.assayer.cap < watts || 105 ≤ junction then
    .next (boxEvent { s with assayer := { s.assayer with clock := max 1 (s.assayer.clock - 1) } } s.assayer.minDie 8 0 0 (List.replicate 16 0))
  else .next s

/-- START_RETRY (R384). -/
def execStartRetry (s : State) : Host.Outcome State Fault Refusal :=
  command s 0x21 fun s => resetFreely { s with assayer := { s.assayer with fails := 0 } } true

/-- POWER_LOSS (R385): nothing but flash and the host's memory remains, and no FINAL record is made. -/
def execPowerLoss (s : State) : Host.Outcome State Fault Refusal :=
  let s := { s with worlds := s.worlds.map fun (e : Nat × World) =>
    (e.1, { e.2 with energy := { e.2.energy with final := none, last := none } }) }
  .next (clearedPackage s true)

end Sys2Proof.Machine
end

