-- ==== Sys2Proof/Machine/Windows.lean ====
section
/-! DEFINITION. Reads and writes through the functions' windows (spec/17_package_launch.md R314, R316, R317, R319; spec/18_package_trust.md R338,
R365; spec/21_package_energy.md R375; spec/22_fabric.md R393). -/

namespace Sys2Proof.Machine

open Sys2Proof

/-- A write that would change frozen configuration is ignored and takes the interface to ERROR (R365). -/
def guarded (s : State) (w : Nat) (changes : Bool) (act : State → State) : State :=
  if (s.world w).frozen && changes then tdiError s w else act s

/-! ## Queues (R316, R319) -/

/-- A QTAIL write (R319): one that moves it backwards or past 1,024 commands is ignored and logged. -/
def writeQtail (s : State) (w q : Nat) (v : Word) : State :=
  let x := s.cmdQueue w q
  if 1024 < (v - x.head).toNat || (v - x.head).toNat < (x.tail - x.head).toNat then
    logEvent s w { kind := 0x82, detail := q, addr := v.toNat }
  else s.setCmdQueue w q { x with tail := v }

/-- QTAIL_WRITE (R319). -/
def execQtailWrite (w q : Nat) (v : Word) (s : State) : Host.Outcome State Fault Refusal :=
  .next (if q < 64 && windowOpen s w then writeQtail s w q v else s)

/-- A QCTL write (R316): STOPPED is cleared by writing 1. The priority before the first write of a cc holds until that cc ends
(R333). -/
def writeQctl (s : State) (w q : Nat) (v : Word) : State :=
  let x := s.cmdQueue w q
  s.setCmdQueue w q { x with
    wroteAt := s.time
    oldPrio := if x.wroteAt = s.time then x.oldPrio else if x.psel then some x.prio else none
    en := v.getLsbD 31, stopped := x.stopped && !v.getLsbD 30, psel := v.getLsbD 2, prio := v.toNat % 4 }

/-- QCTL_WRITE (R316). -/
def execQctlWrite (w q : Nat) (v : Word) (s : State) : Host.Outcome State Fault Refusal :=
  .next (if q < 64 && windowOpen s w then writeQctl s w q v else s)

/-! ## A world's registers (R314, R317, R338) -/

/-- A HANDLER write (R314). -/
def writeHandler (s : State) (w : Nat) (v : DWord) : State :=
  if v.toNat % 4 ≠ 0 then s else s.setWorld w { s.world w with handler := v }

/-- HANDLER_WRITE (R314). -/
def execHandlerWrite (w : Nat) (v : DWord) (s : State) : Host.Outcome State Fault Refusal :=
  .next (if windowOpen s w then writeHandler s w v else s)

/-- Whether a team of a world is resident. -/
def worldResident (s : State) (w : Nat) : Bool := s.teams.any fun e => e.2.world = w && teamResident s e.1 e.2

/-- A WROOT write accepted: the root's reference, the key epoch (R251, R352), and the counter of a world without records (R377). -/
def setRoot (s : State) (w f : Nat) : State :=
  let x := s.world w
  let s := if x.hasRoot then dropRef s (x.root, 1) else s
  let s := addRef s (f, 1)
  let e := if x.hasRoot || x.energy.stored.isSome then x.energy else { x.energy with counter := 0 }
  s.setWorld w { x with root := f, hasRoot := true, epoch := x.epoch + 1, energy := e }

/-- A WROOT write (R317, R365). -/
def writeWroot (s : State) (w : Nat) (v : Word) : State :=
  let m := s.frame v.toNat
  if !hasFrame s v.toNat || m.type ≠ 3 || m.owner ≠ w || worldResident s w then s
  else guarded s w (v.toNat ≠ (s.world w).root) fun s => setRoot s w v.toNat

/-- WROOT_WRITE (R317). -/
def execWrootWrite (w : Nat) (v : Word) (s : State) : Host.Outcome State Fault Refusal := .next (if w < 64 then writeWroot s w v else s)

/-- One quad's bit of a WQUADS write: another world that holds the quad keeps it, and world 0's log names it (R317). -/
def grantQuad (s : State) (w q : Nat) (on : Bool) : State :=
  let x := s.world w
  if !on then s.setWorld w { x with quads := x.quads &&& ~~~(1#256 <<< q) }
  else if x.quads.getLsbD q then s
  else match (List.range 64).find? fun o => o ≠ w && holdsQuad s o q with
    | some o => logEvent s 0 { kind := 0x81, detail := o, addr := q, opc := w }
    | none => s.setWorld w { x with quads := x.quads ||| 1#256 <<< q }

/-- A WQUADS write (R317): the bits that are set are frozen (R365). -/
def writeWquads (s : State) (w : Nat) (v : BitVec 256) : State :=
  guarded s w ((s.world w).quads &&& ~~~v ≠ 0) fun s =>
    (List.range 256).foldl (fun s q => grantQuad s w q (v.getLsbD q)) s

/-- WQUADS_WRITE (R317). -/
def execWquadsWrite (w : Nat) (v : BitVec 256) (s : State) : Host.Outcome State Fault Refusal := 
  .next (if w < 64 then writeWquads s w v else s)

/-- Whether a run of frames are CONTEXT frames of a world. -/
def contextRun (s : State) (w first n : Nat) : Bool := runFrames s first n fun m => m.type = 6 && m.owner = w

/-- The context area that a write of WCTX or WCTXN asks for, where R338 takes it. -/
def contextWrite (s : State) (w : Nat) (cnt : Bool) (v : Word) : Option World :=
  let x := s.world w
  if 2 ≤ x.stat || (cnt && v.toNat % 2 ≠ 0) then none
  else if cnt then (if contextRun s w x.wctx v.toNat then some { x with wctxn := v.toNat } else none)
  else if contextRun s w v.toNat (max 1 x.wctxn) then some { x with wctx := v.toNat } else none

/-- A WCTX or WCTXN write (R338, R365). -/
def writeWctx (s : State) (w : Nat) (cnt : Bool) (v : Word) : State :=
  match contextWrite s w cnt v with
  | none => s
  | some x => guarded s w (x ≠ s.world w) fun s => s.setWorld w x

/-- WCTX_WRITE (R338). -/
def execWctxWrite (w : Nat) (cnt : Bool) (v : Word) (s : State) : Host.Outcome State Fault Refusal := .next 
  (if w < 64 then writeWctx s w cnt v else s)

/-- SEALED and RSLOT of a WCTL write (R338, R384). -/
def writeSealed (s : State) (w : Nat) (v : Word) : State :=
  let x := s.world w
  let free := x.stat = 0 && !worldResident s w && !s.assayer.minimal
  s.setWorld w { x with
    isSealed := if free then v.getLsbD 31 else x.isSealed, rslot := if v.getLsbD 4 then 1 else 0 }

/-- A WCTL write (R338): SEALED and RSLOT, then KILL, PREEMPT, RESTORE and REKEY in this order. -/
def writeWctl (s : State) (w : Nat) (v : Word) : State :=
  let x := s.world w
  guarded s w (x.stat = 0 && !worldResident s w && !s.assayer.minimal && v.getLsbD 31 != x.isSealed) fun s =>
    let s := writeSealed s w v
    let s := if v.getLsbD 2 then killWorld s w else s
    let s := if v.getLsbD 0 then preempt s w else s
    let s := if v.getLsbD 1 then restore s w else s
    if v.getLsbD 3 then startRekey s w else s

/-- A WTEST write (R338, R372). -/
def writeWtest (s : State) (w : Nat) (v : Word) : State :=
  s.setWorld w { s.world w with testArm := v.getLsbD 31, testN := v.toNat % 2 ^ 24, testSeen := 0 }

/-! ## The management window (R375) -/

/-- The commands of R375. -/
def commands : List Nat := [0x10, 0x11, 0x20, 0x21, 0x30, 0x31, 0x40, 0x50, 0x51]

/-- A GO write of 1: ignored while GO reads 1; an unknown command ends with BADCMD. -/
def writeGo (s : State) (v : Word) : State :=
  if s.mgmt.go || !v.getLsbD 0 then s
  else if commands.contains (s.mgmtWord 0 % 256) then { s with mgmt := { s.mgmt with go := true } }
  else endCommand s 1 []

/-- A retype that world 0 requests through the management window (R265): as `fretype` names the new owner, in bits 5 to 0 where bit 6
is set (R308). -/
def requestRetype (s : State) (f type owner : Nat) : State :=
  (retype s 0 f (type % 16) (if owner / 64 % 2 = 1 then some (owner % 64) else none)).2

/-! ## The functions' configuration (R365) -/

/-- A write of a function's BAR0, the place of its window in the host's address space: configuration that R365 freezes. -/
def writeBar0 (s : State) (w : Nat) (v : DWord) : State :=
  if w < 64 then guarded s w (v ≠ (s.world w).bar0) fun s => s.setWorld w { s.world w with bar0 := v } else s

/-! ## Windows (R314, R338, R393) -/

/-- A write to a register of the window that every function has. -/
def writeOwn (s : State) (w off : Nat) (v : DWord) : State :=
  let lo : Word := v.setWidth 32
  let x := s.world w
  if off < 0x800 then
    let q := off / 32
    match off % 32 with
    | 0 => s.setCmdQueue w q { s.cmdQueue w q with base := v }
    | 8 => writeQctl s w q lo
    | 12 => writeQtail s w q lo
    | _ => s
  else match off with
    | 0x1000 => s.setWorld w { x with srbase := v }
    | 0x1100 => writeHandler s w v
    | 0x1200 => s.setWorld w { x with flbase := v }
    | 0x120C => s.setWorld w { x with fltail := lo }
    | _ => s

/-- A write to a register that the physical function's window holds for a world. -/
def writeWorld (s : State) (w off : Nat) (v : DWord) : State :=
  let lo : Word := v.setWidth 32
  let old := (s.world w).quads
  let part := fun (k : Nat) =>
    writeWquads s w ((old &&& ~~~((0xFFFFFFFFFFFFFFFF : BitVec 256) <<< (64 * k))) ||| (v.setWidth 256) <<< (64 * k))
  match off with
  | 0x00 => writeWroot s w lo
  | 0x08 => part 0
  | 0x10 => part 1
  | 0x18 => part 2
  | 0x20 => part 3
  | 0x28 => writeWctl s w lo
  | 0x30 => writeWctx s w false lo
  | 0x34 => writeWctx s w true lo
  | 0x38 => writeWtest s w lo
  | _ => s

/-- A write to a management or fabric register of the physical function's window. -/
def writePhysical (s : State) (off : Nat) (v : DWord) : State :=
  let lo : Word := v.setWidth 32
  match off with
  | 0x20000 => { s with mgmt := { s.mgmt with words := s.mgmt.words.set 0 lo } }
  | 0x20004 => { s with mgmt := { s.mgmt with words := s.mgmt.words.set 1 lo } }
  | 0x20008 => { s with mgmt := { s.mgmt with words := s.mgmt.words.set 2 lo } }
  | 0x2000C => { s with mgmt := { s.mgmt with words := s.mgmt.words.set 3 lo } }
  | 0x20010 => writeGo s lo
  | 0x30004 => { s with fabric := { s.fabric with rtsel := lo &&& 0x3F0FFF } }
  | 0x30010 => { s with fabric := { s.fabric with routesel := lo &&& 0xFFF } }
  | _ => s

/-- REGISTER_WRITE (R314): a write of a whole register through a function's window. A function in ERROR is answered with Unsupported
Request (R366), a virtual function's offsets from 0x8000 are ignored, and so is an offset that names no register. -/
def execRegisterWrite (fn : Nat) (off : Nat) (v : DWord) (s : State) : Host.Outcome State Fault Refusal :=
  let lo : Word := v.setWidth 32
  if 64 ≤ fn || !windowOpen s fn then .next s
  else if off = 0x100C then execSrtailWrite fn lo s
  else if off = 0x1010 then execServiceCompletionDoorbell fn lo s
  else if off < 0x8000 then .next (writeOwn s fn off v)
  else if fn ≠ 0 then .next s
  else if off < 0x9000 then .next (writeWorld s ((off - 0x8000) / 64) ((off - 0x8000) % 64) v)
  else if off = 0x30000 then execFnodeWrite lo s
  else if off = 0x30008 then execRtdataWrite v s
  else if off = 0x30018 then execRoutedataWrite v s
  else if 0x30100 ≤ off && off < 0x30300 && off % 8 = 0 then execWfabWrite ((off - 0x30100) / 8) v s
  else .next (writePhysical s off v)

/-! ## Reads (R7, R8, R314, R316, R338, R375, R393, R397) -/

/-- Reads of the registers of one queue. -/
def readQueue (x : CmdQueue) (off : Nat) : Nat :=
  match off with
  | 0 => x.base.toNat
  | 8 => (if x.en then 2 ^ 31 else 0) + (if x.stopped then 2 ^ 30 else 0) + (if x.psel then 4 else 0) + x.prio % 4
  | 12 => x.tail.toNat
  | 16 => x.head.toNat
  | _ => 0

/-- A read of a register of the window that every function has. -/
def readOwn (s : State) (w off : Nat) : Nat :=
  let x := s.world w
  if off < 0x800 then readQueue (s.cmdQueue w (off / 32)) (off % 32)
  else match off with
    | 0x1000 => x.srbase.toNat
    | 0x1008 => x.srhead.toNat
    | 0x100C => x.srtail.toNat
    | 0x1100 => x.handler.toNat
    | 0x1200 => x.flbase.toNat
    | 0x1208 => x.flhead.toNat
    | 0x120C => x.fltail.toNat
    | _ => 0

/-- A read of a register that the physical function's window holds for a world. -/
def readWorld (x : World) (off : Nat) : Nat :=
  match off with
  | 0x00 => x.root
  | 0x08 => x.quads.toNat % 2 ^ 64
  | 0x10 => x.quads.toNat / 2 ^ 64 % 2 ^ 64
  | 0x18 => x.quads.toNat / 2 ^ 128 % 2 ^ 64
  | 0x20 => x.quads.toNat / 2 ^ 192
  | 0x28 => (if x.isSealed then 2 ^ 31 else 0) + x.rslot % 2 * 16
  | 0x2C => x.stat % 8 * 2 ^ 29 + x.result % 256 * 2 ^ 16 + x.cur % 2
  | 0x30 => x.wctx
  | 0x34 => x.wctxn
  | 0x38 => (if x.testArm then 2 ^ 31 else 0) + x.testN % 2 ^ 24
  | _ => 0

/-- A WFAB value as it reads: a weight of 0 reads as 1 (R397). -/
def readWfab (v : DWord) : Nat :=
  v.toNat % 2 ^ 16 + ((List.range 4).map fun k => max 1 (v.toNat / 2 ^ (16 + 4 * k) % 16) * 2 ^ (16 + 4 * k)).sum

/-- A read of a management or fabric register of the physical function's window. -/
def readPhysical (s : State) (off : Nat) : Nat :=
  let f := s.fabric
  if 0x20000 ≤ off && off < 0x20010 then (s.mgmt.words.getD ((off - 0x20000) / 4) 0).toNat
  else if 0x21000 ≤ off && off < 0x22000 then leValue ((s.mgmt.data.drop (off - 0x21000)).take 4)
  else if off = 0x20018 + 4 * Config.frametopPlace.val then s.mgmt.frametop
  else if 0x30100 ≤ off && off < 0x30300 then readWfab (s.world ((off - 0x30100) / 8)).wfab
  else if 0x30400 ≤ off && off < 0x30520 then f.drops.getD ((off - 0x30400) / 8) 0 * 2 ^ 32 + f.badTags.getD ((off - 0x30400) / 8) 0
  else match off with
    | 0x20010 => if s.mgmt.go then 1 else 0
    | 0x20014 => s.mgmt.result.toNat
    | 0x30000 => f.node
    | 0x30004 => f.rtsel.toNat
    | 0x30008 => (s.rankEntry (f.rtsel.toNat / 2 ^ 16 % 64) (f.rtsel.toNat % 2 ^ 12)).toNat
    | 0x30010 => f.routesel.toNat
    | 0x30018 => f.routes.getD (f.routesel.toNat % 2 ^ 12) 0
    | _ => 0

/-- What a read of a whole register through a function's window returns; none where the window is closed, which answers with Unsupported
Request (R366). An offset that names no register reads 0, and so do a virtual function's from 0x8000 on, write-only registers and
reserved fields. A read changes nothing. -/
def readRegister (s : State) (fn off : Nat) : Option DWord :=
  if !windowOpen s fn then none
  else some (BitVec.ofNat 64 (
    if off < 0x8000 then readOwn s fn off
    else if fn ≠ 0 then 0
    else if off < 0x9000 then readWorld (s.world ((off - 0x8000) / 64)) ((off - 0x8000) % 64)
    else readPhysical s off))

end Sys2Proof.Machine
end

