-- ==== Sys2Proof/Machine/Dispatch.lean ====
section
/-! DEFINITION. The meaning of each instruction: one arm for each constructor. -/

namespace Sys2Proof.Machine

open Sys2Proof

def exec (i : Instr) (s : State) : Host.Outcome State Fault Refusal :=
  match i with
  | .addN32 c d a b => Sys2Proof.Machine.execAddN32 c d a b s
  | .addI32 c d a b => Sys2Proof.Machine.execAddI32 c d a b s
  | .subN32 c d a b => Sys2Proof.Machine.execSubN32 c d a b s
  | .subI32 c d a b => Sys2Proof.Machine.execSubI32 c d a b s
  | .mulB32 c d a b => Sys2Proof.Machine.execMulB32 c d a b s
  | .mulwN32 c d a b => Sys2Proof.Machine.execMulwN32 c d a b s
  | .mulwI32 c d a b => Sys2Proof.Machine.execMulwI32 c d a b s
  | .macB32 c d a b => Sys2Proof.Machine.execMacB32 c d a b s
  | .minN32 c d a b => Sys2Proof.Machine.execMinN32 c d a b s
  | .minI32 c d a b => Sys2Proof.Machine.execMinI32 c d a b s
  | .maxN32 c d a b => Sys2Proof.Machine.execMaxN32 c d a b s
  | .maxI32 c d a b => Sys2Proof.Machine.execMaxI32 c d a b s
  | .andB32 c d a b => Sys2Proof.Machine.execAndB32 c d a b s
  | .orB32 c d a b => Sys2Proof.Machine.execOrB32 c d a b s
  | .xorB32 c d a b => Sys2Proof.Machine.execXorB32 c d a b s
  | .shlB32 c d a b => Sys2Proof.Machine.execShlB32 c d a b s
  | .shrN32 c d a b => Sys2Proof.Machine.execShrN32 c d a b s
  | .shrI32 c d a b => Sys2Proof.Machine.execShrI32 c d a b s
  | .notB32 c d a => Sys2Proof.Machine.execNotB32 c d a s
  | .onesB32 c d a => Sys2Proof.Machine.execOnesB32 c d a s
  | .lzcB32 c d a => Sys2Proof.Machine.execLzcB32 c d a s
  | .tzcB32 c d a => Sys2Proof.Machine.execTzcB32 c d a s
  | .revB32 c d a => Sys2Proof.Machine.execRevB32 c d a s
  | .absI32 c d a => Sys2Proof.Machine.execAbsI32 c d a s
  | .negI32 c d a => Sys2Proof.Machine.execNegI32 c d a s
  | .sxtB8 c d a => Sys2Proof.Machine.execSxtB8 c d a s
  | .sxtB16 c d a => Sys2Proof.Machine.execSxtB16 c d a s
  | .zxtB8 c d a => Sys2Proof.Machine.execZxtB8 c d a s
  | .zxtB16 c d a => Sys2Proof.Machine.execZxtB16 c d a s
  | .fgetN32 c d a b => Sys2Proof.Machine.execFgetN32 c d a b s
  | .fgetI32 c d a b => Sys2Proof.Machine.execFgetI32 c d a b s
  | .fputB32 c d a b => Sys2Proof.Machine.execFputB32 c d a b s
  | .divN32 c d a b => Sys2Proof.Machine.execDivN32 c d a b s
  | .divI32 c d a b => Sys2Proof.Machine.execDivI32 c d a b s
  | .remN32 c d a b => Sys2Proof.Machine.execRemN32 c d a b s
  | .remI32 c d a b => Sys2Proof.Machine.execRemI32 c d a b s
  | .addN32Imm c d a im => Sys2Proof.Machine.execAddN32Imm c d a im s
  | .andB32Imm c d a im => Sys2Proof.Machine.execAndB32Imm c d a im s
  | .orB32Imm c d a im => Sys2Proof.Machine.execOrB32Imm c d a im s
  | .xorB32Imm c d a im => Sys2Proof.Machine.execXorB32Imm c d a im s
  | .shlB32Imm c d a im => Sys2Proof.Machine.execShlB32Imm c d a im s
  | .shrN32Imm c d a im => Sys2Proof.Machine.execShrN32Imm c d a im s
  | .shrI32Imm c d a im => Sys2Proof.Machine.execShrI32Imm c d a im s
  | .movB32Imm c d im => Sys2Proof.Machine.execMovB32Imm c d im s
  | .movB32 c d b => Sys2Proof.Machine.execMovB32 c d b s
  | .selB32 c d a b => Sys2Proof.Machine.execSelB32 c d a b s
  | .cmpN32Set1 c q p a b => Sys2Proof.Machine.execCmpN32Set1 c q p a b s
  | .cmpN32Set2 c q p a b => Sys2Proof.Machine.execCmpN32Set2 c q p a b s
  | .cmpI32Set1 c q p a b => Sys2Proof.Machine.execCmpI32Set1 c q p a b s
  | .cmpI32Set2 c q p a b => Sys2Proof.Machine.execCmpI32Set2 c q p a b s
  | .cmpF32Set1 c q p a b => Sys2Proof.Machine.execCmpF32Set1 c q p a b s
  | .cmpF32Set2 c q p a b => Sys2Proof.Machine.execCmpF32Set2 c q p a b s
  | .pand c p na pa nb pb => Sys2Proof.Machine.execPand c p na pa nb pb s
  | .por c p na pa nb pb => Sys2Proof.Machine.execPor c p na pa nb pb s
  | .pxor c p na pa nb pb => Sys2Proof.Machine.execPxor c p na pa nb pb s
  | .vtp c p a => Sys2Proof.Machine.execVtp c p a s
  | .ptv c d na pa => Sys2Proof.Machine.execPtv c d na pa s
  | .faddF32 c d a b => Sys2Proof.Machine.execFaddF32 c d a b s
  | .fsubF32 c d a b => Sys2Proof.Machine.execFsubF32 c d a b s
  | .fmulF32 c d a b => Sys2Proof.Machine.execFmulF32 c d a b s
  | .ffmaF32 c d a b => Sys2Proof.Machine.execFfmaF32 c d a b s
  | .fminF32 c d a b => Sys2Proof.Machine.execFminF32 c d a b s
  | .fmaxF32 c d a b => Sys2Proof.Machine.execFmaxF32 c d a b s
  | .fabsF32 c d a => Sys2Proof.Machine.execFabsF32 c d a s
  | .fnegF32 c d a => Sys2Proof.Machine.execFnegF32 c d a s
  | .frintF32 c d a => Sys2Proof.Machine.execFrintF32 c d a s
  | .fabsF16x2 c d a => Sys2Proof.Machine.execFabsF16x2 c d a s
  | .fnegF16x2 c d a => Sys2Proof.Machine.execFnegF16x2 c d a s
  | .fabsBf16x2 c d a => Sys2Proof.Machine.execFabsBf16x2 c d a s
  | .fnegBf16x2 c d a => Sys2Proof.Machine.execFnegBf16x2 c d a s
  | .faddF16x2 c d a b => Sys2Proof.Machine.execFaddF16x2 c d a b s
  | .fmulF16x2 c d a b => Sys2Proof.Machine.execFmulF16x2 c d a b s
  | .ffmaF16x2 c d a b => Sys2Proof.Machine.execFfmaF16x2 c d a b s
  | .faddBf16x2 c d a b => Sys2Proof.Machine.execFaddBf16x2 c d a b s
  | .fmulBf16x2 c d a b => Sys2Proof.Machine.execFmulBf16x2 c d a b s
  | .ffmaBf16x2 c d a b => Sys2Proof.Machine.execFfmaBf16x2 c d a b s
  | .fdot2F32F16x2 c d a b => Sys2Proof.Machine.execFdot2F32F16x2 c d a b s
  | .fdot2F32Bf16x2 c d a b => Sys2Proof.Machine.execFdot2F32Bf16x2 c d a b s
  | .cvtF32I32 c d a => Sys2Proof.Machine.execCvtF32I32 c d a s
  | .cvtF32N32 c d a => Sys2Proof.Machine.execCvtF32N32 c d a s
  | .cvtI32F32 c d a => Sys2Proof.Machine.execCvtI32F32 c d a s
  | .cvtN32F32 c d a => Sys2Proof.Machine.execCvtN32F32 c d a s
  | .cvtF32F16 c d a => Sys2Proof.Machine.execCvtF32F16 c d a s
  | .cvtF32Bf16 c d a => Sys2Proof.Machine.execCvtF32Bf16 c d a s
  | .cvtF16F32 c d a => Sys2Proof.Machine.execCvtF16F32 c d a s
  | .cvtBf16F32 c d a => Sys2Proof.Machine.execCvtBf16F32 c d a s
  | .cvtF32E4m3 c d a => Sys2Proof.Machine.execCvtF32E4m3 c d a s
  | .cvtF32E5m2 c d a => Sys2Proof.Machine.execCvtF32E5m2 c d a s
  | .cvtF32E2m1 c d a => Sys2Proof.Machine.execCvtF32E2m1 c d a s
  | .cvtE4m3F32 c d a => Sys2Proof.Machine.execCvtE4m3F32 c d a s
  | .cvtE5m2F32 c d a => Sys2Proof.Machine.execCvtE5m2F32 c d a s
  | .cvtE2m1F32 c d a => Sys2Proof.Machine.execCvtE2m1F32 c d a s
  | .cvtF32Ue4m3 c d a => Sys2Proof.Machine.execCvtF32Ue4m3 c d a s
  | .cvtI32Rns24 c d a => Sys2Proof.Machine.execCvtI32Rns24 c d a s
  | .cvtN32Rns24 c d a => Sys2Proof.Machine.execCvtN32Rns24 c d a s
  | .cvtRns24I32 c d a => Sys2Proof.Machine.execCvtRns24I32 c d a s
  | .cvtRns24N32 c d a => Sys2Proof.Machine.execCvtRns24N32 c d a s
  | .rcpF32 c d a => Sys2Proof.Machine.execRcpF32 c d a s
  | .rsqrtF32 c d a => Sys2Proof.Machine.execRsqrtF32 c d a s
  | .sqrtF32 c d a => Sys2Proof.Machine.execSqrtF32 c d a s
  | .exp2F32 c d a => Sys2Proof.Machine.execExp2F32 c d a s
  | .log2F32 c d a => Sys2Proof.Machine.execLog2F32 c d a s
  | .sinF32 c d a => Sys2Proof.Machine.execSinF32 c d a s
  | .cosF32 c d a => Sys2Proof.Machine.execCosF32 c d a s
  | .tanhF32 c d a => Sys2Proof.Machine.execTanhF32 c d a s
  | .gnextB32 c d a => Sys2Proof.Machine.execGnextB32 c d a s
  | .gseed c d a => Sys2Proof.Machine.execGseed c d a s
  | .ldN8 c d a off => Sys2Proof.Machine.execLdN8 c d a off s
  | .ldI8 c d a off => Sys2Proof.Machine.execLdI8 c d a off s
  | .ldN16 c d a off => Sys2Proof.Machine.execLdN16 c d a off s
  | .ldI16 c d a off => Sys2Proof.Machine.execLdI16 c d a off s
  | .ldB32 c d a off => Sys2Proof.Machine.execLdB32 c d a off s
  | .ldB64 c d a off => Sys2Proof.Machine.execLdB64 c d a off s
  | .stB8 c d a off => Sys2Proof.Machine.execStB8 c d a off s
  | .stB16 c d a off => Sys2Proof.Machine.execStB16 c d a off s
  | .stB32 c d a off => Sys2Proof.Machine.execStB32 c d a off s
  | .stB64 c d a off => Sys2Proof.Machine.execStB64 c d a off s
  | .natom c d a ord op => Sys2Proof.Machine.execNatom c d a ord op s
  | .atom c d a ord op => Sys2Proof.Machine.execAtom c d a ord op s
  | .push c a n => Sys2Proof.Machine.execPush c a n s
  | .pop c d n => Sys2Proof.Machine.execPop c d n s
  | .mfs c d n => Sys2Proof.Machine.execMfs c d n s
  | .mts c a n => Sys2Proof.Machine.execMts c a n s
  | .ckz c d => Sys2Proof.Machine.execCkz c d s
  | .ckaMod c d a => Sys2Proof.Machine.execCkaMod c d a s
  | .ckaF c d a => Sys2Proof.Machine.execCkaF c d a s
  | .ckvMod c d a => Sys2Proof.Machine.execCkvMod c d a s
  | .ckvF c d a b => Sys2Proof.Machine.execCkvF c d a b s
  | .svc c d a im => Sys2Proof.Machine.execSvc c d a im s
  | .trap c n => Sys2Proof.Machine.execTrap c n s
  | .rte c => Sys2Proof.Machine.execRte c s
  | .exit c => Sys2Proof.Machine.execExit c s
  | .bra c g n off => Sys2Proof.Machine.execBra c g n off s
  | .braAlways c off => Sys2Proof.Machine.execBraAlways c off s
  | .call c g n off => Sys2Proof.Machine.execCall c g n off s
  | .callAlways c off => Sys2Proof.Machine.execCallAlways c off s
  | .ret c => Sys2Proof.Machine.execRet c s
  | .brx c a => Sys2Proof.Machine.execBrx c a s
  | .mma c t a b q sl n r => Sys2Proof.Machine.execMma c t a b q sl n r s
  | .mmaSc c t a b q sl n r => Sys2Proof.Machine.execMmaSc c t a b q sl n r s
  | .mmaSet c t a b q sl n r => Sys2Proof.Machine.execMmaSet c t a b q sl n r s
  | .reform c => Sys2Proof.Machine.execReform c s
  | .waitm c a => Sys2Proof.Machine.execWaitm c a s
  | .leave c a => Sys2Proof.Machine.execLeave c a s
  | .join c a => Sys2Proof.Machine.execJoin c a s
  | .pseg c m n => Sys2Proof.Machine.execPseg c m n s
  | .cvset c d a => Sys2Proof.Machine.execCvset c d a s
  | .agreeEvery c p na pa m => Sys2Proof.Machine.execAgreeEvery c p na pa m s
  | .agreeSome c p na pa m => Sys2Proof.Machine.execAgreeSome c p na pa m s
  | .agreeMask c d na pa m => Sys2Proof.Machine.execAgreeMask c d na pa m s
  | .agreeSame c p a m => Sys2Proof.Machine.execAgreeSame c p a m s
  | .xlane c d a x m => Sys2Proof.Machine.execXlane c d a x m s
  | .sred c d a x m => Sys2Proof.Machine.execSred c d a x m s
  | .sscan c d a x m => Sys2Proof.Machine.execSscan c d a x m s
  | .bsig c a b => Sys2Proof.Machine.execBsig c a b s
  | .bwait c a b => Sys2Proof.Machine.execBwait c a b s
  | .fenceAr c => Sys2Proof.Machine.execFenceAr c s
  | .fenceAcq c => Sys2Proof.Machine.execFenceAcq c s
  | .fenceRel c => Sys2Proof.Machine.execFenceRel c s
  | .yield c => Sys2Proof.Machine.execYield c s
  | .tzero c d => Sys2Proof.Machine.execTzero c d s
  | .tld c d a => Sys2Proof.Machine.execTld c d a s
  | .tst c d a => Sys2Proof.Machine.execTst c d a s
  | .tstat c d a => Sys2Proof.Machine.execTstat c d a s
  | .trd c d a => Sys2Proof.Machine.execTrd c d a s
  | .tcvt c d a sl => Sys2Proof.Machine.execTcvt c d a sl s
  | .qsend c d => Sys2Proof.Machine.execQsend c d s
  | .qrecv c d => Sys2Proof.Machine.execQrecv c d s
  | .qcred c d => Sys2Proof.Machine.execQcred c d s
  | .cprop c d a b => Sys2Proof.Machine.execCprop c d a b s
  | .cread c d a b => Sys2Proof.Machine.execCread c d a b s
  | .crecyc c d a b => Sys2Proof.Machine.execCrecyc c d a b s
  | .lcpIn c d a b => Sys2Proof.Machine.execLcpIn c d a b s
  | .lcpOut c d a b => Sys2Proof.Machine.execLcpOut c d a b s
  | .lcpx c d a b => Sys2Proof.Machine.execLcpx c d a b s
  | .fquery c d a => Sys2Proof.Machine.execFquery c d a s
  | .xlprobe c d a => Sys2Proof.Machine.execXlprobe c d a s
  | .xlpurge c d a => Sys2Proof.Machine.execXlpurge c d a s
  | .fretype c d a t => Sys2Proof.Machine.execFretype c d a t s
  | .declass c d a im => Sys2Proof.Machine.execDeclass c d a im s
  | .asyncCauseTaken tid => Sys2Proof.Machine.execAsyncCauseTaken tid s
  | .bundleDraw core => Sys2Proof.Machine.execBundleDraw core s
  | .binAged core => Sys2Proof.Machine.execBinAged core s
  | .displacement bid => Sys2Proof.Machine.execDisplacement bid s
  | .groupPark gid => Sys2Proof.Machine.execGroupPark gid s
  | .groupReload gid => Sys2Proof.Machine.execGroupReload gid s
  | .coreTableError core => Sys2Proof.Machine.execCoreTableError core s
  | .matrixPost gid n => Sys2Proof.Machine.execMatrixPost gid n s
  | .anvilGrant quad => Sys2Proof.Machine.execAnvilGrant quad s
  | .passComplete quad => Sys2Proof.Machine.execPassComplete quad s
  | .tilePortGrant quad => Sys2Proof.Machine.execTilePortGrant quad s
  | .tileOpComplete quad => Sys2Proof.Machine.execTileOpComplete quad s
  | .segmentStart core => Sys2Proof.Machine.execSegmentStart core s
  | .walkComplete cache w va acc => Sys2Proof.Machine.execWalkComplete cache w va acc s
  | .segmentLand op seg => Sys2Proof.Machine.execSegmentLand op seg s
  | .segmentFail op seg st => Sys2Proof.Machine.execSegmentFail op seg st s
  | .tableWriteUnit op seg => Sys2Proof.Machine.execTableWriteUnit op seg s
  | .purgeAck purge cache => Sys2Proof.Machine.execPurgeAck purge cache s
  | .atomicAtHome req => Sys2Proof.Machine.execAtomicAtHome req s
  | .hostAtomicCompletion req code => Sys2Proof.Machine.execHostAtomicCompletion req code s
  | .hostAtomicopRequest w va size op x y => Sys2Proof.Machine.execHostAtomicopRequest w va size op x y s
  | .hostWrite w va bytes => Sys2Proof.Machine.execHostWrite w va bytes s
  | .pageRequestResponse w inc grp ok => Sys2Proof.Machine.execPageRequestResponse w inc grp ok s
  | .hostLink req => Sys2Proof.Machine.execHostLink req s
  | .serviceCompletionDoorbell w v => Sys2Proof.Machine.execServiceCompletionDoorbell w v s
  | .srtailWrite w v => Sys2Proof.Machine.execSrtailWrite w v s
  | .qtailWrite w q v => Sys2Proof.Machine.execQtailWrite w q v s
  | .qctlWrite w q v => Sys2Proof.Machine.execQctlWrite w q v s
  | .handlerWrite w v => Sys2Proof.Machine.execHandlerWrite w v s
  | .wrootWrite w v => Sys2Proof.Machine.execWrootWrite w v s
  | .wquadsWrite w v => Sys2Proof.Machine.execWquadsWrite w v s
  | .wctxWrite w cnt v => Sys2Proof.Machine.execWctxWrite w cnt v s
  | .registerWrite fn off v => Sys2Proof.Machine.execRegisterWrite fn off v s
  | .kill w => Sys2Proof.Machine.execKill w s
  | .preempt w => Sys2Proof.Machine.execPreempt w s
  | .restore w => Sys2Proof.Machine.execRestore w s
  | .rekey w => Sys2Proof.Machine.execRekey w s
  | .rekeyFrame w => Sys2Proof.Machine.execRekeyFrame w s
  | .threadHalt tid => Sys2Proof.Machine.execThreadHalt tid s
  | .worldQuiesced w => Sys2Proof.Machine.execWorldQuiesced w s
  | .replayTimeout req => Sys2Proof.Machine.execReplayTimeout req s
  | .saveComplete w => Sys2Proof.Machine.execSaveComplete w s
  | .restoreComplete w => Sys2Proof.Machine.execRestoreComplete w s
  | .launch w q => Sys2Proof.Machine.execLaunch w q s
  | .waitcount w q => Sys2Proof.Machine.execWaitcount w q s
  | .waitcountSatisfied w q => Sys2Proof.Machine.execWaitcountSatisfied w q s
  | .signalcount w q => Sys2Proof.Machine.execSignalcount w q s
  | .copy w q => Sys2Proof.Machine.execCopy w q s
  | .mark w q => Sys2Proof.Machine.execMark w q s
  | .launchComplete lid => Sys2Proof.Machine.execLaunchComplete lid s
  | .schedulerArbitration => Sys2Proof.Machine.execSchedulerArbitration s
  | .clusterReserving w q => Sys2Proof.Machine.execClusterReserving w q s
  | .meterRead => Sys2Proof.Machine.execMeterRead s
  | .meterFinal => Sys2Proof.Machine.execMeterFinal s
  | .startStatus => Sys2Proof.Machine.execStartStatus s
  | .startRetry => Sys2Proof.Machine.execStartRetry s
  | .bboxRead => Sys2Proof.Machine.execBboxRead s
  | .ctxFlip => Sys2Proof.Machine.execCtxFlip s
  | .powerCap => Sys2Proof.Machine.execPowerCap s
  | .grantWrite => Sys2Proof.Machine.execGrantWrite s
  | .grantRead => Sys2Proof.Machine.execGrantRead s
  | .meteringInterval m => Sys2Proof.Machine.execMeteringInterval m s
  | .meterCheckpoint => Sys2Proof.Machine.execMeterCheckpoint s
  | .throttle watts junction => Sys2Proof.Machine.execThrottle watts junction s
  | .coldReset reason => Sys2Proof.Machine.execColdReset reason s
  | .warmReset reason => Sys2Proof.Machine.execWarmReset reason s
  | .functionReset w => Sys2Proof.Machine.execFunctionReset w s
  | .fatalError f => Sys2Proof.Machine.execFatalError f s
  | .networkPacketReceive w port p tagOk => Sys2Proof.Machine.execNetworkPacketReceive w port p tagOk s
  | .getVersion w => Sys2Proof.Machine.execGetVersion w s
  | .getCapabilities w => Sys2Proof.Machine.execGetCapabilities w s
  | .negotiateAlgorithms w => Sys2Proof.Machine.execNegotiateAlgorithms w s
  | .getMeasurements w => Sys2Proof.Machine.execGetMeasurements w s
  | .keyExchange w => Sys2Proof.Machine.execKeyExchange w s
  | .finish w => Sys2Proof.Machine.execFinish w s
  | .endSession w => Sys2Proof.Machine.execEndSession w s
  | .vendorDefinedRequest w kind => Sys2Proof.Machine.execVendorDefinedRequest w kind s
  | .lockInterfaceRequest w nonce => Sys2Proof.Machine.execLockInterfaceRequest w nonce s
  | .getDeviceInterfaceReport w => Sys2Proof.Machine.execGetDeviceInterfaceReport w s
  | .startInterfaceRequest w => Sys2Proof.Machine.execStartInterfaceRequest w s
  | .stopInterfaceRequest w => Sys2Proof.Machine.execStopInterfaceRequest w s
  | .ideIntegrityFailure w => Sys2Proof.Machine.execIdeIntegrityFailure w s
  | .fnodeWrite v => Sys2Proof.Machine.execFnodeWrite v s
  | .rtdataWrite v => Sys2Proof.Machine.execRtdataWrite v s
  | .routedataWrite v => Sys2Proof.Machine.execRoutedataWrite v s
  | .wfabWrite w v => Sys2Proof.Machine.execWfabWrite w v s
  | .brazePacketReceive port p tagOk => Sys2Proof.Machine.execBrazePacketReceive port p tagOk s
  | .remoteAccess n => Sys2Proof.Machine.execRemoteAccess n s
  | .reject p => Sys2Proof.Machine.execReject p s
  | .rankDown node w inc => Sys2Proof.Machine.execRankDown node w inc s
  | .fabricPurge node w => Sys2Proof.Machine.execFabricPurge node w s
  | .cellOperation req => Sys2Proof.Machine.execCellOperation req s
  | .cellAnswer req => Sys2Proof.Machine.execCellAnswer req s
  | .routeTimeout op seg => Sys2Proof.Machine.execRouteTimeout op seg s
  | .metadataHomeOperation req => Sys2Proof.Machine.execMetadataHomeOperation req s
  | .powerLoss => Sys2Proof.Machine.execPowerLoss s
  | .brazePortLost port => Sys2Proof.Machine.execBrazePortLost port s
  | .brazePortLive port => Sys2Proof.Machine.execBrazePortLive port s
  | .portKeyRotation port => Sys2Proof.Machine.execPortKeyRotation port s
  | .hostRead w va len => Sys2Proof.Machine.execHostRead w va len s

end Sys2Proof.Machine
end

