-- ==== Sys2Proof/Machine/Place.lean ====
section
/-! DEFINITION. What a step needs beside the meanings: the passing of time, upsets of memory, and a program placed as a launch
would place it (the frame, its mapping, one team with one thread). -/

namespace Sys2Proof.Machine

open Sys2Proof

/-- Whether a row of the opcode table has a word. -/
def isWordInstr (i : Instr) : Bool := i.shape.isSome

/-- Whether a core still has a draw or a displacement in this cc. The clock waits for it, so that the bound of R134 holds (R131 to
R134). -/
def drawsLeft (s : State) : Bool :=
  s.cores.any (fun e => drawDue s e.1) || s.bundles.any fun e => displaceDue s e.2

/-- Whether a thread is to leave a rendezvous for a cause (R164). -/
def withdrawsSoon (s : State) : Bool :=
  s.threads.any fun e => e.2.mayTake && (match e.2.place with
    | .waiting (.mask _) => true
    | _ => false)

/-- The cc that may pass at once: one while a core has filed threads, whose bins may become eligible (R131), or while a thread is to
leave a rendezvous. -/
def passable (s : State) (cc : Nat) : Nat :=
  if (s.cores.any fun e => !e.2.bins.isEmpty) || withdrawsSoon s then min cc 1 else cc

/-- A step of 0.2 GHz of the core clock, in the units of `State.span` for each cc (R19, R389). -/
def ccSpan (s : State) : Nat := 12252240 / s.assayer.clock

/-- The clock advances: the quads' holders are counted (R378), and service calls whose ring has come to translate go on (R314). -/
def advance (s : State) (cc : Nat) : State :=
  let s := tallyQuads s cc
  serveRings { s with time := s.time + cc, span := s.span + cc * ccSpan s }

/-- Time passes, once the draws and the displacements of the present cc have been (R134). The threads at a rendezvous on which a cause
is pending leave it with the end of the cc, after all its completions (R164). -/
def passTime (cc : Nat) (s : State) : State :=
  if cc = 0 || drawsLeft s then s else withdrawDue (advance s (passable s cc))

/-- 8 bytes of near memory or the tag bits of a line hit by an uncorrectable error (R180): nothing finds it before a read. The spec does
not say what the bytes then are: they are free. An error in a spill area or a queue area, of which R180 names no read, has no upset
(notes/assumptions/52.md). -/
def upsetNear (s : State) (granule : Nat) (tagBits : Bool) : State :=
  if (lineOwner s (granule / 16)).isNone then s
  else if tagBits then { s with latent := s.latent ++ [.tags (granule / 16)] }
  else
    let (n, s) := s.free
    { s with mem := s.mem.writeBytes (granule * 8) (leBytes 8 (n % 2 ^ 64)), latent := s.latent ++ [.data granule] }

/-- A tile hit by an uncorrectable error, 8 bytes of its data or its tag bits (R212); which bytes, and what they then are, is free. -/
def upsetTile (s : State) (team n : Nat) (tagBits : Bool) : State :=
  if tagBits then { s with latent := s.latent ++ [.tile team n true] }
  else
    let (g, s) := s.free
    let (v, s) := s.free
    { s with
      mem := s.mem.writeBytes (tileKey s team n (g % (tileBytes / 8) * 8)) (leBytes 8 (v % 2 ^ 64))
      latent := s.latent ++ [.tile team n false] }

/-- A register word of a thread hit (R180): its poison bit is set, and a value that the spec does not state is what it holds. -/
def upsetRegister (s : State) (tid r : Nat) : State :=
  let (n, s) := s.free
  let old := (s.thread tid).v.getD r (untagged 0)
  let x : Tagged Word := ⟨BitVec.ofNat 32 n, { old.tag with poison := true }⟩
  { s.modThread tid fun t => t.setReg r x with latent := s.latent ++ [.register tid r x] }

/-- The group entry or the granule map of a group hit: its team is killed with POISON_USE (R193); the record names the group
(R196). -/
def upsetGroup (s : State) (gid : Nat) : State :=
  let t := teamOfGid gid
  let tm := s.team t
  let core := (s.group gid).core
  let cause := causeCode .poisonUse + (if (s.world tm.world).handler = 0 then 2 ^ 20 else 0)
  killTeam (noteError s (dieOf core) tm.world (coreUnit core)) t
    ⟨BitVec.ofNat 32 cause, whereWord s (tidOf gid 0), 0, 0, s.cyc core⟩

/-- The launches of a world that have a team or a posted operation on a quad. -/
def quadLaunches (s : State) (w q : Nat) : List Nat :=
  (List.filter (fun e : Nat × Team => e.2.world = w && ((quadOf e.2.core = q && teamResident s e.1 e.2) ||
    (s.quad q).table.any fun p => p.team = e.1)) s.teams).map (fun e => e.2.launch) |>.eraseDups

/-- The reservation table or a latch of a quad hit (R212): an unpinned error of each world that holds the quad. -/
def upsetTable (s : State) (q : Nat) : State :=
  ((List.range 64).filter fun w => holdsQuad s w q).foldl (fun s w =>
    unpinned (boxEvent s (dieOfQuad q) 5 w (q % 64 * 256) (List.replicate 16 0)) w (quadLaunches s w q)) s

/-- An HBM word hit by an uncorrectable error (R84, R361): its frame's owner and its slice are noted. -/
def upsetWord (s : State) (w : Nat) : State :=
  noteError { s with bad := if s.bad.contains w then s.bad else s.bad ++ [w] } (dieOfFrame (w / 2 ^ 13)) (s.frame (w / 2 ^ 13)).owner
    ((Config.sliceOfLine (w / 16)).val * 256)

def suffer (u : Upset) (s : State) : State :=
  match u with
  | .near g tagBits => upsetNear s g tagBits
  | .tile team n tagBits => if (s.teams.find? team).isSome && n < 32 then upsetTile s team n tagBits else s
  | .register tid r => if (s.threads.find? tid).isSome && r < 120 then upsetRegister s tid r else s
  | .groupEntry gid => if (s.teams.find? (teamOfGid gid)).isSome then upsetGroup s gid else s
  | .quadTable q => upsetTable s q
  | .corrected die w unit => boxEvent s die 1 w unit (List.replicate 16 0)
  | .hbm w => upsetWord s w
  | .hostByte off b => { s with mem := s.mem.write (spaceKey 1 (off % 2 ^ 42)) b }

/-- The frame that the placed code lies in, and its leaf: V, L and X (R254). -/
def placeFrame : Nat := 1
def placeLeaf : DWord := BitVec.ofNat 64 (placeFrame * 2 ^ 16 + 0b10011)

/-- The format slots of the placed launch: one that the matrix word admits (R225), block-scaled for `mma.sc`. -/
def placeSlot (w : Nat) : Word := if w / 2 ^ 25 % 64 = 0b110001 then 0x80010000 else 0x80000000

def placeLaunch (w : Nat) : Launch :=
  { noLaunch with gdx := 1, gdy := 1, gdz := 1, bench := 65536, roles := [⟨120, 2048, 32, 1⟩]
                  fmt := List.replicate 8 (placeSlot w) }

def placeTeam : Team := { noTeam with bench := 16, tileSpace := 17, ended := false }

/-- One thread of world 0 at offset 0 of its code region, drawn, with the word's bytes in the frame mapped there, and the next turn
its bundle's. -/
def placeWord (s : State) (nbits w : Nat) : State :=
  let x : Xlat := ⟨0, 1, 0, placeLeaf, []⟩
  { s with
    launches := s.launches.insert 0 (placeLaunch w)
    clusters := s.clusters.insert 0 ⟨0, 0, 0, 0, [0, 1, 16, 17], 18, none⟩
    teams := s.teams.insert 0 placeTeam
    groups := s.groups.insert 0 { noGroup with granules := List.range 15 }
    threads := s.threads.insert 0 { noThread with place := .inBundle 0 }
    bundles := s.bundles.insert 0 { noBundle with tids := [0] }
    nextId := max s.nextId 64
    worlds := s.worlds.erase 0
    frames := s.frames.insert placeFrame { noFrame with type := 2, valid := 1 }
    quads := s.quads.insert 0 { noQuad with cache := [x] }
    mem := Memory.writeBytes s.mem (physKey (placeFrame * 2 ^ 16)) (leBytes 16 (w % 2 ^ nbits))
    cur := none
    turns := [.issue 0] }

end Sys2Proof.Machine
end

