-- ==== Sys2Proof/Machine/Order.lean ====
section
/-! DEFINITION. What a unit does, before it is executed, about the near accesses of its threads that are out of their places: the fences,
releases and acquires (spec/08_core_instructions.md R165, R171 to R175; spec/14_die_memory.md R275, R288 to R291) and the accesses to the
same bytes (spec/09_core_order.md R187 to R192); also the errors in what it reads (R180). A unit that none of these rules names leaves
late stores late and what was read ahead as it is (notes/assumptions/10.md). -/

namespace Sys2Proof.Machine

open Sys2Proof

/-- Near bytes that a unit of a thread accesses: whether it reads them, and whether it is a plain store of them. -/
structure Touch where
  key   : Nat
  size  : Nat
  reads : Bool
  store : Bool := false
  deriving DecidableEq, Repr

/-- Whether a thread acts in a unit: its guard is true, and no poison in it ends the thread (R51, R84). -/
def actsIn (s : State) (tid : Nat) (i : Instr) : Bool :=
  match (s.thread tid).guard i with
  | none => true
  | some g => !g.tag.poison && g.val

/-- The bytes of an access whose checks pass. -/
def touchAt (s : State) (tid : Nat) (base : Tagged Word) (ea : Word) (size : Nat) (load reads store : Bool) : List Touch :=
  match nearCheck s tid base ea size load with
  | .ok key => [⟨key, size, reads, store⟩]
  | .error _ => []

/-- The descriptor of an `lcpx` and its index array (R300, R302). -/
def copyTouches (s : State) (tid : Nat) (at_ : Tagged Word) : List Touch :=
  match nearCheck s tid at_ at_.val 32 true with
  | .error _ => []
  | .ok key =>
    let x := readDescriptor s.mem key
    ⟨key, 32, true, false⟩ :: match if x.isGather then nearKey s (teamOf tid) x.aux (x.count * x.indexSize) else none with
      | some k => [⟨k, x.count * x.indexSize, true, false⟩]
      | none => []

/-- The near bytes that a unit of a thread accesses in the step that issues it, or has its quad access for it in their order (R117, R118,
R171 to R173, R126, R237, R238, R300). -/
def touches (s : State) (tid : Nat) (i : Instr) : List Touch :=
  let t := s.thread tid
  let load := fun (a : Reg) (off : BitVec 8) (n : Nat) => touchAt s tid (t.reg a) (effAddr (t.reg a).val off n) n true true false
  let store := fun (a : Reg) (off : BitVec 8) (n : Nat) => touchAt s tid (t.reg a) (effAddr (t.reg a).val off n) n false false true
  match i with
  | .ldN8 _ _ a off | .ldI8 _ _ a off => load a off 1
  | .ldN16 _ _ a off | .ldI16 _ _ a off => load a off 2
  | .ldB32 _ _ a off => load a off 4
  | .ldB64 _ _ a off => load a off 8
  | .stB8 _ _ a off => store a off 1
  | .stB16 _ _ a off => store a off 2
  | .stB32 _ _ a off => store a off 4
  | .stB64 _ _ a off => store a off 8
  | .natom _ _ a _ op => touchAt s tid (t.reg a) (t.reg a).val (atomicSize op) false true false
  | .bsig _ a _ => touchAt s tid (t.reg a) (t.reg a).val 8 false true false
  | .bwait _ a _ => touchAt s tid (t.reg a) (t.reg a).val 8 true true false
  | .svc _ _ a _ => touchAt s tid (t.reg a) (t.reg a).val 64 false true false
  | .lcpx _ d _ _ => copyTouches s tid (t.reg d)
  | .tld _ _ a | .tst _ _ a => match tileAddrCheck s tid (t.reg a) (match i with
      | .tld .. => true
      | _ => false) with
    | .ok key => [⟨key, tileBytes, false, false⟩]
    | .error _ => []
  | _ => []

/-- Whether all that a thread has stored is visible before its unit: it is a `fence.ar` or acts as one does or as a release (R171, R172,
R175, R207, R304, R308, R408), it issues a copy or a tile load (R275), or it ends the thread. -/
def releasesAll : Instr → Bool
  | .fenceAr .. | .bsig .. | .qsend .. | .cprop .. | .fretype .. | .lcpIn .. | .lcpOut .. | .lcpx .. | .tld .. | .exit .. => true
  | .natom _ _ _ ord _ | .atom _ _ _ ord _ => ordReleases ord
  | _ => false

/-- Whether a unit is one of those before which R175 puts what precedes a `fence.rel`, and `releasesAll` does not name it: a store, an
atomic, a service call. -/
def followsFence : Instr → Bool
  | .stB8 .. | .stB16 .. | .stB32 .. | .stB64 .. | .natom .. | .atom .. | .svc .. | .tst .. => true
  | _ => false

/-- What a thread's unit makes visible of what the thread has stored before. -/
def releaseFor (s : State) (tid : Nat) (i : Instr) : State :=
  if releasesAll i then releaseNear s tid
  else match i with
    | .fenceRel _ => fenceNear s tid
    | _ => if followsFence i then passFence s tid else s

/-- What a thread's unit drops of what was read ahead for the thread, since it acquires (R165, R171, R173, R175, R290): `fence.acq` and
`fence.ar` at every rank, an atomic with `.acq` or `.ar` and a satisfied `bwait` at the ranks up to that of their address, a `qrecv` that
takes an entry at the ranks up to 1. -/
def acquireBy (s : State) (tid : Nat) (i : Instr) (l : List Touch) : State :=
  let at_ := fun (p : Touch → Bool) => l.foldl (fun s x => if p x then acquireUpTo s tid (nearRank s tid x.key) else s) s
  match i with
  | .fenceAr _ | .fenceAcq _ => acquireAll s tid
  | .natom _ _ _ ord _ => if ordAcquires ord then at_ fun _ => true else s
  | .bwait _ _ b => at_ fun x => decide (((s.thread tid).pair b).val.toNat ≤ nearValue s x.key 8)
  | .qrecv _ _ => if (s.threadTeam tid).queued = 0 then s else acquireUpTo s tid 1
  | _ => s

/-- Whether a thread has bytes read ahead that a load out of its place will take. -/
def isAhead (s : State) (tid : Nat) (x : Touch) : Bool := s.early.any fun e => e.holds tid x.key x.size

/-- What the unit of a thread meets in the bytes that it accesses: the errors in what it reads are found, and an error in 8 bytes that it
stores whole is gone (R180). `late`: it is a plain access out of its place. -/
def senseTouch (late : Bool) (tid : Nat) (s : State) (x : Touch) : State :=
  if x.reads then (if late && isAhead s tid x then s else senseNear s x.key x.size)
  else if x.store && !late then mendWords s x.key x.size
  else s

/-- A thread's unit ordered: `l` are the bytes that the unit accesses. A plain access out of its place is not ordered against the thread's
others, but for a `fence.rel` before a store (R175, R190). -/
def orderThread (i : Instr) (late : Bool) (l : List Touch) (s : State) (tid : Nat) : State :=
  let s := releaseFor s tid i
  if late then s else acquireBy (l.foldl (fun s x => settleBytes s tid x.key x.size) s) tid i l

/-- The V registers that a thread's unit reads: its sources, or where its guard is false the d that goes to L0 (R47). -/
def registersRead (s : State) (tid : Nat) (i : Instr) : List Nat :=
  if actsIn s tid i then i.reads.filterMap fun r => match r with
    | .v n => some n
    | _ => none
  else match i.dstReg with
    | some r => [r.toNat]
    | none => []

/-- The errors in registers that the unit reads found (R180): a register written since then holds none. -/
def senseRegisters (s : State) (tid : Nat) (i : Instr) : State :=
  s.latent.foldl (fun s e => match e with
    | .register x r v =>
      if x = tid && (registersRead s tid i).contains r then
        let s := { s with latent := s.latent.erase e }
        if (s.thread tid).v.getD r (untagged 0) = v then
          noteError s (dieOf (s.threadCore tid)) (s.threadWorld tid) (coreUnit (s.threadCore tid))
        else s
      else s
    | _ => s) s

/-- What a unit does for some of its threads, `src` being the one whose registers it reads (R52). -/
def orderFor (i : Instr) (late : Bool) (s : State) (src : Nat) (targets : List Nat) : State :=
  let s := senseRegisters s src i
  if actsIn s src i then
    let l := touches s src i
    l.foldl (senseTouch late src) (targets.foldl (orderThread i late l) s)
  else s

/-- The order of a unit's threads before it is executed: those that have still to perform it. -/
def orderBefore (s : State) (x : Bundle) (i : Instr) (late : Bool) : State :=
  let waiting := x.tids.filter fun tid => !x.finished.contains tid
  let late := late && mayBeLate i
  if i.ctl.k then match waiting with
    | [] => s
    | src :: _ => orderFor i late s src waiting
  else waiting.foldl (fun s tid => orderFor i late s tid [tid]) s

end Sys2Proof.Machine
end

