-- ==== Sys2Proof/Machine/Choice.lean ====
section
/-! DEFINITION. Which bundle's unit starts (spec/07_core.md R133, R135, R137), and how a bundle comes to its next unit. -/

namespace Sys2Proof.Machine

open Sys2Proof

/-! ## The next unit of a bundle -/

/-- What the turn of a bundle comes to. -/
inductive Prepared where
  | idle (s : State)
  | run (i : Instr) (s : State)

/-- Threads whose handler's first chain issues (R93). -/
def issueEntered (s : State) (tids : List Nat) : State :=
  tids.foldl (fun s t => s.modThread t fun t => { t with enters := false }) s

/-! ### The choice of a bundle (R135, R137) -/

/-- The unit of a core that an instruction of a bundle starts on (R137): 0 pipe A, 1 pipe B, 2 the uniform pipe, 3 the
special-function unit, 4 the divider, 5 the memory pipe; none for the quad's Anvil and tile store. -/
def pipeOf (i : Instr) (pipeB : Bool) : Option Nat :=
  match i.shape.bind Shape.op? with
  | none => none
  | some (op, k) =>
    if (0x41 ≤ op && op ≤ 0x4E) || op = 0x56 || op = 0x70 || op = 0x71 || (0x75 ≤ op && op ≤ 0x7B) then some 5
    else if op = 0x73 then none
    else if k then some 2
    else if op = 0x3E then some 3
    else if 0x16 ≤ op && op ≤ 0x19 then some 4
    else some (if pipeB then 1 else 0)

/-- Whether a bundle at a chain boundary issues no chain there: its team is killed, a thread of it takes a cause, its world halts,
or it is displaced. -/
def stopsHere (s : State) (x : Bundle) (tid : Nat) : Bool :=
  (s.threadTeam tid).killed.isSome || x.tids.any (fun t => (s.thread t).mayTake) ||
    ((s.world (s.threadWorld tid)).stat = 2 && !(s.thread tid).enters) || x.displaced

/-- Whether a thread of a bundle has still to perform the unit: otherwise the unit has started, and only its answers are awaited. -/
def Bundle.hasWork (x : Bundle) : Bool := x.tids.any fun tid => !x.finished.contains tid

/-- A unit of a bundle given to `exec`. -/
def startExec (s : State) (b : Nat) (x : Bundle) (u : ChainUnit) (late : Bool) : State :=
  { s with cur := some ⟨b, x.core, x.tids, u.addr, u.addr + BitVec.ofNat 32 (4 * u.len), u.word, x.pos, x.head, u.leaf,
      late && mayBeLate u.instr⟩ }

/-- Whether a wait before the issue of a bundle's unit has ended (R216, R274): executed now the unit would not wait again, or more of its
threads would have performed it. -/
def waitEnded (s : State) (b : Nat) (x : Bundle) (u : ChainUnit) : Bool :=
  match exec u.instr (startExec s b x u false) with
  | .next t => !(t.bundle b).held || (t.bundle b).finished ≠ x.finished
  | _ => true

/-- The instruction that a bundle is ready to start, if it is: one that waits before the issue of its unit is ready once that wait has
ended (R135). -/
def readyInstr (s : State) (b : Nat) (x : Bundle) : Option Instr :=
  match x.tids with
  | [] => none
  | tid :: _ =>
    if s.time < x.ready || !hasEntry s b x then none
    else match x.chain with
      | u :: _ => if x.hasWork && (!x.held || waitEnded s b x u) then some u.instr else none
      | [] =>
        if stopsHere s x tid then none
        else match (fetchChain s x.core tid x.pc).1 with
          | .ok (u :: _) => some u.instr
          | _ => none

/-- Whether a bundle waits before the issue of its unit, none of which has been performed. -/
def Bundle.waitsToIssue (x : Bundle) : Bool := x.held && x.finished.isEmpty

/-- The priority of a bundle's team. -/
def Bundle.prio (s : State) (x : Bundle) : Nat := (s.threadTeam (x.tids.headD 0)).prio

/-- Whether bundle a goes before bundle b on a unit for which both are ready (R135): one inside its chain first, since bundles
change only between chains; then one ready for 512 cc, the oldest; then the higher priority; then the one ready earliest. -/
def Bundle.goesBefore (s : State) (a b : Bundle) : Bool :=
  let old := fun x : Bundle => 512 ≤ s.time - x.ready
  if a.chain.isEmpty != b.chain.isEmpty then !a.chain.isEmpty
  else if old a || old b then old a && (!old b || a.ready < b.ready)
  else b.prio s < a.prio s || (a.prio s = b.prio s && a.ready < b.ready)

/-- Whether a unit of a core has started one in this cc: a bundle that has only come to wait before its issue has started none
(R135). -/
def unitTaken (s : State) (core p : Nat) : Bool :=
  match (s.core core).started.find? p with
  | some (time, b) => time = s.time && !(s.bundle b).waitsToIssue
  | none => false

/-- Whether a bundle that stands inside its chain keeps a unit of the core for its next start, also while it waits before that: bundles
change only between chains (R135, R216, R274). -/
def Bundle.keeps (x : Bundle) (p : Nat) : Bool :=
  x.hasWork && (match x.chain with
    | u :: _ => pipeOf u.instr x.pipeB == some p
    | [] => false)

/-- Whether a bundle that is ready to start an instruction has to wait: its unit has started one in this cc, a bundle inside its chain
keeps the unit and this one stands between chains, or another bundle goes before it (R135). -/
def waitsTurn (s : State) (b : Nat) (x : Bundle) (i : Instr) : Bool :=
  match pipeOf i x.pipeB with
  | none => false
  | some p =>
    unitTaken s x.core p ||
      s.bundles.any fun e => e.1 ≠ b && e.2.core = x.core && ((x.chain.isEmpty && e.2.keeps p) ||
        (e.2.goesBefore s x && (match readyInstr s e.1 e.2 with
          | some j => pipeOf j e.2.pipeB == some p
          | none => false)))

/-- A unit starts: its core's pipe has started one in this cc, and its bundle is ready again after its latency (R135, R139). -/
def startUnit (s : State) (b : Nat) (x : Bundle) (i : Instr) : State :=
  let s := s.setBundle b { x with ready := s.time + 1 + Config.unitLatency b s.time, waits := false }
  match pipeOf i x.pipeB with
  | none => s
  | some p => s.setCore x.core { s.core x.core with started := (s.core x.core).started.insert p (s.time, b) }

/-- A unit of a bundle about to be executed. -/
def enterUnit (s : State) (b : Nat) (x : Bundle) (u : ChainUnit) (late : Bool) : State :=
  let s := orderBefore s x u.instr late
  startExec (if x.hasWork then startUnit s b x u.instr else s) b x u late

/-- The bundle at a chain boundary, before it issues. In a world that is halting only the first chain of a handler that a thread has
entered meanwhile still issues (R93). -/
def prepareChain (s : State) (b : Nat) (x : Bundle) (tid : Nat) (late : Bool) : Prepared :=
  if (s.threadTeam tid).killed.isSome then .idle (atBoundary s b)
  else if x.tids.any fun t => (s.thread t).mayTake then
    .idle (x.tids.foldl asyncTake s)
  else if (s.world (s.threadWorld tid)).stat = 2 && !(s.thread tid).enters then .idle s
  else if x.displaced then .idle (displace s b)
  else if s.time < x.ready || !hasEntry s b x then .idle s
  else
    match fetchChain s x.core tid x.pc with
    | (.error a, s) => .idle (x.tids.foldl (fun s t =>
        takeTrap s t { a with pend := if a.uni then a.pend else (s.thread t).hasPending }) s)
    | (.ok [], s) => .idle s
    | (.ok (u :: rest), s') =>
      if waitsTurn s b x u.instr then .idle s
      else
        let s := if (s'.world (s'.threadWorld tid)).stat = 2 then issueEntered s' x.tids else s'
        .run u.instr (enterUnit s b { x with chain := u :: rest, head := x.pc, pos := 0, finished := [] } u late)

/-- The next unit of a bundle (R135). -/
def prepare (s : State) (b : Nat) (late : Bool) : Prepared :=
  match s.bundles.find? b with
  | none => .idle s
  | some x => match x.tids with
    | [] => .idle s
    | tid :: _ => match x.chain with
      | [] => prepareChain s b x tid late
      | u :: _ =>
        if x.hasWork && (s.time < x.ready || waitsTurn s b x u.instr) then .idle s
        else .run u.instr (enterUnit s b x u late)

end Sys2Proof.Machine
end

