-- ==== Sys2Proof/Machine/Step.lean ====
section
/-! DEFINITION. One step of the package: the move of the agent whose turn it is, and the placing of one instruction where the next
step runs it. -/

namespace Sys2Proof.Machine

open Sys2Proof

/-- The move of one agent. -/
def runTurn (t : Turn) (s : State) : Host.Outcome State Fault Refusal :=
  match t with
  | .tick cc => .next (passTime cc s)
  | .issue b => match prepare s b false with
    | .idle s => .next s
    | .run i s => exec i s
  | .issueLate b => match prepare s b true with
    | .idle s => .next s
    | .run i s => exec i s
  | .drain n => .next (drainOne n s)
  | .readAhead tid key n => .next (readAhead tid key n s)
  | .retype f type owner => .next (requestRetype s f type owner)
  | .configBar0 w v => .next (writeBar0 s w v)
  | .resend n => .next (resendPacket n s)
  | .upset u => .next (suffer u s)
  | .reserve op seg => .next (reserveUnit op seg s)
  | .event i => if isWordInstr i then .next s else exec i s

/-- One step: the next move that the state names, or where it names none the one that `Config.turnChoice` gives. -/
def step (s : State) : Host.Outcome State Fault Refusal :=
  match s.turns with
  | t :: rest => runTurn t { s with turns := rest }
  | [] => runTurn (Config.turnChoice s.turnCount) { s with turnCount := s.turnCount + 1 }

/-- The state with one thread of a launch about to issue the instruction whose bytes are placed (a log entry says how a program
comes to run). -/
def State.withFetchWord (s : State) (nbits w : Nat) : State := placeWord s nbits w

end Sys2Proof.Machine
end

