-- ==== Sys2Proof/Safety.lean ====
section
/-! DEFINITION. What counts as a safe state, and the words that the claims use. -/

namespace Sys2Proof.Machine

open Sys2Proof

/-- The memory is in its canonical form. -/
def State.memOk (s : State) : Bool := Memory.wf s.mem

/-- Two states that differ in their threads, their bundles and the unit being executed alone: main and near memory, the tables,
the registers of worlds, quads and package are the same. -/
def SameBut (s t : State) : Prop := { t with threads := s.threads, bundles := s.bundles, cur := s.cur } = s

/-- The thread whose registers a unit reads for a thread: the thread itself, or for a uniform unit the lowest of the bundle
(R52). -/
def sourceOf (u : Issue) (i : Instr) (tid : Nat) : Nat := if i.ctl.k then u.tids.headD tid else tid

/-- Whether the guard of a unit lets a thread take part (R51). -/
def passes (s : State) (u : Issue) (i : Instr) (tid : Nat) : Bool :=
  match (s.thread (sourceOf u i tid)).guard i with
  | some g => g.val
  | none => true

/-- The tags that the guard adds to a result (R83). -/
def guardTag (s : State) (u : Issue) (i : Instr) (tid : Nat) : Tag :=
  match (s.thread (sourceOf u i tid)).guard i with
  | some g => g.tag
  | none => Tag.zero

/-- A thread's guard is not poisoned (R84). -/
def Thread.guardClean (t : Thread) (i : Instr) : Bool :=
  match t.guard i with
  | some g => !g.tag.poison
  | none => true

/-- A unit that its bundle is about to execute: the bundle holds the unit's threads, of which none has performed it or waits for
an answer, no guard is poisoned, and the team is not killed. -/
structure Issues (s : State) (u : Issue) (i : Instr) : Prop where
  cur      : s.cur = some u
  bundle   : ∃ x, s.bundles.find? u.bundle = some x ∧ x.tids = u.tids ∧ x.finished = []
  distinct : u.tids.Nodup
  someone  : u.tids ≠ []
  alive    : ∀ tid ∈ u.tids, s.isKilled tid = false
  placed   : ∀ tid ∈ u.tids, (s.thread tid).place = .inBundle u.bundle
  clean    : ∀ tid ∈ u.tids, (s.thread tid).guardClean i = true
  free     : ∀ tid ∈ u.tids, (s.thread tid).request = none

/-- What a unit that all its threads complete leaves as it was: all of the state but its own threads and its own bundle. -/
structure OnlyThreads (s t : State) (u : Issue) : Prop where
  rest    : SameBut s t
  threads : ∀ tid, tid ∉ u.tids → t.thread tid = s.thread tid
  bundles : ∀ b, b ≠ u.bundle → t.bundles.find? b = s.bundles.find? b

/-- The bundle stands at the next unit with its threads (R135). -/
def Advanced (s t : State) (u : Issue) : Prop :=
  (t.bundle u.bundle).tids = u.tids ∧ (t.bundle u.bundle).pc = u.next ∧
  (t.bundle u.bundle).chain = (s.bundle u.bundle).chain.tail ∧ (t.bundle u.bundle).finished = [] ∧ t.cur = none

/-! ## Units of one thread -/

/-- A unit that a bundle of one thread is about to execute, its guard open. -/
structure Alone (s : State) (u : Issue) (i : Instr) (tid : Nat) : Prop where
  issues : Issues s u i
  one    : u.tids = [tid]
  isOpen : passes s u i tid = true

/-- `t` is `a`, but that the bundle of the unit stands at the unit's next one. -/
structure Onward (a t : State) (u : Issue) : Prop where
  rest   : { t with bundles := a.bundles } = a
  bundle : t.bundles.find? u.bundle = some ((a.bundle u.bundle).after u.next none)
  others : ∀ b, b ≠ u.bundle → t.bundles.find? b = a.bundles.find? b

/-- A thread stands in the filing queue of its core, or in a bin of its team, its role and its address (R129). -/
def Filed (t : State) (tid : Nat) : Prop :=
  tid ∈ (t.core (t.threadCore tid)).queue ∨
    ∃ e ∈ (t.core (t.threadCore tid)).bins, tid ∈ e.2.members ∧ e.2.team = teamOf tid ∧
      e.2.role = (t.threadGroup tid).role ∧ e.2.pc = (t.thread tid).pc

/-- The one thread of a bundle has left it, as `x`, and is filed; the bundle is gone, and nothing else has changed. -/
structure LeftFiled (s t : State) (u : Issue) (tid : Nat) (x : Thread) : Prop where
  thread  : t.thread tid = { x with place := .filed }
  filed   : Filed t tid
  others  : ∀ k, k ≠ tid → t.thread k = s.thread k
  bundle  : t.bundles.find? u.bundle = none
  bundles : ∀ b, b ≠ u.bundle → t.bundles.find? b = s.bundles.find? b
  cores   : ∀ c, c ≠ s.threadCore tid → t.core c = s.core c
  rest    : { t with threads := s.threads, bundles := s.bundles, cores := s.cores, cur := s.cur } = s
  cur     : t.cur = none

/-- The one thread of a bundle has left it, as `x`, and waits; the bundle is gone, and nothing else of `a` has changed. -/
structure LeftWaiting (a t : State) (u : Issue) (tid : Nat) (x : Thread) : Prop where
  thread  : t.thread tid = x
  others  : ∀ k, k ≠ tid → t.thread k = a.thread k
  bundle  : t.bundles.find? u.bundle = none
  bundles : ∀ b, b ≠ u.bundle → t.bundles.find? b = a.bundles.find? b
  rest    : { t with threads := a.threads, bundles := a.bundles, cur := a.cur } = a
  cur     : t.cur = none

/-- The bundle of a unit stays at it, its threads done but for an answer (`held` false) or the unit still to be performed. -/
structure Stays (a t : State) (u : Issue) (x : Bundle) : Prop where
  rest   : { t with bundles := a.bundles } = a
  bundle : t.bundles.find? u.bundle = some x
  others : ∀ b, b ≠ u.bundle → t.bundles.find? b = a.bundles.find? b

/-- The bundle of a unit goes on at an address. -/
structure Jumped (a t : State) (u : Issue) (pc : Word) : Prop where
  rest   : { t with bundles := a.bundles } = a
  bundle : t.bundles.find? u.bundle = some ((a.bundle u.bundle).after u.next (some pc))
  others : ∀ b, b ≠ u.bundle → t.bundles.find? b = a.bundles.find? b

/-- A thread's world has a handler, the thread is outside it, and its group is on its core. -/
structure CanTrap (s : State) (tid : Nat) : Prop where
  handler : (s.world (s.threadWorld tid)).handler ≠ 0
  outside : (s.thread tid).hnd = false
  onCore  : (s.threadGroup tid).offCore = false

/-- A thread after taking a trap (R88). -/
def trapped (s : State) (tid : Nat) (a : TrapArgs) : Thread :=
  { s.thread tid with
    trapinfo := trapInfoWord a
    trappc := a.pc
    trapval := ⟨a.val.val, ⟨if a.async then 0 else a.val.tag.grade, false⟩⟩
    resume := a.resume
    hnd := true
    enters := (s.world (s.threadWorld tid)).stat = 2
    request := none
    retries := false
    runnable := s.time
    pc := (s.world (s.threadWorld tid)).handler.setWidth 32 }

/-! ## Near accesses -/

/-- A thread whose registers a unit reads and whose guard holds. -/
def Acts (s : State) (u : Issue) (i : Instr) (tid : Nat) : Prop :=
  tid ∈ u.tids ∧ sourceOf u i tid = tid ∧ passes s u i tid = true

/-- The near address of a load or a store (R45). -/
def nearAddr (base : Word) (off : BitVec 8) (size : Nat) : Word := BitVec.ofInt 32 (base.toNat + off.toInt * size)

/-- The checks before presence that a near access of `size` bytes passes (R117, R118): the address register is clean, the address
is aligned, mapped at `key`, and no range lock refuses it. -/
structure NearOk (s : State) (tid : Nat) (base : Tagged Word) (ea : Word) (size : Nat) (load : Bool) (key : Nat) : Prop where
  clean    : base.tag.poison = false
  aligned  : ea.toNat % size = 0
  mapped   : nearKey s (teamOf tid) ea.toNat size = some key
  unlocked : locked s key size load = false

/-- The threads that perform a unit, in ascending order. -/
def actors (s : State) (u : Issue) (i : Instr) : List Nat :=
  u.tids.filter fun tid => sourceOf u i tid = tid && passes s u i tid

/-- Only near memory, its tags, and the threads that wait for it change; of what was read ahead only what such a thread read is
dropped (R173), and only errors not yet found in lines of data that are written go (R180). -/
structure OnlyNear (s t : State) (u : Issue) : Prop where
  rest    : { t with
    threads := s.threads, bundles := s.bundles, cores := s.cores, mem := s.mem, lines := s.lines, early := s.early
    latent := s.latent, cur := s.cur } = s
  early   : ∃ p : EarlyLoad → Bool, t.early = s.early.filter p ∧ ∀ e, (∀ w, (s.thread e.tid).place ≠ .waiting w) → p e = true
  latent  : ∃ p : Latent → Bool, t.latent = s.latent.filter p ∧ ∀ e, (∀ g, e ≠ .data g) → p e = true
  bundles : ∀ b, b ≠ u.bundle → t.bundles.find? b = s.bundles.find? b
  others  : ∀ k, k ∉ u.tids → ∃ p r, t.thread k = { s.thread k with place := p, runnable := r }
  still   : ∀ k, k ∉ u.tids → (∀ w, (s.thread k).place ≠ .waiting w) → t.thread k = s.thread k

/-- What a byte counts as before a write to a line that it may share: 0 where that line is absent (R118). -/
def byteBefore (s : State) (ks : List Nat) (a : Nat) : Byte :=
  if ks.contains (a / 128) && !(s.line (a / 128)).present then 0 else s.mem.read a

/-- Bytes written to near memory by the one thread of a unit: they, no other byte of a line that was present, their lines present with
the tags joined; the other bytes of a line that was absent read 0 (R118). -/
structure Wrote (s t : State) (u : Issue) (key size v : Nat) (g : Tag) : Prop where
  only  : OnlyNear s t u
  mem   : t.mem.readBytes key size = leBytes size v
  bytes : ∀ a, a < key ∨ key + size ≤ a → t.mem.read a = byteBefore s (linesOf key size) a
  lines : ∀ n, t.line n = if (linesOf key size).contains n then ⟨true, (s.line n).tag.join g⟩ else s.line n

/-- What an absent line counts as (R171, R172). -/
def found (s : State) (key size : Nat) : Nat := if (s.line (key / 128)).present then s.mem.readLe key size else 0

end Sys2Proof.Machine
end

