-- ==== Sys2Proof/WellFormed.lean ====
section
/-! DEFINITION. When an instruction word is well formed for the role and the launch that decode it: the checks of R57, one by one
(spec/03_formats.md). -/

namespace Sys2Proof

/-- The reserved bits and codes of the prefix are 0 (R49). -/
def Instr.prefixOwnOk (i : Instr) : Bool := match i.ctl.pre with
  | some p => p.ownOk
  | none => true

/-- The prefix asks only what the instruction admits (R49, R66, R67, R158, R231). -/
def Instr.prefixPairOk (i : Instr) : Bool := i.form.pairOk i.ctl.pre

/-- Every operand field is legal for the role's register count (R41, R42, R60 to R63, R243). -/
def Instr.operandsOk (ctx : DecCtx) (i : Instr) : Bool := i.operands.all (Operand.legal ctx)

/-- Every tile number is below the launch's tile count (R42). -/
def Instr.tilesOk (ctx : DecCtx) (i : Instr) : Bool := (i.operands.findSome? (Operand.overTiles ctx)).isNone

/-- Every format slot that the word names admits it (R225). -/
def Instr.slotsOk (ctx : DecCtx) (i : Instr) : Bool := (i.operands.findSome? (Operand.badSlot ctx)).isNone

/-- The queue group needs a launch that is not in pool mode (R243). -/
def Instr.modeOk (ctx : DecCtx) (i : Instr) : Bool := !(ctx.pool && i.isQueue)

/-- A well-formed instruction word: one that decodes to itself. -/
def Instr.wellFormed (ctx : DecCtx) (i : Instr) : Bool :=
  i.encodable && i.prefixOwnOk && i.prefixPairOk && i.wOk && i.operandsOk ctx && i.tilesOk ctx && i.slotsOk ctx && i.modeOk ctx

end Sys2Proof
end

