-- ==== Sys2Proof/Certificates/Slice0/Obligations.lean ====
section
/-! DEFINITION. The statements about the model. -/

namespace Sys2Proof.Claims

open Sys2Proof Sys2Proof.Machine

/-! ## Instructions whose whole effect is a result in registers -/

/-- What a unit gives a thread, from its source thread's registers and the guard's tags. -/
abbrev Effect := Thread → Tag → Result

/-- The unit completes for every thread of its bundle, lane or uniform class, guarded or not: a thread whose guard holds takes the
effect computed from its source thread, a guarded-off one passes its latch on, nothing else of the state changes, and the bundle
stands at the next unit. -/
def GivesResult (table : Instr → Option Effect) : Prop :=
  ∀ (s : State) (u : Issue) (i : Instr) (e : Effect), table i = some e → Issues s u i →
    ∃ t, exec i s = .next t ∧ OnlyThreads s t u ∧ Advanced s t u ∧ ∀ tid ∈ u.tids, t.thread tid =
      if passes s u i tid then (s.thread tid).apply (e (s.thread (sourceOf u i tid)) (guardTag s u i tid))
      else (s.thread tid).pushLatch (guardedOffLatch (s.thread tid) i)

/-- d := f a b; the tags of a, b and the guard are joined (R83). -/
def two (d a : Reg) (b : OpB) (f : Word → Word → Word) : Option Effect :=
  some fun t g => .reg d (f (t.reg a).val (t.opb b).val) (joinTags [(t.reg a).tag, (t.opb b).tag, g]) 0

/-- d := f a b d. -/
def three (d a : Reg) (b : OpB) (f : Word → Word → Word → Word) : Option Effect :=
  some fun t g => .reg d (f (t.reg a).val (t.opb b).val (t.reg d).val)
    (joinTags [(t.reg a).tag, (t.opb b).tag, (t.reg d).tag, g]) 0

/-- d := f a. -/
def one (d a : Reg) (f : Word → Word) : Option Effect :=
  some fun t g => .reg d (f (t.reg a).val) (joinTags [(t.reg a).tag, g]) 0

/-- An exact sum or difference modulo 2^32, or with SAT clamped to [lo, hi] (R97). -/
def narrowed (sat : Bool) (lo hi x : Int) : Word := BitVec.ofInt 32 (if sat then max lo (min x hi) else x)

/-- R97. -/
def twoSource : Instr → Option Effect
  | .addN32 c d a b => two d a b fun x y => narrowed (satOf c) 0 (2 ^ 32 - 1) (x.toNat + y.toNat)
  | .addI32 c d a b => two d a b fun x y => narrowed (satOf c) (-2 ^ 31) (2 ^ 31 - 1) (x.toInt + y.toInt)
  | .subN32 c d a b => two d a b fun x y => narrowed (satOf c) 0 (2 ^ 32 - 1) ((x.toNat : Int) - y.toNat)
  | .subI32 c d a b => two d a b fun x y => narrowed (satOf c) (-2 ^ 31) (2 ^ 31 - 1) (x.toInt - y.toInt)
  | .mulB32 _ d a b => two d a b fun x y => BitVec.ofNat 32 (x.toNat * y.toNat)
  | .mulwN32 _ d a b => two d a b fun x y => (BitVec.ofNat 64 (x.toNat * y.toNat)).extractLsb' 32 32
  | .mulwI32 _ d a b => two d a b fun x y => (BitVec.ofInt 64 (x.toInt * y.toInt)).extractLsb' 32 32
  | .macB32 _ d a b => three d a b fun x y z => BitVec.ofNat 32 (x.toNat * y.toNat + z.toNat)
  | .minN32 _ d a b => two d a b fun x y => BitVec.ofNat 32 (min x.toNat y.toNat)
  | .minI32 _ d a b => two d a b fun x y => BitVec.ofInt 32 (min x.toInt y.toInt)
  | .maxN32 _ d a b => two d a b fun x y => BitVec.ofNat 32 (max x.toNat y.toNat)
  | .maxI32 _ d a b => two d a b fun x y => BitVec.ofInt 32 (max x.toInt y.toInt)
  | .andB32 _ d a b => two d a b fun x y => x &&& y
  | .orB32 _ d a b => two d a b fun x y => x ||| y
  | .xorB32 _ d a b => two d a b fun x y => x ^^^ y
  | .shlB32 _ d a b => two d a b fun x y => BitVec.ofNat 32 (x.toNat * 2 ^ y.toNat)
  | .shrN32 _ d a b => two d a b fun x y => BitVec.ofNat 32 (x.toNat / 2 ^ y.toNat)
  | .shrI32 _ d a b => two d a b fun x y => BitVec.ofInt 32 (Int.fdiv x.toInt (2 ^ y.toNat))
  | .addN32Imm _ d a i => one d a fun x => BitVec.ofInt 32 (x.toNat + i.toInt)
  | .andB32Imm _ d a i => one d a fun x => x &&& i.setWidth 32
  | .orB32Imm _ d a i => one d a fun x => x ||| i.setWidth 32
  | .xorB32Imm _ d a i => one d a fun x => x ^^^ i.setWidth 32
  | .shlB32Imm _ d a i => one d a fun x => BitVec.ofNat 32 (x.toNat * 2 ^ i.toNat)
  | .shrN32Imm _ d a i => one d a fun x => BitVec.ofNat 32 (x.toNat / 2 ^ i.toNat)
  | .shrI32Imm _ d a i => one d a fun x => BitVec.ofInt 32 (Int.fdiv x.toInt (2 ^ i.toNat))
  | _ => none

/-- The number of bits k of a word, from 0 to 31, with a property. -/
def countBits (p : Nat → Bool) : Nat := ((List.range 32).filter p).length

/-- The low n bits of a word, read as signed or as unsigned. -/
def lowBits (n : Nat) (signed : Bool) (x : Word) : Word :=
  let v := x.toNat % 2 ^ n
  if signed && 2 ^ (n - 1) ≤ v then BitVec.ofInt 32 ((v : Int) - 2 ^ n) else BitVec.ofNat 32 v

/-- R99: the width that a field operand leaves in the word. -/
def fieldW (b : Word) : Nat := min (min (b.toNat / 2 ^ 8 % 2 ^ 6) 32) (32 - b.toNat % 2 ^ 5)

/-- The field of a at the position of b, its width in bits. -/
def field (a b : Word) : Nat := a.toNat / 2 ^ (b.toNat % 2 ^ 5) % 2 ^ fieldW b

/-- R98 to R101 and R103. `sel` has its prefix: a unit without one is ill formed (R66). -/
def unaryFieldDivideMove : Instr → Option Effect
  | .notB32 _ d a => one d a fun x => BitVec.ofNat 32 (2 ^ 32 - 1 - x.toNat)
  | .onesB32 _ d a => one d a fun x => BitVec.ofNat 32 (countBits fun k => x.getLsbD k)
  | .lzcB32 _ d a => one d a fun x => BitVec.ofNat 32 (countBits fun k => x.toNat < 2 ^ k)
  | .tzcB32 _ d a => one d a fun x => BitVec.ofNat 32 (countBits fun k => x.toNat % 2 ^ (k + 1) = 0)
  | .revB32 _ d a => one d a fun x => x.reverse
  | .absI32 _ d a => one d a fun x => BitVec.ofNat 32 x.toInt.natAbs
  | .negI32 _ d a => one d a fun x => BitVec.ofInt 32 (0 - x.toInt)
  | .sxtB8 _ d a => one d a (lowBits 8 true)
  | .sxtB16 _ d a => one d a (lowBits 16 true)
  | .zxtB8 _ d a => one d a (lowBits 8 false)
  | .zxtB16 _ d a => one d a (lowBits 16 false)
  | .fgetN32 _ d a b => two d a b fun x y => BitVec.ofNat 32 (field x y)
  | .fgetI32 _ d a b => two d a b fun x y =>
      BitVec.ofInt 32 (if 2 * field x y < 2 ^ fieldW y then (field x y : Int) else field x y - 2 ^ fieldW y)
  | .fputB32 _ d a b => three d a b fun x y z =>
      let m : Word := BitVec.ofNat 32 ((2 ^ fieldW y - 1) * 2 ^ (y.toNat % 2 ^ 5))
      (z &&& ~~~m) ||| (BitVec.ofNat 32 (x.toNat * 2 ^ (y.toNat % 2 ^ 5)) &&& m)
  | .divN32 _ d a b => two d a b fun x y => if y = 0 then 0xFFFFFFFF else BitVec.ofNat 32 (x.toNat / y.toNat)
  | .divI32 _ d a b => two d a b fun x y => if y = 0 then 0xFFFFFFFF else
      if x = 0x80000000 ∧ y = 0xFFFFFFFF then 0x80000000 else BitVec.ofInt 32 (Int.tdiv x.toInt y.toInt)
  | .remN32 _ d a b => two d a b fun x y => if y = 0 then x else
      BitVec.ofInt 32 (x.toNat - (x.toNat / y.toNat : Nat) * (y.toNat : Int))
  | .remI32 _ d a b => two d a b fun x y => if y = 0 then x else
      if x = 0x80000000 ∧ y = 0xFFFFFFFF then 0 else BitVec.ofInt 32 (x.toInt - Int.tdiv x.toInt y.toInt * y.toInt)
  | .movB32Imm _ d i => some fun _ g => .reg d (BitVec.ofInt 32 i.toInt) g 0
  | .movB32 _ d b => some fun t g => .reg d (t.opb b).val (joinTags [(t.opb b).tag, g]) 0
  | .selB32 ⟨_, _, _, some ⟨p, n, true, _, _⟩⟩ d a b => some fun t _ => .reg d
      (if xor (t.pred p).val n then (t.reg a).val else (t.opb b).val)
      (joinTags [(t.reg a).tag, (t.opb b).tag, (t.pred p).tag]) 0
  | _ => none

/-- The integer condition of a compare (R60, R104): set 1 `eq`, `ne`, `lt`, `le`; set 2 `gt`, `ge`, `tst`, `ntst`. -/
def holds (set2 signed : Bool) (q : BitVec 2) (x y : Word) : Bool :=
  let a : Int := if signed then x.toInt else x.toNat
  let b : Int := if signed then y.toInt else y.toNat
  match set2, q.toNat with
  | false, 0 => a = b
  | false, 1 => a ≠ b
  | false, 2 => a < b
  | false, _ => a ≤ b
  | true, 0 => a > b
  | true, 1 => a ≥ b
  | true, 2 => x &&& y ≠ 0
  | true, _ => x &&& y = 0

/-- Whether an FP32 pattern is a NaN (R79). -/
def isNaN (x : Word) : Bool := decide (0x7F800000 < x.toNat % 2 ^ 31)

/-- The order of the FP32 patterns that are no NaN (R79): by magnitude under their sign; −0 equals +0 (R104). -/
def rank32 (x : Word) : Int := if x.toNat < 2 ^ 31 then x.toNat else -((x.toNat - 2 ^ 31 : Nat) : Int)

/-- The f32 condition of a compare (R60, R81, R104): set 1 `eq`, `ne`, `lt`, `le`; set 2 `gt`, `ge`, `num`, `nan`. With a NaN operand it is
false but for `ne` and `nan`. -/
def holdsF (set2 : Bool) (q : BitVec 2) (x y : Word) : Bool :=
  let none := isNaN x || isNaN y
  match set2, q.toNat with
  | false, 0 => !none && decide (rank32 x = rank32 y)
  | false, 1 => none || decide (rank32 x ≠ rank32 y)
  | false, 2 => !none && decide (rank32 x < rank32 y)
  | false, _ => !none && decide (rank32 x ≤ rank32 y)
  | true, 0 => !none && decide (rank32 y < rank32 x)
  | true, 1 => !none && decide (rank32 y ≤ rank32 x)
  | true, 2 => !none
  | true, _ => none

/-- Pd := f a b. -/
def compare (p : BitVec 5) (a : Reg) (b : OpB) (f : Word → Word → Bool) : Option Effect :=
  some fun t g => .pred p (f (t.reg a).val (t.opb b).val) (joinTags [(t.reg a).tag, (t.opb b).tag, g])

/-- Pd := (Pa XOR na) op (Pb XOR nb). -/
def predicates (p : BitVec 5) (na : Bool) (pa : BitVec 5) (nb : Bool) (pb : BitVec 5) (f : Bool → Bool → Bool) : Option Effect :=
  some fun t g => .pred p (f (xor (t.pred pa).val na) (xor (t.pred pb).val nb)) (joinTags [(t.pred pa).tag, (t.pred pb).tag, g])

/-- R104, R105. -/
def comparesPredicates : Instr → Option Effect
  | .cmpN32Set1 _ q p a b => compare p a b (holds false false q)
  | .cmpN32Set2 _ q p a b => compare p a b (holds true false q)
  | .cmpI32Set1 _ q p a b => compare p a b (holds false true q)
  | .cmpI32Set2 _ q p a b => compare p a b (holds true true q)
  | .cmpF32Set1 _ q p a b => compare p a b (holdsF false q)
  | .cmpF32Set2 _ q p a b => compare p a b (holdsF true q)
  | .pand _ p na pa nb pb => predicates p na pa nb pb fun x y => x && y
  | .por _ p na pa nb pb => predicates p na pa nb pb fun x y => x || y
  | .pxor _ p na pa nb pb => predicates p na pa nb pb fun x y => xor x y
  | .vtp _ p a => some fun t g => .pred p (decide ((t.reg a).val ≠ 0)) (joinTags [(t.reg a).tag, g])
  | .ptv _ d na pa => some fun t g => .reg d (if xor (t.pred pa).val na then 1 else 0) (joinTags [(t.pred pa).tag, g]) 0
  | _ => none

/-- d := f a b with flags. -/
def ftwo (d a : Reg) (b : OpB) (f : Word → Word → Word × Flags) : Option Effect :=
  some fun t g =>
    let r := f (t.reg a).val (t.opb b).val
    .reg d r.1 (joinTags [(t.reg a).tag, (t.opb b).tag, g]) r.2

/-- d := f a b d with flags. -/
def fthree (d a : Reg) (b : OpB) (f : Word → Word → Word → Word × Flags) : Option Effect :=
  some fun t g =>
    let r := f (t.reg a).val (t.opb b).val (t.reg d).val
    .reg d r.1 (joinTags [(t.reg a).tag, (t.opb b).tag, (t.reg d).tag, g]) r.2

/-- d := f a with flags. -/
def fone (d a : Reg) (f : Word → Word × Flags) : Option Effect :=
  some fun t g =>
    let r := f (t.reg a).val
    .reg d r.1 (joinTags [(t.reg a).tag, g]) r.2

/-- R106 to R109, with the model's exact sums and products and its rounding. -/
def floats : Instr → Option Effect
  | .faddF32 c d a b => ftwo d a b (fadd (modeOf c))
  | .fsubF32 c d a b => ftwo d a b (fsub (modeOf c))
  | .fmulF32 c d a b => ftwo d a b (fmul (modeOf c))
  | .ffmaF32 c d a b => fthree d a b (ffma (modeOf c))
  | .fminF32 _ d a b => two d a b (fminmax true)
  | .fmaxF32 _ d a b => two d a b (fminmax false)
  | .fabsF32 _ d a => one d a fun x => x &&& ~~~0x80000000
  | .fnegF32 _ d a => one d a fun x => x ^^^ 0x80000000
  | .frintF32 c d a => one d a (frint (modeOf c))
  | .fabsF16x2 _ d a => one d a fun x => x &&& ~~~0x80008000
  | .fnegF16x2 _ d a => one d a fun x => x ^^^ 0x80008000
  | .fabsBf16x2 _ d a => one d a fun x => x &&& ~~~0x80008000
  | .fnegBf16x2 _ d a => one d a fun x => x ^^^ 0x80008000
  | .faddF16x2 c d a b => ftwo d a b (packedAdd .fp16 (modeOf c))
  | .fmulF16x2 c d a b => ftwo d a b (packedMul .fp16 (modeOf c))
  | .ffmaF16x2 c d a b => fthree d a b (packedFma .fp16 (modeOf c))
  | .faddBf16x2 c d a b => ftwo d a b (packedAdd .bf16 (modeOf c))
  | .fmulBf16x2 c d a b => ftwo d a b (packedMul .bf16 (modeOf c))
  | .ffmaBf16x2 c d a b => fthree d a b (packedFma .bf16 (modeOf c))
  | .fdot2F32F16x2 c d a b => fthree d a b (fdot2 .fp16 (modeOf c))
  | .fdot2F32Bf16x2 c d a b => fthree d a b (fdot2 .bf16 (modeOf c))
  | _ => none

/-- A value below 2^n in the low bits. -/
def low (n : Nat) (x : Word) : Nat := x.toNat % 2 ^ n

/-- R110 to R114, with the model's rounding and its special functions. -/
def conversions : Instr → Option Effect
  | .cvtF32I32 c d a => fone d a (cvtF32I32 (modeOf c))
  | .cvtF32N32 c d a => fone d a (cvtF32N32 (modeOf c))
  | .cvtI32F32 c d a => fone d a (cvtI32F32 (modeOf c) (satOf c))
  | .cvtN32F32 c d a => fone d a (cvtN32F32 (modeOf c) (satOf c))
  | .cvtF32F16 _ d a => one d a fun x => widen .fp16 (low 16 x)
  | .cvtF32Bf16 _ d a => one d a fun x => widen .bf16 (low 16 x)
  | .cvtF16F32 c d a => fone d a (narrow16 .fp16 (modeOf c))
  | .cvtBf16F32 c d a => fone d a (narrow16 .bf16 (modeOf c))
  | .cvtF32E4m3 _ d a => one d a fun x => widen .e4m3 (low 8 x)
  | .cvtF32E5m2 _ d a => one d a fun x => widen .e5m2 (low 8 x)
  | .cvtF32E2m1 _ d a => one d a fun x => widen .e2m1 (low 4 x)
  | .cvtE4m3F32 c d a => fone d a (cvtNarrow .e4m3 (modeOf c) (satOf c))
  | .cvtE5m2F32 c d a => fone d a (cvtNarrow .e5m2 (modeOf c) (satOf c))
  | .cvtE2m1F32 c d a => fone d a (cvtNarrow .e2m1 (modeOf c) (satOf c))
  | .cvtF32Ue4m3 _ d a => fone d a cvtF32Ue4m3
  | .cvtI32Rns24 _ d a => fone d a cvtI32Rns24
  | .cvtN32Rns24 _ d a => fone d a cvtN32Rns24
  | .cvtRns24I32 c d a => fone d a fun x => cvtRns24 (satOf c) (-8257920) 8257919 x.toInt
  | .cvtRns24N32 c d a => fone d a fun x => cvtRns24 (satOf c) 0 16515839 x.toNat
  | .rcpF32 _ d a => fone d a (sfu sfuRcp)
  | .rsqrtF32 _ d a => fone d a (sfu sfuRsqrt)
  | .sqrtF32 _ d a => fone d a (sfu sfuSqrt)
  | .exp2F32 _ d a => fone d a (sfu sfuExp2)
  | .log2F32 _ d a => fone d a (sfu sfuLog2)
  | .sinF32 _ d a => fone d a (sfu sfuSin)
  | .cosF32 _ d a => fone d a (sfu sfuCos)
  | .tanhF32 _ d a => fone d a (sfu sfuTanh)
  | _ => none

/-- A word of a generator state (R122). -/
def stateWord (x : BitVec 128) (k : Nat) : Word := BitVec.ofNat 32 (x.toNat / 2 ^ (32 * k))

/-- The four words of a generator state in one number. -/
def joined (s0 s1 s2 s3 : Word) : BitVec 128 :=
  BitVec.ofNat 128 (s0.toNat + 2 ^ 32 * s1.toNat + 2 ^ 64 * s2.toNat + 2 ^ 96 * s3.toNat)

/-- The generator's step, line by line as R122 writes it. -/
def generate (x : BitVec 128) : Word × BitVec 128 :=
  let s0 := stateWord x 0
  let s1 := stateWord x 1
  let s2 := stateWord x 2
  let s3 := stateWord x 3
  let d := (s1 * 5).rotateLeft 7 * 9
  let t := s1 <<< 9
  let s2 := s2 ^^^ s0
  let s3 := s3 ^^^ s1
  let s1 := s1 ^^^ s2
  let s0 := s0 ^^^ s3
  let s2 := s2 ^^^ t
  let s3 := s3.rotateLeft 11
  (d, joined s0 s1 s2 s3)

/-- R122, R123; the binary64 sum of `cka.f` by the model's rounding. -/
def generatorChecksum : Instr → Option Effect
  | .gnextB32 _ d a => some fun t g =>
      let r := generate (t.gen a).val
      let tag := joinTags [(t.gen a).tag, g]
      ⟨[.v d.toNat r.1, .g a.toNat r.2], tag, ⟨r.1, tag⟩, 0⟩
  | .gseed _ d a => some fun t g =>
      let w := fun k : Nat => t.reg (a + BitVec.ofNat 7 k)
      let zero := (w 0).val = 0 ∧ (w 1).val = 0 ∧ (w 2).val = 0 ∧ (w 3).val = 0
      ⟨[.g d.toNat (joined (if zero then 1 else (w 0).val) (w 1).val (w 2).val (w 3).val)],
        joinTags [(w 0).tag, (w 1).tag, (w 2).tag, (w 3).tag, g], untagged 0, 0⟩
  | .ckz _ d => some fun _ g => ⟨[.k d.toNat 0], g, untagged 0, 0⟩
  | .ckaMod _ d a => some fun t g =>
      ⟨[.k d.toNat (BitVec.ofNat 64 (((t.acc d).val.toNat % (2 ^ 61 - 1) + (t.reg a).val.toNat) % (2 ^ 61 - 1)))],
        joinTags [(t.acc d).tag, (t.reg a).tag, g], untagged 0, 0⟩
  | .ckaF _ d a => some fun t g =>
      ⟨[.k d.toNat (Sys2Proof.ckaF (t.acc d).val (t.reg a).val)], joinTags [(t.acc d).tag, (t.reg a).tag, g], untagged 0, 0⟩
  | _ => none

/-! ## Units that read more of the state -/

/-- What a unit gives a thread from the whole state: the state, the unit, the source thread and the guard's tags. -/
abbrev Reading := State → Issue → Nat → Tag → Option Result

/-- As `GivesResult`, for results read from the whole state, which the unit does not change; `none`: the result is not this
one. -/
def GivesReading (table : Instr → Option Reading) : Prop :=
  ∀ (s : State) (u : Issue) (i : Instr) (f : Reading), table i = some f → Issues s u i →
    (∀ tid, Acts s u i tid → (f s u tid (guardTag s u i tid)).isSome) →
    ∃ t, exec i s = .next t ∧ OnlyThreads s t u ∧ Advanced s t u ∧ ∀ tid ∈ u.tids,
      if passes s u i tid then
        ∃ r, f s u (sourceOf u i tid) (guardTag s u i tid) = some r ∧ t.thread tid = (s.thread tid).apply r
      else t.thread tid = (s.thread tid).pushLatch (guardedOffLatch (s.thread tid) i)

/-- A load's base register, offset, size, and the result that its bytes' value gives (R117). -/
structure LoadShape where
  base : Reg
  off  : BitVec 8
  size : Nat
  res  : Nat → Tag → Result

def loadShape : Instr → Option LoadShape
  | .ldN8 _ d a off => some ⟨a, off, 1, fun n g => .reg d (BitVec.ofNat 32 n) g 0⟩
  | .ldI8 _ d a off => some ⟨a, off, 1, fun n g => .reg d (lowBits 8 true (BitVec.ofNat 32 n)) g 0⟩
  | .ldN16 _ d a off => some ⟨a, off, 2, fun n g => .reg d (BitVec.ofNat 32 n) g 0⟩
  | .ldI16 _ d a off => some ⟨a, off, 2, fun n g => .reg d (lowBits 16 true (BitVec.ofNat 32 n)) g 0⟩
  | .ldB32 _ d a off => some ⟨a, off, 4, fun n g => .reg d (BitVec.ofNat 32 n) g 0⟩
  | .ldB64 _ d a off => some ⟨a, off, 8, fun n g => .pair d (BitVec.ofNat 64 n) g⟩
  | _ => none

/-- The base register of a load as its source thread holds it, and the address. -/
def LoadShape.reg (x : LoadShape) (s : State) (tid : Nat) : Tagged Word := (s.thread tid).reg x.base
def LoadShape.ea (x : LoadShape) (s : State) (tid : Nat) : Word := nearAddr (x.reg s tid).val x.off x.size

/-- The source thread's access passes its checks at a present line. -/
def LoadShape.ok (x : LoadShape) (s : State) (tid key : Nat) : Prop :=
  NearOk s tid (x.reg s tid) (x.ea s tid) x.size true key ∧ (s.line (key / 128)).present = true

/-- Loads of present lines (R117), in their place. -/
def NearLoads : Prop :=
  ∀ (s : State) (u : Issue) (i : Instr) (x : LoadShape), loadShape i = some x → Issues s u i → u.late = false →
    (∀ tid, Acts s u i tid → ∃ key, x.ok s tid key) →
    ∃ t, exec i s = .next t ∧ OnlyThreads s t u ∧ Advanced s t u ∧ ∀ tid ∈ u.tids,
      if passes s u i tid then ∃ key, x.ok s (sourceOf u i tid) key ∧
        t.thread tid = (s.thread tid).apply (x.res (s.mem.readLe key x.size)
          (joinTags [(x.reg s (sourceOf u i tid)).tag, (s.line (key / 128)).tag, guardTag s u i tid]))
      else t.thread tid = (s.thread tid).pushLatch (guardedOffLatch (s.thread tid) i)

/-- What is kept of the bytes read ahead after a thread's access to [key, key + n). -/
def keptAhead (s : State) (tid key n : Nat) : List EarlyLoad := s.early.filter fun e => !(e.tid = tid && e.meets key n)

/-- A load out of its place by one thread (R190): its own stores to those bytes that are not visible yet become visible, each after its
own older ones that share a byte with it; it returns
bytes that its core has read ahead where they cover it, and memory's otherwise; what was read ahead of those bytes is dropped. -/
def LateLoads : Prop :=
  ∀ (s : State) (u : Issue) (i : Instr) (x : LoadShape) (tid key : Nat), loadShape i = some x → Alone s u i tid → u.late = true →
    let a := drainLate { s with cur := none } fun e => (neededLate tid key x.size s.late).contains e
    NearOk s tid (x.reg s tid) (x.ea s tid) x.size true key → (a.line (key / 128)).present = true →
    ∃ t, exec i s = .next t ∧
      ((a.early.all fun e => !e.holds tid key x.size) = true →
        Onward { (a.modThread tid fun th => th.apply (x.res (a.mem.readLe key x.size)
          (joinTags [(x.reg s tid).tag, (a.line (key / 128)).tag, guardTag s u i tid]))) with early := keptAhead a tid key x.size } t u) ∧
      ∀ before e after, a.early = before ++ e :: after → (before.all fun e => !e.holds tid key x.size) = true →
        e.holds tid key x.size = true →
        Onward { (a.modThread tid fun th => th.apply (x.res (leValue ((e.bytes.drop (key - e.key)).take x.size))
          (joinTags [(x.reg s tid).tag, e.tag, guardTag s u i tid]))) with early := keptAhead a tid key x.size } t u

/-- A store's base register, offset, size and data (R118). -/
structure StoreShape where
  base : Reg
  off  : BitVec 8
  size : Nat
  data : Thread → Tagged Nat

def storeShape : Instr → Option StoreShape
  | .stB8 _ d a off => some ⟨a, off, 1, fun t => ⟨(t.reg d).val.toNat, (t.reg d).tag⟩⟩
  | .stB16 _ d a off => some ⟨a, off, 2, fun t => ⟨(t.reg d).val.toNat, (t.reg d).tag⟩⟩
  | .stB32 _ d a off => some ⟨a, off, 4, fun t => ⟨(t.reg d).val.toNat, (t.reg d).tag⟩⟩
  | .stB64 _ d a off => some ⟨a, off, 8, fun t =>
      ⟨(t.reg d).val.toNat + 2 ^ 32 * (t.reg (d + 1)).val.toNat, joinTags [(t.reg d).tag, (t.reg (d + 1)).tag]⟩⟩
  | _ => none

def StoreShape.reg (x : StoreShape) (s : State) (tid : Nat) : Tagged Word := (s.thread tid).reg x.base

/-- The memory key that a thread's store writes. -/
def StoreShape.key (x : StoreShape) (s : State) (tid : Nat) : Option Nat :=
  nearKey s (teamOf tid) (nearAddr (x.reg s tid).val x.off x.size).toNat x.size

/-- A line after one thread's store: present, its tags joined by those of the data, the base and the guard. -/
def StoreShape.onLine (x : StoreShape) (s : State) (u : Issue) (i : Instr) (n : Nat) (l : Line) (tid : Nat) : Line :=
  if (linesOf ((x.key s tid).getD 0) x.size).contains n then
    ⟨true, l.tag.join (joinTags [(x.data (s.thread tid)).tag, (x.reg s tid).tag, guardTag s u i tid])⟩
  else l

/-- The lines that a unit's stores touch. -/
def StoreShape.touched (x : StoreShape) (s : State) (u : Issue) (i : Instr) : List Nat :=
  (actors s u i).flatMap fun tid => linesOf ((x.key s tid).getD 0) x.size

/-- Stores (R118), with every byte of memory: the bytes that the threads store one after another; the other bytes of a line that was absent
read 0, and every other byte reads as before. -/
def NearStores : Prop :=
  ∀ (s : State) (u : Issue) (i : Instr) (x : StoreShape), storeShape i = some x → Issues s u i → u.late = false →
    (∀ tid, Acts s u i tid → ∃ key, NearOk s tid (x.reg s tid) (nearAddr (x.reg s tid).val x.off x.size) x.size false key) →
    ∃ t, exec i s = .next t ∧ OnlyNear s t u ∧ Advanced s t u ∧
      (∀ before tid after key k, actors s u i = before ++ tid :: after → x.key s tid = some key → k < x.size →
        (∀ tid' ∈ after, ∀ key', x.key s tid' = some key' → key + k < key' ∨ key' + x.size ≤ key + k) →
        t.mem.read (key + k) = (leBytes x.size (x.data (s.thread tid)).val).getD k 0) ∧
      (∀ a, (∀ tid ∈ actors s u i, ∀ key, x.key s tid = some key → a < key ∨ key + x.size ≤ a) →
        t.mem.read a = byteBefore s (x.touched s u i) a) ∧
      (∀ n, t.line n = (actors s u i).foldl (x.onLine s u i n) (s.line n)) ∧
      ∀ tid ∈ u.tids, t.thread tid = (s.thread tid).pushLatch
        (if passes s u i tid then untagged 0 else guardedOffLatch (s.thread tid) i)

/-- A store out of its place by one thread is not visible yet (R190): it stands behind the other such stores, and becomes visible at a
turn of its own, once no earlier one of its thread shares a byte with it. -/
def LateStores : Prop :=
  (∀ (s : State) (u : Issue) (i : Instr) (x : StoreShape) (tid key : Nat), storeShape i = some x → Alone s u i tid → u.late = true →
    NearOk s tid (x.reg s tid) (nearAddr (x.reg s tid).val x.off x.size) x.size false key →
    let tag := joinTags [(x.data (s.thread tid)).tag, (x.reg s tid).tag, guardTag s u i tid]
    ∃ t, exec i s = .next t ∧
      Onward { (s.modThread tid fun th => th.pushLatch (untagged 0)) with
        cur := none, early := keptAhead s tid key x.size
        late := s.late ++ [⟨tid, key, leBytes x.size (x.data (s.thread tid)).val, tag, false⟩] } t u) ∧
  ∀ (s : State) (before after : List LateStore) (e : LateStore), s.late = before ++ e :: after →
    (∀ x ∈ before, x.tid = e.tid → x.key + x.bytes.length ≤ e.key ∨ e.key + e.bytes.length ≤ x.key) →
    runTurn (.drain before.length) s = .next (writeNear
      { s with late := before ++ after, latent := (mendWords s e.key e.bytes.length).latent } e.key e.bytes e.tag)

/-! ## Traps of near accesses (R117, R118, R171 to R173) -/

/-- The base register of a near access, its address from the base, its size, and whether it loads. -/
structure NearShape where
  base : Reg
  ea   : Word → Word
  size : Nat
  load : Bool

def nearShape : Instr → Option NearShape
  | .natom _ _ a _ op => some ⟨a, fun x => x, if op.toNat = 10 then 8 else 4, false⟩
  | .bsig _ a _ => some ⟨a, fun x => x, 8, false⟩
  | .bwait _ a _ => some ⟨a, fun x => x, 8, true⟩
  | i => match loadShape i, storeShape i with
    | some x, _ => some ⟨x.base, fun b => nearAddr b x.off x.size, x.size, true⟩
    | none, some x => some ⟨x.base, fun b => nearAddr b x.off x.size, x.size, false⟩
    | none, none => none

/-- The one thread of a unit traps (R88): it takes the values of the trap and is filed at its world's handler; nothing else
changes. -/
def Traps (s : State) (u : Issue) (i : Instr) (tid : Nat) (c : Cause) (val : Word) (resume : Word) : Prop :=
  ∃ t, exec i s = .next t ∧ LeftFiled s t u tid (trapped s tid
    ⟨c, ⟨val, s.sourceTag tid i⟩, 0, i.ctl.k, u.pos, u.addr, resume, false, !(s.thread tid).pending.isEmpty⟩)

/-- The faults of a near access with a clean address register, tested in the order ALIGN, NEAR_RANGE, RANGE_LOCK; the chain runs
again from its head. -/
def NearFaults : Prop :=
  ∀ (s : State) (u : Issue) (i : Instr) (tid : Nat) (x : NearShape), nearShape i = some x → Alone s u i tid → CanTrap s tid →
    ((s.thread tid).reg x.base).tag.poison = false →
    let ea := x.ea ((s.thread tid).reg x.base).val
    (ea.toNat % x.size ≠ 0 → Traps s u i tid .align ea u.head) ∧
    (ea.toNat % x.size = 0 → nearKey s (teamOf tid) ea.toNat x.size = none → Traps s u i tid .nearRange ea u.head) ∧
    (ea.toNat % x.size = 0 → ∀ key, nearKey s (teamOf tid) ea.toNat x.size = some key → locked s key x.size x.load = true →
      Traps s u i tid .rangeLock ea u.head)

/-- The register whose value a unit uses as an address or a target, and which kills where it is poisoned (R84). -/
def usedReg (i : Instr) : Option Reg :=
  match i with
  | .brx _ a => some a
  | i => (nearShape i).map (·.base)

/-- A use of a poisoned value kills the team with POISON_USE and the value (R84, R193, R196); memory is unchanged. -/
def PoisonKills : Prop :=
  ∀ (s : State) (u : Issue) (i : Instr) (tid : Nat) (a : Reg), usedReg i = some a → Alone s u i tid →
    ((s.thread tid).reg a).tag.poison = true → (s.threadTeam tid).ended = false →
    ∃ t, exec i s = .next t ∧ t.mem = s.mem ∧ (t.thread tid).place = .ended ∧
      (t.threadTeam tid).killed = some ⟨
        BitVec.ofNat 32 (0x10 + u.pos % 8 * 2 ^ 16 + (if (s.thread tid).hnd then 2 ^ 19 else 0) +
          (if (s.world (s.threadWorld tid)).handler = 0 then 2 ^ 20 else 0)),
        whereWord s tid, u.addr, ((s.thread tid).reg a).val, s.cyc (s.threadCore tid)⟩

/-! ## The thread's own stack and flags (R121, R85, R86, R76) -/

/-- What `push`, `pop` and `mts FFLAGS` leave of their thread. -/
def ownEffect (i : Instr) (s : State) (tid : Nat) (g : Tag) (y : Thread) : Prop :=
  let t := s.thread tid
  match i with
  | .push _ a n =>
    t.sp + n.toNat ≤ s.spillDepth tid ∧
    y = { t with sp := t.sp + n.toNat, spill := y.spill, l0 := untagged 0, l1 := t.l0, l2 := t.l1, l3 := t.l2 } ∧
    ∀ k, y.spillWord k = if t.sp ≤ k ∧ k < t.sp + n.toNat then
      ⟨(t.reg (a + BitVec.ofNat 7 (k - t.sp))).val, joinTags [(t.reg (a + BitVec.ofNat 7 (k - t.sp))).tag, g]⟩ else t.spillWord k
  | .pop _ d n =>
    n.toNat ≤ t.sp ∧
    let w := fun k => (⟨(t.spillWord (t.sp - n.toNat + k)).val, joinTags [(t.spillWord (t.sp - n.toNat + k)).tag, g]⟩ : Tagged Word)
    y = { t with sp := t.sp - n.toNat, v := y.v, l0 := w 0, l1 := t.l0, l2 := t.l1, l3 := t.l2 } ∧
    ∀ r : Reg, r.toNat < 120 → y.reg r = if d.toNat ≤ r.toNat ∧ r.toNat < d.toNat + n.toNat then w (r.toNat - d.toNat) else t.reg r
  | .mts _ a n =>
    n = 0x0C ∧ y = { t with
      fflags := ⟨(t.reg a).val.setWidth 7, joinTags [(t.reg a).tag, g]⟩, l0 := untagged 0, l1 := t.l0, l2 := t.l1, l3 := t.l2 }
  | _ => False

/-- The condition on the thread under which the effect is as `ownEffect` says. -/
def ownReady (i : Instr) (s : State) (tid : Nat) : Prop :=
  match i with
  | .push _ _ n => (s.thread tid).sp + n.toNat ≤ s.spillDepth tid
  | .pop _ d n => 1 ≤ n.toNat ∧ n.toNat ≤ (s.thread tid).sp ∧ d.toNat + n.toNat ≤ 120
  | .mts _ _ n => n = 0x0C
  | _ => False

/-- `push`, `pop` and `mts FFLAGS`, which have no uniform form, over a whole bundle. -/
def StackAndFlags : Prop :=
  ∀ (s : State) (u : Issue) (i : Instr), Issues s u i → i.ctl.k = false →
    (∀ tid ∈ u.tids, ownReady i s tid) →
    ∃ t, exec i s = .next t ∧ OnlyThreads s t u ∧ Advanced s t u ∧ ∀ tid ∈ u.tids,
      if passes s u i tid then ownEffect i s tid (guardTag s u i tid) (t.thread tid)
      else t.thread tid = (s.thread tid).pushLatch (guardedOffLatch (s.thread tid) i)

/-- The traps that an instruction raises by itself (R86, R90, R120, R124 to R126, R128): the cause, TRAPVAL, and whether the thread resumes
at the next unit. -/
def ownTrap (i : Instr) (s : State) (u : Issue) (tid : Nat) : Option (Cause × Word × Bool) :=
  let t := s.thread tid
  let full := some (.spillOvf, BitVec.ofNat 32 t.sp, false)
  match i with
  | .trap _ n => some (.swtrap, n.setWidth 32, true)
  | .rte _ => if t.hnd then none else some (.priv, u.word, false)
  | .mts _ _ n => if n = 0x0C then none else some (.priv, u.word, false)
  | .push _ _ n => if t.sp + n.toNat ≤ s.spillDepth tid then none else full
  | .pop _ _ n => if n.toNat ≤ t.sp then none else full
  | .callAlways _ _ => if t.sp + 1 ≤ s.spillDepth tid then none else full
  | .call _ g n _ =>
    if (t.pred g).tag.poison || !xor (t.pred g).val n || t.sp + 1 ≤ s.spillDepth tid then none else full
  | .ret _ =>
    if t.sp = 0 then full
    else if (t.spillWord (t.sp - 1)).tag.poison || (t.spillWord (t.sp - 1)).val.toNat % 4 = 0 then none
    else some (.align, (t.spillWord (t.sp - 1)).val, false)
  | .brx _ a => if (t.reg a).tag.poison || (t.reg a).val.toNat % 4 = 0 then none else some (.align, (t.reg a).val, false)
  | .svc _ _ _ n => if n.toNat < 128 then none else some (.svc, n.setWidth 32, true)
  | .declass _ _ _ _ => if mayDeclass s u tid then none else some (.priv, u.word, false)
  | .ckvMod _ d a =>
    if (t.acc d).val.toNat % (2 ^ 61 - 1) = (t.acc a).val.toNat % (2 ^ 61 - 1) ∧ (t.acc d).tag.poison = false ∧
      (t.acc a).tag.poison = false then none
    else some (.checkFail, BitVec.ofNat 32 (d.toNat % 4 * 4 + a.toNat % 4), true)
  | .ckvF _ d a b =>
    if ckvFFails (t.acc d).val (t.acc a).val (t.reg b).val || (t.acc d).tag.poison || (t.acc a).tag.poison then
      some (.checkFail, BitVec.ofNat 32 (d.toNat % 4 * 4 + a.toNat % 4), true)
    else none
  | _ => none

def OwnTraps : Prop :=
  ∀ (s : State) (u : Issue) (i : Instr) (tid : Nat) (c : Cause) (val : Word) (next : Bool), Alone s u i tid → CanTrap s tid →
    ownTrap i s u tid = some (c, val, next) → Traps s u i tid c val (if next then u.next else u.head)

/-! ## Readings of the machine (R125, R74; R124, R162, R175, R239, R246) -/

/-- A special register of R69 with its tags (R74), the 64-bit ones whole. -/
def special (s : State) (u : Issue) (tid : Nat) (n : BitVec 8) : Option (Tagged DWord) :=
  let t := s.thread tid
  let team := s.threadTeam tid
  let plain := fun (x : Nat) => some (untagged (BitVec.ofNat 64 x))
  match n.toNat with
  | 0 => plain (tid % 32)
  | 1 => plain (tid / 32 % 32)
  | 2 => plain team.index
  | 3 => plain (s.cluster team.cluster).x
  | 4 => plain (s.cluster team.cluster).y
  | 5 => plain (s.cluster team.cluster).z
  | 6 => plain (s.threadLaunch tid).gdx
  | 7 => plain (s.threadLaunch tid).gdy
  | 8 => plain (s.threadLaunch tid).gdz
  | 9 => plain (s.threadGroup tid).role
  | 10 => plain team.world
  | 11 => plain (dlmap u.core).toNat
  | 12 => some ⟨t.fflags.val.setWidth 64, t.fflags.tag⟩
  | 13 => some (untagged (s.cyc u.core))
  | 14 => plain t.trapinfo.toNat
  | 15 => plain t.trappc.toNat
  | 16 => some ⟨t.trapval.val.setWidth 64, t.trapval.tag⟩
  | 17 => plain ((s.threadLaunch tid).record.toNat % 2 ^ 55)
  | 18 => plain (s.threadLaunch tid).rank
  | 19 => plain (s.threadGroup tid).seg
  | _ => none

/-- The register result of a tile status (R210, R239): P in bit 6, the grade in [5:4], F, D and V in bits 2 to 0. -/
def statusWord (x : Tile) : Word :=
  BitVec.ofNat 32 ((if x.tag.poison then 64 else 0) + x.tag.grade.toNat * 16 + (if x.writers = 0 then 0 else 4) +
    (if x.d then 2 else 0) + (if x.v then 1 else 0))

def readings : Instr → Option Reading
  | .mfs _ d n => some fun s u tid g => (special s u tid n).map fun x =>
      if n.toNat = 13 ∨ n.toNat = 17 then .pair d x.val (joinTags [x.tag, g])
      else .reg d (x.val.setWidth 32) (joinTags [x.tag, g]) 0
  | .tstat _ d a => some fun s _ tid g =>
      some (.reg d (statusWord ((s.threadTeam tid).tile a.toNat)) ⟨g.grade, false⟩ 0)
  | .fenceAr _ => some fun _ _ _ _ => some .none
  | .fenceAcq _ => some fun _ _ _ _ => some .none
  | .fenceRel _ => some fun _ _ _ _ => some .none
  | .ckvMod c d a => some fun s u tid _ => if (ownTrap (.ckvMod c d a) s u tid).isSome then none else some .none
  | .ckvF c d a b => some fun s u tid _ => if (ownTrap (.ckvF c d a b) s u tid).isSome then none else some .none
  | .waitm _ m => some fun s _ tid _ =>
      if ((s.threadGroup tid).mask m.toNat).getLsbD (tid % 32) then none else some .none
  | .declass _ d a n => some fun s u tid _ =>
      let x := (s.thread tid).reg a
      if mayDeclass s u tid then some (.reg d x.val ⟨BitVec.ofNat 2 n.toNat, x.tag.poison⟩ 0) else none
  | .qcred _ d => some fun s _ tid g =>
      let dst := (s.thread tid).reg d
      if dst.tag.poison ∨ s.teamCount (teamOf tid) ≤ dst.val.toNat % 16 then none
      else
        let free := match teamAt s (s.threadTeam tid).cluster (dst.val.toNat % 16) with
          | some x => if (s.team x).ended then 0x40000000 else BitVec.ofNat 32 (64 - ((s.team x).tail - (s.team x).head).toNat)
          | none => 0x40000000
        some (.reg d free (joinTags [dst.tag, g]) 0)
  | _ => none

/-! ## Branches, calls, returns (R46, R119, R120, R159) -/

/-- The target of a branch word (R46). -/
def target (u : Issue) (off : BitVec 18) : Word := BitVec.ofInt 32 (u.addr.toNat + 4 * off.toInt)

/-- Where a branch sends its source thread, and the thread then; `none` where it does not jump. -/
def jumpOf (i : Instr) (s : State) (u : Issue) (tid : Nat) : Option (Word × Thread) :=
  let t := s.thread tid
  let pushed : Thread := { t with
    sp := t.sp + 1, spill := SMap.set (untagged 0) t.spill t.sp (untagged (BitVec.ofNat 32 (u.addr.toNat + 4))) }
  match i with
  | .bra _ g n off => if !(t.pred g).tag.poison && xor (t.pred g).val n then some (target u off, t) else none
  | .braAlways _ off => some (target u off, t)
  | .call _ g n off =>
    if !(t.pred g).tag.poison && xor (t.pred g).val n && t.sp + 1 ≤ s.spillDepth tid then some (target u off, pushed) else none
  | .callAlways _ off => if t.sp + 1 ≤ s.spillDepth tid then some (target u off, pushed) else none
  | .ret _ =>
    let w := t.spillWord (t.sp - 1)
    if 1 ≤ t.sp ∧ w.tag.poison = false ∧ w.val.toNat % 4 = 0 then some (w.val, { t with sp := t.sp - 1 }) else none
  | .brx _ a =>
    if (t.reg a).tag.poison = false ∧ (t.reg a).val.toNat % 4 = 0 then some ((t.reg a).val, t) else none
  | _ => none

/-- A bundle all of whose threads jump to one address goes there whole, lane or uniform; their latches take 0. -/
def BranchTaken : Prop :=
  ∀ (s : State) (u : Issue) (i : Instr) (pc : Word), Issues s u i →
    (∀ tid ∈ u.tids, passes s u i tid = true ∧ ∃ x, jumpOf i s u (sourceOf u i tid) = some (pc, x)) →
    ∃ t, exec i s = .next t ∧ OnlyThreads s t u ∧ t.cur = none ∧
      t.bundles.find? u.bundle = some ((s.bundle u.bundle).after u.next (some pc)) ∧
      ∀ tid ∈ u.tids, ∀ x, jumpOf i s u tid = some (pc, x) → sourceOf u i tid = tid → t.thread tid = x.pushLatch (untagged 0)

/-- A tested branch that no thread takes goes on with no other effect. -/
def notTaken : Instr → Option Reading
  | .bra _ g n _ => some fun s _ tid _ =>
      let p := (s.thread tid).pred g
      if p.tag.poison ∨ p.val ≠ n then none else some .none
  | .call _ g n _ => some fun s _ tid _ =>
      let p := (s.thread tid).pred g
      if p.tag.poison ∨ p.val ≠ n then none else some .none
  | _ => none

/-- Threads that leave their bundle to a bin: `reform` and `yield` (R160, R161), and `rte` in a handler (R90). -/
def filedAs (i : Instr) (s : State) (u : Issue) (tid : Nat) : Option Thread :=
  let t := s.thread tid
  match i with
  | .reform _ => some { t with pc := u.next, runnable := s.time }
  | .yield _ => some { t with pc := u.next, runnable := s.time + (s.threadLaunch tid).age }
  | .rte _ => if t.hnd then some { t with
      hnd := false, trapinfo := t.trapinfo &&& 0x7FFFFFFF, pc := t.resume, runnable := s.time } else none
  | _ => none

def FiledAgain : Prop :=
  ∀ (s : State) (u : Issue) (i : Instr) (tid : Nat) (x : Thread), Alone s u i tid → (s.threadGroup tid).offCore = false →
    filedAs i s u tid = some x → ∃ t, exec i s = .next t ∧ LeftFiled s t u tid x

/-! ## Near atomics, signals and waits (R64, R171 to R173, R150 to R152) -/

/-- The new value of a read-modify-write (R64): what is found, the operand, and for `cas` the value expected. -/
def rmw (op : Nat) (old x e : Nat) : Nat :=
  let o : Word := BitVec.ofNat 32 old
  let w : Word := BitVec.ofNat 32 x
  match op with
  | 0 => (old + x) % 2 ^ 32
  | 1 => min old x
  | 2 => max old x
  | 3 => (BitVec.ofInt 32 (min o.toInt w.toInt)).toNat
  | 4 => (BitVec.ofInt 32 (max o.toInt w.toInt)).toNat
  | 5 => (o &&& w).toNat
  | 6 => (o ||| w).toNat
  | 7 => (o ^^^ w).toNat
  | 8 => x
  | 9 => if old = e then x else old
  | 10 => (old + x) % 2 ^ 64
  | _ => (fadd .rne o w).1.toNat

/-- The operand, the expected value and the tags of an atomic's data register or pair (R171). -/
def rmwOperand (t : Thread) (d : Reg) (op : Nat) : Nat × Nat × Tag :=
  let lo := t.reg d
  let hi := t.reg (d + 1)
  if op = 9 then (hi.val.toNat, lo.val.toNat, joinTags [lo.tag, hi.tag])
  else if op = 10 then (lo.val.toNat + 2 ^ 32 * hi.val.toNat, 0, joinTags [lo.tag, hi.tag])
  else (lo.val.toNat, 0, lo.tag)

/-- The old value in the data register or pair, with the flags of add.f32. -/
def rmwResult (d : Reg) (op : Nat) (old x : Nat) (g : Tag) : Result :=
  if op = 10 then .pair d (BitVec.ofNat 64 old) g
  else .reg d (BitVec.ofNat 32 old) g (if op = 11 then (fadd .rne (BitVec.ofNat 32 old) (BitVec.ofNat 32 x)).2 else 0)

def NearAtomic : Prop :=
  ∀ (s : State) (u : Issue) (tid : Nat) (c : Ctl) (d a : Reg) (ord : BitVec 2) (op : BitVec 4) (key : Nat), op.toNat < 12 →
    Alone s u (.natom c d a ord op) tid →
    let base := (s.thread tid).reg a
    let size := if op.toNat = 10 then 8 else 4
    let x := rmwOperand (s.thread tid) d op.toNat
    let old := found s key size
    let g := guardTag s u (.natom c d a ord op) tid
    NearOk s tid base base.val size false key →
    ∃ t, exec (.natom c d a ord op) s = .next t ∧ Advanced s t u ∧
      Wrote s t u key size (rmw op.toNat old x.1 x.2.1) (joinTags [x.2.2, base.tag, g]) ∧
      t.thread tid = (s.thread tid).apply
        (rmwResult d op.toNat old x.1 (joinTags [(s.line (key / 128)).tag, x.2.2, base.tag, g]))

/-- `bsig`: the saturating add, and BAR_SAT after it where the counter comes to 2^64 − 1. -/
def Signal : Prop :=
  ∀ (s : State) (u : Issue) (tid : Nat) (c : Ctl) (a : Reg) (b : OpB) (key : Nat), Alone s u (.bsig c a b) tid →
    let base := (s.thread tid).reg a
    let x := (s.thread tid).opb b
    let new := min (found s key 8 + x.val.toNat) (2 ^ 64 - 1)
    let g := joinTags [x.tag, base.tag, guardTag s u (.bsig c a b) tid]
    NearOk s tid base base.val 8 false key →
    (¬(new = 2 ^ 64 - 1 ∧ x.val ≠ 0) → ∃ t, exec (.bsig c a b) s = .next t ∧ Advanced s t u ∧ Wrote s t u key 8 new g ∧
      t.thread tid = (s.thread tid).pushLatch (untagged 0)) ∧
    (new = 2 ^ 64 - 1 ∧ x.val ≠ 0 → CanTrap s tid → ∃ t, exec (.bsig c a b) s = .next t ∧ Wrote s t u key 8 new g ∧
      t.cur = none ∧ t.bundles.find? u.bundle = none ∧ Filed t tid ∧
      t.thread tid = { trapped s tid ⟨.barSat, ⟨base.val, s.sourceTag tid (.bsig c a b)⟩, 0, c.k, u.pos, u.addr, u.next,
        false, !(s.thread tid).pending.isEmpty⟩ with place := .filed })

/-- `bwait`: on where the counter has come to the target; otherwise the thread waits under its key where an entry is free, or is
filed again at its chain's head 256 cc later. -/
def Await : Prop :=
  ∀ (s : State) (u : Issue) (tid : Nat) (c : Ctl) (a b : Reg) (key : Nat), Alone s u (.bwait c a b) tid →
    let t0 := s.thread tid
    let base := t0.reg a
    let target := (t0.reg b).val.toNat + 2 ^ 32 * (t0.reg (b + 1)).val.toNat
    NearOk s tid base base.val 8 true key →
    (target ≤ found s key 8 → ∃ t, exec (.bwait c a b) s = .next t ∧ OnlyThreads s t u ∧ Advanced s t u ∧
      t.thread tid = { t0 with retries := false }.pushLatch (untagged 0)) ∧
    (found s key 8 < target → (teamOf tid, key, target) ∈ waiterKeys s u.core ∨ (waiterKeys s u.core).length < 64 →
      ∃ t, exec (.bwait c a b) s = .next t ∧ LeftWaiting s t u tid { t0 with
        pc := u.next, place := .waiting (.counter key target u.head),
        since := if t0.retries then t0.since else s.time, retries := false }) ∧
    (found s key 8 < target → (teamOf tid, key, target) ∉ waiterKeys s u.core → 64 ≤ (waiterKeys s u.core).length →
      (s.threadGroup tid).offCore = false →
      ∃ t, exec (.bwait c a b) s = .next t ∧ LeftFiled s t u tid { t0 with
        pc := u.head, runnable := s.time + 256, since := if t0.retries then t0.since else s.time, retries := true })

/-! ## Rendezvous (R158, R162 to R170) -/

/-- The mask of a rendezvous instruction. -/
def maskOf : Instr → Option Nat
  | .waitm _ m => some m.toNat
  | .join _ m => some m.toNat
  | .pseg _ m _ => some m.toNat
  | .cvset _ _ m => some m.toNat
  | .agreeEvery _ _ _ _ m => some m.toNat
  | .agreeSome _ _ _ _ m => some m.toNat
  | .agreeMask _ _ _ _ m => some m.toNat
  | .agreeSame _ _ _ m => some m.toNat
  | .xlane _ _ _ _ m => some m.toNat
  | .sred _ _ _ _ m => some m.toNat
  | .sscan _ _ _ _ m => some m.toNat
  | _ => none

/-- No event at a higher mask has reached the group entry in this cc: of the events of one cc those at lower masks come first
(R163). -/
def InOrder (s : State) (gid m : Nat) : Prop := ∀ k, (s.group gid).entry = some (s.time, k) → k ≤ m

/-- The group entry after an event at a mask. -/
def entered (s : State) (gid m : Nat) : State := s.setGroup gid { s.group gid with entry := some (s.time, m) }

/-- The bundle stays at its unit, which has had no effect; it is ready for it as soon as the wait ends (R135). -/
def HoldsUnit (s : State) (u : Issue) (i : Instr) : Prop :=
  ∃ t, exec i s = .next t ∧ Stays { s with cur := none } t u { s.bundle u.bundle with held := true, ready := s.time }

/-- The state in which a thread arrives: `join` first adds it to the mask (R162). -/
def arriving (s : State) (i : Instr) (tid m : Nat) : State :=
  match i with
  | .join _ _ => s.setMask (tid / 32) m ((s.threadGroup tid).mask m ||| BitVec.ofNat 32 (2 ^ (tid % 32)))
  | _ => s

/-- The record of an arriving thread (R163). -/
def arrival (u : Issue) (i : Instr) (tid : Nat) : Arrival := ⟨tid % 32, u.addr, u.word, u.next, u.head, u.pos, i⟩

/-- A thread parked at the head of its chain (R163). -/
def parkedAt (s : State) (u : Issue) (tid m : Nat) : Thread :=
  { s.thread tid with
    pc := u.head, place := .waiting (.mask m), retries := false
    since := if (s.thread tid).retries then (s.thread tid).since else s.time }

/-- A member whose rendezvous still misses another living member waits, and its arrival is recorded. -/
def RendezvousWaits : Prop :=
  ∀ (s : State) (u : Issue) (i : Instr) (tid m k : Nat), maskOf i = some m → Alone s u i tid → InOrder s (tid / 32) m →
    let g := entered (arriving s i tid m) (tid / 32) m
    ((g.threadGroup tid).mask m).getLsbD (tid % 32) = true →
    k ∈ liveMembers g (tid / 32) m → k ≠ tid % 32 → (∀ r ∈ (g.threadGroup tid).arrivals m, r.slot ≠ k) →
    ∃ t, exec i s = .next t ∧ LeftWaiting
      (g.setArrivals (tid / 32) m ((g.threadGroup tid).arrivals m ++ [arrival u i tid])) t u tid (parkedAt s u tid m)

/-- A member that comes to its mask's entry after an event at a higher mask of the same cc waits before issue for the next (R163). -/
def RendezvousInOrder : Prop :=
  ∀ (s : State) (u : Issue) (i : Instr) (tid m : Nat), maskOf i = some m → Alone s u i tid → ¬ InOrder s (tid / 32) m →
    (((arriving s i tid m).threadGroup tid).mask m).getLsbD (tid % 32) = true → HoldsUnit s u i

/-- A rendezvous instruction other than `waitm` and `join` traps a thread that is no member (R163). -/
def RendezvousTraps : Prop :=
  ∀ (s : State) (u : Issue) (i : Instr) (tid m : Nat), maskOf i = some m → onlyWaits i = false → Alone s u i tid → CanTrap s tid →
    ((s.threadGroup tid).mask m).getLsbD (tid % 32) = false → Traps s u i tid .illegalOperand u.word u.head

/-- The combining operations of R170; an absent operand leaves the other. -/
def combining (kind : BitVec 3) (x y : Option (Word × Flags)) : Option (Word × Flags) :=
  match x, y with
  | none, y => y
  | x, none => x
  | some (a, f), some (b, g) =>
    match kind.toNat with
    | 0 => some (BitVec.ofNat 32 (a.toNat + b.toNat), f ||| g)
    | 1 => some (BitVec.ofNat 32 (min a.toNat b.toNat), f ||| g)
    | 2 => some (BitVec.ofNat 32 (max a.toNat b.toNat), f ||| g)
    | 3 => some (BitVec.ofInt 32 (min a.toInt b.toInt), f ||| g)
    | 4 => some (BitVec.ofInt 32 (max a.toInt b.toInt), f ||| g)
    | 5 => some ((fadd .rne a b).1, f ||| g ||| (fadd .rne a b).2)
    | 6 => some (fminmax true a b, f ||| g)
    | _ => some (fminmax false a b, f ||| g)

/-- One level of the reduction of R170: neighbours combined. -/
def halved (kind : BitVec 3) (l : List (Option (Word × Flags))) : List (Option (Word × Flags)) :=
  (List.range (l.length / 2)).map fun k => combining kind (l.getD (2 * k) none) (l.getD (2 * k + 1) none)

/-- The reduction of a segment of 32, 16, 8, 4 or 2 slots. -/
def reduced (kind : BitVec 3) (code : Nat) (l : List (Option (Word × Flags))) : Option (Word × Flags) :=
  ((List.range (5 - code)).foldl (fun l _ => halved kind l) l).headD none

/-- A member of a rendezvous bundle: its slot and its thread as it arrived. -/
abbrev Member := Nat × Thread

/-- What a member takes from a vote, a move, a reduction or a scan (R168 to R170): `code`: the segment code, `ms`: the members in ascending
slot order. -/
def collectiveOf (i : Instr) (code : Nat) (ms : List Member) (slot : Nat) (t : Thread) : Option Result :=
  let size := 32 / 2 ^ code
  let base := slot / size * size
  let mine := ms.filter fun m => m.1 / size = slot / size
  let member := fun (q : Nat) => List.find? (fun m : Member => m.1 = base + q) ms
  let vote := fun (na : Bool) (pa : BitVec 5) (m : Member) => xor (m.2.pred pa).val na
  let tags := fun (pa : BitVec 5) => joinTags (mine.map fun m => (m.2.pred pa).tag)
  let values := fun (a : Reg) => (List.range size).map fun q => (member q).map fun m => ((m.2.reg a).val, (0 : Flags))
  match i with
  | .agreeEvery _ p na pa _ => some (.pred p (mine.all (vote na pa)) (tags pa))
  | .agreeSome _ p na pa _ => some (.pred p (mine.any (vote na pa)) (tags pa))
  | .agreeMask _ d na pa _ =>
    some (.reg d (BitVec.ofNat 32 ((mine.map fun m => if vote na pa m then 2 ^ m.1 else 0).sum)) (tags pa) 0)
  | .agreeSame _ p a _ =>
    some (.pred p (mine.all fun m => decide ((m.2.reg a).val = (t.reg a).val)) (joinTags (mine.map fun m => (m.2.reg a).tag)))
  | .xlane _ d a kind _ =>
    let delta := (t.reg d).val.toNat % 32
    let pos := slot % size
    let q : Option Nat := match kind.toNat with
      | 0 => some (delta % size)
      | 1 => if delta ≤ pos then some (pos - delta) else none
      | 2 => if pos + delta < size then some (pos + delta) else none
      | _ => if pos ^^^ delta < size then some (pos ^^^ delta) else none
    let v := match q.bind member with
      | some m => m.2.reg a
      | none => t.reg a
    some (.reg d v.val (joinTags [v.tag, (t.reg d).tag]) 0)
  | .sred _ d a kind _ =>
    (reduced kind code (values a)).map fun r => .reg d r.1 (joinTags (mine.map fun m => (m.2.reg a).tag)) r.2
  | .sscan _ d a kind _ =>
    (((values a).take (slot % size + 1)).foldl (combining kind) none).map fun r =>
      .reg d r.1 (joinTags ((mine.filter fun m => m.1 ≤ slot).map fun m => (m.2.reg a).tag)) r.2
  | .pseg _ _ _ => some .none
  | .cvset _ _ _ => some .none
  | _ => none

/-- The slots of the members that have arrived with those of an arriving thread, ascending. -/
def together (s : State) (tid m : Nat) : List Nat :=
  (List.range 32).filter fun k => k = tid % 32 || ((s.threadGroup tid).arrivals m).any fun r => r.slot = k

/-- The last member arrives at a rendezvous whose others have all arrived with the same word at the same address: every arrived
thread takes its result, computed from all as they arrived, and they stand at the next unit as one bundle, ready 6 cc later (R143), on
the vector pipe of their group (R137). `pseg` sets the
group's segment code, `cvset` declares its convergence set. -/
def RendezvousCompletes : Prop :=
  ∀ (s : State) (u : Issue) (i : Instr) (tid m : Nat), maskOf i = some m → onlyWaits i = false → Alone s u i tid →
    InOrder s (tid / 32) m →
    let g := s.threadGroup tid
    (g.mask m).getLsbD (tid % 32) = true →
    (∀ r ∈ g.arrivals m, r.slot < 32 ∧ r.slot ≠ tid % 32 ∧ r.addr = u.addr ∧ r.word = u.word ∧ r.next = u.next ∧ r.instr = i) →
    (∀ k ∈ liveMembers s (tid / 32) m, k ∈ together s tid m) → u.bundle < s.nextId →
    (∀ c n a, i = .cvset c n a → (g.convReg n.toNat).signed = 0) →
    (∀ c m n, i = .pseg c m n → n.toNat < 5) →
    g.seg ≤ 4 →
    let ms : List Member := (together s tid m).map fun k => (k, s.thread (tid / 32 * 32 + k))
    ∃ t, exec i s = .next t ∧ t.cur = none ∧ t.mem = s.mem ∧ t.lines = s.lines ∧ (t.threadGroup tid).arrivals m = [] ∧
      (∀ k ∈ together s tid m, ∃ r p q, collectiveOf i g.seg ms k (s.thread (tid / 32 * 32 + k)) = some r ∧
        t.thread (tid / 32 * 32 + k) = { (s.thread (tid / 32 * 32 + k)).apply r with
          pc := u.next, place := .inBundle s.nextId, since := p, retries := q }) ∧
      (∀ k, (∀ j ∈ together s tid m, k ≠ tid / 32 * 32 + j) → t.thread k = s.thread k) ∧
      t.bundles.find? s.nextId = some
        ⟨g.core, (together s tid m).map fun k => tid / 32 * 32 + k, u.next, u.next, 0, [], [], s.time, false, false, s.time + 6,
          decide (tid / 32 % 32 % 2 = 1), false⟩ ∧
      (∀ b, b ≠ u.bundle → b ≠ s.nextId → t.bundles.find? b = s.bundles.find? b) ∧
      (t.threadGroup tid).masks = g.masks ∧
      (t.threadGroup tid).seg = (match i with
        | .pseg _ _ n => n.toNat
        | _ => g.seg) ∧
      ∀ n, (t.threadGroup tid).convReg n = (match i with
        | .cvset _ c a => if n = c.toNat then { noConv with declared := g.mask a.toNat } else g.convReg n
        | _ => g.convReg n)

/-- The last member arrives at a rendezvous at which all wait by `waitm` or `join`: each goes on at the unit after its own, those of one
address in one bundle. -/
def WaitersReleased : Prop :=
  ∀ (s : State) (u : Issue) (i : Instr) (tid m : Nat), maskOf i = some m → onlyWaits i = true → Alone s u i tid →
    InOrder s (tid / 32) m →
    let g := (arriving s i tid m).threadGroup tid
    (g.mask m).getLsbD (tid % 32) = true →
    (∀ r ∈ g.arrivals m, r.slot < 32 ∧ r.slot ≠ tid % 32 ∧ onlyWaits r.instr = true) →
    (g.arrivals m).Pairwise (fun r r' => r.slot ≠ r'.slot) →
    (∀ k ∈ liveMembers (arriving s i tid m) (tid / 32) m, k ∈ together (arriving s i tid m) tid m) →
    u.bundle < s.nextId →
    let all := g.arrivals m ++ [arrival u i tid]
    ∃ t, exec i s = .next t ∧ t.cur = none ∧ t.mem = s.mem ∧ (t.threadGroup tid).arrivals m = [] ∧
      (t.threadGroup tid).masks = g.masks ∧
      (∀ r ∈ all, ∃ b x p q, t.bundles.find? b = some x ∧ x.pc = r.next ∧ x.ready = s.time + 6 ∧
        x.tids = ((List.range 32).filter fun k => all.any fun r' => r'.slot = k && r'.next = r.next).map (fun k => tid / 32 * 32 + k) ∧
        t.thread (tid / 32 * 32 + r.slot) = { (s.thread (tid / 32 * 32 + r.slot)).pushLatch (untagged 0) with
          pc := r.next, place := .inBundle b, since := p, retries := q }) ∧
      ∀ k, (∀ r ∈ all, k ≠ tid / 32 * 32 + r.slot) → t.thread k = s.thread k

/-- `leave` (R162): a member's bit is cleared; the rendezvous of the mask does not complete where none has arrived or a living member
still misses. A thread that is no member goes on with no effect. After an event at a higher mask of the same cc a member waits for the
next cc (R163). -/
def Leave : Prop :=
  ∀ (s : State) (u : Issue) (c : Ctl) (a : Reg) (tid : Nat), Alone s u (.leave c a) tid →
    let g := s.threadGroup tid
    let a' := entered (s.setMask (tid / 32) a.toNat (g.mask a.toNat &&& ~~~(BitVec.ofNat 32 (2 ^ (tid % 32))))) (tid / 32) a.toNat
    ((g.mask a.toNat).getLsbD (tid % 32) = false →
      ∃ t, exec (.leave c a) s = .next t ∧ OnlyThreads s t u ∧ Advanced s t u ∧
        t.thread tid = (s.thread tid).pushLatch (untagged 0)) ∧
    ((g.mask a.toNat).getLsbD (tid % 32) = true → InOrder s (tid / 32) a.toNat →
      (g.arrivals a.toNat = [] ∨ ∃ k ∈ liveMembers a' (tid / 32) a.toNat, ∀ r ∈ g.arrivals a.toNat, r.slot ≠ k) →
      ∃ t, exec (.leave c a) s = .next t ∧ OnlyThreads a' t u ∧ Advanced s t u ∧
        t.thread tid = (s.thread tid).pushLatch (untagged 0)) ∧
    ((g.mask a.toNat).getLsbD (tid % 32) = true → ¬ InOrder s (tid / 32) a.toNat → HoldsUnit s u (.leave c a))

/-- `exit` (R128) of a thread of a group in which none waits at a rendezvous and which stands in no convergence set that it has not
signed: it ends, leaves every mask, and its spill words are discarded; its team has ended with its last thread. After an event at a
higher mask than one of its own in the same cc it waits for the next cc (R163). -/
def Exit : Prop :=
  ∀ (s : State) (u : Issue) (c : Ctl) (tid : Nat), Alone s u (.exit c) tid →
    let g := s.threadGroup tid
    (∀ m, m < 12 → (g.mask m).getLsbD (tid % 32) = true → ¬ InOrder s (tid / 32) m → HoldsUnit s u (.exit c)) ∧
    ((∀ m, m < 12 → (g.mask m).getLsbD (tid % 32) = true → InOrder s (tid / 32) m) →
    (∀ m, m < 12 → g.arrivals m = []) →
    (∀ n, n < 4 → (g.convReg n).declared.getLsbD (tid % 32) = true → (g.convReg n).signed.getLsbD (tid % 32) = true) →
    ∃ t, exec (.exit c) s = .next t ∧ t.cur = none ∧
      t.thread tid = { s.thread tid with place := .ended, spill := [], sp := 0, request := none } ∧
      (∀ k, k ≠ tid → t.thread k = s.thread k) ∧ t.bundles.find? u.bundle = none ∧ t.mem = s.mem ∧ t.lines = s.lines ∧
      (∀ m, m < 12 → (t.threadGroup tid).mask m = g.mask m &&& ~~~(BitVec.ofNat 32 (2 ^ (tid % 32)))) ∧
      ((∃ k, k < 32 ∧ k ≠ tid % 32 ∧ (s.thread (tid / 32 * 32 + k)).place ≠ .ended) → (t.threadGroup tid).conv = g.conv) ∧
      ((∀ k, k < 32 → k ≠ tid % 32 → (s.thread (tid / 32 * 32 + k)).place = .ended) → ∀ n, n < 4 →
        (t.threadGroup tid).convReg n =
          { g.convReg n with latch := if (g.convReg n).signed = 0 then none else (g.convReg n).latch }) ∧
      (t.threadTeam tid).ended = ((s.threadTeam tid).ended || allEnded t (tid / 1024)) ∧ t.ladles = s.ladles)

/-! ## Matrix operations (R213 to R216, R232, R217) -/

/-- A matrix instruction: its sub-operation, Va, its convergence register, and what it posts. -/
structure MatrixShape where
  sub     : Nat
  td      : BitVec 5
  va      : Reg
  tb      : BitVec 5
  quarter : BitVec 2
  slot    : BitVec 3
  conv    : BitVec 2
  reuse   : Bool

def matrixShape : Instr → Option MatrixShape
  | .mma _ t a b q f n r => some ⟨0, t, a, b, q, f, n, r⟩
  | .mmaSc _ t a b q f n r => some ⟨1, t, a, b, q, f, n, r⟩
  | .mmaSet _ t a b q f n r => some ⟨2, t, a, b, q, f, n, r⟩
  | _ => none

/-- A convergence register that a thread may sign with an instruction (R215, R216): declared, not signed, no other operation under way, the
latch's Va the same, and a latch free where it has none. -/
structure MaySign (s : State) (i : Instr) (x : MatrixShape) (tid : Nat) : Prop where
  declared : ((s.threadGroup tid).convReg x.conv.toNat).declared.getLsbD (tid % 32) = true
  unsigned : ((s.threadGroup tid).convReg x.conv.toNat).signed.getLsbD (tid % 32) = false
  same     : ((s.threadGroup tid).convReg x.conv.toNat).signed = 0 ∨
    ((s.threadGroup tid).convReg x.conv.toNat).op = some (withoutVa i)
  latched  : ∀ l, ((s.threadGroup tid).convReg x.conv.toNat).latch = some l →
    ((s.threadGroup tid).convReg x.conv.toNat).latchVa = x.va
  room     : ((s.threadGroup tid).convReg x.conv.toNat).latch = none → (s.quad (quadOf (s.threadCore tid))).latches.length < 16

/-- The row of a signer in a latch: eight registers from Va, nine for `mma.sc` (R213, R214), under the tag of its guard (R83). -/
def signedRow (t : Thread) (x : MatrixShape) (g : Tag) : LatchRow :=
  let rs := (List.range (if x.sub = 1 then 9 else 8)).map fun k => t.reg (x.va + BitVec.ofNat 7 k)
  ⟨rs.map (·.val), (joinTags ((rs.take 8).map (·.tag))).join g, (joinTags ((rs.drop 8).map (·.tag))).join g⟩

/-- The register after a signature (R216), with the tag of its guard (R83). -/
def signedConv (s : State) (u : Issue) (i : Instr) (x : MatrixShape) (tid : Nat) : Conv :=
  let c := (s.threadGroup tid).convReg x.conv.toNat
  { c with
    signed := c.signed ||| BitVec.ofNat 32 (2 ^ (tid % 32)), op := some (withoutVa i), latch := some (c.latch.getD s.nextId)
    latchVa := x.va, isFresh := if c.signed = 0 then c.latch.isNone else c.isFresh
    guards := SMap.set Tag.zero c.guards (tid % 32) (guardTag s u i tid) }

/-- The rows of the latch after it. -/
def signedRows (s : State) (u : Issue) (i : Instr) (x : MatrixShape) (tid : Nat) : SMap LatchRow :=
  let old := ((s.quad (quadOf (s.threadCore tid))).latches.find? (((s.threadGroup tid).convReg x.conv.toNat).latch.getD s.nextId)).getD []
  if (signedConv s u i x tid).isFresh then old.insert (tid % 32) (signedRow (s.thread tid) x (guardTag s u i tid)) else old

/-- The rows that a pass takes from a latch: those of its mask, each with the tags of the registers that the pass reads, the ninth for
`mma.sc` alone, and of its slot's guard (R83, R216, R221). Where `mma.sc` reuses a row that has no scale word, that word is a free
value, by slot (notes/assumptions/122.md). -/
def passRows (scale : Nat → Word) (rows : SMap LatchRow) (c : Conv) (sub : Nat) : SMap LatchRow :=
  (rows.filter fun e => c.declared.getLsbD e.1).map fun e => (e.1,
    ⟨if sub = 1 ∧ e.2.words.length < 9 then e.2.words ++ [scale e.1] else e.2.words,
    joinTags [e.2.tag, if sub = 1 then e.2.scaleTag else Tag.zero, c.guards.getD e.1 Tag.zero], Tag.zero⟩)

/-- A signature that others must still follow: the convergence register and the latch take it, and the thread goes on. -/
def MatrixSigns : Prop :=
  ∀ (s : State) (u : Issue) (i : Instr) (x : MatrixShape) (tid : Nat), matrixShape i = some x → Alone s u i tid →
    MaySign s i x tid → (signedConv s u i x tid).signed ≠ (signedConv s u i x tid).declared →
    ∃ t, exec i s = .next t ∧ Advanced s t u ∧ t.thread tid = (s.thread tid).pushLatch (untagged 0) ∧
      (∀ k, k ≠ tid → t.thread k = s.thread k) ∧ t.mem = s.mem ∧
      (t.threadGroup tid).convReg x.conv.toNat = signedConv s u i x tid ∧
      (∀ n, n ≠ x.conv.toNat → (t.threadGroup tid).convReg n = (s.threadGroup tid).convReg n) ∧
      (t.quad (quadOf (s.threadCore tid))).latches.find? (((s.threadGroup tid).convReg x.conv.toNat).latch.getD s.nextId) =
        some (signedRows s u i x tid) ∧
      (t.quad (quadOf (s.threadCore tid))).table = (s.quad (quadOf (s.threadCore tid))).table

/-- An entry posted to a quad's reservation table for a team (R217): the last of the table, the tiles it writes counted. -/
structure Posts (s t : State) (q team : Nat) (op : TileOp) : Prop where
  entry  : ∃ e l, (t.quad q).table = l ++ [e] ∧ l.map (·.id) = (s.quad q).table.map (·.id) ∧ e.op = op ∧ e.team = team ∧
    e.prio = (s.team team).prio
  tiles  : ∀ n, ((t.team team).tile n).writers = ((s.team team).tile n).writers + op.writes.count n
  mem    : t.mem = s.mem
  lines  : t.lines = s.lines

/-- The last signature of an operation, with room in the table: the pass is posted with the rows of its mask, the signed set is empty, the
latch is the pass's unless the reuse bit keeps it, and members that have ended leave the set (R216, R217, R232). -/
def MatrixPosts : Prop :=
  ∀ (s : State) (u : Issue) (i : Instr) (x : MatrixShape) (tid : Nat), matrixShape i = some x → Alone s u i tid →
    MaySign s i x tid →
    ((s.threadGroup tid).convReg x.conv.toNat).signer = none →
    (signedConv s u i x tid).signed = (signedConv s u i x tid).declared → tableRoom s (quadOf (s.threadCore tid)) = true →
    ∃ t scale, exec i s = .next t ∧ Advanced s t u ∧ t.thread tid = (s.thread tid).pushLatch (untagged 0) ∧
      (∀ k, k ≠ tid → t.thread k = s.thread k) ∧
      Posts s t (quadOf (s.threadCore tid)) (tid / 1024) (.pass (tid / 32) x.sub x.td.toNat x.tb.toNat x.quarter.toNat
        ((s.threadLaunch tid).fmt.getD x.slot.toNat 0)
        (passRows scale (signedRows s u i x tid) (signedConv s u i x tid) x.sub)
        (if x.reuse then none else (signedConv s u i x tid).latch)) ∧
      (t.threadGroup tid).convReg x.conv.toNat = { signedConv s u i x tid with
        declared := (signedConv s u i x tid).declared &&& ~~~(endedMask s (tid / 32)), signed := 0, op := none
        latch := if x.reuse then (signedConv s u i x tid).latch else none, guards := [] }

/-- A thread whose slot has signed already, or that finds no latch free for a new operation, waits before issue (R215, R216). -/
def MatrixHolds : Prop :=
  ∀ (s : State) (u : Issue) (i : Instr) (x : MatrixShape) (tid : Nat), matrixShape i = some x → Alone s u i tid →
    let c := (s.threadGroup tid).convReg x.conv.toNat
    c.declared.getLsbD (tid % 32) = true →
    (c.signed.getLsbD (tid % 32) = true ∨ ((c.signed = 0 ∨ c.op = some (withoutVa i)) ∧ c.latch = none ∧
      16 ≤ (s.quad (quadOf (s.threadCore tid))).latches.length)) →
    HoldsUnit s u i

/-- What a signature that R215 or R216 refuses traps with. -/
def MatrixTraps : Prop :=
  ∀ (s : State) (u : Issue) (i : Instr) (x : MatrixShape) (tid : Nat), matrixShape i = some x → Alone s u i tid → CanTrap s tid →
    let c := (s.threadGroup tid).convReg x.conv.toNat
    (c.declared.getLsbD (tid % 32) = false → Traps s u i tid .illegalOperand u.word u.head) ∧
    (c.declared.getLsbD (tid % 32) = true → c.signed.getLsbD (tid % 32) = false → c.signed ≠ 0 → c.op ≠ some (withoutVa i) →
      Traps s u i tid .illegalOperand u.word u.head) ∧
    (c.declared.getLsbD (tid % 32) = true → c.signed.getLsbD (tid % 32) = false → (c.signed = 0 ∨ c.op = some (withoutVa i)) →
      c.latch.isSome = true → c.latchVa ≠ x.va →
      Traps s u i tid .reuseMismatch (BitVec.ofNat 32 (c.latchVa.toNat * 256 + x.va.toNat)) u.head)

/-! ## Tile instructions (R236 to R241) -/

/-- What `tzero` and `tcvt` post. -/
def tilePost (i : Instr) (s : State) (u : Issue) (tid : Nat) : Option TileOp :=
  match i with
  | .tzero _ d => some (.zero d.toNat (guardTag s u i tid).grade)
  | .tcvt _ d a f => some (.convert d.toNat a.toNat ((s.threadLaunch tid).fmt.getD f.toNat 0) (guardTag s u i tid) [tid])
  | _ => none

/-- `tzero` and `tcvt` with room in the table: posted, and the thread goes on. -/
def TilePosted : Prop :=
  ∀ (s : State) (u : Issue) (i : Instr) (tid : Nat) (op : TileOp), Alone s u i tid → tilePost i s u tid = some op →
    tableRoom s (quadOf u.core) = true →
    ∃ t, exec i s = .next t ∧ Advanced s t u ∧ t.thread tid = (s.thread tid).pushLatch (untagged 0) ∧
      (∀ k, k ≠ tid → t.thread k = s.thread k) ∧ Posts s t (quadOf u.core) (tid / 1024) op ∧ t.ranges = s.ranges

/-- A near address of a tile (R237, R238): clean, aligned to 128 bytes, all 4,352 bytes mapped at `key`, unlocked. -/
def TileNear (s : State) (tid : Nat) (base : Tagged Word) (load : Bool) (key : Nat) : Prop :=
  base.tag.poison = false ∧ base.val.toNat % 128 = 0 ∧ nearKey s (teamOf tid) base.val.toNat 4352 = some key ∧
    locked s key 4352 load = false

/-- No near store to [key, key + n) is still to become visible: what a range's registration does first (R186, R190). -/
def Settled (s : State) (key n : Nat) : Prop := ∀ e ∈ s.late, e.meets key n = false

/-- `tld` of present lines with room in the table and for its range: posted, its source registered until the tile is read. -/
def TileLoad : Prop :=
  ∀ (s : State) (u : Issue) (tid : Nat) (c : Ctl) (d a : Reg) (key : Nat), Alone s u (.tld c d a) tid →
    let b := (s.thread tid).reg a
    TileNear s tid b true key → absentLine s key 4352 = none → Settled s key 4352 → tableRoom s (quadOf u.core) = true →
    sourceRoom s (quadOf u.core) key 4352 (decide (b.val.toNat < 0x10000000)) = true →
    ∃ t, exec (.tld c d a) s = .next t ∧ Advanced s t u ∧ t.thread tid = (s.thread tid).pushLatch (untagged 0) ∧
      (∀ k, k ≠ tid → t.thread k = s.thread k) ∧
      Posts s t (quadOf u.core) (tid / 1024)
        (.load d.toNat key (joinTags [b.tag, guardTag s u (.tld c d a) tid]) s.nextId) ∧
      t.ranges = s.ranges ++ [⟨s.nextId, true, key, key + 4352, quadOf u.core, decide (b.val.toNat < 0x10000000)⟩]

/-- The bundle stays at a unit whose thread waits for the answer to a request. -/
structure Sends (s t : State) (u : Issue) (tid req : Nat) : Prop where
  thread : t.thread tid = { s.thread tid with request := some req }
  others : ∀ k, k ≠ tid → t.thread k = s.thread k
  bundle : t.bundles.find? u.bundle = some { s.bundle u.bundle with finished := [tid], held := false }
  cur    : t.cur = none

/-- A posted word read that a unit which begins now joins: one of the same unit (R235). -/
def JoinedBy (s : State) (e : Posted) : Prop := s.nextId ≤ e.id ∧ ∃ a d items, e.op = .read a d items

/-- `tst` and `trd` with room in the table: posted, and the thread waits in the unit for the answer (R238, R240). A `trd` whose unit has an
entry already adds its word to it. -/
def TileSent : Prop :=
  ∀ (s : State) (u : Issue) (tid : Nat) (c : Ctl) (d a : Reg), tableRoom s (quadOf u.core) = true →
    (∀ key, Alone s u (.tst c d a) tid → TileNear s tid ((s.thread tid).reg a) false key →
      ∃ t, exec (.tst c d a) s = .next t ∧ Sends s t u tid s.nextId ∧ Posts s t (quadOf u.core) (tid / 1024)
        (.store d.toNat key (joinTags [((s.thread tid).reg a).tag, guardTag s u (.tst c d a) tid]) s.nextId)) ∧
    (Alone s u (.trd c d a) tid → ((s.thread tid).reg d).val.toNat % 2048 < 1088 →
      let item := (((s.thread tid).reg d).val.toNat % 2048, joinTags [((s.thread tid).reg d).tag, guardTag s u (.trd c d a) tid], s.nextId)
      ((∀ e ∈ (s.quad (quadOf u.core)).table, ¬ JoinedBy s e) →
        ∃ t, exec (.trd c d a) s = .next t ∧ Sends s t u tid s.nextId ∧
          Posts s t (quadOf u.core) (tid / 1024) (.read a.toNat d [item])) ∧
      ∀ before e after a' d' items, (s.quad (quadOf u.core)).table = before ++ e :: after → s.nextId ≤ e.id →
        e.op = .read a' d' items → (∀ e' ∈ after, ¬ JoinedBy s e') →
        ∃ t, exec (.trd c d a) s = .next t ∧ Sends s t u tid s.nextId ∧ t.mem = s.mem ∧ t.teams = s.teams ∧
          (t.quad (quadOf u.core)).table = before ++ { e with op := .read a' d' (items ++ [item]) } :: after)

/-! ## Queues (R206, R244, R245) -/

/-- `qsend` to a living team of the cluster: an entry with room, or 0 where there is none; to one that has ended, or to none, only the
answer. -/
def QueueSend : Prop :=
  ∀ (s : State) (u : Issue) (tid : Nat) (c : Ctl) (d : Reg), Alone s u (.qsend c d) tid →
    let t0 := s.thread tid
    let dst := t0.reg d
    let n := dst.val.toNat % 16
    let tag := joinTags [dst.tag, guardTag s u (.qsend c d) tid]
    dst.tag.poison = false → n < s.teamCount (tid / 1024) →
    (∀ x, teamAt s (s.threadTeam tid).cluster n = some x → (s.team x).ended = false →
      ((s.team x).tail - (s.team x).head).toNat < 64 →
      ∃ t, exec (.qsend c d) s = .next t ∧ Advanced s t u ∧
        (∃ r, t.thread tid = t0.apply (.reg d r tag 0) ∧
          r = 0x80000000 + BitVec.ofNat 32 (63 - ((s.team x).tail - (s.team x).head).toNat)) ∧
        (t.team x).tail = (s.team x).tail + 1 ∧ (t.team x).head = (s.team x).head ∧
        (t.team x).entries.find? ((s.team x).tail.toNat % 64) = some
          ⟨(t0.reg (d + 3)).val ++ (t0.reg (d + 2)).val, (s.threadTeam tid).index,
            joinTags [(t0.reg (d + 2)).tag, (t0.reg (d + 3)).tag]⟩ ∧
        (∀ y, y ≠ x → t.team y = s.team y) ∧ t.mem = s.mem ∧
        ∀ k, k ≠ tid → (s.thread k).place ≠ .waiting .queue → t.thread k = s.thread k) ∧
    (∀ x, teamAt s (s.threadTeam tid).cluster n = some x → (s.team x).ended = false →
      ((s.team x).tail - (s.team x).head).toNat = 64 →
      ∃ t, exec (.qsend c d) s = .next t ∧ OnlyThreads s t u ∧ Advanced s t u ∧ t.thread tid = t0.apply (.reg d 0 tag 0)) ∧
    ((∀ x, teamAt s (s.threadTeam tid).cluster n = some x → (s.team x).ended = true) →
      ∃ t, exec (.qsend c d) s = .next t ∧ OnlyThreads s t u ∧ Advanced s t u ∧
        t.thread tid = t0.apply (.reg d 0x40000000 tag 0))

/-- `qrecv`: the oldest entry with its tags and the guard's grade, or a wait on an empty queue. -/
def QueueReceive : Prop :=
  ∀ (s : State) (u : Issue) (tid : Nat) (c : Ctl) (d : Reg), Alone s u (.qrecv c d) tid →
    let tm := s.threadTeam tid
    let g := guardTag s u (.qrecv c d) tid
    (∀ e, tm.tail ≠ tm.head → tm.entries.find? (tm.head.toNat % 64) = some e →
      ∃ t, exec (.qrecv c d) s = .next t ∧ OnlyThreads (s.setTeam (tid / 1024) { tm with head := tm.head + 1 }) t u ∧
        Advanced s t u ∧
        t.thread tid = (s.thread tid).apply (.pair d e.payload ⟨gradeMax e.tag.grade g.grade, e.tag.poison⟩)) ∧
    (tm.tail = tm.head → ∃ t, exec (.qrecv c d) s = .next t ∧ LeftWaiting s t u tid { s.thread tid with
      pc := u.head, place := .waiting .queue, retries := false
      since := if (s.thread tid).retries then (s.thread tid).since else s.time })

/-! ## Copies (R273, R274, R279, R295 to R303) -/

/-- The index of an element (R302): read from the index array, extended by IS. -/
def indexOf (x : Descriptor) (m : Memory) (ik e : Nat) : Int :=
  let w := x.indexSize
  let n := m.readLe (ik + e * w) w
  if x.ctl.getLsbD 6 then (BitVec.ofNat (8 * w) n).toInt else n

/-- From where to where row or element r of a descriptor copy moves (R301), by the memory keys of its near hulls; a strided near hull
begins at the row that lies lowest. -/
def rowOf (x : Descriptor) (mb : Nat) (m : Memory) (sk dk ik r : Nat) : Loc × Loc :=
  let row : Loc := .main (((mb : Int) + r * x.stride.toInt) % 2 ^ 64).toNat
  let element : Loc := .main (((mb : Int) + indexOf x m ik r * 2 ^ x.shift) % 2 ^ 64).toNat
  let st := (x.stride.setWidth 32).toInt
  match x.kind with
  | 0 => (row, .near (dk + r * x.aux))
  | 1 => (.near (sk + r * x.aux), row)
  | 2 => (element, .near (dk + r * x.elem))
  | 3 => (.near (sk + r * x.elem), element)
  | 4 => (row, .tile (128 * r))
  | _ => (.near (sk + r * x.aux), .near ((dk : Int) + r * st - min 0 (st * ((x.count : Int) - 1))).toNat)

/-- The copy that a descriptor describes, kind by kind (R301 to R303): SIN, SOUT, GATHER, SCATTER, TILEIN and NEAR. -/
def described (x : Descriptor) (mb : Nat) (nb : Word) (cb : Tagged Word) (grade operands : BitVec 2) : Copy :=
  let indexed : Bool := x.kind = 2 || x.kind = 3
  let total := x.count * x.elem
  let strided := nearHull nb.toNat x.aux x.count x.elem
  { len := if x.kind = 4 then 4352 else total
    cb := cb
    src := match x.kind with
      | 1 | 5 => some strided
      | 3 => some (nb.toNat, total)
      | _ => none
    dst := match x.kind with
      | 0 => some strided
      | 2 => some (nb.toNat, total)
      | 5 => some (nearHull (mb % 2 ^ 32) (x.stride.setWidth 32).toInt x.count x.elem)
      | _ => none
    index := if indexed then some (x.aux, x.count * x.indexSize) else none
    moves := fun s sk dk ik => (List.range (if x.kind = 4 then 34 else x.count)).flatMap fun r =>
      let n := if x.kind = 4 then 128 else x.elem
      (cutPieces x.isRemote n (rowOf x mb s.mem sk dk ik r).1 (rowOf x mb s.mem sk dk ik r).2 n).map fun p => (r, p)
    own := indexed
    rank := if x.isRemote then some x.rank else none
    grade := grade
    operands := if x.kind = 4 then operands else 0
    align := if indexed then x.elem else 1
    tile := if x.kind = 4 then some x.aux else none
    toMain := x.kind = 1 || x.kind = 3 }

/-- The copy that an instruction with clean operands asks for (R296, R300 to R303). -/
def copyOf (i : Instr) (s : State) (u : Issue) (tid : Nat) : Option Copy :=
  let t := s.thread tid
  let g := guardTag s u i tid
  let clean := fun (l : List Reg) => l.all fun r => !(t.reg r).tag.poison
  let linear := fun (out : Bool) (d a b : Reg) =>
    let near := (t.reg d).val.toNat
    let va := (t.reg a).val.toNat + 2 ^ 32 * (t.reg (a + 1)).val.toNat
    let len := (t.reg b).val.toNat
    if clean [d, a, a + 1, b, b + 1] then some ({
      len := len, cb := t.reg (b + 1)
      src := if out then some (near, len) else none
      dst := if out then none else some (near, len)
      moves := fun _ sk dk _ =>
        (if out then cutPieces false len (.near sk) (.main va) len else cutPieces false len (.main va) (.near dk) len).map
          fun x => (0, x)
      grade := (joinTags [(t.reg d).tag, (t.reg a).tag, (t.reg (a + 1)).tag, g]).grade, toMain := out } : Copy)
    else none
  match i with
  | .lcpIn _ d a b => linear false d a b
  | .lcpOut _ d a b => linear true d a b
  | .lcpx _ d a b =>
    let at_ := t.reg d
    match nearKey s (teamOf tid) at_.val.toNat 32 with
    | none => none
    | some key =>
      let x := readDescriptor s.mem key
      let addr := [at_.tag, (t.reg a).tag, (t.reg (a + 1)).tag, g]
      if clean [d, a, a + 1, b, b + 1] ∧ at_.val.toNat % 32 = 0 ∧ locked s key 32 true = false ∧ (s.line (key / 128)).present = true ∧
        (s.line (key / 128)).tag.poison = false ∧ x.legal (t.reg b).val (t.reg (a + 1)).val = true ∧
        (x.kind = 4 → x.aux < (s.threadLaunch tid).tileCount) then
        some (described x ((t.reg a).val.toNat + 2 ^ 32 * (t.reg (a + 1)).val.toNat) (t.reg b).val (t.reg (b + 1))
          (joinTags addr).grade (joinTags (addr ++ [(t.reg b).tag, (t.reg (b + 1)).tag])).grade)
      else none
  | _ => none

/-- The memory key of a hull of a copy; 0 where the copy has none. -/
def hullKey (s : State) (tid : Nat) (h : Option (Nat × Nat)) (key : Nat) : Prop :=
  match h with
  | some (ea, n) => nearKey s (teamOf tid) ea n = some key
  | none => key = 0

/-- Lines that are present and clean. -/
def linesReady (s : State) (l : List Nat) : Prop := ∀ k ∈ l, (s.line k).present = true ∧ (s.line k).tag.poison = false

/-- The grade that a destination page must reach (R297). -/
def copyGrade (s : State) (c : Copy) (sk dk ik : Nat) : BitVec 2 :=
  (joinTags (⟨c.grade, false⟩ :: (sourceLines (c.moves s sk dk ik)).map fun k => (s.line k).tag)).grade

/-- The checks that a copy passes at issue (R296, R297, R303): keys of its counter block and its hulls; `q`: the issuing quad. -/
structure CopyReady (s : State) (q tid : Nat) (c : Copy) (ck sk dk ik : Nat) : Prop where
  length  : 0 < c.len ∧ c.len ≤ 2 ^ 24
  block   : c.cb.val.toNat % 16 = 0 ∧ nearKey s (teamOf tid) c.cb.val.toNat 16 = some ck ∧ locked s ck 16 false = false
  hulls   : hullKey s tid c.src sk ∧ hullKey s tid c.dst dk ∧ hullKey s tid c.index ik
  apart   : ∀ r ∈ copyRanges c sk dk ik, (r.1 = false → overlaps (ck, ck + 16) r.2.2 = false) ∧
    (∀ h, c.src = some h → overlaps (ck, ck + 16) (roundOut sk h.2) = false) ∧
    (r.1 = true → ∀ r' ∈ copyRanges c sk dk ik, r'.1 = false → overlaps r.2.2 r'.2.2 = false)
  rank    : ∀ k, c.rank = some k → rankStatus s (s.threadWorld tid) k = .ok
  index   : ∀ h, c.index = some h → linesReady s (linesOf ik h.2)
  source  : linesReady s (sourceLines (c.moves s sk dk ik))
  grade   : c.toMain = true → c.rank = none →
    (gradeFault q (s.threadWorld tid) (copyGrade s c sk dk ik) (c.moves s sk dk ik) s).1 = none
  free    : rangesFit s q (copyRanges c sk dk ik) = true
  settled : ∀ r ∈ copyRanges c sk dk ik, Settled s r.2.2.1 (r.2.2.2 - r.2.2.1)
  table   : c.tile.isSome = true → tableRoom s q = true

/-- A copy that passes its checks: an operation is queued with its segments; its near ranges are registered, the destination's lines
absent, and nothing that was read ahead of them is kept (R192); a tile load also posts its entry. Nothing is moved yet. -/
def CopyQueued : Prop :=
  ∀ (s : State) (u : Issue) (i : Instr) (tid : Nat) (c : Copy) (ck sk dk ik : Nat), Alone s u i tid → copyOf i s u tid = some c →
    CopyReady s (quadOf u.core) tid c ck sk dk ik →
    ∃ t o, exec i s = .next t ∧ Advanced s t u ∧ t.thread tid = (s.thread tid).pushLatch (untagged 0) ∧
      (∀ k, k ≠ tid → t.thread k = s.thread k) ∧ t.mem = s.mem ∧
      t.ladles.find? s.nextId = some o ∧ (∀ n, n ≠ s.nextId → t.ladles.find? n = s.ladles.find? n) ∧
      o.core = u.core ∧ o.world = s.threadWorld tid ∧ o.team = some (tid / 1024) ∧ o.tid = tid ∧ o.rank = c.rank ∧
      o.counter = some ck ∧ o.grade = copyGrade s c sk dk ik ∧ o.align = c.align ∧ o.tile.map (·.1) = c.tile ∧
      o.tileTag = ⟨c.operands, false⟩ ∧
      o.segs = makeSegments c.own (c.moves s sk dk ik) ∧
      t.ranges = s.ranges ++ (copyRanges c sk dk ik).map
        (fun r => ⟨s.nextId, r.1, r.2.2.1, r.2.2.2, quadOf u.core, r.2.1⟩) ∧
      (∀ e ∈ t.early, ∀ r ∈ copyRanges c sk dk ik, r.1 = false → e.meets r.2.2.1 (r.2.2.2 - r.2.2.1) = false) ∧
      (∀ n, t.line n = if (copyRanges c sk dk ik).any
          (fun r => !r.1 && (linesOf r.2.2.1 (r.2.2.2 - r.2.2.1)).contains n) then { s.line n with present := false } else s.line n) ∧
      ∀ n, c.tile = some n → Posts s { t with lines := s.lines } (quadOf u.core) (tid / 1024) (.tilein n s.nextId)

/-- Whether a copy's counter block shares a line with a destination range or a source hull, or a source range with a destination range
(R280, R297, R303). -/
def Overlapping (c : Copy) (ck sk dk ik : Nat) : Prop :=
  (∃ r ∈ copyRanges c sk dk ik, r.1 = false ∧ overlaps (ck, ck + 16) r.2.2 = true) ∨
  (∃ h, c.src = some h ∧ overlaps (ck, ck + 16) (roundOut sk h.2) = true) ∨
  ∃ r ∈ copyRanges c sk dk ik, ∃ r' ∈ copyRanges c sk dk ik, r.1 = true ∧ r'.1 = false ∧ overlaps r.2.2 r'.2.2 = true

/-- A copy that its issue turns away completes at once with its status (R277, R280, R398, R401): no range is registered and no operation
queued, and its counter block takes the status and the length. It is RANGE_FAULT for ranges that overlap, otherwise that of an invalid
or lost rank; a lost one also makes RANK_LOST pending. An empty copy has no effect (R297). -/
def CopyEndsAtIssue : Prop :=
  ∀ (s : State) (u : Issue) (i : Instr) (tid : Nat) (c : Copy) (ck sk dk ik : Nat), Alone s u i tid → copyOf i s u tid = some c →
    c.len ≤ 2 ^ 24 → c.cb.val.toNat % 16 = 0 → nearKey s (teamOf tid) c.cb.val.toNat 16 = some ck → locked s ck 16 false = false →
    (c.len = 0 → ∃ t, exec i s = .next t ∧ OnlyThreads s t u ∧ Advanced s t u ∧
      t.thread tid = (s.thread tid).pushLatch (untagged 0)) ∧
    (0 < c.len → hullKey s tid c.src sk → hullKey s tid c.dst dk → hullKey s tid c.index ik →
      (Overlapping c ck sk dk ik →
        ∃ t, exec i s = .next t ∧ Advanced s t u ∧ t.ladles = s.ladles ∧ t.ranges = s.ranges ∧
          t.thread tid = (s.thread tid).pushLatch (untagged 0) ∧ t.mem = (counterAdd s ck .rangeFault c.len).mem) ∧
      ∀ k st, ¬ Overlapping c ck sk dk ik → c.rank = some k → rankStatus s (s.threadWorld tid) k = st → st ≠ .ok →
        ∃ t, exec i s = .next t ∧ Advanced s t u ∧ t.ladles = s.ladles ∧ t.ranges = s.ranges ∧
          t.mem = (counterAdd s ck st c.len).mem ∧
          t.thread tid = { (s.thread tid).pushLatch (untagged 0) with
            pending := if st = .rankLost ∧ ∀ p ∈ (s.thread tid).pending, p.1 ≠ .rankLost then
              (s.thread tid).pending ++ [(.rankLost, BitVec.ofNat 32 k)] else (s.thread tid).pending })

/-- Cutting (R273, R398): the pieces follow one another from the source and the destination, none crosses a line of the destination, or a page
of a source on this package, and together they have every byte. -/
def CutCovers : Prop :=
  ∀ (out : Bool) (src dst : Loc) (n : Nat), (∀ va, src = .main va ∨ dst = .main va → va < 2 ^ 64) →
    ((cutPieces out n src dst n).map (·.len)).sum = n ∧
    ∀ l p r, cutPieces out n src dst n = l ++ p :: r →
      p.src = src.add ((l.map (·.len)).sum) ∧ p.dst = dst.add ((l.map (·.len)).sum) ∧ 0 < p.len ∧
      p.dst.offset % 128 + p.len ≤ 128 ∧ (out = false → ∀ va, p.src = .main va → va % 2 ^ 16 + p.len ≤ 2 ^ 16)

/-! ## Requests (R274, R304 to R310, R343, R407 to R410) -/

/-- The request identifier of the next request of a world on a core (R343). -/
def nextRequest (s : State) (w core : Nat) : DWord :=
  BitVec.ofNat 64 (w * 2 ^ 58 + core * 2 ^ 48 + (s.world w).seqs.getD core 0 % 2 ^ 48)

/-- A thread's request is recorded under its number, with the tag of its guard, and the thread waits in its unit for the answer; memory is
unchanged. -/
structure Requests (s t : State) (u : Issue) (tid : Nat) (g : Tag) (asked : Asked) (pinned : Option Nat) : Prop where
  sends   : Sends s t u tid s.nextId
  request : t.requests.find? s.nextId = some
    ⟨s.threadWorld tid, u.core, tid, nextRequest s (s.threadWorld tid) u.core, g, asked, pinned, false, false⟩
  others  : ∀ n, n ≠ s.nextId → t.requests.find? n = s.requests.find? n
  number  : (t.world (s.threadWorld tid)).seqs.getD u.core 0 = (s.world (s.threadWorld tid)).seqs.getD u.core 0 + 1
  pins    : t.refs = (match pinned with
    | some f => (f, 1) :: s.refs
    | none => s.refs)
  mem     : t.mem = s.mem

/-- A checked translation of a thread's access (R261, R262). -/
def Translates (s : State) (u : Issue) (tid va : Nat) (acc : Access) (x : Xlat) : Prop :=
  (access s (quadOf u.core) (s.threadWorld tid) va acc false).1 = .ok x

/-- Which host page an `atom` of an aperture frame may still wait for (R248, R318): none, or a free page-request group of the frame's
owner, which has asked for the address that the frame stands for. -/
def MayPage (s t : State) (f : Nat) (grp : Option (Nat × Nat)) : Prop :=
  grp = none ∨ ∃ k, freePageGroup s (s.frame f).owner = some k ∧ grp = some ((s.frame f).owner, k) ∧
    (t.world (s.frame f).owner).pages.find? (pageKey (s.world (s.frame f).owner).inc k) = some ((f - 0x20000000) * 2 ^ 16)

/-- `atom` with its checks passed (R304, R305) and a request entry free. On a frame of the package it is a request to the frame's home. On a
host-aperture page add.n32, add.n64, exch.b32 and cas.b32 are posted over the host link, where whether the page is present is the outside
world's answer (a free value); every other operation completes with UNSUP, which is not performed. The thread of a posted one waits in
its unit. -/
def AtomicSent : Prop :=
  ∀ (s : State) (u : Issue) (tid : Nat) (c : Ctl) (d a : Reg) (ord : BitVec 2) (op : BitVec 4) (tr : Xlat), op.toNat < 12 →
    Alone s u (.atom c d a ord op) tid →
    let t0 := s.thread tid
    let va := (t0.reg a).val.toNat + 2 ^ 32 * (t0.reg (a + 1)).val.toNat
    let x := rmwOperand t0 d op.toNat
    let g := guardTag s u (.atom c d a ord op) tid
    let at_ := joinTags [(t0.reg a).tag, (t0.reg (a + 1)).tag, g]
    let tag : Tag := ⟨gradeMax (entGrade tr.leaf) at_.grade, false⟩
    let f := tr.phys va / 2 ^ 16
    (t0.reg a).tag.poison = false → (t0.reg (a + 1)).tag.poison = false → x.2.2.poison = false →
    va % (if op.toNat = 10 then 8 else 4) = 0 → Translates s u tid va .atomic tr →
    (gradeMax x.2.2.grade at_.grade).toNat ≤ (entGrade tr.leaf).toNat →
    (isAperture f = false → outstanding s u.core < 4096 →
      ∃ t, exec (.atom c d a ord op) s = .next t ∧ Requests s t u tid g
        (.atomic (physKey (tr.phys va)) ord op d x.1 x.2.1 tag tr) (some f)) ∧
    (isAperture f = true → (op.toNat = 0 ∨ op.toNat = 8 ∨ op.toNat = 9 ∨ op.toNat = 10) → outstanding s u.core < 4096 →
      (freePageGroup s (s.frame f).owner).isSome = true →
      ∃ t grp, exec (.atom c d a ord op) s = .next t ∧ MayPage s t f grp ∧ Requests s t u tid g
        (.hostAtomic (physKey (tr.phys va)) ord op d x.1 x.2.1 tag va grp) (some f)) ∧
    (isAperture f = true → op.toNat ≠ 0 → op.toNat ≠ 8 → op.toNat ≠ 9 → op.toNat ≠ 10 →
      ∃ t, exec (.atom c d a ord op) s = .next t ∧ Advanced s t u ∧ t.mem = s.mem ∧ t.requests = s.requests ∧
        t.thread tid = t0.apply (.reg d 0xFFFFFFFF g 0))

/-- The frame group and a translation purge: the request goes to the frame's home, or to the caches (R307, R308, R310). -/
def FrameRequests : Prop :=
  ∀ (s : State) (u : Issue) (tid : Nat) (c : Ctl) (d a : Reg),
    let lo := (s.thread tid).reg a
    let hi := (s.thread tid).reg (a + 1)
    (Alone s u (.fquery c d a) tid → lo.tag.poison = false →
      ∃ t, exec (.fquery c d a) s = .next t ∧
        Requests s t u tid (guardTag s u (.fquery c d a) tid) (.fquery lo.val.toNat d) none ∧ t.purges = s.purges) ∧
    (∀ k : BitVec 4, Alone s u (.fretype c d a k) tid → lo.tag.poison = false → hi.tag.poison = false →
      ∃ t, exec (.fretype c d a k) s = .next t ∧ Requests s t u tid (guardTag s u (.fretype c d a k) tid)
        (.fretype lo.val.toNat k.toNat (if hi.val.getLsbD 6 then some (hi.val.toNat % 64) else none) d) none) ∧
    (Alone s u (.xlpurge c d a) tid → lo.tag.poison = false → hi.tag.poison = false →
      ∃ t id p, exec (.xlpurge c d a) s = .next t ∧ Requests s t u tid (guardTag s u (.xlpurge c d a) tid) (.purge d) none ∧
        t.purges.find? id = some p ∧ p.world = s.threadWorld tid ∧ p.after = .request s.nextId ∧ p.nodes = [] ∧ p.runs = [] ∧
        p.grants = [] ∧
        p.what = (if hi.val.getLsbD 31 then .all else .va (lo.val.toNat + 2 ^ 32 * hi.val.toNat)))

/-- `xlprobe` (R309): the translation word, or zeros, in both registers, with the tags of the guard (R83). -/
def ProbeWord : Prop :=
  ∀ (s : State) (u : Issue) (tid : Nat) (c : Ctl) (d a : Reg), Alone s u (.xlprobe c d a) tid →
    let lo := (s.thread tid).reg a
    let hi := (s.thread tid).reg (a + 1)
    let va := lo.val.toNat + 2 ^ 32 * hi.val.toNat
    lo.tag.poison = false → hi.tag.poison = false →
    ∃ t w, exec (.xlprobe c d a) s = .next t ∧ Advanced s t u ∧ t.mem = s.mem ∧ (∀ k, k ≠ tid → t.thread k = s.thread k) ∧
      t.thread tid = (s.thread tid).apply (.pair d w (guardTag s u (.xlprobe c d a) tid)) ∧
      match (translate s (quadOf u.core) (s.threadWorld tid) va).1 with
      | .notMapped => w = 0
      | .leaf x => 1 ≤ x.level → x.level ≤ 3 → x.phys va / 2 ^ 16 < 2 ^ 32 →
          w.extractLsb' 0 12 = x.leaf.extractLsb' 0 12 ∧ (w.extractLsb' 12 2).toNat = x.level ∧ w.extractLsb' 14 2 = 0 ∧
          (w.extractLsb' 16 32).toNat = x.phys va / 2 ^ 16 ∧ w.extractLsb' 48 8 = x.leaf.extractLsb' 48 8 ∧ w.extractLsb' 56 8 = 0

/-- A cell instruction: its kind, destination, address pair, value pair and generation register (R407 to R410). -/
structure CellShape where
  kind : Nat
  d    : Reg
  a    : Reg
  b    : Option Reg
  g    : Reg

def cellShape : Instr → Option CellShape
  | .cprop _ d a b => some ⟨0, d, a, some b, b + 2⟩
  | .cread _ d a b => some ⟨1, d, a, none, b⟩
  | .crecyc _ d a b => some ⟨2, d, a, none, b⟩
  | _ => none

/-- The operands of a cell instruction: the address as named, the value, the generation, the tags of the results, the grade tested. -/
def CellShape.named (x : CellShape) (t : Thread) : DWord := (t.reg (x.a + 1)).val ++ (t.reg x.a).val
def CellShape.value (x : CellShape) (t : Thread) : DWord :=
  match x.b with
  | some b => (t.reg (b + 1)).val ++ (t.reg b).val
  | none => 0
def CellShape.values (x : CellShape) : List Reg :=
  match x.b with
  | some b => [b, b + 1]
  | none => []
def CellShape.tag (x : CellShape) (t : Thread) (g : Tag) : Tag :=
  ⟨(joinTags [(t.reg x.a).tag, (t.reg (x.a + 1)).tag, g, (t.reg x.g).tag]).grade, (t.reg x.g).tag.poison⟩
def CellShape.grade (x : CellShape) (t : Thread) (g : Tag) : BitVec 2 :=
  (joinTags ([(t.reg x.a).tag, (t.reg (x.a + 1)).tag, g] ++ x.values.map fun r => (t.reg r).tag)).grade

/-- The request that a cell operation sends to the package of a rank entry (R391, R395, R406): OP 5, the entry's key, node, VF and world, the
acting world and its incarnation, the grid's rank, the request's identifier, the address without the rank, the operation, generation and
value. -/
def cellPacket (s : State) (u : Issue) (tid : Nat) (e : DWord) (x : CellShape) (named : DWord) (v : DWord) (g : Word) (grade : BitVec 2) :
    Packet :=
  { pkey := e.extractLsb' 40 16, dst := e.extractLsb' 0 12, vf := e.extractLsb' 38 2, src := BitVec.ofNat 12 s.fabric.node
    dworld := e.extractLsb' 32 6, sworld := BitVec.ofNat 6 (s.threadWorld tid), op := 5, inc := (s.world (s.threadWorld tid)).inc
    srank := BitVec.ofNat 12 (s.threadLaunch tid).rank, len := 16, reqid := nextRequest s (s.threadWorld tid) u.core
    addr := named &&& 0x0007FFFFFFFFFFFF, seq := 0
    payload := leBytes 4 x.kind ++ leBytes 4 g.toNat ++ leBytes 8 v.toNat, grade := grade, poison := false }

/-- A packet has left on a live port of its node's route, with the next sequence number of its flow, or stands in this package's own inbox
where it names this node (R391, R393, R395). -/
def PacketLeaves (s t : State) (p : Packet) : Prop :=
  (p.dst.toNat = s.fabric.node → t.fabric.sent = s.fabric.sent ∧ ∃ id, t.fabric.inbox.find? id = some ⟨p, true⟩) ∧
  (p.dst.toNat ≠ s.fabric.node → ∃ port ∈ livePorts s p.dst.toNat, t.fabric.sent =
    (port, { p with seq := BitVec.ofNat 64 (s.fabric.seqs.getD (p.dst.toNat * 64 + p.sworld.toNat) 0) }) :: s.fabric.sent)

/-- A cell operation with clean operands and an aligned address. `cread` of a generation that the quad's or the package's cache holds takes
the decided value and the winner from there (R405, R409). Otherwise, with a request entry free, one on a mapped local cell is sent to
the home; one on a cell of a rank that its table names and that the package reaches is sent there in a packet. The cached answer acquires as the home's LOST
does: nothing that was read ahead for the thread is kept (R290, R294, R409). On an invalid rank entry
it ends at once with REFUSED (R406), on a lost one with REFUSED and RANK_LOST pending. -/
def CellRequests : Prop :=
  ∀ (s : State) (u : Issue) (i : Instr) (tid : Nat) (x : CellShape), cellShape i = some x → Alone s u i tid →
    let t0 := s.thread tid
    let g := guardTag s u i tid
    let named := x.named t0
    let gen := (t0.reg x.g).val
    let w := s.threadWorld tid
    let rank := named.toNat / 2 ^ 51 % 2 ^ 12
    let entry := s.rankEntry w rank
    let refused := fun (gen : Word) =>
      (if x.kind = 2 then .reg x.d 4 (x.tag t0 g) 0 else .regs x.d [4, gen, 0, 0] (x.tag t0 g) : Result)
    (∀ r ∈ [x.a, x.a + 1] ++ x.values, (t0.reg r).tag.poison = false) → named.toNat % 16 = 0 →
    (named.getLsbD 63 = false → ∀ tr, Translates s u tid named.toNat .cell tr →
      (x.kind = 0 → (x.grade t0 g).toNat ≤ (entGrade tr.leaf).toNat) →
      (x.kind = 1 → ∀ e l, cellFind (s.quad (quadOf u.core)).cells w named gen = some (e, l) →
        ∃ t, exec i s = .next t ∧ Advanced s t u ∧ t.mem = s.mem ∧ t.requests = s.requests ∧
          t.early = s.early.filter (fun e => e.tid ≠ tid) ∧ t.thread tid = t0.apply (.regs x.d [BitVec.ofNat 32 (1 + e.winner * 256), e.gen, e.value.setWidth 32, e.value.extractLsb' 32 32]
            ⟨gradeMax (x.tag t0 g).grade (entGrade tr.leaf), (x.tag t0 g).poison⟩)) ∧
      ((x.kind = 1 → cellFind (s.quad (quadOf u.core)).cells w named gen = none) → outstanding s u.core < 4096 →
        ∃ t, exec i s = .next t ∧ t.fabric = s.fabric ∧ Requests s t u tid g
          (.cell x.kind none named (physKey (tr.phys named.toNat)) (x.value t0) gen (x.grade t0 g) x.d (x.tag t0 g) (some tr))
          (some (tr.phys named.toNat / 2 ^ 16)))) ∧
    (named.getLsbD 63 = true → rankStatus s w rank = .ok →
      (x.kind = 1 → ∀ e l, cellFind s.fabric.cells w named gen = some (e, l) →
        ∃ t, exec i s = .next t ∧ Advanced s t u ∧ t.mem = s.mem ∧ t.requests = s.requests ∧ t.fabric.sent = s.fabric.sent ∧
          t.early = s.early.filter (fun e => e.tid ≠ tid) ∧ t.thread tid = t0.apply (.regs x.d [BitVec.ofNat 32 (1 + e.winner * 256), e.gen, e.value.setWidth 32, e.value.extractLsb' 32 32]
            ⟨gradeMax (x.tag t0 g).grade e.grade, (x.tag t0 g).poison⟩)) ∧
      ((x.kind = 1 → cellFind s.fabric.cells w named gen = none) → outstanding s u.core < 4096 → canSend s (rankNode entry) = true →
        ∃ t, exec i s = .next t ∧ Requests s t u tid g
          (.cell x.kind (some rank) named 0 (x.value t0) gen (x.grade t0 g) x.d (x.tag t0 g) none) none ∧
          PacketLeaves s t (cellPacket s u tid entry x named (x.value t0) gen (x.grade t0 g)))) ∧
    (named.getLsbD 63 = true → rankStatus s w rank = .rangeFault →
      ∃ t, exec i s = .next t ∧ OnlyThreads s t u ∧ Advanced s t u ∧ t.thread tid = t0.apply (refused 0xFFFFFFFF)) ∧
    (named.getLsbD 63 = true → rankStatus s w rank = .rankLost →
      ∃ t, exec i s = .next t ∧ Advanced s t u ∧ t.mem = s.mem ∧ t.requests = s.requests ∧
        (t.thread tid).pending = (if (t0.pending.any fun p => p.1 = .rankLost) then t0.pending
          else t0.pending ++ [(.rankLost, BitVec.ofNat 32 rank)]) ∧
        { t.thread tid with pending := t0.pending } = t0.apply (refused 0))

/-! ## Service calls (R126, R127) -/

/-- A service call of number 0 to 127 whose block passes its checks. -/
structure CallReady (s : State) (tid : Nat) (a : Reg) (n : BitVec 8) (key : Nat) : Prop where
  number   : n.toNat < 128
  clean    : ((s.thread tid).reg a).tag.poison = false
  aligned  : ((s.thread tid).reg a).val.toNat % 64 = 0
  mapped   : nearKey s (teamOf tid) ((s.thread tid).reg a).val.toNat 64 = some key
  unlocked : locked s key 64 false = false
  present  : absentLine s key 64 = none
  unpoison : (lineTags s key 64).poison = false

/-- The bytes of a request entry (R127): the request identifier of the issuing core, the service number over the WHERE word, the world, STATUS all ones, zeros, the
block. -/
def entryBytes (s : State) (core tid : Nat) (n : BitVec 8) (key : Nat) : List Byte :=
  leBytes 8 (nextRequest s (s.threadWorld tid) core).toNat ++
    leBytes 4 (n.toNat * 2 ^ 24 + (whereWord s tid).toNat) ++ leBytes 4 (s.threadWorld tid) ++ leBytes 4 0xFFFFFFFF ++
    List.replicate 44 0 ++ s.mem.readBytes key 64

/-- `svc` with a ring that translates, a free entry, none waiting before it, and a page grade that its data do not exceed: the entry is appended,
SRHEAD moves on, vector 2 is raised, and the thread waits for the completion. Without a ring that translates, or without a free entry,
it waits for one. -/
def ServiceCall : Prop :=
  ∀ (s : State) (u : Issue) (tid : Nat) (c : Ctl) (d a : Reg) (n : BitVec 8) (key : Nat), Alone s u (.svc c d a n) tid →
    CallReady s tid a n key →
    let w := s.threadWorld tid
    let x := s.world w
    let grade := gradeMax ((s.thread tid).reg a).tag.grade (lineTags s key 64).grade
    let since := if (s.thread tid).retries then (s.thread tid).since else s.time
    (∀ pa page, ringPage s w x.srbase false = some (pa, page) → ringWaiters s w = [] → (x.srhead - x.srtail).toNat < 512 →
      grade.toNat ≤ page.toNat →
      ∃ t id v, exec (.svc c d a n) s = .next t ∧ t.services.find? id = some v ∧ v.world = w ∧ v.tid = tid ∧
        v.index = x.srhead.toNat % 512 ∧ v.block = key ∧ v.dst = d ∧
        v.call.guard = guardTag s u (.svc c d a n) tid ∧
        t.thread tid = { s.thread tid with
          pc := u.next, place := .waiting (.service id u.head), since := since, retries := false } ∧
        (∀ k, k ≠ tid → t.thread k = s.thread k) ∧ t.bundles.find? u.bundle = none ∧
        t.mem = s.mem.writeBytes (physKey (pa + 128 * (x.srhead.toNat % 512))) (entryBytes s u.core tid n key) ∧
        (t.world w).srhead = x.srhead + 1 ∧ t.msix = (w, 2) :: s.msix) ∧
    ((ringPage s w x.srbase false = none ∨ 512 ≤ (x.srhead - x.srtail).toNat) →
      ∃ t o call, exec (.svc c d a n) s = .next t ∧ t.mem = s.mem ∧
        t.thread tid = { s.thread tid with
          pc := u.next, place := .waiting (.ring o call u.head), since := since, retries := false } ∧
        call = ⟨n.toNat, d, key, ((s.thread tid).reg a).tag.grade, guardTag s u (.svc c d a n) tid, c.k, u.pos, u.addr, u.core⟩ ∧
        t.services = s.services ∧ t.bundles.find? u.bundle = none)

/-! ## Steps of the cores (R91, R131 to R133, R153 to R155, R198) -/

/-- The instruction answers a next state, of which `P` holds. -/
def Gives (i : Instr) (s : State) (P : State → Prop) : Prop := ∃ t, exec i s = .next t ∧ P t

/-- Where a thread that leaves its bin, its bundle or its wait runs again (R91, R341): a filed one at its PC, one of a bundle at its
chain boundary or before a unit that has had no effect; one that waits for an answer does not leave. -/
def resumeOf (s : State) (tid : Nat) : Option Word :=
  let t := s.thread tid
  match t.place with
  | .filed => some t.pc
  | .inBundle b =>
    let x := s.bundle b
    if x.chain = [] then some x.pc
    else if x.held = true ∧ tid ∉ x.finished ∧ t.request = none then some x.head else none
  | .waiting (.counter _ _ head) => some head
  | .waiting (.ring _ _ head) => some head
  | .waiting (.line _ _ _ _) => some t.pc
  | .waiting .queue => some t.pc
  | _ => none

/-- A cause is the lowest that is pending on a thread, which may take one: its world has a handler, and it is outside it. -/
structure TakesCause (s : State) (tid : Nat) (c : Cause) (val : Word) : Prop where
  handler : (s.world (s.threadWorld tid)).handler ≠ 0
  outside : (s.thread tid).hnd = false
  alive   : s.isKilled tid = false
  pending : (c, val) ∈ (s.thread tid).pending
  lowest  : ∀ e ∈ (s.thread tid).pending, e = (c, val) ∨ causeCode c < causeCode e.1

/-- A thread after it has taken a pending cause at an address. -/
def causeTaken (s : State) (tid : Nat) (c : Cause) (val pc : Word) : Thread :=
  let left := (s.thread tid).pending.filter fun e => e.1 ≠ c
  { trapped (s.setThread tid { s.thread tid with pending := left }) tid ⟨c, untagged val, 0, false, 0, pc, pc, true, !left.isEmpty⟩ with
    place := .filed }

/-- ASYNC_CAUSE_TAKEN (R88, R91): the lowest pending cause is taken, with TRAPPC and RESUME the address where the thread runs again, also
while its group is parked; one that waits at a rendezvous takes none before the cc ends. -/
def AsyncCauses : Prop :=
  ∀ (s : State) (tid : Nat) (c : Cause) (val : Word), TakesCause s tid c val →
    (∀ pc, resumeOf s tid = some pc → Gives (.asyncCauseTaken tid) s fun t =>
      t.thread tid = causeTaken s tid c val pc ∧ ((s.threadGroup tid).offCore = false → Filed t tid) ∧
      (∀ k, k ≠ tid → t.thread k = s.thread k) ∧ t.mem = s.mem ∧ t.lines = s.lines) ∧
    ∀ m, (s.thread tid).place = .waiting (.mask m) → Gives (.asyncCauseTaken tid) s fun t => t = s

/-- A thread that waits at a rendezvous leaves it for a pending cause when the clock advances, after the completions of the cc (R91, R164):
its record is gone, and the cause is taken at its chain's head. -/
def RendezvousAbandoned : Prop :=
  ∀ (s : State) (tid m : Nat) (c : Cause) (val : Word), TakesCause s tid c val → (s.thread tid).place = .waiting (.mask m) →
    (withdrawOne s tid).thread tid = causeTaken s tid c val (s.thread tid).pc ∧
    ((withdrawOne s tid).threadGroup tid).arrivals m = (((s.threadGroup tid).arrivals m).filter fun r => r.slot ≠ tid % 32) ∧
    ((withdrawOne s tid).threadGroup tid).masks = (s.threadGroup tid).masks ∧
    (∀ k, k ≠ tid → (withdrawOne s tid).thread k = s.thread k) ∧ (withdrawOne s tid).mem = s.mem

/-- A place at a rendezvous. -/
def atRendezvous : Place → Bool
  | .waiting (.mask _) => true
  | _ => false

/-- The clock (R19, R134, R164): it stands while a core has a draw or a displacement left in this cc; otherwise it advances: by one cc while a core has filed threads, or while a cause is pending on a thread that
waits at a rendezvous, which leaves it as the cc ends. -/
def ClockAdvances : Prop :=
  ∀ (s : State) (cc : Nat),
    ((cc = 0 ∨ drawsLeft s = true) → runTurn (.tick cc) s = .next s) ∧
    (0 < cc → drawsLeft s = false → ∃ t, runTurn (.tick cc) s = .next t ∧
      t.time = s.time + (if (∃ e ∈ s.cores, e.2.bins ≠ []) ∨
        (∃ e ∈ s.threads, e.2.hnd = false ∧ e.2.pending ≠ [] ∧ atRendezvous e.2.place = true) then 1 else cc) ∧
      t.span = s.span + (t.time - s.time) * (12252240 / s.assayer.clock))

/-- The threads of a bin that may be drawn now: their world is RUNNING (R341), or it is halting and they have entered their handler
(R93). -/
def ready (s : State) (b : Bin) : List Nat := b.members.filter fun tid =>
  decide ((s.thread tid).runnable ≤ s.time) && ((s.world (s.team b.team).world).stat = 1 ||
    ((s.world (s.team b.team).world).stat = 2 && (s.thread tid).enters))

/-- A thread of a bin has waited longer than the age limit of its launch (R131). -/
def isOld (s : State) (b : Bin) : Bool :=
  (ready s b).any fun tid => decide ((s.launch (s.team b.team).launch).age < s.time - (s.thread tid).runnable)

/-- A bin is eligible (R131): all 32 slots have a thread, or its oldest thread has waited longer than the age limit. -/
def Drawable (s : State) (b : Bin) : Prop := (∀ k, k < 32 → ∃ tid ∈ ready s b, tid % 32 = k) ∨ isOld s b = true

/-- BIN_AGED (R131): a bin is marked where its oldest thread has waited longer than the age limit, and no other is; nothing else
changes. -/
def BinsAge : Prop :=
  ∀ (s : State) (core : Nat), Gives (.binAged core) s fun t =>
    { t with cores := s.cores } = s ∧ (∀ c, c ≠ core → t.core c = s.core c) ∧ (t.core core).queue = (s.core core).queue ∧
    ∀ n, (t.core core).bins.find? n = ((s.core core).bins.find? n).map fun b => { b with aged := isOld s b }

/-- BUNDLE_DRAW (R132) of a core that may still draw in this cc, with no WTEST armed: of the eligible bin whose
oldest thread has the earliest runnable time, for each slot the thread with the earliest runnable time, ties to the lower group. The
bundle is ready 2 cc later, on the vector pipe of its lowest thread's group (R137). Where 64 bundles are drawn it waits for an entry that
a displacement or an end frees: the model's reading, which keeps the bound of R134 (log 111). The draws of one cc stand in ascending
order of the cores (R372). -/
def BundlesAreDrawn : Prop :=
  ∀ (s : State) (core i oldest : Nat) (b : Bin), (i, b) ∈ (s.core core).bins → Drawable s b → oldest ∈ ready s b →
    (∀ e ∈ (s.core core).bins, e = (i, b) ∨
      (Drawable s e.2 → ∀ k ∈ ready s e.2, (s.thread oldest).runnable < (s.thread k).runnable)) →
    (∀ time last, s.lastDraw = some (time, last) → time ≠ s.time ∨ last < core) →
    (∀ e ∈ s.cores, e.1 < core → drawDue s e.1 = false ∧ shoveDue s e.1 = false) →
    (s.world (s.team b.team).world).testArm = false →
    Gives (.bundleDraw core) s fun t => ∃ tids,
      t.bundles.find? s.nextId = some ⟨core, tids, b.pc, b.pc, 0, [], [], s.time, false, false, s.time + 2,
        decide (groupOf (tids.headD 0) % 2 = 1), decide (64 ≤ (bundlesOf s core).length)⟩ ∧
      ((bundlesOf s core).length < 64 → ∀ n, n ≠ s.nextId → t.bundles.find? n = s.bundles.find? n) ∧
      tids.Pairwise (fun x y => x % 32 < y % 32) ∧ (∀ x ∈ tids, x ∈ ready s b) ∧
      (∀ m ∈ ready s b, ∃ x ∈ tids, x % 32 = m % 32 ∧ ((s.thread x).runnable < (s.thread m).runnable ∨
        ((s.thread x).runnable = (s.thread m).runnable ∧ groupOf x ≤ groupOf m))) ∧
      (∀ x ∈ tids, t.thread x = { s.thread x with pc := b.pc, place := .inBundle s.nextId }) ∧
      (∀ k, k ∉ tids → t.thread k = s.thread k) ∧ t.mem = s.mem ∧ t.lastDraw = some (s.time, core) ∧
      ((s.core core).queue = [] → ∀ b', (t.core core).bins.find? i = some b' → ∀ x ∈ tids, x ∉ b'.members)

/-- BUNDLE_DRAW with 64 bundles drawn (R133): of those that hold an entry and are not to be displaced yet, the one drawn longest ago is
displaced at its next chain boundary; no other bundle changes but for the one drawn. -/
def FullCoresDisplace : Prop :=
  ∀ (s : State) (core bid : Nat) (x : Bundle) (e : Nat × Bin), e ∈ (s.core core).bins → Drawable s e.2 → 64 ≤ (bundlesOf s core).length →
    (∀ time last, s.lastDraw = some (time, last) → time ≠ s.time ∨ last < core) →
    (∀ e ∈ s.cores, e.1 < core → drawDue s e.1 = false ∧ shoveDue s e.1 = false) → bid < s.nextId →
    (bid, x) ∈ bundlesOf s core → x.displaced = false → hasEntry s bid x = true →
    (∀ y ∈ bundlesOf s core, y.2.displaced = false → hasEntry s y.1 y.2 = true → y = (bid, x) ∨ x.drawn < y.2.drawn) →
    Gives (.bundleDraw core) s fun t => t.bundles.find? bid = some { x with displaced := true } ∧
      (∀ n, n ≠ bid → n ≠ s.nextId → t.bundles.find? n = s.bundles.find? n) ∧ t.mem = s.mem ∧ t.lastDraw = some (s.time, core)

/-- DISPLACEMENT (R133): the threads of a displaced bundle at a chain boundary are filed at its address, and its entry is free. -/
def BundlesAreDisplaced : Prop :=
  ∀ (s : State) (bid : Nat) (x : Bundle), s.bundles.find? bid = some x → x.displaced = true → x.chain = [] → x.tids ≠ [] →
    x.tids.Nodup → (∀ tid ∈ x.tids, (s.thread tid).place = .inBundle bid ∧ s.isKilled tid = false ∧ (s.threadGroup tid).offCore = false) →
    Gives (.displacement bid) s fun t =>
      (∀ tid ∈ x.tids, t.thread tid = { s.thread tid with pc := x.pc, place := .filed, runnable := s.time } ∧ Filed t tid) ∧
      (∀ k, k ∉ x.tids → t.thread k = s.thread k) ∧ t.bundles.find? bid = none ∧
      (∀ b, b ≠ bid → t.bundles.find? b = s.bundles.find? b) ∧
      { t with threads := s.threads, bundles := s.bundles, cores := s.cores } = s

/-- GROUP_PARK (R153, R154, R340, R348) of a group all of whose threads have been blocked for 2,000 cc, as long after one of them last ended
and since its last reload, of a RUNNING world that may save. Where its context area holds the estimate, its granules and its place on the
core are free, and its image lies in the slot other than CUR, at a place that the model leaves free; no other byte of memory changes.
Otherwise the group stays, and is tried again after 2,000 cc more. -/
def GroupsPark : Prop :=
  ∀ (s : State) (gid : Nat) (g : Group), s.groups.find? gid = some g → g.offCore = false → groupThreads s gid ≠ [] →
    2000 ≤ s.time - g.lastEnd → 2000 ≤ s.time - g.parkFrom →
    (∀ tid ∈ groupThreads s gid, blockedThread s tid = true ∧ 2000 ≤ s.time - (s.thread tid).since ∧ (s.thread tid).mayTake = false) →
    let w := (s.team (teamOfGid gid)).world
    let x := s.world w
    x.stat = 1 → x.wctxn ≠ 0 →
    (32768 * x.wctxn < estimate s w → Gives (.groupPark gid) s fun t => t = s.setGroup gid { g with parkFrom := s.time }) ∧
    (estimate s w ≤ 32768 * x.wctxn →
    let size := x.wctxn / 2 * 2 ^ 16
    let slot := (x.wctx + (1 - x.cur) * (x.wctxn / 2)) * 2 ^ 16
    let len := (groupImage s gid).length
    let key := physKey (slot + 256 + Config.freeValue s.freeCount % (size - 255 - len))
    Gives (.groupPark gid) s fun t =>
      t.group gid = { g with offCore := true, granules := [], woken := false } ∧ (∀ k, k ≠ gid → t.group k = s.group k) ∧
      (∀ tid ∈ groupThreads s gid, (s.thread tid).place = .filed →
        tid ∉ (t.core g.core).queue ∧ ∀ e ∈ (t.core g.core).bins, tid ∉ e.2.members) ∧
      (∀ a, a < key ∨ key + len ≤ a → t.mem.read a = s.mem.read a) ∧
      { t with groups := s.groups, cores := s.cores, mem := s.mem, bad := s.bad, freeCount := s.freeCount, assayer := s.assayer } = s)

/-- A wake has occurred for a parked group (R155): one of its threads is filed, and was not refused by a `bwait` whose time is still to come,
or a cause has become pending on one. -/
def Woke (s : State) (gid : Nat) : Prop :=
  (s.group gid).woken = true ∨ ∃ tid ∈ groupThreads s gid, (s.thread tid).place = .filed ∧
    ((s.thread tid).retries = true → (s.thread tid).runnable ≤ s.time)

/-- GROUP_RELOAD (R155) of a parked group with a wake, onto its home core where that has room: it takes the lowest free granules (the model's
order), its filed threads take bins, and its other threads keep their waits, or are filed again where a `bwait` finds no waiter entry free
(R150, R152). -/
def GroupsReload : Prop :=
  ∀ (s : State) (gid : Nat), (s.group gid).offCore = true → Woke s gid →
    (s.world (s.team (teamOfGid gid)).world).stat = 1 → groupFits s (s.team (teamOfGid gid)).core gid = true →
    let home := (s.team (teamOfGid gid)).core
    Gives (.groupReload gid) s fun t =>
      t.group gid = { s.group gid with offCore := false, core := home, woken := false, parkFrom := s.time
                                       granules := ((List.range 384).filter fun k => !(granulesInUse s home).contains k).take
                                         ((groupRole s gid).regs / 8) } ∧
      (∀ k, k ≠ gid → t.group k = s.group k) ∧
      (∀ k ∈ groupThreads s gid, (s.thread k).place = .filed → t.thread k = s.thread k ∧ Filed t k) ∧
      (∀ k, (∀ a b c, (s.thread k).place ≠ .waiting (.counter a b c)) → t.thread k = s.thread k) ∧
      (∀ k a b c, (s.thread k).place = .waiting (.counter a b c) → t.thread k = s.thread k ∨
        t.thread k = { s.thread k with pc := c, place := .filed, runnable := s.time + 256, retries := true }) ∧
      { t with groups := s.groups, cores := s.cores, threads := s.threads, assayer := s.assayer } = s

/-- CORE_TABLE_ERROR (R198): every team resident on the core that is not yet killed is killed with QUEUE_FLUSHED, whether the core is its
home or a group of it has reloaded there; their launches distribute no more, and their queues are stopped. -/
def CoreTableErrors : Prop :=
  ∀ (s : State) (core : Nat), Gives (.coreTableError core) s fun t =>
    ∀ x tm, s.teams.find? x = some tm → tm.ended = false → (s.world tm.world).stat ≠ 4 → (s.world tm.world).stat ≠ 5 →
      (tm.core = core ∨ ∃ g ∈ s.groups, g.1 / 32 = x ∧ g.2.core = core ∧ g.2.offCore = false) →
      (tm.killed = none → (t.team x).killed.map (·.causeword) = some 0x62) ∧
      (t.launch tm.launch).stopped = true ∧
      (t.cmdQueue (s.launch tm.launch).world (s.launch tm.launch).queue).stopped = true

def CoreSteps : Prop := RendezvousAbandoned ∧ ClockAdvances ∧ BinsAge ∧ BundlesAreDrawn ∧ FullCoresDisplace ∧ BundlesAreDisplaced ∧ GroupsPark ∧ GroupsReload

/-! ## Grants and completions of the reservation table (R211, R213, R217, R218, R221, R235 to R242) -/

/-- MATRIX_POST (R217): an operation that all have signed is posted once an entry is free, while its world is on the cores (R344), and a last
signer that waits for it goes on. A latch
that the reuse bit keeps stays the group's until its threads have all ended (R24, R216). -/
def MatrixOperationsPost : Prop :=
  ∀ (s : State) (gid n : Nat) (i : Instr) (x : MatrixShape), matrixShape i = some x →
    let g := s.group gid
    let c := g.convReg n
    let q := quadOf g.core
    (s.world (s.team (teamOfGid gid)).world).stat ≤ 2 →
    c.op = some i → c.signed ≠ 0 → c.signed = c.declared → (s.quad q).table.length < 32 →
    Gives (.matrixPost gid n) s fun t =>
      (∃ scale, Posts s t q (teamOfGid gid) (.pass gid x.sub x.td.toNat x.tb.toNat x.quarter.toNat
        ((s.launch (s.team (teamOfGid gid)).launch).fmt.getD x.slot.toNat 0)
        (passRows scale ((c.latch.bind fun l => (s.quad q).latches.find? l).getD []) c x.sub)
        (if x.reuse then none else c.latch))) ∧
      (t.group gid).convReg n = { c with
        declared := c.declared &&& ~~~(endedMask s gid), signed := 0, op := none, signer := none, guards := []
        latch := if x.reuse && endedMask s gid ≠ 0xFFFFFFFF then c.latch else none } ∧
      (∀ tid req, c.signer = some req → (s.thread tid).request = some req → (∀ r, (s.thread tid).place ≠ .waiting (.answer r)) →
        t.thread tid = { (s.thread tid).pushLatch (untagged 0) with request := none }) ∧
      ∀ tid, (c.signer = none ∨ (s.thread tid).request ≠ c.signer) → t.thread tid = s.thread tid

/-- Whether entry a ranks before b at a time (R218). -/
def Ranks (now : Nat) (a b : Posted) : Prop :=
  let since := fun (e : Posted) => e.ready.getD now
  let old := fun (e : Posted) => 4096 < now - since e
  (old a ∧ (¬ old b ∨ since a < since b)) ∨
    (¬ old a ∧ ¬ old b ∧ (b.prio < a.prio ∨ (a.prio = b.prio ∧ since a < since b)))

/-- An entry that is ready and not granted. -/
def Waits (s : State) (q : Nat) (e : Posted) : Prop :=
  e ∈ (s.quad q).table ∧ e.ready.isSome = true ∧ e.id ∉ (s.quad q).passes ∧ ∀ p ∈ (s.quad q).ports, p.1 ≠ e.id

/-- The cc for which an operation holds the tile port, and those from its grant to its completion without the latency of its near memory
(R235). -/
def portCycles : TileOp → Nat × Nat
  | .zero _ _ => (2, 4)
  | .load _ _ _ _ | .store _ _ _ _ => (34, 40)
  | .read _ _ items => ((items.length + 7) / 8, 12 + (items.length + 7) / 8)
  | .convert _ _ _ _ _ => (8, 16)
  | .pass _ _ _ _ _ _ _ _ | .tilein _ _ => (0, 0)

/-- The latency that the place of a tile load or store adds (R235, R272). -/
def placeLatency (s : State) (q team : Nat) : TileOp → Nat
  | .load _ key _ _ | .store _ key _ _ => memLatency s q team key
  | _ => 0

/-- ANVIL_GRANT and TILE_PORT_GRANT (R218, R235): the ready entry that ranks first is granted; one for the tile port only once the port is
free; nothing else changes. -/
def TableGrants : Prop :=
  ∀ (s : State) (q : Nat) (e : Posted), Waits s q e → e.op.isTileIn = false →
    (∀ e', Waits s q e' → e'.op.isTileIn = false → e'.op.isPass = e.op.isPass → e' = e ∨ Ranks s.time e e') →
    (e.op.isPass = true → Gives (.anvilGrant q) s fun t =>
      { t with quads := s.quads } = s ∧ (∀ k, k ≠ q → t.quad k = s.quad k) ∧
      t.quad q = { s.quad q with passes := (s.quad q).passes ++ [e.id] }) ∧
    (e.op.isPass = false → s.time < (s.quad q).portFree → Gives (.tilePortGrant q) s fun t => t = s) ∧
    (e.op.isPass = false → (s.quad q).portFree ≤ s.time → Gives (.tilePortGrant q) s fun t =>
      { t with quads := s.quads } = s ∧ (∀ k, k ≠ q → t.quad k = s.quad k) ∧
      t.quad q = { s.quad q with
        ports := (s.quad q).ports ++ [(e.id, s.time + (portCycles e.op).2 + placeLatency s q e.team e.op)]
        portFree := s.time + (portCycles e.op).1 })

/-- An entry that has completed: it is out of the table and of the grants, and the tiles that it wrote have one writer less. -/
structure Leaves (s t : State) (q : Nat) (e : Posted) : Prop where
  table : (t.quad q).table.map (·.id) = ((s.quad q).table.map (·.id)).filter (· ≠ e.id)
  ports : (t.quad q).ports = (s.quad q).ports.filter (·.1 ≠ e.id)
  passes : (t.quad q).passes = (s.quad q).passes.filter (· ≠ e.id)
  tiles : ∀ n, ((t.team e.team).tile n).writers = ((s.team e.team).tile n).writers - e.op.writes.count n
  teams : ∀ k, k ≠ e.team → t.team k = s.team k

/-- The memory key of a tile of a team (R209). -/
def tileAt (s : State) (team n : Nat) : Nat := (s.team team).tileSpace * 2 ^ 64 + n * 4352

/-- The bytes of [key, key + |b|) are b, and every other byte is as it was. -/
def Stores (s t : State) (key : Nat) (b : List Byte) : Prop :=
  (∀ k, k < b.length → t.mem.read (key + k) = b.getD k 0) ∧ ∀ a, a < key ∨ key + b.length ≤ a → t.mem.read a = s.mem.read a

/-- TILE_OP_COMPLETE (R235): of the granted entries whose time has come the one whose time came first completes, of two at one time the one
granted first. What
it does as it completes; a thread that waits for the answer takes it. `a`: the state with the errors in what it reads found (R180,
R212). -/
def TileOperationsComplete : Prop :=
  ∀ (s : State) (q due : Nat) (e : Posted) (before after : List (Nat × Nat)), (s.quad q).ports = before ++ (e.id, due) :: after →
    due ≤ s.time → (∀ p ∈ before, due < p.2) → (∀ p ∈ after, due ≤ p.2) → e ∈ (s.quad q).table →
    (∀ e' ∈ (s.quad q).table, e'.id = e.id → e' = e) →
    let a := e.op.sense s e.team
    (∀ td g, e.op = .zero td g → Gives (.tileOpComplete q) s fun t =>
      Leaves s t q e ∧ Stores s t (tileAt s e.team td) (List.replicate 4352 0) ∧
      ((t.team e.team).tile td).tag = ⟨g, false⟩ ∧ ((t.team e.team).tile td).v = true ∧ ((t.team e.team).tile td).d = true ∧
      t.threads = s.threads) ∧
    (∀ td key tag op, e.op = .load td key tag op → Gives (.tileOpComplete q) s fun t =>
      Leaves s t q e ∧ Stores s t (tileAt s e.team td) (s.mem.readBytes key 4352) ∧
      ((t.team e.team).tile td).tag = ⟨gradeMax (lineTags a key 4352).grade tag.grade, (lineTags a key 4352).poison⟩ ∧
      ((t.team e.team).tile td).v = true ∧ ((t.team e.team).tile td).d = false ∧
      t.ranges = s.ranges.filter (fun r => r.op ≠ op) ∧ t.threads = s.threads) ∧
    (∀ td key tag req, e.op = .store td key tag req → Gives (.tileOpComplete q) s fun t =>
      Leaves s t q e ∧
      t.mem.readBytes key 4352 = s.mem.readBytes (tileAt s e.team td) 4352 ∧
      (∀ a, a < key ∨ key + 4352 ≤ a → t.mem.read a = byteBefore s (linesOf key 4352) a) ∧
      (∀ n, t.line n = if (linesOf key 4352).contains n then ⟨true, (s.line n).tag.join
        ⟨gradeMax ((a.team e.team).tile td).tag.grade tag.grade, ((a.team e.team).tile td).tag.poison⟩⟩ else s.line n) ∧
      ∀ tid, (s.thread tid).request = some req → (∀ w, (s.thread tid).place ≠ .waiting w) →
        t.thread tid = { (s.thread tid).pushLatch (untagged 0) with request := none }) ∧
    (∀ ta d items, e.op = .read ta d items → Gives (.tileOpComplete q) s fun t =>
      Leaves s t q e ∧ t.mem = s.mem ∧
      ∀ first word tag req last, items = first ++ (word, tag, req) :: last → (∀ x ∈ first, x.2.2 ≠ req) →
        ∀ tid, (s.thread tid).request = some req → (∀ w, (s.thread tid).place ≠ .waiting w) →
        t.thread tid = { (s.thread tid).apply (.reg d (BitVec.ofNat 32 (s.mem.readLe (tileAt s e.team ta + 4 * word) 4))
          (joinTags [((a.team e.team).tile ta).tag, tag]) 0) with request := none }) ∧
    (∀ td ta slot tag tids, e.op = .convert td ta slot tag tids → tids.Nodup → Gives (.tileOpComplete q) s fun t =>
      let r := convertTile slot ((List.range 1024).map fun k => BitVec.ofNat 32 (s.mem.readLe (tileAt s e.team ta + 4 * k) 4))
      let x := joinTags [((a.team e.team).tile ta).tag, tag]
      Leaves s t q e ∧ t.mem = s.mem.writeBytes (tileAt s e.team td) r.1 ∧
      ((t.team e.team).tile td).tag = x ∧ ((t.team e.team).tile td).v = true ∧ ((t.team e.team).tile td).d = true ∧
      ∀ tid, t.thread tid = if tid ∈ tids ∧ (s.thread tid).place ≠ .ended then (s.thread tid).raise r.2 x.grade else s.thread tid)

/-- The column j of a pass's quarter of Tb, and its scales (R213, R214). -/
def passColumn (s : State) (team tb quarter j : Nat) : List Byte := s.mem.readBytes (tileAt s team tb + 1024 * quarter + 32 * j) 32
def passScale (s : State) (team tb quarter j : Nat) : List Nat :=
  (s.mem.readBytes (tileAt s team tb + 4096 + 64 * quarter + 2 * j) 2).map (·.toNat)

/-- PASS_COMPLETE (R213, R219, R221): each row of the mask takes its 32 words of D, the model's sums of products of the row with the
columns of Tb over D as it was; the other rows keep theirs. Td takes the joined tags, the threads of the rows their flags, and
the pass's latch is free. `x`: the state with the errors in what it reads found (R180, R212). -/
def PassesComplete : Prop :=
  ∀ (s : State) (q : Nat) (e : Posted) (rest : List Nat) (gid sub td tb quarter : Nat) (slot : Word) (rows : SMap LatchRow)
    (latch : Option Nat), (s.quad q).passes = e.id :: rest → e ∈ (s.quad q).table →
    (∀ e' ∈ (s.quad q).table, e'.id = e.id → e' = e) → e.op = .pass gid sub td tb quarter slot rows latch →
    let x := e.op.sense s e.team
    let live := (List.range 32).filterMap fun i => (rows.find? i).map fun r => (i, r)
    let row := fun (r : Nat × LatchRow) => passRow slot sub r.2.words (passColumn s e.team tb quarter) (passScale s e.team tb quarter)
      fun j => BitVec.ofNat 32 (s.mem.readLe (tileAt s e.team td + 128 * r.1 + 4 * j) 4)
    let tag := joinTags ((if sub = 2 then [((x.team e.team).tile tb).tag] else
      [((x.team e.team).tile tb).tag, ((x.team e.team).tile td).tag]) ++ live.map fun r => r.2.tag)
    Gives (.passComplete q) s fun t =>
      Leaves s t q e ∧
      (∀ r ∈ live, t.mem.readBytes (tileAt s e.team td + 128 * r.1) 128 = (row r).1.flatMap fun w => leBytes 4 w.toNat) ∧
      (∀ a, (∀ r ∈ live, a < tileAt s e.team td + 128 * r.1 ∨ tileAt s e.team td + 128 * r.1 + 128 ≤ a) →
        t.mem.read a = s.mem.read a) ∧
      ((t.team e.team).tile td).tag = tag ∧ ((t.team e.team).tile td).v = true ∧ ((t.team e.team).tile td).d = true ∧
      (∀ l, latch = some l → (t.quad q).latches.find? l = none) ∧
      ∀ r ∈ live, (s.thread (gid * 32 + r.1)).place ≠ .ended → t.thread (gid * 32 + r.1) =
        (s.thread (gid * 32 + r.1)).raise (row r).2 (joinTags ((if sub = 2 then [((x.team e.team).tile tb).tag] else
          [((x.team e.team).tile tb).tag, ((x.team e.team).tile td).tag]) ++ [r.2.tag])).grade

/-! ## Segments, walks, purges (R258 to R263, R273 to R278, R298, R299) -/

/-- Only the registers of one world change. -/
def OnlyWorld (s t : State) (w : Nat) : Prop := { t with worlds := s.worlds } = s ∧ ∀ k, k ≠ w → t.world k = s.world k

/-- The counter block of an operation takes the end of a segment (R277): the STATUS bit, then COUNT. -/
structure Counts (s t : State) (ck n : Nat) (st : Status) : Prop where
  count  : t.mem.readLe ck 8 = min (found s ck 8 + n) (2 ^ 64 - 1)
  status : t.mem.readLe (ck + 8) 4 = (found s (ck + 8) 4 ||| (if st = .ok then 0 else 2 ^ statusCode st) |||
    (if 2 ^ 64 ≤ found s ck 8 + n then 128 else 0))

/-- An operation of a thread with its counter block apart from the lines of a segment, and no queue that runs it. -/
structure SegmentOf (s : State) (op n : Nat) (o : Ladle) (g : Segment) (ck : Nat) : Prop where
  listed  : s.ladles.find? op = some o ∧ o.segs.find? n = some g
  thread  : o.team.isSome = true ∧ copyQueue s o.world op = none
  counter : o.counter = some ck ∧ ck % 16 = 0
  apart   : ∀ p ∈ g.pieces, ∀ k, p.dst = .near k → k / 128 ≠ ck / 128
  plain   : o.tile = none

/-- A wait that neither the counter block at `ck` nor the lines of a segment's destination end. -/
def StillWaits (s : State) (g : Segment) (ck tid : Nat) : Prop :=
  ∃ w, (s.thread tid).place = .waiting w ∧
    (∀ key target head, w = .counter key target head → key + 8 ≤ ck ∨ ck + 16 ≤ key) ∧
    ∀ k sl n c, w = .line k sl n c → k ≠ ck / 128 ∧ ∀ p ∈ g.pieces, ∀ key, p.dst = .near key → key / 128 ≠ k

/-- A thread that is filed is in a bin of its core: its group is not parked. -/
def Onboard (s : State) (tid : Nat) : Prop := (s.thread tid).place = .filed → (s.threadGroup tid).offCore = false

/-- A thread of a bundle that stands before a unit which has had no effect for it, or in which it waits to begin (R91). -/
def BeforeUnit (s : State) (tid : Nat) : Prop :=
  ∃ b, (s.thread tid).place = .inBundle b ∧ (s.bundle b).chain ≠ [] ∧ (s.bundle b).held = true ∧ tid ∉ (s.bundle b).finished ∧
    (s.thread tid).request = none

/-- A segment has ended with a status (R277, R278, R299): COUNT and STATUS; it is no longer one of its operation's, which is over with
its last one. A lost rank or a refused key is pending on the thread, once; a thread in a wait that R91 lets it abandon, that before the
issue of a unit among them, takes it at once. No other thread changes but where it waits, where the world has a handler. -/
structure Ended (s t : State) (op n : Nat) (o : Ladle) (g : Segment) (ck : Nat) (st : Status) : Prop where
  counts  : Counts s t ck g.bytes st
  gone    : ∀ o', t.ladles.find? op = some o' → o'.segs.find? n = none
  closes  : o.segs.erase n = [] → t.ladles.find? op = none ∧ t.ranges = s.ranges.filter (fun r => r.op ≠ op)
  pending : ∀ c, statusCause st = some c → c ∉ o.raised → (∀ w, (s.thread o.tid).place ≠ .waiting w) →
    ¬ BeforeUnit s o.tid → Onboard s o.tid → (s.thread o.tid).place ≠ .ended → (∀ e ∈ (s.thread o.tid).pending, e.1 ≠ c) →
    (t.thread o.tid).pending = (s.thread o.tid).pending ++ [(c, BitVec.ofNat 32 (o.rank.getD 0))]
  taken   : ∀ c pc, statusCause st = some c → c ∉ o.raised → CanTrap s o.tid → s.isKilled o.tid = false →
    (s.thread o.tid).pending = [] → (StillWaits s g ck o.tid ∨ BeforeUnit s o.tid) → resumeOf s o.tid = some pc →
    t.thread o.tid = { trapped s o.tid ⟨c, untagged (BitVec.ofNat 32 (o.rank.getD 0)), 0, false, 0, pc, pc, true, false⟩ with place := .filed }
  self    : (∀ w, (s.thread o.tid).place ≠ .waiting w) → ¬ BeforeUnit s o.tid → Onboard s o.tid → ∃ e, t.thread o.tid = { s.thread o.tid with pending := e }
  others  : (statusCause st = none ∨ (s.world (s.threadWorld o.tid)).handler ≠ 0) →
    ∀ k, k ≠ o.tid → ∃ p r, t.thread k = { s.thread k with place := p, runnable := r }

/-- SEGMENT_LAND (R276): the bytes of one piece land in near memory: their line is present with the segment's tag, which replaces that of a
line written whole; no thread keeps what it read ahead of them (R192). -/
def SegmentsLand : Prop :=
  ∀ (s : State) (op n ck key : Nat) (o : Ladle) (g : Segment) (b : List Byte), SegmentOf s op n o g ck →
    g.state = .started [(.near key, b)] → b ≠ [] → key % 128 + b.length ≤ 128 → key / 128 ≠ ck / 128 →
    Gives (.segmentLand op n) s fun t => Ended s t op n o g ck .ok ∧ t.mem.readBytes key b.length = b ∧
      (∀ a, (a < key ∨ key + b.length ≤ a) → (a < ck ∨ ck + 16 ≤ a) → t.mem.read a = byteBefore s [ck / 128] a) ∧
      t.line (key / 128) = ⟨true, if b.length = 128 then g.tag else joinTags [(s.line (key / 128)).tag, g.tag]⟩ ∧
      ∀ e ∈ t.early, e.meets key b.length = false

/-- SEGMENT_LAND in main memory: the bytes of one piece at their physical place, a frame that is no table. -/
def SegmentsLandInMain : Prop :=
  ∀ (s : State) (op n ck key : Nat) (o : Ladle) (g : Segment) (b : List Byte), SegmentOf s op n o g ck →
    g.state = .started [(.main key, b)] → isTableType (s.frame (keyFrame key)).type = false → ck / 128 ∉ linesOf key b.length →
    Gives (.segmentLand op n) s fun t => Ended s t op n o g ck .ok ∧ t.mem.readBytes key b.length = b ∧
      ∀ a, (a < key ∨ key + b.length ≤ a) → (a < ck ∨ ck + 16 ≤ a) → t.mem.read a = byteBefore s [ck / 128] a

/-- SEGMENT_LAND in a tile (R303): the bytes lie in the tile and their tag joins that of the operation. With its last segment the tile is
valid, not written back, with the joined tags, and its entry leaves the reservation table. -/
def SegmentsLandInTiles : Prop :=
  ∀ (s : State) (op n ck off tile entry team : Nat) (o : Ladle) (g : Segment) (b : List Byte),
    s.ladles.find? op = some o → o.segs.find? n = some g → copyQueue s o.world op = none → o.counter = some ck → ck % 16 = 0 →
    o.team = some team → o.tile = some (tile, entry) → g.state = .started [(.tile off, b)] →
    let key := tileAt s team tile + off
    ck / 128 ∉ linesOf key b.length →
    Gives (.segmentLand op n) s fun t => Counts s t ck g.bytes .ok ∧ t.mem.readBytes key b.length = b ∧
      (∀ a, (a < key ∨ key + b.length ≤ a) → (a < ck ∨ ck + 16 ≤ a) → t.mem.read a = byteBefore s [ck / 128] a) ∧
      (o.segs.erase n ≠ [] → ∃ o', t.ladles.find? op = some o' ∧ o'.segs = o.segs.erase n ∧ o'.tileTag = joinTags [o.tileTag, g.tag]) ∧
      (o.segs.erase n = [] → t.ladles.find? op = none ∧ ((t.team team).tile tile).tag = joinTags [o.tileTag, g.tag] ∧
        ((t.team team).tile tile).v = true ∧ ((t.team team).tile tile).d = false ∧
        ∀ e ∈ (t.quad (quadOf o.core)).table, e.id ≠ entry)

/-- A segment that fails (R277): it writes nothing but its counter block, and its near destination line is present as it was. -/
def Fails (i : Instr) (s : State) (op n : Nat) (o : Ladle) (g : Segment) (ck : Nat) (st : Status) : Prop :=
  Gives i s fun t => Ended s t op n o g ck st ∧
    ((statusCause st = none ∨ (s.world (s.threadWorld o.tid)).handler ≠ 0) → (∀ a, (a < ck ∨ ck + 16 ≤ a) → t.mem.read a = byteBefore s [ck / 128] a) ∧
      ∀ p ∈ g.pieces, ∀ k, p.dst = .near k → t.line (k / 128) = { s.line (k / 128) with present := true })

/-- SEGMENT_FAIL, ROUTE_TIMEOUT (R398), and TABLE_WRITE_UNIT of a unit that a rule refuses, at its verdict or as its reservations were
taken (R258). -/
def SegmentsFail : Prop :=
  ∀ (s : State) (op n ck : Nat) (o : Ladle) (g : Segment), SegmentOf s op n o g ck →
    (∀ st given, g.state = .failing st → Fails (.segmentFail op n given) s op n o g ck st) ∧
    (∀ k, o.rank = some k → (g.state = .queued ∨ g.state = .remote) → g.replay = false →
      rankNode (s.rankEntry o.world k) ≠ s.fabric.node → s.fabric.routes.getD (rankNode (s.rankEntry o.world k)) 0 = 0 →
      Fails (.routeTimeout op n) s op n o g ck .rankLost) ∧
    (∀ b f r, g.state = .started b → tableOf s b = some f → checkWrites s f (unitWrites b) = .error r → g.held = none →
      Fails (.tableWriteUnit op n) s op n o g ck .tableRefused) ∧
    (∀ b f h, g.state = .started b → tableOf s b = some f → g.held = some h → unitChanges s f (unitWrites b) = some h.changes →
      h.refused = true → Fails (.tableWriteUnit op n) s op n o g ck .tableRefused)

/-- The frames of a run. -/
def inRun (r : Nat × Nat) (k : Nat) : Prop := r.1 ≤ k ∧ k < r.1 + r.2

/-- The reservations of a write unit of one entry reach the homes ahead of its verdict (R258, R267): one on each frame of the entry's target
run and one USES of its grant where the entry passes the rules, none where it is refused; no entry is written and no other count
changes. -/
def UnitsReserve : Prop :=
  ∀ (s : State) (op n f i : Nat) (o : Ladle) (g : Segment) (b : List (Loc × List Byte)) (old new : DWord),
    s.ladles.find? op = some o → o.segs.find? n = some g → g.state = .started b → g.held = none → tableOf s b = some f →
    unitChanges s f (unitWrites b) = some [(i, old, new)] →
    let lv := tableLevel (s.frame f).type
    let w := (s.frame f).owner
    let bad := badRule s w lv new
    let took := bad = none ∧ entV new = true
    ∃ t h, runTurn (.reserve op n) s = .next t ∧ t.mem = s.mem ∧ t.frames = s.frames ∧ t.threads = s.threads ∧
      t.ladles.find? op = some { o with segs := o.segs.insert n { g with held := some h } } ∧ h.changes = [(i, old, new)] ∧ h.owner = w ∧
      (h.refused = true ↔ bad ≠ none) ∧
      (took → h.runs = [targetRun lv new] ∧ (∀ k, inRun (targetRun lv new) k → t.count k = s.count k + 1) ∧
        (∀ k, ¬ inRun (targetRun lv new) k → t.count k = s.count k) ∧
        (entGrant new = 0 → h.uses = [] ∧ t.worlds = s.worlds) ∧
        (entGrant new ≠ 0 → h.uses = [entGrant new] ∧ (t.grant w (entGrant new)).uses = (s.grant w (entGrant new)).uses + 1)) ∧
      (¬ took → h.runs = [] ∧ h.uses = [] ∧ t.refs = s.refs ∧ t.worlds = s.worlds)

/-- TABLE_WRITE_UNIT of a unit that passes and has no reservations yet (R258 to R260): its entries are written, reserved targets are
counted, VALID follows. One that changes no mapping lands; one that does adds 2 to CHG, and its segment waits for the purge of the table's frame. -/
def TableUnitsAccepted : Prop :=
  ∀ (s : State) (op n ck f i : Nat) (o : Ladle) (g : Segment) (b : List (Loc × List Byte)) (old new : DWord),
    SegmentOf s op n o g ck → g.state = .started b → tableOf s b = some f → checkWrites s f (unitWrites b) = .ok [(i, old, new)] →
    g.held = none → f < 2 ^ 32 → i < 8192 → (f * 2 ^ 16 + 8 * i) / 128 ≠ ck / 128 → isAperture f = false →
    let m := s.frame f
    let lv := 6 - m.type
    Gives (.tableWriteUnit op n) s fun t =>
      t.mem.readLe (f * 2 ^ 16 + 8 * i) 8 = new.toNat ∧
      (t.frame f).valid = m.valid + (if entV new then 1 else 0) - (if entV old then 1 else 0) ∧
      (t.frame f).chg = (if entV old then m.chg + 2 else m.chg) ∧
      (entV old = false → Ended s t op n o g ck .ok ∧
        (entV new = true → ∀ k, (targetRun lv new).1 ≤ k → k < (targetRun lv new).1 + (targetRun lv new).2 →
          k ∉ g.pins → t.count k = s.count k + 1)) ∧
      (entV old = true → ∃ id p, t.purges.find? id = some p ∧ p.world = m.owner ∧ p.what = .table f ∧ p.runs = [targetRun lv old] ∧
        p.after = .segment op n ∧ (t.ladles.find? op).bind (fun o => (o.segs.find? n).map (·.state)) = some (.purging id) ∧
        ∀ c ∈ p.caches, c ∈ cachesOf s m.owner)

/-- The conditions of R255 that make an entry of a table of world `w` at a level bad, by their numbers. -/
def brokenBy (s : State) (w level : Nat) (e : DWord) (rule : Nat) : Bool :=
  let leaf := entV e && entL e
  let run := (targetRun level e).2
  let first := entFrame e
  let all := fun p => runFrames s first run p
  match rule with
  | 1 => !entV e && e ≠ 0
  | 2 => e.extractLsb' 12 4 ≠ 0 || e.extractLsb' 46 2 ≠ 0 || e.extractLsb' 56 8 ≠ 0 || e.extractLsb' 10 2 = 3
  | 3 => entV e && !entL e && (e.extractLsb' 48 8 ≠ 0 || e.extractLsb' 2 10 ≠ 0)
  | 4 => entV e && !entL e && (level = 1 || (s.frame first).type ≠ 6 - (level - 1) || (s.frame first).owner ≠ w)
  | 5 => leaf && e.extractLsb' 2 4 = 0
  | 6 => leaf && (first % run ≠ 0 || !(first + run ≤ 0x644530 || (0x20000000 ≤ first && first + run ≤ 0x24000000)))
  | 7 => leaf && !all fun f => admits f.type e
  | 8 => leaf && entGrant e = 0 && !all fun f => f.owner = w
  | 9 =>
    let g := s.grant w (entGrant e)
    leaf && entGrant e ≠ 0 && !(g.gv && !g.closing && g.first ≤ first && first + run ≤ g.first + g.nframes &&
      (all fun f => f.owner = g.owner) && e.extractLsb' 2 4 &&& ~~~g.perm = 0)
  | _ => leaf && 0x20000000 ≤ first && first < 0x24000000 && (e.extractLsb' 6 2 ≠ 3 || e.extractLsb' 10 2 ≠ 0 || entX e)

/-- The rule that an entry is reported by (R258): the lowest of 1 to 5 and 10 that it breaks, otherwise the lowest of 6 to 9. -/
def reported (s : State) (w level : Nat) (e : DWord) : Option Nat :=
  [1, 2, 3, 4, 5, 10, 6, 7, 8, 9].find? (brokenBy s w level e)

/-- What a write unit of one entry into a table frame comes to (R255, R256, R258): refused by the rule that it breaks, or by none where it does
not cover whole entries; an entry that it does not change is not checked. -/
def TableWritesAreChecked : Prop :=
  ∀ (s : State) (f : Nat), isTableType (s.frame f).type = true →
    (∀ i e, i < 8192 →
      let old := BitVec.ofNat 64 (s.mem.readLe (physKey (f * 2 ^ 16 + 8 * i)) 8)
      checkWrites s f [(8 * i, leBytes 8 e.toNat)] =
        (if old = e then .ok [] else match reported s (s.frame f).owner (6 - (s.frame f).type) e with
          | some r => .error r
          | none => .ok [(i, old, e)])) ∧
    ∀ a b, b ≠ [] → (a % 8 ≠ 0 ∨ b.length % 8 ≠ 0) → checkWrites s f [(a, b)] = .error 0

/-- SEGMENT_START of a copy's segment of one piece (R273, R298): in from main memory, with the page's grade, poisoned where an HBM word is
bad; out to main memory, with clean bytes and a page whose grade they do not exceed, once the errors in them are found (`a`, R180). The
frame is pinned, and nothing is written. -/
def SegmentsStart : Prop :=
  ∀ (s : State) (core op n : Nat) (o : Ladle) (g : Segment) (p : Piece) (x : Xlat) (va : Nat),
    s.ladles.find? op = some o → List.find? (fun e : Nat × Ladle => e.2.isNext s core) s.ladles = some (op, o) →
    o.nextSeg s = some (n, g) → mayStart s o = true → outstanding s core < 4096 → o.rank = none → o.team.isSome = true →
    o.counter.isSome = true →
    g.pieces = [p] → g.state = .queued → inAperture s o.world p = false → va % o.align = 0 → p.len % o.align = 0 →
    let pa := x.phys va
    let state := fun (t : State) => (t.ladles.find? op).bind fun o => (o.segs.find? n).map fun g => (g.state, g.tag, g.pins)
    (∀ k len, p = ⟨.main va, .near k, len⟩ → (access s (quadOf core) o.world va .read true).1 = .ok x →
      Gives (.segmentStart core) s fun t => t.mem = s.mem ∧ t.threads = s.threads ∧ t.lines = s.lines ∧
        state t = some (.started [(.near k, s.mem.readBytes (physKey pa) len)],
          joinTags [⟨entGrade x.leaf, isBad s (physKey pa) len⟩], [pa / 2 ^ 16]) ∧
        (pa / 2 ^ 16, 1) ∈ t.refs) ∧
    (∀ k len, p = ⟨.near k, .main va, len⟩ → (access s (quadOf core) o.world va .write true).1 = .ok x →
      let a := senseNear s k len
      (lineTags a k len).poison = false → o.grade.toNat ≤ (entGrade x.leaf).toNat →
      Gives (.segmentStart core) s fun t => t.mem = s.mem ∧ t.threads = s.threads ∧ t.lines = a.lines ∧
        state t = some (.started [(.main (physKey pa), s.mem.readBytes k len)], joinTags [lineTags a k len], [pa / 2 ^ 16]) ∧
        (pa / 2 ^ 16, 1) ∈ t.refs)

/-- The runs of addresses that pieces make, one after another: adjoining ones are joined. -/
def adjoined : List (Nat × Nat) → List (Nat × Nat)
  | [] => []
  | (a, n) :: rest => match adjoined rest with
    | (b, m) :: l => if a + n = b then (a, n + m) :: l else (a, n) :: (b, m) :: l
    | [] => [(a, n)]

/-- The one request packet of a remote segment whose pieces have these places at the other end (R391, R395, R398): a read (OP 1) of them, or
a write (OP 3) with the operation's grade, under the rank entry's key, node, VF and world; with the places of the rows where they are
more than one run. LEN: the bytes of the segment. -/
def segmentRequest (s : State) (o : Ladle) (e : DWord) (g : Segment) (sides : List (Nat × Nat)) (op : Nat) (payload : List Byte)
    (grade : BitVec 2) : Packet :=
  { pkey := e.extractLsb' 40 16, dst := e.extractLsb' 0 12, vf := e.extractLsb' 38 2, src := BitVec.ofNat 12 s.fabric.node
    dworld := e.extractLsb' 32 6, sworld := BitVec.ofNat 6 o.world, op := BitVec.ofNat 8 op, inc := (s.world o.world).inc
    srank := BitVec.ofNat 12 (o.gridRank s), len := g.bytes
    reqid := g.reqid.getD (nextRequest s o.world o.core), addr := BitVec.ofNat 64 ((adjoined sides).headD (0, 0)).1, seq := 0
    payload := payload, grade := grade, poison := false, rows := if (adjoined sides).length ≤ 1 then [] else adjoined sides }

/-- SEGMENT_START of a remote operation's segment (R298, R398): on a valid rank entry that is not lost, its one packet leaves and it waits
for the answer; on a lost one or an invalid one it fails. Nothing is written. `sides`: where its pieces lie at the other end; `a`: the
state with the errors in the near bytes that it reads found (R180). -/
def RemoteSegmentsStart : Prop :=
  ∀ (s : State) (core op n r : Nat) (o : Ladle) (g : Segment) (sides : List (Nat × Nat)),
    s.ladles.find? op = some o → List.find? (fun e : Nat × Ladle => e.2.isNext s core) s.ladles = some (op, o) →
    o.nextSeg s = some (n, g) → mayStart s o = true → outstanding s core < 4096 → o.rank = some r → g.state = .queued → g.pieces ≠ [] →
    (g.pieces.map fun p => (p.mainVa, p.len)) = sides.map (fun x => (some x.1, x.2)) →
    (∀ x ∈ sides, x.1 + x.2 ≤ 2 ^ 55 ∧ x.1 % o.align = 0 ∧ x.2 % o.align = 0) →
    let e := s.rankEntry o.world r
    canSend s (rankNode e) = true →
    let state := fun (t : State) => (t.ladles.find? op).bind fun o => (o.segs.find? n).map (·.state)
    let a := g.pieces.foldl (fun s p => match p.src with
      | .near k => senseNear s k p.len
      | _ => s) s
    (rankStatus s o.world r = .ok →
      ((∀ p ∈ g.pieces, ∃ va, p.src = .main va) →
        Gives (.segmentStart core) s fun t => t.mem = s.mem ∧ t.threads = s.threads ∧ t.lines = s.lines ∧ state t = some .remote ∧
          PacketLeaves s t (segmentRequest s o e g sides 1 [] 0)) ∧
      ((∀ p ∈ g.pieces, ∃ k, p.src = .near k ∧ (lineTags a k p.len).poison = false) →
        Gives (.segmentStart core) s fun t => t.mem = s.mem ∧ t.threads = s.threads ∧ t.lines = a.lines ∧ state t = some .remote ∧
          PacketLeaves s t (segmentRequest s o e g sides 3 (g.pieces.flatMap fun p => match p.src with
            | .near k => s.mem.readBytes k p.len
            | _ => []) o.grade))) ∧
    (∀ st, rankStatus s o.world r = st → st ≠ .ok → Gives (.segmentStart core) s fun t => t.mem = s.mem ∧ t.threads = s.threads ∧
      state t = some (.failing st) ∧ t.fabric = s.fabric)

/-- WALK_COMPLETE (R261, R263): the leaf of a walk that R262 admits is installed, and found for its address; nothing else changes. -/
def WalksComplete : Prop :=
  ∀ (s : State) (q w : Nat) (va : DWord) (acc : Access) (x : Xlat), q < 256 → (s.world w).quads.getLsbD q = true →
    walk s w va.toNat = .leaf x → checkLeaf s w x va.toNat acc false = none →
    Gives (.walkComplete (.quad q) w va acc) s fun t =>
      cacheFind (t.quad q).cache w va.toNat = some x ∧ (t.quad q).cache.length ≤ 2048 ∧
      (∀ y ∈ (t.quad q).cache, y = x ∨ y ∈ (s.quad q).cache) ∧
      { t with quads := s.quads } = s ∧ ∀ k, k ≠ q → t.quad k = s.quad k

/-- PURGE_ACK (R260, R263, R310): the cache holds no entry that the purge drops, and every other one. With the last acknowledgement an
`xlpurge` answers 0; a removal's runs of frames and its grants are counted down and its segment lands (R260, step 4); and a command of
the management window, such as the removal of a grant (R376), ends with result 0. -/
def PurgesAcknowledged : Prop :=
  ∀ (s : State) (id : Nat) (c : CacheId) (p : Purge), s.purges.find? id = some p → c ∈ p.caches →
    Gives (.purgeAck id c) s fun t =>
      t.cache c = (s.cache c).filter (fun x => !p.what.drops p.world x) ∧
      (∀ p', t.purges.find? id = some p' → p' = { p with caches := p.caches.filter (· ≠ c) }) ∧
      (∀ req r d, (∀ c' ∈ p.caches, c' = c) → p.nodes = [] → p.runs = [] → p.grants = [] → p.after = .request req →
        s.requests.find? req = some r → r.asked = .purge d →
        t.purges.find? id = none ∧ t.requests.find? req = none ∧
        ∀ tid, (s.thread tid).request = some req → (∀ q, (s.thread tid).place ≠ .waiting q) →
          t.thread tid = { (s.thread tid).apply (.reg d 0 r.guard 0) with request := none }) ∧
      ((∀ c' ∈ p.caches, c' = c) → p.nodes = [] → p.after = .management →
        t.purges.find? id = none ∧ t.mgmt = { s.mgmt with go := false, result := 0 } ∧
        ∀ gr, p.grants = [gr] → (t.grant p.world gr).uses = (s.grant p.world gr).uses - 1) ∧
      ∀ op n ck o g run, (∀ c' ∈ p.caches, c' = c) → p.nodes = [] → p.after = .segment op n → SegmentOf s op n o g ck → g.pins = [] →
        g.held = none → p.runs = [run] → run ∈ s.refs → (∀ q, c = .quad q → (s.quad q).owned = []) →
        (∀ q, ∀ x ∈ (s.quad q).owned, x.line / 512 < run.1 ∨ run.1 + run.2 ≤ x.line / 512) →
        t.purges.find? id = none ∧ Ended s t op n o g ck .ok ∧
        (∀ k, t.count k = s.count k - (if run.1 ≤ k ∧ k < run.1 + run.2 then 1 else 0)) ∧
        ∀ gr, p.grants = [gr] → (t.grant p.world gr).uses = (s.grant p.world gr).uses - 1

/-! ## Requests at their homes and the host's accesses (R249, R258, R265, R266, R283 to R287, R304 to R308, R318, R367) -/

/-- The threads of a bundle that wait for the answer to a request take a result. -/
def Answered (s t : State) (req : Nat) (r : Result) : Prop :=
  t.requests.find? req = none ∧ ∀ tid, (s.thread tid).request = some req → (∀ w, (s.thread tid).place ≠ .waiting w) →
    t.thread tid = { (s.thread tid).apply r with request := none }

/-- ATOMIC_AT_HOME: the read-modify-write of R64 as one step, wherever it is performed (R283, R285). One with `.acq` or `.ar` acquires: what
was read ahead for the threads that wait for it is dropped, since its page's scope reaches DIE at least; any other leaves it (R290,
R304). -/
def AtomicsPerformed : Prop :=
  ∀ (s : State) (req key x e : Nat) (r : Request) (op : BitVec 4) (ord : BitVec 2) (d : Reg) (tag : Tag) (via : Xlat), op.toNat < 12 →
    s.requests.find? req = some r → r.asked = .atomic key ord op d x e tag via →
    let size := if op.toNat = 10 then 8 else 4
    let old := s.mem.readLe key size
    Gives (.atomicAtHome req) s fun t =>
      t.mem = s.mem.writeBytes key (leBytes size (rmw op.toNat old (x % 2 ^ (8 * size)) (e % 2 ^ 32))) ∧
      Answered s t req (rmwResult d op.toNat old x ⟨tag.grade, isBad s key size⟩) ∧ t.lines = s.lines ∧
      t.early = if ordAcquires ord then s.early.filter (fun e => (s.thread e.tid).request ≠ some req) else s.early

/-- An entry of a world's fault log (R314, R315): written with its time where the ring translates and has room, with FLHEAD and vector 1
after it; otherwise counted as dropped. -/
structure Logs (s t : State) (w kind detail : Nat) (where_ : Word) (reqid : DWord) (addr opc : Nat) (time : DWord) : Prop where
  written : ∀ pa g, ringPage s w (s.world w).flbase false = some (pa, g) → (s.world w).flhead - (s.world w).fltail ≠ 1024 →
    t.mem = s.mem.writeBytes (physKey (pa + 64 * ((s.world w).flhead.toNat % 1024)))
      (leBytes 4 (kind + 256 * (detail % 256)) ++ leBytes 4 where_.toNat ++ leBytes 8 reqid.toNat ++ leBytes 8 addr ++
        [BitVec.ofNat 8 opc] ++ List.replicate 7 0 ++ leBytes 8 time.toNat ++ leBytes 4 (s.world w).drops ++ List.replicate 20 0) ∧
    (t.world w).flhead = (s.world w).flhead + 1 ∧ (t.world w).drops = 0 ∧ (w, 1) ∈ t.msix
  dropped : (ringPage s w (s.world w).flbase false = none ∨ (s.world w).flhead - (s.world w).fltail = 1024) →
    t.mem = s.mem ∧ (t.world w).flhead = (s.world w).flhead ∧ (t.world w).drops = min ((s.world w).drops + 1) (2 ^ 32 - 1)

/-- HOST_ATOMIC_COMPLETION (R286, R305, R369): the host's result, or UNSUP with the entry HOST_ATOM_UR. -/
def HostAtomicsComplete : Prop :=
  ∀ (s : State) (req key x e va : Nat) (r : Request) (ord : BitVec 2) (op : BitVec 4) (d : Reg) (tag : Tag),
    s.requests.find? req = some r → r.asked = .hostAtomic key ord op d x e tag va none → r.replay = false →
    (s.world r.world).late = [] → (op.toNat = 0 ∨ op.toNat = 8 ∨ op.toNat = 9 ∨ op.toNat = 10) →
    let size := if op.toNat = 10 then 8 else 4
    let old := s.mem.readLe key size
    Gives (.hostAtomicCompletion req 0) s (fun t =>
      t.mem = s.mem.writeBytes key (leBytes size (rmw op.toNat old (x % 2 ^ (8 * size)) (e % 2 ^ 32))) ∧ Answered s t req (rmwResult d op.toNat old x tag)) ∧
    ∀ code : BitVec 3, (code = 1 ∨ code = 4) → Gives (.hostAtomicCompletion req code) s fun t =>
      Answered s t req (if op.toNat = 10 then .pair d 0xFFFFFFFFFFFFFFFF r.guard else .reg d 0xFFFFFFFF r.guard 0) ∧
      Logs s t r.world 0x40 code.toNat (whereWord s r.tid) r.reqid va (ord.toNat * 64 + op.toNat * 4) (s.cyc (r.reqid.toNat / 2 ^ 48 % 1024))

/-- HOST_LINK (R94, R126, R305): a lost service call leaves its thread at the head of its chain with HOST_LINK pending, filed, or halted
where its world is being saved or is saved (R345); a lost host atomic leaves its registers. -/
def HostLinkLoses : Prop :=
  (∀ (s : State) (id : Nat) (v : Service) (head : Word), s.services.find? id = some v →
    (s.thread v.tid).place = .waiting (.service id head) → (∀ e ∈ (s.thread v.tid).pending, e.1 ≠ .hostLink) →
    Gives (.hostLink id) s fun t => t.services.find? id = none ∧ t.mem = s.mem ∧ (∀ k, k ≠ v.tid → t.thread k = s.thread k) ∧
      t.thread v.tid = (if 3 ≤ (s.world v.world).stat then { s.thread v.tid with
          pc := head, place := .waiting .halted, pending := (s.thread v.tid).pending ++ [(.hostLink, v.reqid.setWidth 32)] }
        else { s.thread v.tid with
          pc := head, place := .filed, runnable := s.time
          pending := (s.thread v.tid).pending ++ [(.hostLink, v.reqid.setWidth 32)] })) ∧
  ∀ (s : State) (req key x e va : Nat) (r : Request) (ord : BitVec 2) (op : BitVec 4) (d : Reg) (tag : Tag), s.services.find? req = none →
    s.requests.find? req = some r → r.asked = .hostAtomic key ord op d x e tag va none → r.replay = false →
    (s.thread r.tid).request = some req → (∀ w, (s.thread r.tid).place ≠ .waiting w) → (s.thread r.tid).place ≠ .ended →
    (∀ c ∈ (s.thread r.tid).pending, c.1 ≠ .hostLink) → (∀ l ∈ (s.world r.world).late, l.1 ≠ req) →
    Gives (.hostLink req) s fun t => t.mem = s.mem ∧ t.requests.find? req = none ∧
      t.thread r.tid = { (s.thread r.tid).pushLatch (untagged 0) with
        request := none, pending := (s.thread r.tid).pending ++ [(.hostLink, r.reqid.setWidth 32)] }

/-- Whether the package has a frame now (R248): HBM, in minimal mode that of the one die alone, and none without firmware (R384), or the host
aperture. -/
def frameThere (s : State) (f : Nat) : Bool :=
  (decide (f < 0x644530) && decide (s.assayer.reason ≠ 1) &&
      (!s.assayer.minimal || decide (f / 549316 / 3 = s.assayer.minDie))) ||
    (decide (0x20000000 ≤ f) && decide (f < 0x24000000))

/-- The result word of a retype, its checks in their order (R265, R266). -/
def retypeWord (s : State) (w f new : Nat) (owner : Option Nat) : Nat :=
  let m := s.frame f
  let named := owner.getD m.owner
  let pair : Bool :=
    if owner.isSome then decide (m.type = 0 ∧ new = 0 ∧ w = 0 ∧ named ≠ m.owner)
    else match m.type with
      | 0 => decide (new ∈ [1, 2, 3, 4, 5, 7, 8]) || decide (new = 6 ∧ w = 0)
      | 1 => decide (new = 2 ∨ new = 0)
      | 2 => decide (new = 1 ∨ new = 0)
      | 3 | 4 | 5 | 8 => decide (new = 0)
      | 6 | 7 => decide (new = 0 ∧ w = 0)
      | _ => false
  if !frameThere s f then 5
  else if m.owner ≠ w ∧ w ≠ 0 then 2
  else if !pair then 3
  else if (m.type = 3 ∨ m.type = 4 ∨ m.type = 5) ∧ m.valid ≠ 0 then 4
  else if s.count f ≠ 0 then 1
  else 0

/-- What a retype of a frame with a result word leaves (R265): on success the frame's type, owner and generation, its bytes zeroed where
the rule says so; a refused one changes nothing. -/
structure Retyped (s t : State) (f new : Nat) (owner : Option Nat) (word : Nat) : Prop where
  others  : ∀ k, k ≠ f → t.frame k = s.frame k
  refused : word ≠ 0 → t.frames = s.frames ∧ t.mem = s.mem
  done    : word = 0 →
    t.frame f = { s.frame f with type := new, owner := owner.getD (s.frame f).owner, gen := (s.frame f).gen + 1, valid := 0 }
  bytes   : word = 0 → ∀ a, t.mem.read a =
    if (new = 3 ∨ new = 4 ∨ new = 5 ∨ new = 7 ∨ (s.frame f).type = 6 ∨ (s.frame f).type = 7 ∨ owner.isSome = true) ∧
      f < 0x644530 ∧ a / 2 ^ 16 = f then 0 else s.mem.read a

/-- METADATA_HOME_OPERATION: the words of `fquery`, and a retype. -/
def MetadataOperations : Prop :=
  ∀ (s : State) (req f : Nat) (r : Request) (d : Reg), s.requests.find? req = some r →
    let m := s.frame f
    (r.asked = .fquery f d → Gives (.metadataHomeOperation req) s fun t =>
      Answered s t req (.regs d (if !frameThere s f then [0xE, 0, 0, 0]
        else if m.owner = r.world ∨ r.world = 0 then
          [BitVec.ofNat 32 (m.type + 2 ^ 10 * m.owner + 2 ^ 18 * m.valid), BitVec.ofNat 32 (s.count f), m.chg, m.gen]
        else [0xF, 0, 0, 0]) r.guard) ∧ t.frames = s.frames ∧ t.mem = s.mem) ∧
    ∀ new owner, r.asked = .fretype f new owner d → Gives (.metadataHomeOperation req) s fun t =>
      let x := retypeWord s r.world f new owner
      Answered s t req (.reg d (BitVec.ofNat 32 x) r.guard 0) ∧ Retyped s t f new owner x

/-- World 0's retype through the management window (R265): `fretype`'s, in the rights of world 0. -/
def WorldZeroRetypes : Prop :=
  ∀ (s : State) (f new : Nat) (owner : Option Nat), new < 16 → (∀ o, owner = some o → o < 64) →
    ∃ t, runTurn (.retype f new (match owner with
        | some o => 64 + o
        | none => 0)) s = .next t ∧ Retyped s t f new owner (retypeWord s 0 f new owner) ∧ t.threads = s.threads

/-- HOST_WRITE, HOST_READ and HOST_ATOMICOP_REQUEST within one frame that is no table and is mapped for them (R258, R284, R287). A 128-bit
CAS, and every read and AtomicOp of a function in ERROR, is answered with Unsupported Request, and its writes are dropped (R366). -/
def HostAccesses : Prop :=
  (∀ (s : State) (w va : Nat) (x : Xlat), w < 64 → (s.world w).tdi ≠ .error → isTableType (s.frame (x.phys va / 2 ^ 16)).type = false →
    let key := physKey (x.phys va)
    (∀ b : List Byte, b ≠ [] → va % 2 ^ 16 + b.length ≤ 2 ^ 16 → (accessIn s (.host w) w va .write true).1 = .ok x →
      Gives (.hostWrite w va b) s fun t => t.mem = s.mem.writeBytes key b ∧ t.threads = s.threads ∧ t.frames = s.frames ∧ t.lines = s.lines) ∧
    (∀ len, 0 < len → va % 2 ^ 16 + len ≤ 2 ^ 16 → (accessIn s (.host w) w va .read true).1 = .ok x →
      Gives (.hostRead w va len) s fun t => t.mem = s.mem ∧ t.threads = s.threads ∧ t.toHost = some (s.mem.readBytes key len) :: s.toHost) ∧
    ∀ (size : Nat) (op : BitVec 4) (a b v : DWord), v.toNat = va → (size = 4 ∨ size = 8) → op.toNat < 3 → va % size = 0 →
      (accessIn s (.host w) w va .atomic false).1 = .ok x → isAperture (x.phys va / 2 ^ 16) = false →
      let old := s.mem.readLe key size
      Gives (.hostAtomicopRequest w v size op a b) s fun t => t.toHost = some (leBytes size old) :: s.toHost ∧ t.threads = s.threads ∧
        t.mem = s.mem.writeBytes key (leBytes size (match op.toNat with
          | 0 => old + a.toNat
          | 1 => a.toNat
          | _ => if old = b.toNat % 2 ^ (8 * size) then a.toNat else old))) ∧
  (∀ (s : State) (w va len : Nat) (b : List Byte) (v : DWord) (size : Nat) (op : BitVec 4) (x y : DWord), (s.world w).tdi = .error →
    exec (.hostWrite w va b) s = .next s ∧ exec (.hostRead w va len) s = .next { s with toHost := none :: s.toHost } ∧
      exec (.hostAtomicopRequest w v size op x y) s = .next { s with toHost := none :: s.toHost }) ∧
  ∀ (s : State) (w : Nat) (v x y : DWord), exec (.hostAtomicopRequest w v 16 2 x y) s = .next { s with toHost := none :: s.toHost }

/-- HOST_WRITE of a unit into a table frame that a rule refuses: dropped, with the entry HOST_TABLE_REFUSED (R258, R315). -/
def HostTableWrites : Prop :=
  ∀ (s : State) (w va rule : Nat) (b : List Byte) (x : Xlat), w < 64 → (s.world w).tdi ≠ .error → b ≠ [] → va % 2 ^ 16 + b.length ≤ 2 ^ 16 →
    (accessIn s (.host w) w va .write true).1 = .ok x →
    let f := x.phys va / 2 ^ 16
    isTableType (s.frame f).type = true → checkWrites s f [(x.phys va % 2 ^ 16, b)] = .error rule →
    Gives (.hostWrite w va b) s fun t => t.frames = s.frames ∧ t.threads = s.threads ∧
      Logs s t w 0x80 rule 0 0 (x.phys va) 0 (micros s)

/-- PAGE_REQUEST_RESPONSE (R318, R367): of the function's incarnation, the segments that wait for its group go on or fail with RANGE_FAULT, and
the atomics that wait for it go on or end; of an old one it is dropped and logged in world 0's fault log. -/
def PageResponses : Prop :=
  ∀ (s : State) (w grp page : Nat) (inc : BitVec 5) (ok : Bool), grp < 16 →
    (s.world w).pages.find? (inc.toNat * 16 + grp) = some page →
    (inc = (s.world w).inc →
      Gives (.pageRequestResponse w inc grp ok) s fun t => (t.world w).pages.find? (inc.toNat * 16 + grp) = none ∧ t.mem = s.mem ∧
        (∀ op o n g, s.ladles.find? op = some o → o.segs.find? n = some g → g.state = .paging w grp →
          (t.ladles.find? op).bind (fun o => o.segs.find? n) =
            some { g with state := if ok then .queued else .failing .rangeFault }) ∧
        ∀ req r key ord aop d x e tag va, s.requests.find? req = some r → (∀ y ∈ s.requests, y.1 = req → y.2 = r) →
          r.asked = .hostAtomic key ord aop d x e tag va (some (w, grp)) → r.replay = false →
          t.requests.find? req = if ok then some { r with asked := .hostAtomic key ord aop d x e tag va none } else none) ∧
    (inc ≠ (s.world w).inc → Gives (.pageRequestResponse w inc grp ok) s fun t =>
      (t.world w).pages.find? (inc.toNat * 16 + grp) = none ∧ t.ladles = s.ladles ∧ t.requests = s.requests ∧
      Logs (s.setWorld w { s.world w with pages := (s.world w).pages.erase (inc.toNat * 16 + grp) }) t 0 0x83 inc.toNat 0 0 page w
        (micros s))

/-! ## Service completions (R201, R202, R314, R345) -/

/-- A doorbell of the entry of a waiting call whose STATUS has been written: the reply into the block, nothing that the thread read ahead of
it kept (R187, R190), STATUS into Vd with the page's grade and the guard's tags, the wake. One for a world that is being saved or is saved is recorded where it names an
outstanding entry, once; one whose STATUS is all ones has no effect. -/
def ServiceCompletions : Prop :=
  ∀ (s : State) (w id pa : Nat) (page : BitVec 2) (v : Service) (head n : Word), w < 64 → (s.world w).tdi ≠ .error →
    (3 ≤ (s.world w).stat → Gives (.serviceCompletionDoorbell w n) s fun t => OnlyWorld s t w ∧
      t.world w = { s.world w with doorbells :=
        if n.toNat % 512 ∉ (s.world w).doorbells ∧
          (∃ e ∈ s.services, e.2.world = w ∧ e.2.index = n.toNat % 512 ∧ isServed s e.1 e.2 = true) then
          (s.world w).doorbells ++ [n.toNat % 512] else (s.world w).doorbells }) ∧
    ((s.world w).stat < 3 → s.services.find? id = some v → v.world = w → v.index = n.toNat % 512 →
      (s.thread v.tid).place = .waiting (.service id head) →
      (∀ e ∈ s.services, e.2.world = w → e.2.index = v.index → isServed s e.1 e.2 = true → e = (id, v)) →
      ringPage s w (s.world w).srbase false = some (pa, page) →
      let key := physKey (pa + 128 * v.index)
      let status := s.mem.readLe (key + 16) 4
      (status = 0xFFFFFFFF → Gives (.serviceCompletionDoorbell w n) s fun t => { t with assayer := s.assayer } = s) ∧
      (status ≠ 0xFFFFFFFF → Gives (.serviceCompletionDoorbell w n) s fun t =>
        t.mem = s.mem.writeBytes v.block (s.mem.readBytes (key + 64) 64) ∧
        (∀ k, t.line k = if (linesOf v.block 64).contains k then
          { s.line k with tag := joinTags [(s.line k).tag, ⟨page, false⟩] } else s.line k) ∧
        t.thread v.tid = { (s.thread v.tid).setReg v.dst.toNat ⟨BitVec.ofNat 32 status, joinTags [⟨page, false⟩, v.call.guard]⟩ with
          place := .filed, runnable := s.time } ∧
        t.services.find? id = none ∧ (∀ e ∈ t.early, e.tid = v.tid → e.meets v.block 64 = false) ∧
        ∀ k, k ≠ v.tid → (∀ x, (s.thread k).place ≠ .waiting x) → t.thread k = s.thread k))

/-- The entry that a waiting call's request takes in a ring's page (R127), with the identifier of the core that issued it (R343). -/
def callBytes (s : State) (tid : Nat) (c : Call) : List Byte :=
  leBytes 8 (nextRequest s (s.threadWorld tid) c.core).toNat ++
    leBytes 4 (c.service * 2 ^ 24 + (whereWord s tid).toNat) ++ leBytes 4 (s.threadWorld tid) ++ leBytes 4 0xFFFFFFFF ++
    List.replicate 44 0 ++ s.mem.readBytes c.block 64

/-- SRTAIL (R200, R314): a write within what has been appended moves it on, and the call that has waited longest takes the entry that it frees:
its request is appended and its thread waits for the completion; one whose data the ring's page may not take traps with GRADE_DOWN.
Any other write is ignored and logged. -/
def RingTails : Prop :=
  ∀ (s : State) (w : Nat) (v : Word), w < 64 → (s.world w).tdi ≠ .error →
    let x := s.world w
    ((x.srhead - v).toNat ≤ (x.srhead - x.srtail).toNat → ringWaiters s w = [] →
      Gives (.srtailWrite w v) s fun t => OnlyWorld s t w ∧ t.world w = { x with srtail := v }) ∧
    (∀ order tid c head pa page, (x.srhead - v).toNat ≤ (x.srhead - x.srtail).toNat → (x.srhead - v).toNat < 512 →
      ringWaiters s w = [(order, tid, c, head)] → (s.thread tid).place = .waiting (.ring order c head) → s.threadWorld tid = w →
      ringPage s w x.srbase false = some (pa, page) →
      (c.grade.toNat ≤ page.toNat → (lineTags s c.block 64).grade.toNat ≤ page.toNat →
        Gives (.srtailWrite w v) s fun t => ∃ id, t.thread tid = { s.thread tid with place := .waiting (.service id head) } ∧
          t.services.find? id = some ⟨w, tid, x.srhead.toNat % 512, c.block, c.dst, nextRequest s w c.core, c⟩ ∧
          t.mem = s.mem.writeBytes (physKey (pa + 128 * (x.srhead.toNat % 512))) (callBytes s tid c) ∧
          (∀ k, k ≠ tid → t.thread k = s.thread k) ∧ (t.world w).srtail = v ∧ (t.world w).srhead = x.srhead + 1 ∧
          t.msix = (w, 2) :: s.msix) ∧
      (let g := gradeMax c.grade (lineTags s c.block 64).grade
       page.toNat < g.toNat → CanTrap s tid → s.isKilled tid = false →
        Gives (.srtailWrite w v) s fun t =>
          t.thread tid = { trapped s tid ⟨.gradeDown, ⟨BitVec.ofNat 32 (g.toNat * 4 + page.toNat), ⟨gradeMax g c.guard.grade, false⟩⟩,
            0, c.uni, c.pos, c.addr, head, false, !(s.thread tid).pending.isEmpty⟩ with place := .filed } ∧
          Filed t tid ∧ t.mem = s.mem ∧ (t.world w).srhead = x.srhead ∧ (t.world w).srtail = v ∧ t.services = s.services)) ∧
    ((x.srhead - x.srtail).toNat < (x.srhead - v).toNat →
      Gives (.srtailWrite w v) s fun t => t.threads = s.threads ∧ (t.world w).srtail = x.srtail ∧
        (t.world w).srhead = x.srhead ∧ Logs s t w 0x85 0 0 0 v.toNat 0 (micros s))

/-! ## Registers of the windows (R314 to R319, R338, R359, R365, R366, R375, R393, R394, R397) -/

/-- The registers of one queue of a world change, and nothing else. -/
def OnlyQueue (s t : State) (w q : Nat) (x : CmdQueue) : Prop :=
  OnlyWorld s t w ∧ t.cmdQueue w q = x ∧ (∀ k, k ≠ q → t.cmdQueue w k = s.cmdQueue w k) ∧
  { t.world w with queues := (s.world w).queues } = s.world w

/-- Writes of a function's queue and ring registers, by their rows and by their offsets (R314, R316, R319). A write of QCTL keeps the cc and
the priority in force before it, which holds until that cc ends (R333). -/
def QueueRegisters : Prop :=
  ∀ (s : State) (w q : Nat) (v : DWord), w < 64 → q < 64 → (s.world w).tdi ≠ .error →
    let lo : Word := v.setWidth 32
    let x := s.cmdQueue w q
    let ctl : CmdQueue := { x with
      en := lo.getLsbD 31, stopped := x.stopped && !lo.getLsbD 30, psel := lo.getLsbD 2, prio := lo.toNat % 4, wroteAt := s.time
      oldPrio := if x.wroteAt = s.time then x.oldPrio else if x.psel then some x.prio else none }
    Gives (.registerWrite w (32 * q) v) s (fun t => OnlyQueue s t w q { x with base := v }) ∧
    (∀ i, i = .qctlWrite w q lo ∨ i = .registerWrite w (32 * q + 8) v → Gives i s fun t => OnlyQueue s t w q ctl) ∧
    (∀ i, i = .qtailWrite w q lo ∨ i = .registerWrite w (32 * q + 12) v →
      ((lo - x.head).toNat ≤ 1024 → (x.tail - x.head).toNat ≤ (lo - x.head).toNat →
        Gives i s fun t => OnlyQueue s t w q { x with tail := lo }) ∧
      ((1024 < (lo - x.head).toNat ∨ (lo - x.head).toNat < (x.tail - x.head).toNat) →
        Gives i s fun t => t.cmdQueue w q = x ∧ t.threads = s.threads ∧ Logs s t w 0x82 q 0 0 lo.toNat 0 (micros s))) ∧
    (∀ i, i = .handlerWrite w v ∨ i = .registerWrite w 0x1100 v → Gives i s fun t => OnlyWorld s t w ∧
      t.world w = { s.world w with handler := if v.toNat % 4 = 0 then v else (s.world w).handler }) ∧
    Gives (.registerWrite w 0x1000 v) s (fun t => OnlyWorld s t w ∧ t.world w = { s.world w with srbase := v }) ∧
    Gives (.registerWrite w 0x1200 v) s (fun t => OnlyWorld s t w ∧ t.world w = { s.world w with flbase := v }) ∧
    Gives (.registerWrite w 0x120C v) s (fun t => OnlyWorld s t w ∧ t.world w = { s.world w with fltail := lo }) ∧
    exec (.registerWrite w 0x100C v) s = exec (.srtailWrite w lo) s ∧
    exec (.registerWrite w 0x1010 v) s = exec (.serviceCompletionDoorbell w lo) s

/-- Reads of a function's registers (R7, R8, R314, R316): of a closed window none; read-write and read-only registers give what they hold,
write-only ones and reserved fields 0; a virtual function reads 0 from offset 0x8000 on (R393). FRAMETOP reads in the management window
(R248), at an offset that the spec leaves open. -/
def RegisterReads : Prop :=
  ∀ (s : State) (w q : Nat), w < 64 → q < 64 →
    ((s.world w).tdi = .error → ∀ off, readRegister s w off = none) ∧
    ((s.world w).tdi ≠ .error →
      let x := s.cmdQueue w q
      let y := s.world w
      readRegister s w (32 * q) = some x.base ∧ readRegister s w (32 * q + 12) = some (x.tail.setWidth 64) ∧
      readRegister s w (32 * q + 16) = some (x.head.setWidth 64) ∧
      (∃ v, readRegister s w (32 * q + 8) = some v ∧ v.getLsbD 31 = x.en ∧ v.getLsbD 30 = x.stopped ∧ v.getLsbD 2 = x.psel ∧
        v.toNat % 4 = x.prio % 4 ∧ v &&& 0xFFFFFFFF3FFFFFF8 = 0) ∧
      readRegister s w 0x1000 = some y.srbase ∧ readRegister s w 0x1008 = some (y.srhead.setWidth 64) ∧
      readRegister s w 0x100C = some (y.srtail.setWidth 64) ∧ readRegister s w 0x1010 = some 0 ∧
      readRegister s w 0x1100 = some y.handler ∧ readRegister s w 0x1200 = some y.flbase ∧
      readRegister s w 0x1208 = some (y.flhead.setWidth 64) ∧ readRegister s w 0x120C = some (y.fltail.setWidth 64) ∧
      (w ≠ 0 → ∀ off, 0x8000 ≤ off → readRegister s w off = some 0)) ∧
    ((s.world 0).tdi ≠ .error → ∃ off, off = 0x20018 + 4 * Config.frametopPlace.val ∧ off < 0x21000 ∧
      readRegister s 0 off = some (BitVec.ofNat 64 s.mgmt.frametop))

/-- Writes of a world's root, quads, context registers and BAR0 while its configuration is not frozen (R314, R317, R338, R365). A refused
write leaves the register. -/
def WorldRegisters : Prop :=
  ∀ (s : State) (w : Nat), w < 64 → (s.world w).tdi ≠ .locked → (s.world w).tdi ≠ .run →
    let x := s.world w
    (∀ v : Word, let m := s.frame v.toNat
      let ok := frameThere s v.toNat = true ∧ m.type = 3 ∧ m.owner = w ∧
        ∀ e ∈ s.teams, e.2.world = w → teamResident s e.1 e.2 = false
      (ok → Gives (.wrootWrite w v) s fun t => (t.world w).root = v.toNat ∧ (t.world w).hasRoot = true ∧
        (t.world w).epoch = x.epoch + 1 ∧ { t with worlds := s.worlds, refs := s.refs } = s ∧
        (∀ f, t.count f + (if x.hasRoot ∧ x.root = f ∧ (x.root, 1) ∈ s.refs then 1 else 0) =
          s.count f + (if v.toNat = f then 1 else 0))) ∧
      (¬ ok → Gives (.wrootWrite w v) s fun t => t = s)) ∧
    (∀ v : BitVec 256, Gives (.wquadsWrite w v) s fun t =>
      (∀ q, q < 256 → (t.world w).quads.getLsbD q = (v.getLsbD q && (x.quads.getLsbD q ||
        (List.range 64).all fun o => o == w || !holdsQuad s o q))) ∧
      t.threads = s.threads ∧ t.teams = s.teams ∧
      ((∀ q o, q < 256 → o < 64 → o ≠ w → v.getLsbD q = true → holdsQuad s o q = false) → { t with worlds := s.worlds } = s)) ∧
    (∀ (cnt : Bool) (v : Word), x.stat ≤ 1 →
      let ok := if cnt then v.toNat % 2 = 0 ∧ contextRun s w x.wctx v.toNat = true else contextRun s w v.toNat (max 1 x.wctxn) = true
      (ok → Gives (.wctxWrite w cnt v) s fun t => OnlyWorld s t w ∧
        t.world w = if cnt then { x with wctxn := v.toNat } else { x with wctx := v.toNat }) ∧
      (¬ ok → Gives (.wctxWrite w cnt v) s fun t => t = s)) ∧
    ∀ v : DWord, ∃ t, runTurn (.configBar0 w v) s = .next t ∧ OnlyWorld s t w ∧ t.world w = { x with bar0 := v }

/-- R365, R366: a write that would change the frozen configuration of a locked or running interface is ignored, and the interface enters
ERROR, in which every function's window answers nothing: its teams are killed with TEAM_KILLED. -/
def FrozenConfiguration : Prop :=
  ∀ (s : State) (w : Nat), w < 64 → ((s.world w).tdi = .locked ∨ (s.world w).tdi = .run) →
    let x := s.world w
    let errs := fun (t : State) => (t.world w).tdi = .error ∧ (t.world w).root = x.root ∧ (t.world w).quads = x.quads ∧
      (t.world w).wctx = x.wctx ∧ (t.world w).wctxn = x.wctxn ∧
      (∀ k tm, s.teams.find? k = some tm → tm.world = w → tm.ended = false → tm.killed = none →
        (t.team k).killed.map (·.causeword) = some 0x61) ∧
      ∀ q v, Gives (.qctlWrite w q v) t fun t' => t' = t
    (∀ v : Word, frameThere s v.toNat = true → (s.frame v.toNat).type = 3 → (s.frame v.toNat).owner = w → worldResident s w = false →
      v.toNat ≠ x.root → Gives (.wrootWrite w v) s errs) ∧
    (∀ v : BitVec 256, x.quads &&& ~~~v ≠ 0 → Gives (.wquadsWrite w v) s errs) ∧
    (∀ v : Word, x.stat ≤ 1 → contextRun s w v.toNat (max 1 x.wctxn) = true → v.toNat ≠ x.wctx → Gives (.wctxWrite w false v) s errs) ∧
    (∀ v : Word, x.stat ≤ 1 → v.toNat % 2 = 0 → contextRun s w x.wctx v.toNat = true → v.toNat ≠ x.wctxn →
      Gives (.wctxWrite w true v) s errs) ∧
    ∀ v : DWord, v ≠ x.bar0 → ∃ t, runTurn (.configBar0 w v) s = .next t ∧ errs t ∧ (t.world w).bar0 = x.bar0

/-- Writes of the fabric's registers (R393, R394, R397), and the management window's words and selectors (R375). -/
def FabricRegisters : Prop :=
  ∀ (s : State) (v : DWord),
    let lo : Word := v.setWidth 32
    let f := s.fabric
    ((∀ e ∈ s.worlds, e.2.stat ≠ 1) → Gives (.fnodeWrite lo) s fun t => t = { s with fabric := { f with node := lo.toNat % 4096 } }) ∧
    ((∃ e ∈ s.worlds, e.2.stat = 1) → Gives (.fnodeWrite lo) s fun t => t = s) ∧
    (let w := f.rtsel.toNat / 2 ^ 16 % 64
     let r := f.rtsel.toNat % 2 ^ 12
     let bad := v.toNat / 2 ^ 56 % 64 ≠ 0 ∨ v.toNat / 2 ^ 12 % 2 ^ 20 ≠ 0 ∨ v.toNat / 2 ^ 40 % 2 ^ 16 = 0xFFFF ∨ v.toNat / 2 ^ 38 % 4 = 3
     (¬ bad → Gives (.rtdataWrite v) s fun t => OnlyWorld s t w ∧ t.rankEntry w r = v &&& 0xBFFFFFFFFFFFFFFF ∧
       (∀ k, k ≠ r → t.rankEntry w k = s.rankEntry w k) ∧
       { t.world w with ranks := (s.world w).ranks } = s.world w) ∧
     (bad → Gives (.rtdataWrite v) s fun t => (t.world w).ranks = (s.world w).ranks ∧ Logs s t 0 0x84 0 0 0 f.rtsel.toNat 0 (micros s))) ∧
    (let n := f.routesel.toNat % 2 ^ 12
     Gives (.routedataWrite v) s fun t => t.fabric.routes.getD n 0 = v.toNat % 2 ^ 36 ∧
       (∀ k, k ≠ n → t.fabric.routes.getD k 0 = f.routes.getD k 0)) ∧
    (∀ w, w < 64 → (v.toNat % 2 ^ 16 ≠ 0xFFFF → Gives (.wfabWrite w v) s fun t => OnlyWorld s t w ∧
        t.world w = { s.world w with wfab := v &&& 0xFFFFFFFF }) ∧
      (v.toNat % 2 ^ 16 = 0xFFFF → Gives (.wfabWrite w v) s fun t => (t.world w).wfab = (s.world w).wfab ∧
        Logs s t 0 0x86 w 0 0 v.toNat 0 (micros s))) ∧
    ((s.world 0).tdi ≠ .error →
      Gives (.registerWrite 0 0x30004 v) s (fun t => t = { s with fabric := { f with rtsel := lo &&& 0x3F0FFF } }) ∧
      Gives (.registerWrite 0 0x30010 v) s (fun t => t = { s with fabric := { f with routesel := lo &&& 0xFFF } }) ∧
      (∀ k, k < 4 → Gives (.registerWrite 0 (0x20000 + 4 * k) v) s fun t =>
        t = { s with mgmt := { s.mgmt with words := s.mgmt.words.set k lo } }) ∧
      ∀ fn off, fn < 64 → fn ≠ 0 → (s.world fn).tdi ≠ .error → 0x8000 ≤ off → Gives (.registerWrite fn off v) s fun t => t = s)

/-! ## Pre-emption and restore (R338 to R354, R359, R366) -/

/-- KILL (R338) ends every team of the world that has not ended with TEAM_KILLED, those of a launch with ABORT too. -/
def WorldsAreKilled : Prop :=
  ∀ (s : State) (w : Nat), Gives (.kill w) s fun t => t.worlds = s.worlds ∧ t.mem = s.mem ∧ t.ladles = s.ladles ∧
    (∀ x tm, s.teams.find? x = some tm → tm.world = w → tm.ended = false → tm.killed = none →
      (t.team x).killed.map (·.causeword) = some 0x61) ∧
    ∀ x tm, s.teams.find? x = some tm → tm.world = w → tm.ended = false → (t.team x).killed.isSome = true

/-- PREEMPT (R339): accepted only while RUNNING and where the estimate fits half the context area. -/
def Preemption : Prop :=
  ∀ (s : State) (w : Nat),
    ((s.world w).stat ≠ 1 → Gives (.preempt w) s fun t => t = s) ∧
    ((s.world w).stat = 1 → estimate s w ≤ 32768 * (s.world w).wctxn → Gives (.preempt w) s fun t => OnlyWorld s t w ∧
      t.world w = { s.world w with stat := 2, estimate := estimate s w }) ∧
    ((s.world w).stat = 1 → 32768 * (s.world w).wctxn < estimate s w → Gives (.preempt w) s fun t => OnlyWorld s t w ∧
      t.world w = { s.world w with result := 3 })

/-- A thread halts at an address, with its registers, RESUME and pending causes, and leaves its bundle. -/
structure HaltsAt (s t : State) (tid : Nat) (pc : Word) : Prop where
  self   : t.thread tid = { s.thread tid with pc := pc, place := .waiting .halted, retries := false }
  others : ∀ k, k ≠ tid → t.thread k = s.thread k
  rest   : t.mem = s.mem ∧ t.worlds = s.worlds
  bundle : ∀ b, (s.thread tid).place = .inBundle b → tid ∉ (t.bundle b).tids

/-- THREAD_HALT (R341): a thread of a HALTING world that stands in a bin, at a chain boundary, in a wait that is discarded, at a rendezvous
among them, or before a unit without effect halts, to run again where R341 says. At the boundary of a chain that its bundle has issued
a pending cause is taken first, and a thread that has entered its handler meanwhile, and stands before the handler's first chain, does
not halt yet (R93). -/
def ThreadsHalt : Prop :=
  ∀ (s : State) (tid : Nat), (s.threads.find? tid).isSome = true → (s.world (s.threadWorld tid)).stat = 2 → s.isKilled tid = false →
    let x := s.thread tid
    let atBoundary := fun b => x.place = .inBundle b ∧ (s.bundle b).chain = []
    (∀ pc, resumeOf s tid = some pc → x.enters = false → (∀ b, atBoundary b → x.hnd = true ∨ x.pending = []) →
      Gives (.threadHalt tid) s fun t => HaltsAt s t tid pc) ∧
    (∀ m, m < 16 → x.place = .waiting (.mask m) → Gives (.threadHalt tid) s fun t => HaltsAt s t tid x.pc ∧
      (t.threadGroup tid).arrivals m = ((s.threadGroup tid).arrivals m).filter fun r => r.slot ≠ slotOf tid) ∧
    (∀ b c val, atBoundary b → TakesCause s tid c val → Gives (.threadHalt tid) s fun t =>
      t.thread tid = causeTaken s tid c val (s.bundle b).pc ∧ (∀ k, k ≠ tid → t.thread k = s.thread k) ∧ t.mem = s.mem) ∧
    (x.enters = true → (x.place = .filed ∨ ∃ b, atBoundary b ∧ (x.hnd = true ∨ x.pending = [])) → Gives (.threadHalt tid) s fun t => t = s)

/-- WORLD_QUIESCED (R342): the save begins once every thread has halted or waits for what is saved with it, every store has been
performed, no matrix operation can still be posted (R215, R233) and every other operation has ended; what is left of the Ladles'
segments are replay entries, or rows of a tile load whose entry waits unperformed, no cache owns a line of the world, and nothing read
ahead for it is kept. -/
def WorldsQuiesce : Prop :=
  ∀ (s : State) (w : Nat), (s.world w).stat = 2 →
    (∀ e ∈ s.threads, s.threadWorld e.1 = w → isHalted e.2 = true) → (∀ e ∈ s.requests, e.2.world = w → e.2.replay = true) →
    (∀ e ∈ s.ladles, e.2.world = w → ∀ g ∈ e.2.segs, replays s e.2 g.2 = true ∨ waitsForTile s e.2 g.2 = true) →
    (∀ e ∈ s.quads, tableQuiet s w e.2 = true) → (∀ e ∈ s.late, s.threadWorld e.tid ≠ w) →
    (∀ e ∈ s.groups, postsLater s w e = false) →
    Gives (.worldQuiesced w) s fun t => t.world w = { s.world w with stat := 3 } ∧ t.threads = s.threads ∧ t.mem = s.mem ∧
      (∀ op o n g, t.ladles.find? op = some o → o.world = w → o.segs.find? n = some g →
        (g.replay = true ∧ g.pins = []) ∨ g.state = .queued) ∧
      (∀ q, ∀ o ∈ (t.quad q).owned, o.via.world ≠ w) ∧ (∀ e ∈ t.early, s.threadWorld e.tid ≠ w)

/-- REPLAY_TIMEOUT (R342): an unanswered request of a HALTING world that left the package becomes a replay entry, its pin is released, an
answer that has come in is dropped (R347), and its threads leave their bundle to run on, once answered, at the unit after the present one. -/
def RequestsReplay : Prop :=
  ∀ (s : State) (req tid b : Nat) (r : Request) (c : ChainUnit) (rest : List ChainUnit), s.requests.find? req = some r → r.replay = false →
    (s.world r.world).stat = 2 → mayReplay r.asked = true → (s.thread tid).request = some req → (s.thread tid).place = .inBundle b →
    (s.bundle b).chain = c :: rest → (∀ k, k ≠ tid → (s.thread k).request ≠ some req) →
    Gives (.replayTimeout req) s fun t => t.requests.find? req = some { r with replay := true, pin := none } ∧
      t.thread tid = { s.thread tid with pc := c.addr + BitVec.ofNat 32 (4 * c.len), place := .waiting (.answer req) } ∧
      (∀ k, k ≠ tid → t.thread k = s.thread k) ∧ tid ∉ (t.bundle b).tids ∧ t.mem = s.mem ∧
      (∀ e ∈ t.fabric.inbox, e.2.packet.op = 6 → e.2.packet.reqid ≠ r.reqid) ∧
      t.refs = (match r.pin with
        | some f => s.refs.erase (f, 1)
        | none => s.refs)

/-- SAVE_COMPLETE (R346, R349, R350): the image in the slot other than CUR, under the next save counter, its body made of seven sections in
the order of their kinds, each with its header of 16 bytes, its count and its bytes, the last with the replay entries; then SAVED with
that slot, OK, and the world's groups off their cores. How the bytes of a section code what R350 lists is the model's
(notes/assumptions/53.md); the body's ciphertext and the tag are free values. -/
def SavesComplete : Prop :=
  ∀ (s : State) (w : Nat), w < 64 → (s.world w).stat = 3 →
    let x := s.world w
    let slot := 1 - x.cur
    let key := physKey ((x.wctx + slot * (x.wctxn / 2)) * 2 ^ 16)
    Gives (.saveComplete w) s fun t =>
      (t.world w).stat = 4 ∧ (t.world w).result = 0 ∧ (t.world w).cur = slot ∧ (t.world w).saves = x.saves + 1 ∧
      (∃ img, (t.world w).image = some img ∧ img.epoch = x.epoch ∧ img.sections.map (·.kind) = [1, 2, 3, 4, 5, 6, 7] ∧
        img.replays = replayEntries s w ∧
        img.sections = imageSections s w (replayEntries s w) ∧
        let len := 112 + (img.sections.map (·.bytes.length)).sum
        img.body.length = len ∧ t.mem.readBytes key 64 = leBytes 4 0x415A4358 ++ leBytes 2 1 ++ leBytes 1 w ++ leBytes 1 1 ++
          leBytes 8 (x.saves + 1) ++ leBytes 8 len ++ leBytes 8 (x.saves + 1) ++ leBytes 4 w ++ List.replicate 28 0 ∧
        t.mem.readBytes (key + 80) 176 = List.replicate 176 0 ∧ t.mem.readBytes (key + 256) len = img.body ∧
        ∀ a, a < key ∨ key + 256 + len ≤ a → t.mem.read a = s.mem.read a) ∧
      t.threads = s.threads ∧
      ∀ g, g ∈ t.groups → (s.team (teamOfGid g.1)).world = w → g.2.offCore = true ∧ g.2.granules = []

/-- RESTORE (R353) of a SAVED world with no flip before it: a header that is not one of this world, or of another save counter, is refused with
CTX_STALE; an image whose tag fails, because its header, its body or the world's key epoch is not the one that it was sealed under, with
CTX_TAG; otherwise the world is RESTORING. In every other state it is ignored. A CTX_FLIP that came before it is performed first (R374); while
another command of the window waits, there is none. The traffic of the check is counted (R378); nothing else changes. -/
def RestoresAreChecked : Prop :=
  ∀ (s : State) (w : Nat),
    let x := s.world w
    let key := physKey ((x.wctx + x.rslot * (x.wctxn / 2)) * 2 ^ 16)
    let h := s.mem.readBytes key 256
    let num := fun (a n : Nat) => leValue ((h.drop a).take n)
    let good := num 0 4 = 0x415A4358 ∧ num 4 2 = 1 ∧ num 6 1 = w ∧ (num 7 1 = 1 ∨ num 7 1 = 3) ∧ num 24 8 = num 8 8 ∧ num 32 4 = w ∧
      (∀ b ∈ (h.drop 36).take 28, b = 0) ∧ (∀ b ∈ h.drop 80, b = 0) ∧ num 8 8 = x.saves
    let sealedAs := fun (img : Image) => img.epoch = x.epoch ∧ h = img.header ∧
      s.mem.readBytes (physKey ((x.wctx + x.rslot * (x.wctxn / 2)) * 2 ^ 16 + 256)) img.body.length = img.body
    let flip := s.mgmt.go = true ∧ s.mgmtWord 0 % 256 = 0x31 ∧ mgmtWaits s = false
    let only := fun (t : State) => { t with worlds := s.worlds, assayer := s.assayer } = s ∧ ∀ k, k ≠ w → t.world k = s.world k
    (x.stat ≠ 4 → Gives (.restore w) s fun t => t = s) ∧
    (x.stat = 4 → flip → exec (.restore w) s = exec (.restore w) (flipContext s)) ∧
    (x.stat = 4 → ¬ flip → ¬ good → Gives (.restore w) s fun t => only t ∧ t.world w = { x with result := 1 }) ∧
    (x.stat = 4 → ¬ flip → good → ∀ img, x.image = some img → sealedAs img →
      Gives (.restore w) s fun t => only t ∧ t.world w = { x with stat := 5 }) ∧
    (x.stat = 4 → ¬ flip → good → (∀ img, x.image = some img → ¬ sealedAs img) →
      Gives (.restore w) s fun t => only t ∧ t.world w = { x with result := 2 })

/-- RESTORE_COMPLETE (R344, R354): while the world's clusters find no rectangles it waits. Once they are placed the replay entries are
reissued as far as the cores have entries free; while one is left the restore goes on later. Then the world is RUNNING, its save counter
has advanced, what was recorded for it is taken, and none of its threads is halted any longer. -/
def RestoresComplete : Prop :=
  ∀ (s : State) (w : Nat), (s.world w).stat = 5 →
    ((s.world w).placed = false → placeAll s w = none → Gives (.restoreComplete w) s fun t => t = s) ∧
    ∀ s', loadWorld s w = some s' →
      (replayOrder (reissue s' w) w ≠ [] → Gives (.restoreComplete w) s fun t => t = reissue s' w) ∧
      (replayOrder (reissue s' w) w = [] → Gives (.restoreComplete w) s fun t => (t.world w).stat = 1 ∧ (t.world w).result = 0 ∧
        (t.world w).saves = (s.world w).saves + 1 ∧ (t.world w).doorbells = [] ∧ (t.world w).late = [] ∧ (t.world w).placed = false ∧
        ((s.world w).placed = false → (t.world w).posted = []) ∧
        ∀ tid, t.threadWorld tid = w → (t.thread tid).place ≠ .waiting .halted)

/-- A core holds at most 4,096 outstanding requests (R17): a restore reissues no replay entry on a core that has none free. -/
def ReissuesWithinBounds : Prop :=
  ∀ (s : State) (l : List Replay) (full : List Nat), (∀ r ∈ l, r.core s ∈ full ∨ 4096 ≤ outstanding s (r.core s)) →
    reissueList l full s = s

/-- REKEY and REKEY_FRAME (R359): a rotation begins where none runs, and takes the world's SEALED frames in ascending order; no byte and no
register changes. -/
def KeyRotation : Prop :=
  ∀ (s : State) (w : Nat),
    (w < 64 → (s.world w).rekey = none → Gives (.rekey w) s fun t => OnlyWorld s t w ∧ t.world w = { s.world w with rekey := some 0 }) ∧
    ((s.world w).rekey ≠ none → Gives (.rekey w) s fun t => t = s) ∧
    ∀ b, (s.world w).rekey = some b → Gives (.rekeyFrame w) s fun t => t.mem = s.mem ∧ t.threads = s.threads ∧ t.frames = s.frames ∧
      ((∀ r ∈ sealedRuns s w, r.1 + r.2 ≤ b) → t.world w = { s.world w with rekey := none }) ∧
      (∀ f, (∃ r ∈ sealedRuns s w, r.1 ≤ f ∧ f < r.1 + r.2) → b ≤ f →
        (∀ r ∈ sealedRuns s w, ∀ k, r.1 ≤ k → k < r.1 + r.2 → b ≤ k → f ≤ k) →
        t.world w = { s.world w with rekey := some (f + 1) })

/-! ## Commands and launches (R319 to R322, R326, R327, R330 to R336) -/

/-- A command completes (R321, R335): its STATUS in its entry, QHEAD past it, and the queue runs nothing. `a`: the state before the
writes. -/
structure CommandDone (a t : State) (w q va word : Nat) : Prop where
  status : t.mem = (writeStatus a w va word).mem
  queue  : t.cmdQueue w q = { a.cmdQueue w q with head := (a.cmdQueue w q).head + 1, running := none, runVa := 0, flushed := 0 }
  others : ∀ k, k ≠ q → t.cmdQueue w k = a.cmdQueue w k
  threads : t.threads = a.threads

/-- A queue is due to start a command with an operation (R319, R320, R322): enabled, not stopped, idle, its ring translating, and no reset
is being entered (R383). -/
structure Due (s : State) (w q op va : Nat) (c : Command) : Prop where
  runs  : s.assayer.entered = false
  entry : ∃ key, nextCommand s w q = .entry va key c
  good  : c.bad = false
  op    : c.op = op
  fresh : (s.cmdQueue w q).flushed = 0

/-- An operand of a command translates as an atomic access of the world (R322): its memory key. -/
def OperandAt (s : State) (w : Nat) (va : DWord) (key : Nat) : Prop :=
  ∃ x, walk s w va.toNat = .leaf x ∧ checkLeaf s w x va.toNat .atomic false = none ∧ key = physKey (x.phys va.toNat)

/-- WAITCOUNT, WAITCOUNT_SATISFIED, SIGNALCOUNT and MARK (R322), whose operand translates. -/
def CounterCommands : Prop :=
  ∀ (s : State) (w q va key : Nat) (c : Command), OperandAt s w c.a key →
    (Due s w q 2 va c → (c.b.toNat ≤ s.mem.readLe key 8 → Gives (.waitcount w q) s fun t => CommandDone s t w q va 0x80000000) ∧
      (s.mem.readLe key 8 < c.b.toNat → Gives (.waitcount w q) s fun t => t.mem = s.mem ∧ t.threads = s.threads ∧
        t.cmdQueue w q = { s.cmdQueue w q with running := some (.waitcount c.a.toNat c.b.toNat), runVa := va })) ∧
    ((s.cmdQueue w q).running = some (.waitcount c.a.toNat c.b.toNat) → (s.cmdQueue w q).runVa = va → (s.cmdQueue w q).flushed = 0 →
      (c.b.toNat ≤ s.mem.readLe key 8 → Gives (.waitcountSatisfied w q) s fun t => CommandDone s t w q va 0x80000000)) ∧
    (Due s w q 3 va c → Gives (.signalcount w q) s fun t =>
      CommandDone { s with mem := s.mem.writeBytes key (leBytes 8 (min (s.mem.readLe key 8 + c.b.toNat) (2 ^ 64 - 1))) }
        t w q va 0x80000000) ∧
    (Due s w q 5 va c → Gives (.mark w q) s fun t =>
      CommandDone { s with mem := s.mem.writeBytes key (leBytes 8 c.b.toNat) } t w q va 0x80000000 ∧ (w, 0) ∈ t.msix)

/-- A bad entry is refused with reason 9, and a WAITCOUNT, SIGNALCOUNT or MARK whose operand does not translate completes with RANGE_FAULT
(R322); a queue whose ring does not translate stops (R319). From reset entry to the end of the start-up no queue starts a command
(R383, R384). -/
def CommandFailures : Prop :=
  ∀ (s : State) (w q va : Nat) (c : Command) (i : Instr),
    (i = .launch w q ∨ i = .waitcount w q ∨ i = .signalcount w q ∨ i = .copy w q ∨ i = .mark w q) →
    (s.assayer.entered = true → Gives i s fun t => t = s) ∧
    ((∃ key, nextCommand s w q = .entry va key c) → s.assayer.entered = false → c.bad = true → (s.cmdQueue w q).flushed = 0 →
      Gives i s fun t => CommandDone s t w q va (2 ^ 31 + 2 ^ 28 + 9 * 2 ^ 16)) ∧
    ((∀ key, ¬ OperandAt s w c.a key) →
      ((i = .waitcount w q ∧ Due s w q 2 va c) ∨ (i = .signalcount w q ∧ Due s w q 3 va c) ∨ (i = .mark w q ∧ Due s w q 5 va c)) →
      Gives i s fun t => CommandDone s t w q va (2 ^ 31 + 2)) ∧
    (nextCommand s w q = .noRing → s.assayer.entered = false → Gives i s fun t => t.threads = s.threads ∧
      t.cmdQueue w q = { s.cmdQueue w q with stopped := true } ∧ (w, 3) ∈ t.msix)

/-- COPY (R322): an operation of the Ladle of the world's lowest-numbered granted quad, of the dies that run (R384), its segments cut from
the source to the destination; without such a quad the command waits to start. -/
def CopyCommands : Prop :=
  ∀ (s : State) (w q va : Nat) (c : Command), Due s w q 4 va c →
    let has := fun k => (s.world w).quads.getLsbD k && dieRuns s (k / 64)
    (∀ quad, has quad = true → quad < 256 → (∀ k, k < quad → has k = false) →
      (c.c.toNat = 0 → Gives (.copy w q) s fun t => CommandDone s t w q va 0x80000000) ∧
      (0 < c.c.toNat → Gives (.copy w q) s fun t => t.mem = s.mem ∧ t.threads = s.threads ∧
        t.cmdQueue w q = { s.cmdQueue w q with running := some (.copy s.nextId), runVa := va } ∧
        ∃ o, t.ladles.find? s.nextId = some o ∧ quadOf o.core = quad ∧ (∀ k, k < o.core → quadOf k ≠ quad) ∧ o.world = w ∧
          o.counter = none ∧ o.rank = none ∧ o.segs = makeSegments false
            ((cutPieces false c.c.toNat (.main c.a.toNat) (.main c.b.toNat) c.c.toNat).map fun p => (0, p)))) ∧
    ((∀ k, k < 256 → has k = false) → Gives (.copy w q) s fun t => t = s)

/-- LAUNCH (R322 to R327): a record that passes its checks becomes a launch with the fields of the record; one that does not is refused with
the reason of R327. -/
def LaunchCommands : Prop :=
  ∀ (s : State) (w q va : Nat) (c : Command), Due s w q 1 va c →
    let k := fun (x : Xlat) => physKey (x.phys c.a.toNat)
    (c.a.toNat % 128 ≠ 0 → Gives (.launch w q) s fun t => CommandDone s t w q va (2 ^ 31 + 2 ^ 28 + 2 ^ 16)) ∧
    ∀ x, c.a.toNat % 128 = 0 → translates s w c.a.toNat .read = some x →
      (∀ n, recordRefusal s w (readRecord s.mem (k x)) = some n → n < 256 →
        Gives (.launch w q) s fun t => CommandDone s t w q va (2 ^ 31 + 2 ^ 28 + n * 2 ^ 16)) ∧
      (recordRefusal s w (readRecord s.mem (k x)) = none → Gives (.launch w q) s fun t =>
        t.mem = s.mem ∧ t.threads = s.threads ∧ t.teams = s.teams ∧
        t.cmdQueue w q = { s.cmdQueue w q with running := some (.launch s.nextId), runVa := va } ∧
        ∃ l, t.launches.find? s.nextId = some l ∧ l.world = w ∧ l.queue = q ∧ l.record = c.a ∧
          l.entry.toNat = s.mem.readLe (k x) 8 ∧ l.gdx = s.mem.readLe (k x + 8) 2 ∧ l.gdy = s.mem.readLe (k x + 10) 2 ∧
          l.gdz = s.mem.readLe (k x + 12) 2 ∧ l.doneVa.toNat = s.mem.readLe (k x + 24) 8 ∧
          l.bench = s.mem.readLe (k x + 36) 4 ∧ l.cruc = s.mem.readLe (k x + 40) 4 ∧
          l.rank = (if c.opw / 256 % 2 = 1 then c.opw / 2 ^ 20 else 0) ∧ l.nextIndex = 0 ∧ l.complete = false)

/-- SCHEDULER_ARBITRATION (R326, R330, R331): the cluster that wins is made resident whole: a team on each core of its rectangle, its threads
at the entry with every register zero, filed; the next index follows, and an IDLE world runs. `r`: the winner that the model's
arbitration finds. -/
def ClustersAreDistributed : Prop :=
  ∀ (s : State) (lid : Nat) (l : Launch) (r : Nat × Nat × Nat),
    let a := s.launches.foldl (fun s e => returnChunks s e.1 (s.launch e.1)) s
    winner a (candidates a) = some (lid, l, r) → a.launches.find? lid = some l → 0 < l.gdx → 0 < l.gdy → (s.world l.world).stat ≤ 1 →
    Gives (.schedulerArbitration) s fun t => t.lastWinner = (l.world, l.queue) ∧ (t.world l.world).stat = 1 ∧ t.mem = s.mem ∧
      (t.launch lid).nextIndex = l.nextIndex + 1 ∧
      ∃ cid c, t.clusters.find? cid = some c ∧ c.launch = lid ∧ c.cores = rectCores l.shape r ∧ c.cruc = (t.launch lid).crucSpace.find? r.1 ∧
        c.x + l.gdx * (c.y + l.gdy * c.z) = l.nextIndex ∧ c.x < l.gdx ∧ c.y < l.gdy ∧
        ∀ k core, c.cores[k]? = some core → ∃ team tm, t.teams.find? team = some tm ∧ tm.cluster = cid ∧ tm.index = k ∧ tm.core = core ∧
          tm.world = l.world ∧ tm.launch = lid ∧ tm.prio = queuePrio s l ∧ tm.ended = false ∧
          ∀ g role, (groupRoles l.roles)[g]? = some role → g < 32 → (t.group (team * 32 + g)).role = role ∧
            (t.group (team * 32 + g)).core = core ∧
            ∀ slot, slot < 32 → t.thread ((team * 32 + g) * 32 + slot) =
              { noThread with pc := l.entry.setWidth 32, place := .filed, runnable := s.time }

/-- CLUSTER_RESERVING (R332): a cluster that has been its queue's next for 1 ms, whatever the clock (R19). -/
def ClustersReserve : Prop :=
  ∀ (s : State) (w q lid : Nat), (s.cmdQueue w q).running = some (.launch lid) → wantsCluster s (s.launch lid) = true →
    2450448000000 ≤ s.span - (s.launch lid).since →
    Gives (.clusterReserving w q) s fun t => { t with launches := s.launches } = s ∧
      t.launch lid = { s.launch lid with reserving := true } ∧ ∀ k, k ≠ lid → t.launch k = s.launch k

/-- LAUNCH_COMPLETE (R329, R335, R336): every cluster distributed, every team ended in an earlier cc, nothing of it outstanding, no
matrix operation of it complete and not posted: STATUS, which says
FAILED where a team was killed or the launch stopped before its last cluster, then QHEAD advances, and the queue runs nothing; with ABORT and a team killed the queue is flushed. -/
def LaunchesComplete : Prop :=
  ∀ (s : State) (lid : Nat),
    let l := s.launch lid
    (s.cmdQueue l.world l.queue).running = some (.launch lid) → (s.cmdQueue l.world l.queue).flushed = 0 → l.complete = false →
    (l.stopped = true ∨ l.gdx * l.gdy * l.gdz ≤ l.nextIndex) → (∀ e ∈ s.teams, e.2.launch = lid → e.2.ended = true ∧ e.2.endedAt < s.time) →
    (∀ e ∈ s.ladles, e.2.launch ≠ some lid) → (∀ e ∈ s.quads, ∀ p ∈ e.2.table, (s.team p.team).launch ≠ lid) →
    (∀ e ∈ s.groups, (s.team (teamOfGid e.1)).launch = lid → ∀ c ∈ e.2.conv, c.2.signed = 0 ∨ c.2.signed ≠ c.2.declared) →
    Gives (.launchComplete lid) s fun t => (t.launch lid).complete = true ∧ (t.launch lid).stopped = true ∧ t.threads = s.threads ∧
      ((l.abortOnFail = false ∨ l.killed = 0) →
        t.cmdQueue l.world l.queue = { s.cmdQueue l.world l.queue with
          head := (s.cmdQueue l.world l.queue).head + 1, running := none, runVa := 0, flushed := 0 } ∧
        t.mem = (writeStatus (writeDone s l) l.world (s.cmdQueue l.world l.queue).runVa
          (2 ^ 31 + (if l.killed ≠ 0 ∨ (l.stopped = true ∧ l.nextIndex < l.gdx * l.gdy * l.gdz) then 2 ^ 29 else 0))).mem) ∧
      (l.abortOnFail = true → l.killed ≠ 0 → (t.cmdQueue l.world l.queue).stopped = true ∧
        (t.cmdQueue l.world l.queue).head = (s.cmdQueue l.world l.queue).tail ∧
        (t.cmdQueue l.world l.queue).running = none ∧ (l.world, 3) ∈ t.msix)

/-! ## The Assayer (R374 to R389) -/

/-- The Assayer performs the command of the management window that GO has started (R375). -/
structure Started (s : State) (cmd : Nat) : Prop where
  go    : s.mgmt.go = true
  cmd   : s.mgmtWord 0 % 256 = cmd
  idle  : ∀ e ∈ s.purges, e.2.after ≠ .management

/-- The end of a command: its result word, its data, and GO 0; the command words stay. -/
def Ends (s t : State) (code : Nat) (data : List Byte) : Prop :=
  t.mgmt = { s.mgmt with go := false, result := BitVec.ofNat 32 code, data := data }

/-- An event has been entered in a die's black box as the newest of its microsecond (R387, R388). -/
def Notes (s t : State) (die code world unit : Nat) (data : List Byte) : Prop :=
  (∀ x ∈ (s.assayer.boxes.getD die {}).events, x.time = micros s → x.starts ≠ BitVec.ofNat 32 s.assayer.starts) →
    (t.assayer.boxes.getD die {}).events.head? = some ⟨micros s, BitVec.ofNat 32 s.assayer.starts, code, world, unit, data⟩

/-- Bytes 0 to 63 of a record of a world (R380). -/
def hallmark (s : State) (w kind seq counter flags : Nat) (prev : List Byte) : List Byte :=
  leBytes 4 0x415A454D ++ leBytes 1 kind ++ leBytes 1 w ++ leBytes 2 Config.calibration ++ leBytes 8 seq ++ leBytes 8 counter ++
    leBytes 4 s.assayer.starts ++ leBytes 1 flags ++ leBytes 3 0 ++ prev

/-- A reading of a world made (R380): the next of its chain, with its counter and the digest of the record before it, and a signature of
which the model says nothing but its length. -/
def ReadingMade (s t : State) (w : Nat) (data : List Byte) : Prop :=
  let e := (s.world w).energy
  ∃ sig, sig.length = 2828 ∧
    let r := hallmark s w 1 (e.seq + 1) e.counter (if e.scaled then 4 else 0) ((e.last.map sha256).getD (List.replicate 32 0))
    data = r ++ sig ∧ (t.world w).energy = { e with seq := e.seq + 1, last := some r, scaled := false } ∧
    ∀ k, k ≠ w → t.world k = s.world k

/-- METER_READ, METER_FINAL and a tenant's reading in its secure session (R380, R381): between a FINAL and the end of start-up the FINAL
answers. Which vendor-defined request asks for a reading is the model's choice (log 68). -/
def EnergyReadings : Prop :=
  ∀ (s : State),
    let w := s.mgmtWord 0 / 2 ^ 8 % 64
    (Started s 0x10 → s.assayer.entered = false → Gives .meterRead s fun t =>
      ∃ d, Ends s t 0 d ∧ ReadingMade s t w d ∧ t.mem = s.mem ∧ t.threads = s.threads) ∧
    (Started s 0x10 → s.assayer.entered = true → Gives .meterRead s fun t => t.worlds = s.worlds ∧
      (∀ b, (s.world w).energy.final = some b → Ends s t 0 b) ∧ ((s.world w).energy.final = none → Ends s t 4 [])) ∧
    (Started s 0x11 → Gives .meterFinal s fun t => t.worlds = s.worlds ∧
      (∀ b, (s.world w).energy.final = some b → Ends s t 0 b) ∧ ((s.world w).energy.final = none → Ends s t 4 [])) ∧
    ∀ v, (s.world v).spdm = .secure → s.assayer.entered = false → Gives (.vendorDefinedRequest v 0) s fun t =>
      ∃ d, t.doe = (v, .payload d) :: s.doe ∧ ReadingMade s t v d ∧ t.mgmt = s.mgmt

/-- START_STATUS, POWER_CAP, BBOX_READ, GRANT_READ and GRANT_WRITE (R257, R365, R375, R376, R386, R388). That BBOX_READ of a die that does
not run in minimal mode ends with MINIMAL is read from R375 and R384 (log 93). -/
def ManagementCommands : Prop :=
  ∀ (s : State),
    let w := s.mgmtWord 0 / 2 ^ 8 % 64
    let w1 := s.mgmtWord 1
    let a := s.assayer
    (Started s 0x20 → Gives .startStatus s fun t => Ends s t 0 (leBytes 4 ((if a.minimal then 2 ^ 31 else 0) + a.minDie % 4 * 2 ^ 26 +
      a.fwImage % 4 * 2 ^ 24 + a.lastReason % 256 * 2 ^ 16 + a.reason % 256 * 2 ^ 8 + min a.fails 255)) ∧ { t with mgmt := s.mgmt } = s) ∧
    (Started s 0x40 →
      (1000 ≤ w1 → w1 ≤ 3200 → Gives .powerCap s fun t => Ends s t 0 [] ∧ t.assayer = { a with cap := w1 } ∧
        { t with mgmt := s.mgmt, assayer := a } = s) ∧
      ((w1 < 1000 ∨ 3200 < w1) → Gives .powerCap s fun t => Ends s t 1 [] ∧ { t with mgmt := s.mgmt } = s)) ∧
    (Started s 0x30 → w1 < 4 → 1 ≤ s.mgmtWord 3 → s.mgmtWord 3 ≤ 128 → a.minimal = true → w1 ≠ a.minDie →
      Gives .bboxRead s fun t => Ends s t 2 [] ∧ { t with mgmt := s.mgmt } = s) ∧
    (Started s 0x30 → w1 < 4 → 1 ≤ s.mgmtWord 3 → s.mgmtWord 3 ≤ 128 → ¬ (a.minimal = true ∧ w1 ≠ a.minDie) → Gives .bboxRead s fun t => { t with mgmt := s.mgmt } = s ∧
      ∃ d, Ends s t 0 d ∧ d.length = 32 * s.mgmtWord 3 ∧
      ∀ k n x, let b := a.boxes.getD w1 {}
        k < s.mgmtWord 3 → n < b.next → b.next ≤ n + 2048 → b.events.length = min b.next 2048 →
        n % 2048 = (s.mgmtWord 2 + k) % 2048 → b.events[b.next - 1 - n]? = some x → x.data.length = 16 →
        (d.drop (32 * k)).take 32 = leBytes 8 x.time.toNat ++ leBytes 4 x.starts.toNat ++ leBytes 1 x.code ++ leBytes 1 x.world ++
          leBytes 2 x.unit ++ x.data) ∧
    (let g := w1 / 2 ^ 24 % 256
     let x := s.grant w g
     (Started s 0x51 → g ≠ 0 → Gives .grantRead s fun t => { t with mgmt := s.mgmt } = s ∧
       Ends s t 0 (leBytes 4 ((if x.gv then 1 else 0) + 2 ^ 4 * x.perm.toNat + (if x.closing then 2 ^ 8 else 0) +
         (if x.declass then 2 ^ 9 else 0) + 2 ^ 10 * x.owner) ++ leBytes 4 x.first ++ leBytes 4 x.nframes ++ leBytes 4 x.uses)) ∧
     (Started s 0x50 →
       let new : Grant := { gv := w1.testBit 0, perm := BitVec.ofNat 4 (w1 / 2 ^ 4), closing := w1.testBit 8, declass := w1.testBit 9
                            owner := w1 / 2 ^ 10 % 64, first := s.mgmtWord 2, nframes := s.mgmtWord 3, uses := x.uses }
       let badcmd := g = 0 ∨ w1 / 2 ^ 16 % 256 ≠ 0 ∨ w1 / 2 % 8 ≠ 0 ∨ (new.gv = true ∧ new.nframes = 0)
       let inuse := x.uses ≠ 0 ∧ { new with closing := x.closing } ≠ x
       let isLocked := (s.world w).tdi = .locked ∨ (s.world w).tdi = .run
       (badcmd → Gives .grantWrite s fun t => Ends s t 1 [] ∧ { t with mgmt := s.mgmt } = s) ∧
       (¬ badcmd → inuse → Gives .grantWrite s fun t => Ends s t 5 [] ∧ { t with mgmt := s.mgmt } = s) ∧
       (¬ badcmd → ¬ inuse → isLocked → Gives .grantWrite s fun t => Ends s t 6 [] ∧ t.grant w g = x ∧
         (new = x → { t with mgmt := s.mgmt } = s) ∧ (new ≠ x → (t.world w).tdi = .error)) ∧
       (¬ badcmd → ¬ inuse → ¬ isLocked → Gives .grantWrite s fun t => t.grant w g = new ∧
         (∀ k, k ≠ g → t.grant w k = s.grant w k) ∧ (∀ k, k ≠ w → t.world k = s.world k) ∧
         (new.closing = false → Ends s t 0 []) ∧
         (new.closing = true → t.mgmt = s.mgmt ∧ ∃ id p, t.purges.find? id = some p ∧ p.world = w ∧ p.what = .grant g ∧
           p.after = .management ∧ p.caches = cachesOf s w))))

/-- CTX_FLIP (R374): the byte of a SAVED world's image slot, or the refusal of the first check that fails. -/
def ImageFlips : Prop :=
  ∀ (s : State), Started s 0x31 →
    let w0 := s.mgmtWord 0
    let w := w0 / 2 ^ 8 % 64
    let x := s.world w
    let off := s.mgmtWord 1
    let mask := s.mgmtWord 2
    let key := physKey ((x.wctx + w0 / 2 ^ 16 % 2 * (x.wctxn / 2)) * 2 ^ 16 + off)
    let badcmd := w = 0 ∨ w0 / 2 ^ 17 ≠ 0 ∨ w0 / 2 ^ 14 % 4 ≠ 0 ∨ 256 ≤ mask
    let refuses := fun (n : Nat) => Gives .ctxFlip s fun t => Ends s t n [] ∧ { t with mgmt := s.mgmt } = s
    (badcmd → refuses 1) ∧ (¬ badcmd → x.tdi ≠ .unlocked → refuses 6) ∧ (¬ badcmd → x.tdi = .unlocked → x.stat ≠ 4 → refuses 7) ∧
    (¬ badcmd → x.tdi = .unlocked → x.stat = 4 → x.wctxn / 2 * 2 ^ 16 ≤ off → refuses 8) ∧
    (¬ badcmd → x.tdi = .unlocked → x.stat = 4 → off < x.wctxn / 2 * 2 ^ 16 → Gives .ctxFlip s fun t => Ends s t 0 [] ∧
      t.mem.read key = s.mem.read key ^^^ BitVec.ofNat 8 mask ∧ (∀ a, a ≠ key → t.mem.read a = s.mem.read a) ∧
      t.worlds = s.worlds ∧ t.threads = s.threads ∧
      Notes s t (let f := (x.wctx + w0 / 2 ^ 16 % 2 * (x.wctxn / 2)) + off / 2 ^ 16
        if 0x20000000 ≤ f ∧ f < 0x24000000 then s.assayer.minDie else f / 549316 / 3) 6 w 0 (leBytes 4 off ++ leBytes 4 mask ++ List.replicate 8 0))

/-- METERING_INTERVAL (R377 to R379): once 1 ms has passed, whatever the clock (R19), the shares of the worlds sum to the energy of the interval
exactly, no counter falls, and the next interval begins; before that nothing changes. -/
def EnergyIsConserved : Prop :=
  ∀ (s : State) (m : Measure),
    let passed := 2450448000000 ≤ s.span - s.assayer.intervalSpan
    (passed → (∀ e ∈ m.quads, e.1 < 256) → (∀ w, w < 64 → (s.world w).energy.counter + m.total < 2 ^ 64) →
      Gives (.meteringInterval m) s fun t =>
        ((List.range 64).map fun w => (t.world w).energy.counter).sum =
          ((List.range 64).map fun w => (s.world w).energy.counter).sum + m.total ∧
        (∀ w, w < 64 → (s.world w).energy.counter ≤ (t.world w).energy.counter) ∧
        (∀ w, { t.world w with energy := (s.world w).energy } = s.world w) ∧ t.mem = s.mem ∧ t.threads = s.threads ∧
        t.assayer.intervalStart = s.time ∧ t.assayer.intervalSpan = s.span ∧ t.assayer.held = [] ∧ t.assayer.hbm = [] ∧ t.fabric = { s.fabric with flits := [] }) ∧
    (¬ passed → Gives (.meteringInterval m) s fun t => t = s)

/-- METER_CHECKPOINT (R381): once 60 s have passed since the last one, flash takes the digest, the COUNTER field and the number of each
world's latest record. THROTTLE (R389): over the cap or at 105 °C the clock falls by one step of 0.2 GHz; from 115 °C on it is the fatal
error of a junction trip (R387). -/
def CheckpointsAndThrottles : Prop :=
  ∀ (s : State),
    let passed := 60000 * 2450448000000 ≤ s.span - s.assayer.checkpoint
    (s.assayer.entered = false → passed → Gives .meterCheckpoint s fun t => { t with worlds := s.worlds, assayer := s.assayer } = s ∧
      t.assayer = { s.assayer with checkpoint := s.span } ∧
      ∀ w, w < 64 → (t.world w).energy.stored = (match (s.world w).energy.last with
        | some r => some (sha256 r, leValue ((r.drop 16).take 8), (s.world w).energy.seq, false)
        | none => (s.world w).energy.stored) ∧ (t.world w).energy.counter = (s.world w).energy.counter) ∧
    (s.assayer.entered = true ∨ ¬ passed → Gives .meterCheckpoint s fun t => t = s) ∧
    ∀ watts junction,
      (junction < 115 → (s.assayer.cap < watts ∨ 105 ≤ junction) → 2 ≤ s.assayer.clock →
        Gives (.throttle watts junction) s fun t => t.assayer.clock + 1 = s.assayer.clock ∧ { t with assayer := s.assayer } = s ∧
          Notes s t s.assayer.minDie 8 0 0 (List.replicate 16 0)) ∧
      (junction < 105 → watts ≤ s.assayer.cap → Gives (.throttle watts junction) s fun t => t = s) ∧
      (115 ≤ junction → exec (.throttle watts junction) s = exec (.fatalError .junctionTrip) s)

/-! ## Resets (R367, R368, R381 to R387, R400) -/

/-- A package that a reset has emptied (R385): no thread, launch, operation or mapping; every HBM and near byte 0; every world IDLE and
unlocked. -/
structure Emptied (t : State) : Prop where
  threads  : t.threads = [] ∧ t.bundles = [] ∧ t.teams = [] ∧ t.groups = [] ∧ t.launches = [] ∧ t.clusters = [] ∧ t.cores = []
  requests : t.ladles = [] ∧ t.requests = [] ∧ t.services = [] ∧ t.purges = [] ∧ t.refs = [] ∧ t.ranges = []
  stores   : t.lines = [] ∧ t.frames = [] ∧ t.quads = [] ∧ t.bad = [] ∧ ∀ a, (a < 2 ^ 64 ∨ 2 ^ 65 ≤ a) → t.mem.read a = 0
  idle     : ∀ w, w < 64 → (t.world w).stat = 0 ∧ (t.world w).tdi = .unlocked ∧ (t.world w).spdm = .none
  window   : t.mgmt.go = false ∧ t.assayer.cap = 3200

/-- A package that a cold reset has cleared: every world's registers have their reset values too (R6), without root, quads, handler, queues
and grants. -/
structure Cleared (t : State) : Prop where
  emptied : Emptied t
  worlds  : ∀ w, (t.world w).stat = 0 ∧ (t.world w).hasRoot = false ∧ (t.world w).quads = 0 ∧ (t.world w).tdi = .unlocked ∧
    (t.world w).spdm = .none ∧ (t.world w).handler = 0 ∧ (t.world w).queues = [] ∧ (t.world w).grants = []

/-- What a warm reset leaves of a world's registers: as its function's reset leaves them (R368, R385), since R6 gives reset values for a cold
reset alone (log 70): RESULT says CTX_RESET where the world was halting or saving, its queues are stopped, its ranks lost. -/
structure Kept (s t : State) (w : Nat) : Prop where
  root    : (t.world w).root = (s.world w).root ∧ (t.world w).hasRoot = (s.world w).hasRoot
  quads   : (s.world w).tdi = .unlocked → (t.world w).quads = (s.world w).quads
  windows : (t.world w).handler = (s.world w).handler ∧ (t.world w).srbase = (s.world w).srbase ∧ (t.world w).flbase = (s.world w).flbase ∧
    (t.world w).wctx = (s.world w).wctx ∧ (t.world w).wctxn = (s.world w).wctxn
  result  : ((s.world w).stat = 2 ∨ (s.world w).stat = 3) → (t.world w).result = 4
  queues  : ∀ q, q < 64 → (t.cmdQueue w q).stopped = true
  ranks   : ∀ r, rankIsLost (t.rankEntry w r) = true

/-- COLD_RESET and WARM_RESET (R381 to R386): a cold one clears the registers, a warm one keeps them as the functions' resets leave them; the
incarnation of every function advances (R367); the running interval ends; reason 0 clears FAILS and makes a FIRST record for each world
that flash names, next in its chain, with GAP clear after the FINAL; a failure is counted, and no port is live. Three failures before
bring minimal mode. -/
def PackageResets : Prop :=
  ∀ (s : State) (reason : Nat) (cold : Bool),
    let i := if cold then Instr.coldReset reason else Instr.warmReset reason
    let ok := reason % 8 = 0
    Gives i s fun t => Emptied t ∧ (cold = true → Cleared t) ∧ (cold = false → ∀ w, w < 64 → Kept s t w) ∧
      (∀ w, w < 64 → (t.world w).inc = (s.world w).inc + 1) ∧ t.assayer.starts = s.assayer.starts + 1 ∧
      t.time = (if cold then 0 else s.time) ∧ t.assayer.reason = reason % 8 ∧
      t.assayer.fails = (if ok then 0 else min 255 (s.assayer.fails + 1)) ∧
      (t.assayer.minimal = true ↔ 3 ≤ s.assayer.fails) ∧ (t.assayer.entered = true ↔ ¬ ok) ∧
      ((¬ ok ∨ 3 ≤ s.assayer.fails) → ∀ p, p < 36 → p ∈ t.fabric.dead) ∧ (ok → s.assayer.fails < 3 → t.fabric.dead = []) ∧
      (∀ w, w < 64 → (t.world w).saves = (s.world w).saves) ∧
      (s.assayer.entered = true → ∀ w, w < 64 → (t.world w).energy.final = (s.world w).energy.final) ∧
      ∀ w r, w < 64 → (s.world w).energy.last = some r → (s.world w).energy.counter < 2 ^ 64 → s.assayer.entered = false → ok →
        let e := (s.world w).energy
        ∃ counter scaled, e.counter ≤ counter ∧ (e.scaled = true → scaled = true) ∧
          let final := hallmark s w 2 (e.seq + 1) counter (if scaled then 4 else 0) (sha256 r)
          (∃ sig, sig.length = 2828 ∧ (t.world w).energy.final = some (final ++ sig)) ∧
          (t.world w).energy.seq = e.seq + 2 ∧ (t.world w).energy.counter = counter ∧
          (t.world w).energy.last = some (hallmark { s with assayer := t.assayer } w 3 (e.seq + 2) counter
            (if 3 ≤ s.assayer.fails then 2 else 0) (sha256 final))

/-- FATAL_ERROR keeps the black boxes in flash, START_RETRY clears FAILS so that the next start is a full one, and each is a cold reset
(R384, R385, R387), whose outcome no event gives and the model leaves free; after POWER_LOSS only flash and host memory remain, and no
FINAL record was made (R382, R385). -/
def OtherPackageResets : Prop :=
  ∀ (s : State),
    (∀ f, Gives (.fatalError f) s fun t => Cleared t ∧ t.assayer.starts = s.assayer.starts + 1 ∧ t.time = 0 ∧
      t.assayer.savedBoxes = s.assayer.boxes) ∧
    (Started s 0x21 → Gives .startRetry s fun t => Cleared t ∧ t.assayer.starts = s.assayer.starts + 1 ∧ t.time = 0 ∧
      t.assayer.minimal = false ∧ t.assayer.fails ≤ 1) ∧
    Gives .powerLoss s fun t => Cleared t ∧ t.time = 0 ∧ t.assayer.starts = s.assayer.starts ∧
      t.assayer.fails = s.assayer.fails ∧ t.assayer.boxes = [] ∧
      (∀ w, (t.world w).energy.final = none ∧ (t.world w).energy.last = none ∧
        (t.world w).energy.stored = (s.world w).energy.stored) ∧
      (SMap.wf s.mem = true → ∀ a, 2 ^ 64 ≤ a → a < 2 ^ 65 → t.mem.read a = s.mem.read a)

/-- FUNCTION_RESET of a virtual function (R367, R368, R400): its incarnation advances and is announced to every reached node, all its ranks
are lost, its teams end, its queues stop, its interface is unlocked; a world that is halting or saving comes to SAVED or IDLE with
CTX_RESET, a RESTORING one to SAVED again. -/
def FunctionResets : Prop :=
  ∀ (s : State) (w : Nat), 0 < w → w < 64 → Gives (.functionReset w) s fun t =>
    (t.world w).inc = (s.world w).inc + 1 ∧ (t.world w).tdi = .unlocked ∧ (t.world w).saves = (s.world w).saves ∧
    ((s.world w).stat = 5 → (t.world w).stat = 4) ∧ ((s.world w).stat = 4 → (t.world w).stat = 4) ∧
    ((s.world w).stat ≤ 1 → (t.world w).stat = (s.world w).stat) ∧
    (((s.world w).stat = 2 ∨ (s.world w).stat = 3) → (t.world w).result = 4 ∧ ((t.world w).stat = 4 ∨ (t.world w).stat = 0)) ∧
    (∀ r, rankIsLost (t.rankEntry w r) = true) ∧
    (∀ n ∈ reachedNodes s, n < 2 ^ 12 → ∃ e ∈ t.fabric.sent, e.1 ∈ livePorts s n ∧ e.2.op = 8 ∧ e.2.vf = 3 ∧ e.2.dst.toNat = n ∧
      e.2.sworld.toNat = w ∧ e.2.inc = (s.world w).inc + 1) ∧
    (∀ x tm, s.teams.find? x = some tm → tm.world = w → tm.ended = false → ((s.world w).stat ≠ 4 ∧ (s.world w).stat ≠ 5) →
      (t.team x).killed.isSome = true) ∧
    (∀ q, q < 64 → (t.cmdQueue w q).stopped = true) ∧
    ∀ k, k ≠ w → (t.world k).tdi = (s.world k).tdi ∧ (t.world k).stat = (s.world k).stat

/-! ## Sessions and interfaces (R363 to R366) -/

/-- Where a message takes a function's SPDM connection, and where it is answered with an error. The order of the states is the model's, from
SPDM itself. -/
def spdmNext (i : Instr) (x : Spdm) : Option Spdm :=
  match i with
  | .getVersion _ => some .version
  | .getCapabilities _ => if x = .version then some .capabilities else none
  | .negotiateAlgorithms _ => if x = .capabilities then some .negotiated else none
  | .keyExchange _ => if x = .negotiated then some .handshake else none
  | .finish _ => if x = .handshake then some .secure else none
  | .endSession _ => if x = .secure then some .negotiated else none
  | _ => none

/-- The messages of an SPDM connection. -/
def spdmWorld : Instr → Option Nat
  | .getVersion w => some w
  | .getCapabilities w => some w
  | .negotiateAlgorithms w => some w
  | .keyExchange w => some w
  | .finish w => some w
  | .endSession w => some w
  | _ => none

/-- A hallmark given: a statement with a signature of which the model says nothing but its length (R363, R380); nothing else changes but
the model's count of free values. -/
def HallmarkGiven (s t : State) (w : Nat) (b : List Byte) : Prop :=
  ∃ sig, sig.length = 2828 ∧ t = { s with doe := (w, .payload (b ++ sig)) :: s.doe, freeCount := s.freeCount + 1 }

/-- The messages of R363, answered or turned away; nothing but the connection and the answer changes. The measurements come as a hallmark
once the algorithms are agreed, and within a secure session as a vendor-defined answer; which vendor-defined request asks for what is
the model's choice (log 68). -/
def SpdmMessages : Prop :=
  ∀ (s : State) (w : Nat), w < 64 →
    let refuses := fun (i : Instr) => Gives i s fun t => t = { s with doe := (w, .error) :: s.doe }
    let agreed := (s.world w).spdm = .negotiated ∨ (s.world w).spdm = .handshake ∨ (s.world w).spdm = .secure
    (∀ i, spdmWorld i = some w →
      Gives i s fun t => { t with worlds := s.worlds, doe := s.doe } = s ∧ (∀ k, k ≠ w → t.world k = s.world k) ∧
        match spdmNext i (s.world w).spdm with
        | some x => t.world w = { s.world w with spdm := x } ∧ t.doe = (w, .done) :: s.doe
        | none => t.world w = s.world w ∧ t.doe = (w, .error) :: s.doe) ∧
    (agreed → Gives (.getMeasurements w) s fun t => HallmarkGiven s t w (Config.measurements s.assayer.starts)) ∧
    (¬ agreed → refuses (.getMeasurements w)) ∧
    ((s.world w).spdm = .secure →
      (Gives (.vendorDefinedRequest w 1) s fun t => HallmarkGiven s t w (Config.measurements s.assayer.starts)) ∧
      exec (.vendorDefinedRequest w 2) s = exec (.getDeviceInterfaceReport w) s ∧ ∀ k, 3 ≤ k → refuses (.vendorDefinedRequest w k)) ∧
    ((s.world w).spdm ≠ .secure → ∀ k, refuses (.vendorDefinedRequest w k))

/-- The table of R364: a message in a state that it is listed for, within a secure session; in every other one the answer is an error and
nothing changes. The interface report is a hallmark; its layout is the model's own (log 69). -/
def InterfaceMessages : Prop :=
  ∀ (s : State) (w : Nat) (nonce : BitVec 256), w < 64 →
    let x := s.world w
    let secure := w ≠ 0 ∧ x.spdm = .secure
    let refuses := fun (i : Instr) => Gives i s fun t => t = { s with doe := (w, .error) :: s.doe }
    (secure → x.tdi = .unlocked → Gives (.lockInterfaceRequest w nonce) s fun t =>
      t.world w = { x with tdi := .locked, nonce := nonce } ∧ (∀ k, k ≠ w → t.world k = s.world k) ∧
      t.doe = (w, .done) :: s.doe ∧ { t with worlds := s.worlds, doe := s.doe } = s) ∧
    (¬ (secure ∧ x.tdi = .unlocked) → refuses (.lockInterfaceRequest w nonce)) ∧
    (secure → x.tdi = .locked → Gives (.startInterfaceRequest w) s fun t =>
      t.world w = { x with tdi := .run } ∧ (∀ k, k ≠ w → t.world k = s.world k) ∧
      t.doe = (w, .done) :: s.doe ∧ { t with worlds := s.worlds, doe := s.doe } = s) ∧
    (¬ (secure ∧ x.tdi = .locked) → refuses (.startInterfaceRequest w) ∧ refuses (.getDeviceInterfaceReport w)) ∧
    (secure → x.tdi = .locked → Gives (.getDeviceInterfaceReport w) s fun t => HallmarkGiven s t w (leBytes 4 0x40000 ++ leBytes 4 1 ++
      leBytes 4 x.root ++ leBytes 32 x.quads.toNat ++ leBytes 4 x.wctx ++ leBytes 4 x.wctxn ++ leBytes 4 (if x.isSealed then 1 else 0) ++
      sha256 ((List.range 255).flatMap fun k => (x.grants.getD (k + 1) noGrant).bytes) ++ leBytes 32 x.nonce.toNat)) ∧
    (secure → x.tdi ≠ .unlocked → Gives (.stopInterfaceRequest w) s fun t => (t.world w).tdi = .unlocked ∧ (t.world w).quads = 0 ∧
      (t.world w).epoch = x.epoch + 1 ∧ (t.world w).root = x.root ∧ t.frames = s.frames ∧
      (∀ k tm, s.teams.find? k = some tm → tm.world = w → tm.ended = false → (t.team k).killed.isSome = true) ∧
      t.doe = (w, .done) :: s.doe) ∧
    (¬ (secure ∧ x.tdi ≠ .unlocked) → refuses (.stopInterfaceRequest w)) ∧
    ((x.tdi = .locked ∨ x.tdi = .run) → Gives (.ideIntegrityFailure w) s fun t => (t.world w).tdi = .error ∧
      ∀ k tm, s.teams.find? k = some tm → tm.world = w → tm.ended = false → (t.team k).killed.isSome = true) ∧
    (x.tdi ≠ .locked → x.tdi ≠ .run → Gives (.ideIntegrityFailure w) s fun t => t = s)

/-! ## The die network and the fabric (R343, R358, R360, R391 to R405) -/

/-- An unpinned error of a world (R198, R336): its launches and their queues stop, and an interface that is locked or runs fails. -/
def Unpins (s t : State) (w : Nat) : Prop :=
  (∀ l x, s.launches.find? l = some x → x.world = w → x.complete = false → (t.launch l).stopped = true ∧
    (t.cmdQueue w x.queue).stopped = true) ∧
  (((s.world w).tdi = .locked ∨ (s.world w).tdi = .run) → (t.world w).tdi = .error)

/-- NETWORK_PACKET_RECEIVE and PORT_KEY_ROTATION (R358, R360): a packet of an open flow, or of a new one under its port's latest key, which
rotates first where it has carried the flow's number. A failed tag is tried again up to three times and is then an unpinned error of the
world with event 3; open flows keep their keys. That the last packet of a flow is named, and how its retries are counted, is the model's
choice (log 92). -/
def NetworkPackets : Prop :=
  ∀ (s : State) (w src dst number seq : Nat) (isLast : Bool),
    let n := (dst * 64 + w) * 2 ^ 48 + number % 2 ^ 48
    let k := s.portKeys.getD src {}
    let used := s.flows.find? fun f => f.world = w && f.src = src && f.dst = dst && f.number = number
    let gen := if n ∈ k.used then k.gen + 1 else k.gen
    let f := used.getD ⟨w, src, dst, number, gen, []⟩
    let tries := f.retries.getD seq 0
    let kept := fun (t : State) => { t with flows := s.flows, portKeys := s.portKeys } = s ∧ (∀ x ∈ s.flows, x ≠ f → x ∈ t.flows) ∧
      (used.isSome = true → t.portKeys = s.portKeys) ∧
      (used = none → (t.portKeys.getD src {}).gen = gen ∧ n ∈ (t.portKeys.getD src {}).used)
    Gives (.networkPacketReceive w dst ⟨src, number, seq, isLast⟩ true) s (fun t => kept t ∧
      (isLast = true → f ∉ t.flows) ∧ (isLast = false → { f with retries := f.retries.erase seq } ∈ t.flows)) ∧
    (tries < 3 → Gives (.networkPacketReceive w dst ⟨src, number, seq, isLast⟩ false) s fun t =>
      kept t ∧ { f with retries := f.retries.insert seq (tries + 1) } ∈ t.flows) ∧
    (3 ≤ tries → Gives (.networkPacketReceive w dst ⟨src, number, seq, isLast⟩ false) s fun t => Unpins s t w ∧
      ((∀ e ∈ s.launches, e.2.world = w → e.2.complete = true) → (s.world w).tdi ≠ .locked → (s.world w).tdi ≠ .run →
        Notes s t (dst / 2 ^ 8 % 4) 3 w (dst % 2 ^ 8 * 2 ^ 8) (List.replicate 16 0))) ∧
    Gives (.portKeyRotation src) s (fun t => t.portKeys.getD src {} = ⟨k.gen + 1, []⟩ ∧ t.flows = s.flows ∧
      { t with portKeys := s.portKeys } = s)

/-- How often the tag of a packet of a source node and world with a flow number has failed. -/
def tagFailures (f : Fabric) (p : Packet) : Nat :=
  ((f.retries.find? fun e => e.1 == (p.src.toNat * 64 + p.sworld.toNat, p.seq)).map (·.2)).getD 0

/-- BRAZE_PACKET_RECEIVE (R392, R393, R396, R401) at a live port: a packet for another node is forwarded on a port of its route as it came; one
that this package's checks pass is taken in; a bad tag is counted and, after three, an unpinned error of the world; one that fails a
check is dropped, counted, and rejected on VF3, unless it is a reject itself: the reject goes to the package and the world that issued the
operation, for an answer those that it was for, where that is this one it is taken at once. The answer to a segment's read gives it its bytes, at the
places of its pieces (R398). -/
def FabricPackets : Prop :=
  ∀ (s : State) (port : Nat) (p : Packet), port < 36 → port ∉ s.fabric.dead →
    let f := s.fabric
    let here := p.dst.toNat = f.node
    let key := fun (w : Nat) => (s.world w).wfab.toNat % 2 ^ 16
    let names := fun (e : DWord) => e.getLsbD 63 = true ∧ e.toNat % 2 ^ 12 = p.src.toNat ∧ e.toNat / 2 ^ 32 % 64 = p.sworld.toNat
    let enters := (p.pkey = 0xFFFF ∧ p.vf = 3) ∨ (∃ w, w < 64 ∧ key w = p.pkey.toNat) ∨
      ∃ w, w < 64 ∧ ∃ e ∈ (s.world w).ranks, e.2.getLsbD 63 = true ∧ e.2.toNat / 2 ^ 40 % 2 ^ 16 = p.pkey.toNat
    let ranked := fun (lost : Bool) => ∃ e ∈ (s.world p.dworld.toNat).ranks, names e.2 ∧ e.2.getLsbD 62 = lost
    let stale := ∃ i, f.downs.find? (p.src.toNat * 64 + p.sworld.toNat) = some i ∧ p.inc ≠ i ∧ (i - p.inc).toNat < 16
    let accepted := ¬ stale ∧ if 7 ≤ p.op.toNat then p.pkey = 0xFFFF ∧ p.vf = 3 else key p.dworld.toNat = p.pkey.toNat ∧ ranked false
    let fails := fun (ok : Bool) => ¬ enters ∨ (here ∧ ok = true ∧ ¬ accepted) ∨ (¬ here ∧ stale)
    let counted := fun (t : State) => t.fabric.drops.getD port 0 = min (f.drops.getD port 0 + 1) (2 ^ 32 - 1)
    let isReply := p.op = 2 ∨ p.op = 4 ∨ p.op = 6
    let back : BitVec 12 × BitVec 6 := if isReply then (p.dst, p.dworld) else (p.src, p.sworld)
    let status : List Byte := if (here ∧ ranked true) ∨ stale then [4] else [5]
    let arrived := { s with fabric := { f with
      flits := f.flits.insert (port * 64 + p.dworld.toNat) (f.flits.getD (port * 64 + p.dworld.toNat) 0 + 1) } }
    (enters → ¬ here → ¬ stale → p.dst.toNat ∈ reachedNodes s → ∀ ok, Gives (.brazePacketReceive port p ok) s fun t =>
      (∃ k ∈ livePorts s p.dst.toNat, t.fabric.sent = (k, p) :: f.sent) ∧ { t with fabric := f, freeCount := s.freeCount } = s) ∧
    (enters → here → Gives (.brazePacketReceive port p false) s fun t =>
      t.fabric.badTags.getD port 0 = min (f.badTags.getD port 0 + 1) (2 ^ 32 - 1) ∧
      (tagFailures f p < 3 → tagFailures t.fabric p = tagFailures f p + 1 ∧ { t with fabric := f } = s) ∧
      (3 ≤ tagFailures f p → Unpins s t p.dworld.toNat)) ∧
    (∀ ok, fails ok → p.op ≠ 7 → back.1.toNat ∈ reachedNodes s → Gives (.brazePacketReceive port p ok) s fun t => counted t ∧
      { t with fabric := f, freeCount := s.freeCount } = s ∧
      ∃ r, PacketLeaves s t r ∧ r.op = 7 ∧ r.vf = 3 ∧ r.dst = back.1 ∧ r.dworld = back.2 ∧ r.reqid = p.reqid ∧ r.payload = status) ∧
    (∀ ok, fails ok → isReply → here → ∃ r, r.reqid = p.reqid ∧ r.payload = status ∧ exec (.brazePacketReceive port p ok) s =
      exec (.reject r) { arrived with fabric := { arrived.fabric with
        drops := f.drops.insert port (min (f.drops.getD port 0 + 1) (2 ^ 32 - 1)) } }) ∧
    (∀ ok, fails ok → p.op = 7 → Gives (.brazePacketReceive port p ok) s fun t => counted t ∧ t.fabric.sent = f.sent ∧
      { t with fabric := f } = s) ∧
    (here → accepted → enters →
      ((p.op = 1 ∨ p.op = 3 ∨ p.op = 5) → Gives (.brazePacketReceive port p true) s fun t =>
        (∃ id, t.fabric.inbox.find? id = some ⟨p, false⟩) ∧ { t with fabric := f, nextId := s.nextId } = s) ∧
      (p.op = 2 → ∀ op n o g, segmentOf s p.reqid = some (op, n) → s.ladles.find? op = some o → o.segs.find? n = some g →
        g.state = .remote → readsRemotely g = true → Gives (.brazePacketReceive port p true) s fun t =>
          (t.ladles.find? op).bind (fun o => o.segs.find? n) = some { g with
            state := .started (placeBytes g.pieces p.payload), tag := g.tag.join ⟨p.grade, p.poison⟩ } ∧
          t.mem = s.mem ∧ t.threads = s.threads) ∧
      (p.op = 7 → exec (.brazePacketReceive port p true) s = exec (.reject p) arrived) ∧
      (p.op = 8 → exec (.brazePacketReceive port p true) s = exec (.rankDown p.src.toNat p.sworld.toNat p.inc) arrived) ∧
      (p.op = 9 → exec (.brazePacketReceive port p true) s = exec (.fabricPurge p.src.toNat p.sworld.toNat) arrived))

/-- REMOTE_ACCESS (R343, R395, R398): a request performed once, at a page that R262 admits and whose SCOPE is FABRIC or SYSTEM; a read is answered
with its data and the page's grade, a write with an acknowledgement after its bytes; one that the translation refuses with a reject. One
that has been performed before is answered again, and nothing else. Stated of a request of one run of bytes; how a packet names the
runs of several rows of a tile is the model's own (log 112). -/
def RemoteAccesses : Prop :=
  ∀ (s : State) (n : Nat) (m : Incoming), s.fabric.inbox.find? n = some m → (m.packet.op = 1 ∨ m.packet.op = 3) → m.packet.rows = [] →
    let p := m.packet
    let w := p.dworld.toNat
    let acc : Access := if p.op = 1 then .read else .write
    let page := (accessIn s (.fab w) w p.addr.toNat acc true).1
    let answers := fun (t : State) (op : BitVec 8) (b : List Byte) => ∃ r, PacketLeaves s t r ∧ r.op = op ∧ r.vf = 3 ∧ r.dst = p.src ∧
      r.reqid = p.reqid ∧ r.payload = b ∧ recorded t p = some r ∧ t.fabric.inbox.find? n = none
    (∀ a, recorded s p = some a → a.dst.toNat ∈ reachedNodes s → Gives (.remoteAccess n) s fun t => PacketLeaves s t a ∧
      { t with fabric := s.fabric, freeCount := s.freeCount } = s) ∧
    (recorded s p = none → (p.op = 3 → p.len = p.payload.length) → (m.loop = false ∨ worldAccepts s p = true) → writePending s p = false → p.src.toNat ∈ reachedNodes s →
      (∀ x, page = .ok x → 2 ≤ entScope x.leaf → p.addr.toNat % 2 ^ 16 + p.len ≤ 2 ^ 16 →
        let pa := x.phys p.addr.toNat
        (p.op = 1 → Gives (.remoteAccess n) s fun t => t.mem = s.mem ∧ t.threads = s.threads ∧
          ∃ r, PacketLeaves s t r ∧ r.op = 2 ∧ r.vf = 3 ∧ r.dst = p.src ∧ r.reqid = p.reqid ∧ recorded t p = some r ∧
            t.fabric.inbox.find? n = none ∧ r.payload = s.mem.readBytes (physKey pa) p.len ∧ r.grade = entGrade x.leaf ∧
            r.poison = isBad s (physKey pa) p.len) ∧
        (p.op = 3 → p.grade.toNat ≤ (entGrade x.leaf).toNat → isTableType (s.frame (pa / 2 ^ 16)).type = false →
          Gives (.remoteAccess n) s fun t => t.mem = s.mem.writeBytes (physKey pa) p.payload ∧ answers t 4 []) ∧
        (p.op = 3 → (entGrade x.leaf).toNat < p.grade.toNat → Gives (.remoteAccess n) s fun t => t.mem = s.mem ∧ answers t 7 [2])) ∧
      ((∃ e, page = .error e) ∨ (∃ x, page = .ok x ∧ entScope x.leaf < 2) →
        Gives (.remoteAccess n) s fun t => t.mem = s.mem ∧ answers t 7 [2]))

/-- RANK_DOWN, FABRIC_PURGE and REJECT (R396, R401, R405), a port that is lost or live again (R384, R398, R405), and a packet sent again
after its tag has failed at the other end, up to three times (R392); a request that no operation waits for any longer is not sent (R277). A RANK_DOWN of an older incarnation than the one taken is dropped,
counted and rejected (R401), at a port that the model leaves free (log 112). All segments of an
operation on a lost rank that wait fail at once: COUNT takes their bytes and STATUS RANK_LOST. -/
def FabricEvents : Prop :=
  ∀ (s : State) (node w : Nat) (inc : BitVec 5),
    let stale := ∃ i, s.fabric.downs.find? (node * 64 + w) = some i ∧ inc ≠ i ∧ (i - inc).toNat < 16
    (node < 2 ^ 12 → w < 64 → stale → Gives (.rankDown node w inc) s fun t => t.fabric.downs = s.fabric.downs ∧ t.worlds = s.worlds ∧
      t.ladles = s.ladles ∧ t.requests = s.requests ∧
      (∃ port, port < 36 ∧ t.fabric.drops.getD port 0 = min (s.fabric.drops.getD port 0 + 1) (2 ^ 32 - 1)) ∧
      (node ∈ reachedNodes s → ∃ r, PacketLeaves s t r ∧ r.op = 7 ∧ r.vf = 3 ∧ r.dst.toNat = node ∧ r.payload = [4])) ∧
    (node < 2 ^ 12 → w < 64 → ¬ stale → Gives (.rankDown node w inc) s fun t => t.fabric.downs.find? (node * 64 + w) = some inc ∧
      (∀ k r e, (s.world k).ranks.find? r = some e → (t.world k).ranks.find? r = some
        (if e.getLsbD 63 = true ∧ e.toNat % 2 ^ 12 = node ∧ e.toNat / 2 ^ 32 % 64 = w then e ||| 0x4000000000000000 else e)) ∧
      (∀ op o r o', s.ladles.find? op = some o → o.rank = some r → rankNames (s.rankEntry o.world r) node w = true →
        t.ladles.find? op = some o' → ∀ g ∈ o'.segs, g.2.replay = true) ∧
      ∀ op o r ck, s.ladles.find? op = some o → o.rank = some r → rankNames (s.rankEntry o.world r) node w = true →
        s.requests = [] → (∀ e ∈ s.ladles, ∀ x, e.2.rank = some x → rankNames (s.rankEntry e.2.world x) node w = true → e.1 = op) →
        SMap.wf o.segs = true → o.team.isSome = true → copyQueue s o.world op = none → o.counter = some ck → ck % 16 = 0 →
        o.tile = none → (∀ g ∈ o.segs, ∀ p ∈ g.2.pieces, ∀ k, p.dst = .near k → k / 128 ≠ ck / 128) →
        let left := o.segs.filter fun g => !g.2.replay
        left ≠ [] → Counts s t ck (left.map fun g => g.2.bytes).sum .rankLost ∧ (left = o.segs → t.ladles.find? op = none)) ∧
    (node ∈ reachedNodes s → node < 2 ^ 12 → Gives (.fabricPurge node w) s fun t =>
      t.fabric.cells = s.fabric.cells.filter (fun e => e.home ≠ node * 64 + w) ∧
      (∀ k, t.requests.find? k = (s.requests.find? k).map fun r =>
        if r.cellHome s = some (node * 64 + w) then { r with purged := true } else r) ∧
      { t with fabric := s.fabric, freeCount := s.freeCount, requests := s.requests } = s ∧ ∃ r, PacketLeaves s t r ∧ r.op = 10 ∧ r.vf = 3 ∧ r.dst.toNat = node) ∧
    (∀ (p : Packet) (op n : Nat) (o : Ladle) (g : Segment), s.ladles.find? op = some o →
      o.segs.find? n = some g → g.state = .remote → segmentOf s p.reqid = some (op, n) →
      (∀ e ∈ s.requests, e.2.reqid ≠ p.reqid) →
      ∀ st, (p.payload = [5] ∧ st = Status.pkey) ∨ (p.payload = [4] ∧ st = .rankLost) ∨ (p.payload = [2] ∧ st = .rangeFault) ∨
        (p.payload = [1] ∧ st = .tableRefused) →
      Gives (.reject p) s fun t => (t.ladles.find? op).bind (fun o => o.segs.find? n) = some { g with state := .failing st } ∧
        { t with ladles := s.ladles } = s) ∧
    (∀ port, port < 36 → s.purges = [] → port ∉ s.fabric.dead →
      let lost := { s with fabric := { s.fabric with dead := port :: s.fabric.dead } }
      (s.fabric.sent.filter (fun e => e.1 = port && unanswered s e.2) = [] → Gives (.brazePortLost port) s fun t => t = lost) ∧
      ∀ q, s.fabric.sent.filter (fun e => e.1 = port && unanswered s e.2) = [(port, q)] → q.dst.toNat ≠ s.fabric.node →
        livePorts lost q.dst.toNat ≠ [] → Gives (.brazePortLost port) s fun t => PacketLeaves lost t q ∧
          { t with fabric := s.fabric, freeCount := s.freeCount } = s ∧ t.fabric.dead = port :: s.fabric.dead) ∧
    ∀ port, (s.assayer.minimal = true ∨ s.assayer.reason = 1 → Gives (.brazePortLive port) s fun t => t = s) ∧
      (s.purges = [] → s.assayer.minimal = false → s.assayer.reason ≠ 1 →
        let live := { s with fabric := { s.fabric with dead := s.fabric.dead.filter (· ≠ port) } }
        (∀ q, s.fabric.unsent = [q] → stillDue s q = true → q.dst.toNat ≠ s.fabric.node → livePorts live q.dst.toNat ≠ [] →
          Gives (.brazePortLive port) s fun t => PacketLeaves live t q ∧ t.fabric.unsent = []) ∧
        (∀ q, s.fabric.unsent = [q] → stillDue s q = false →
          Gives (.brazePortLive port) s fun t => t.fabric.sent = s.fabric.sent ∧ t.fabric.unsent = []) ∧
        (s.fabric.unsent = [] → Gives (.brazePortLive port) s fun t =>
        port ∉ t.fabric.dead ∧ (∀ k, k ≠ port → (k ∈ t.fabric.dead ↔ k ∈ s.fabric.dead)) ∧
        { t with fabric := s.fabric, requests := s.requests } = s ∧
        let fresh := ∃ n ∈ reachedNodes t, n ∉ reachedNodes s
        (fresh → t.fabric.cells = [] ∧ ∀ k, t.requests.find? k = (s.requests.find? k).map fun r =>
          if (r.cellHome s).isSome then { r with purged := true } else r) ∧
        (¬ fresh → t.fabric.cells = s.fabric.cells ∧ t.requests = s.requests))) ∧
    ∀ n q, s.fabric.sent[n]? = some (port, q) → q.src.toNat = s.fabric.node → port ∉ s.fabric.dead →
      (stillDue s q = true → (s.fabric.sent.filter fun e => e.2 = q).length ≤ 3 → ∃ t, runTurn (.resend n) s = .next t ∧
        t.fabric.sent = (port, q) :: s.fabric.sent ∧ { t with fabric := s.fabric } = s) ∧
      ((stillDue s q = false ∨ 3 < (s.fabric.sent.filter fun e => e.2 = q).length) → runTurn (.resend n) s = .next s)

/-! ## Strike cells (R402 to R410) -/

/-- The row of R404 that an operation meets: its answer's code, generation and value, and the cell afterwards. -/
def cellRow (kind : Nat) (c : Cell) (g : Word) (v : DWord) (who : Nat) (mine : Bool) : (Nat × Word × DWord × Nat) × Cell :=
  let keeps := fun (code : Nat) (gen : Word) => ((code, gen, (0 : DWord), 0), c)
  if c.state ≠ 0 ∧ c.state ≠ 1 then keeps 4 0xFFFFFFFF
  else if kind = 2 ∧ mine = false then keeps 4 0xFFFFFFFF
  else if g < c.gen then keeps 2 c.gen
  else if c.gen < g then keeps 3 c.gen
  else match kind, c.state with
    | 0, 0 => ((0, g, v, who), ⟨v, g, 1, who⟩)
    | 0, _ => ((1, g, c.value, c.winner), c)
    | 1, 0 => keeps 5 g
    | 1, _ => ((1, g, c.value, c.winner), c)
    | _, 0 => keeps 5 g
    | _, _ => ((0, g, 0, 0), if g = 0xFFFFFFFF then { c with state := 2 } else ⟨0, g + 1, 0, 0⟩)

/-- The fields of a cell as its bytes (R402). -/
def CellIs (m : Memory) (key : Nat) (c : Cell) : Prop :=
  m.readLe key 8 = c.value.toNat ∧ m.readLe (key + 8) 4 = c.gen.toNat ∧ m.readLe (key + 12) 1 = c.state ∧ m.readLe (key + 13) 3 = c.winner

/-- CELL_OPERATION at the home of a local request, and CELL_ANSWER with what it left (R403, R404, R407): the cell takes the row's outcome, no
other byte changes, and the threads take the results. Of requests on one cell in one cc the least REQID comes first (R403). -/
def CellOperations : Prop :=
  ∀ (s : State) (req kind key : Nat) (r : Request) (named v : DWord) (g : Word) (grade : BitVec 2) (d : Reg) (tag : Tag) (x : Xlat)
    (c : Cell), s.requests.find? req = some r → r.asked = .cell kind none named key v g grade d tag (some x) → kind < 3 →
    r.replay = false → arrivedAnswer s r.reqid = none → CellIs s.mem key c → s.fabric.node < 2 ^ 12 → r.world < 64 →
    (∀ time last, s.cellTimes.find? key = some (time, last) → time ≠ s.time ∨ last.toNat ≤ r.reqid.toNat) →
    let who := (s.threadLaunch r.tid).rank % 2 ^ 12 * 2 ^ 12 + r.reqid.toNat / 2 ^ 48 % 2 ^ 10
    let row := cellRow kind c g v who (decide ((s.frame (keyFrame key)).owner = r.world))
    ∃ t, exec (.cellOperation req) s = .next t ∧ CellIs t.mem key row.2 ∧
      (∀ a, a < key ∨ key + 16 ≤ a → t.mem.read a = s.mem.read a) ∧ t.threads = s.threads ∧ t.requests = s.requests ∧
      ((∀ e ∈ s.fabric.inbox, e.1 < s.nextId) → Gives (.cellAnswer req) t fun t' =>
        let y : Tag := ⟨gradeMax tag.grade (entGrade x.leaf), tag.poison⟩
        Answered s t' req (if kind = 2 then .reg d (BitVec.ofNat 32 row.1.1) y 0 else
          .regs d [BitVec.ofNat 32 (row.1.1 + if kind = 1 ∧ row.1.1 = 1 then 256 * row.1.2.2.2 else 0), row.1.2.1,
            row.1.2.2.1.setWidth 32, row.1.2.2.1.extractLsb' 32 32] y) ∧ t'.mem = t.mem)

/-! ## The order of near accesses, and uncorrectable errors (R126, R165, R171 to R175, R180, R190, R275, R290) -/

/-- The units that make all visible that their thread has stored (R171, R172, R175, R207, R275, R304, R308, R408). -/
def releases : Instr → Bool
  | .fenceAr _ => true
  | .bsig _ _ _ => true
  | .qsend _ _ => true
  | .cprop _ _ _ _ => true
  | .fretype _ _ _ _ => true
  | .lcpIn _ _ _ _ => true
  | .lcpOut _ _ _ _ => true
  | .lcpx _ _ _ _ => true
  | .tld _ _ _ => true
  | .exit _ => true
  | .natom _ _ _ ord _ => ord = 2 ∨ ord = 3
  | .atom _ _ _ ord _ => ord = 2 ∨ ord = 3
  | _ => false

/-- The near accesses that acquire at the ranks up to that of their address (R290): an atomic with `.acq` or `.ar`, and a `bwait` whose
target is reached. -/
def acquires (s : State) (tid : Nat) (key : Nat) : Instr → Bool
  | .natom _ _ _ ord _ => ord = 1 ∨ ord = 3
  | .bwait _ _ b => ((s.thread tid).reg b).val.toNat + 2 ^ 32 * ((s.thread tid).reg (b + 1)).val.toNat ≤ found s key 8
  | _ => false

/-- A near key in the Bench of a thread's team (TEAM scope, rank 0); the pool and the Crucible have rank 1 (R288). -/
def inBench (s : State) (tid key : Nat) : Bool := key / 2 ^ 64 = (s.threadTeam tid).bench

/-- Whether an edge at the rank of `key` reaches the rank of `k`. -/
def reaches (s : State) (tid key k : Nat) : Bool := inBench s tid k || !inBench s tid key

/-- What the unit of a thread does, before it is executed, about the thread's near accesses that are out of their places, where no error is
undetected. A guarded-off unit does nothing (R51, R175). A releasing one makes all visible that the thread has stored. `fence.acq`
and `fence.ar` drop what was read ahead for it; `fence.rel` makes what it has stored in its Bench visible, and the rest
before its next store. A rendezvous instruction orders nothing (R165). A near access comes after the thread's own to the same bytes; one
that acquires drops what was read ahead at the ranks that it reaches, any other leaves late what shares no byte with it; so does `qrecv`
at every near rank. A plain access out of its place waits for nothing, but a store for those before a `fence.rel`. -/
def UnitsAreOrdered : Prop :=
  ∀ (s : State) (x : Bundle) (i : Instr) (tid : Nat), x.tids = [tid] → x.finished = [] → s.latent = [] →
    let after := orderBefore s x i false
    let mine := fun (e : LateStore) => decide (e.tid = tid)
    let rest := s.early.filter fun e => e.tid ≠ tid
    (actsIn s tid i = false → after = s) ∧
    (actsIn s tid i = true →
      (releases i = true → { after with early := s.early } = { drainLate s mine with early := s.early }) ∧
      (∀ c, i = .fenceAr c → after.early = (drainLate s mine).early.filter fun e => e.tid ≠ tid) ∧
      (∀ c, i = .fenceAcq c → after = { s with early := rest }) ∧
      (∀ c, i = .fenceRel c →
        let a := drainLate s fun e => mine e && inBench s tid e.key
        after = { a with late := a.late.map fun e => if mine e then { e with fenced := true } else e }) ∧
      (∀ m, maskOf i = some m → after = s) ∧
      (∀ y key, nearShape i = some y → releases i = false →
        NearOk s tid ((s.thread tid).reg y.base) (y.ea ((s.thread tid).reg y.base).val) y.size y.load key →
        (∀ e ∈ s.late, e.tid = tid → e.fenced = false ∧ e.meets key y.size = false) →
        after = { s with early := s.early.filter fun e =>
          !(e.tid = tid && (e.meets key y.size || (acquires s tid key i && reaches s tid key e.key))) }) ∧
      (∀ c d, i = .qrecv c d → after = if (s.threadTeam tid).queued = 0 then s else { s with early := rest }) ∧
      (∀ y, loadShape i = some y → i.ctl.k = false → orderBefore s x i true = s) ∧
      ∀ y, storeShape i = some y → i.ctl.k = false → orderBefore s x i true = drainLate s fun e => mine e && e.fenced)

/-- An uncorrectable error in near memory (R84, R180). The upset changes 8 bytes, or the tag bits of a line, and nothing that the core
knows: what the bytes then are is free (log 52). A read of the line finds it, present data or tag bits: the line is poisoned, with
grade G3 where the tag bits are hit, and the event is noted. A load finds what is in its line, and a store of 8 whole bytes ends an
error in them unfound. -/
def ErrorsAreDetected : Prop :=
  (∀ (s : State) (g : Nat) (tagBits : Bool), ∃ t, runTurn (.upset (.near g tagBits)) s = .next t ∧ t.lines = s.lines ∧ t.threads = s.threads ∧
    t.assayer = s.assayer ∧ (∀ a, a < 8 * g ∨ 8 * g + 8 ≤ a → t.mem.read a = s.mem.read a) ∧ (tagBits = true → t.mem = s.mem) ∧
    t.latent = if (lineOwner s (g / 16)).isNone then s.latent else s.latent ++ [if tagBits then .tags (g / 16) else .data g]) ∧
  (∀ (s : State) (k : Nat),
    let l := s.line k
    let here := s.latent.filter (Latent.foundIn k l.present)
    let t := detectLine s k
    (here = [] → t = s) ∧
    (here ≠ [] → t.line k = ⟨l.present, ⟨if .tags k ∈ here then 3 else l.tag.grade, true⟩⟩ ∧ (∀ n, n ≠ k → t.line n = s.line n) ∧
      t.latent = s.latent.filter (fun e => !e.foundIn k l.present) ∧
      { t with lines := s.lines, latent := s.latent, assayer := s.assayer } = s ∧
      ∀ die w unit, lineOwner s k = some (die, w, unit) → Notes s t die 2 w unit (List.replicate 16 0))) ∧
  ∀ (s : State) (x : Bundle) (i : Instr) (tid key : Nat), x.tids = [tid] → x.finished = [] → actsIn s tid i = true →
    (∀ e ∈ s.late, e.tid ≠ tid) → (∀ e ∈ s.early, e.tid ≠ tid) → (∀ e ∈ s.latent, ∀ k r v, e ≠ .register k r v) →
    (∀ y, loadShape i = some y → NearOk s tid (y.reg s tid) (y.ea s tid) y.size true key →
      orderBefore s x i false = detectLine s (key / 128)) ∧
    ∀ y, storeShape i = some y → y.size = 8 → NearOk s tid (y.reg s tid) (nearAddr (y.reg s tid).val y.off 8) 8 false key →
      orderBefore s x i false = { s with latent := s.latent.filter (· ≠ .data (key / 8)) }

/-! ## Encodings (R38 to R71) -/

/-- The words of a well-formed instruction decode to it, whatever words follow, and of each shorter beginning the decoder asks for the
next word (R38 to R57): no bit of an encoding is dropped. -/
def DecodesItsEncoding : Prop :=
  ∀ (ctx : DecCtx) (i : Instr), i.wellFormed ctx = true →
    (∀ rest, ∃ w, decodeUnit ctx (encode i ++ rest) = .unit i w (encode i).length ∧ w.getLsbD 31 = i.ctl.k) ∧
    ∀ n, n < (encode i).length → decodeUnit ctx ((encode i).take n) = .fetch n

/-- Whatever words decode to an instruction, it is well formed and these are its words: every legal encoding has one meaning and is the only
one of its instruction (R57). -/
def EncodesItsDecoding : Prop :=
  ∀ (ctx : DecCtx) (ws : List Word) (i : Instr) (w : Word) (len : Nat), decodeUnit ctx ws = .unit i w len →
    i.wellFormed ctx = true ∧ encode i = ws.take len ∧ (encode i).length = len

/-- A unit of no class, chain, W or prefix; a uniform one; one under a prefix. -/
def bare : Ctl := ⟨false, false, false, none⟩
def uniform : Ctl := ⟨true, false, false, none⟩
def under (p : Pre) : Ctl := ⟨false, false, false, some p⟩

/-- Words of the spec's own encoding tables, one or more of each group of instructions. -/
def sampleWords : List (List Word × Instr) :=
  [([0x1206_1008], .onesB32 bare 3 4),
   ([0x170A_1838], .divI32 bare 5 6 (.reg 7)),
   ([0x002A_5401, 0x0000_0080], .addN32 bare 21 21 (.lit 128)),
   ([0x2482_1048], .cmpN32Set1 bare 2 1 4 (.reg 9)),
   ([0x7F00_2000, 0x3D12_2058], .cvtE4m3F32 (under ⟨0, false, false, 0, true⟩) 9 8),
   ([0x4F30_0034], .mfs bare 24 13),
   ([0x5A10_0003], .bra bare 2 false 3),
   ([0x7F0A_0000, 0x4916_3000], .stB32 (under ⟨1, false, true, 0, false⟩) 11 12 0),
   ([0xF000_A4F0], .bsig uniform 41 (.reg 30)),
   ([0x6C06_8410], .agreeEvery bare 3 true 1 2),
   ([0x6044_0813], .mma bare 4 32 8 0 2 1 true),
   ([0x6204_01D8], .mmaSc bare 0 32 1 3 3 0 false),
   ([0x7304_0068], .tcvt bare 2 0 5),
   ([0xF578_2860], .cprop uniform 60 10 12)]

/-- Each decodes to the instruction that the spec's table names. -/
def SampleWordsDecode : Prop :=
  ∀ e ∈ sampleWords, ∃ w, decodeUnit ⟨120, 32, [0, 0, 0x80000000, 0x80010000, 0, 0x80000000, 0, 0], false⟩ e.1 = .unit e.2 w e.1.length

/-- What no decoder accepts (R40, R49, R52, R57, R98): a uniform matrix word, a prefix with reserved bits, a prefix of a prefix or of a
branch, a code of the integer unary group that is not assigned. -/
def ReservedWordsRefused : Prop :=
  ∀ (ctx : DecCtx) (w x : Word) (ws : List Word),
    (w.toNat / 2 ^ 27 = 0b11100 → decodeUnit ctx (w :: ws) = .bad .illegalOp w true) ∧
    (w.toNat / 2 ^ 24 % 2 ^ 7 = 0x7F → (w.getLsbD 31 = true ∨ w.toNat % 2 ^ 13 ≠ 0) →
      decodeUnit ctx (w :: ws) = .bad .illegalOp w (w.getLsbD 31)) ∧
    (w.toNat / 2 ^ 24 = 0x7F → w.toNat % 2 ^ 13 = 0 →
      (x.toNat / 2 ^ 24 % 2 ^ 7 = 0x7F ∨ (0x5A ≤ x.toNat / 2 ^ 24 % 2 ^ 7 ∧ x.toNat / 2 ^ 24 % 2 ^ 7 ≤ 0x5D)) →
      decodeUnit ctx (w :: x :: ws) = .bad .illegalOp w (x.getLsbD 31)) ∧
    (w.toNat / 2 ^ 24 % 2 ^ 7 = 0x12 → 11 ≤ w.toNat / 2 ^ 3 % 2 ^ 7 → decodeUnit ctx (w :: ws) = .bad .illegalOp w (w.getLsbD 31))

/-! ## A step (R38, R53, R54, R135) -/

/-- Decoding reads the words of one unit, with the leaves through which they are fetched, at an address of the code region, as many as it
asks for, from the state `s`, and ends with the unit in the state `t` (the translation cache may have changed). -/
inductive Reads (ctx : DecCtx) (q w : Nat) (entry : DWord) (pc : Word) (i : Instr) (word : Word) (len : Nat) (leaf : DWord) :
    List (Word × DWord) → State → State → Prop where
  | done (ws : List (Word × DWord)) (s : State) : decodeUnit ctx (ws.map (·.1)) = .unit i word len → unitLeaf ws = leaf →
      Reads ctx q w entry pc i word len leaf ws s s
  | next (ws : List (Word × DWord)) (s m t : State) (x : Word × DWord) : decodeUnit ctx (ws.map (·.1)) = .fetch ws.length →
      fetchWord s q w entry (pc + BitVec.ofNat 32 (4 * ws.length)) = (.ok x, m) →
      Reads ctx q w entry pc i word len leaf (ws ++ [x]) m t → Reads ctx q w entry pc i word len leaf ws s t

/-- A bundle at a chain boundary that may begin a chain: it holds a thread, its team is not killed, no thread of it takes a cause, it is
not displaced, its latency has passed, it holds one of its core's 64 entries (R133), and its world is not halting, unless its threads have entered a handler whose first chain this is
(R93). -/
structure Begins (s : State) (b : Nat) (x : Bundle) (tid : Nat) : Prop where
  bundle : s.bundles.find? b = some x
  first  : x.tids.head? = some tid
  chain  : x.chain = []
  alive  : (s.threadTeam tid).killed = none
  calm   : ∀ k ∈ x.tids, (s.thread k).mayTake = false
  world  : (s.world (s.threadWorld tid)).stat ≠ 2 ∨ (s.thread tid).enters = true
  stays  : x.displaced = false
  ready  : x.ready ≤ s.time
  entry  : hasEntry s b x = true

/-- The state in which a chain begins: in a halting world the threads' handler now issues its first chain. -/
def beginning (s : State) (x : Bundle) (tid : Nat) : State :=
  if (s.world (s.threadWorld tid)).stat = 2 then issueEntered s x.tids else s

/-- The state in which an instruction runs as the next unit of a bundle: what its threads still have out of their places is performed
where the unit orders it (`UnitsAreOrdered`) and the errors in what it reads are found; where a thread has still to perform it, the bundle is ready again after a latency that the spec leaves
open (R135), and the unit of the core that takes the instruction has started one in this cc (R137). -/
def issuing (s : State) (b : Nat) (x : Bundle) (v : ChainUnit) (late : Bool) : State :=
  let m := orderBefore s x v.instr late
  let core := m.core x.core
  { m with
    bundles := if x.hasWork then m.bundles.insert b { x with ready := m.time + 1 + Config.unitLatency b m.time, waits := false } else m.bundles
    cores := match x.hasWork, pipeOf v.instr x.pipeB with
      | true, some p => m.cores.insert x.core { core with started := core.started.insert p (m.time, b) }
      | _, _ => m.cores
    cur := some ⟨b, x.core, x.tids, v.addr, v.addr + BitVec.ofNat 32 (4 * v.len), v.word, x.pos, x.head, v.leaf,
      late && mayBeLate v.instr⟩ }

/-- The next turn is the first of the list; an event of the package is performed, and a bundle runs the next unit of its chain, where it
has only its answers to take or is ready for it and no other bundle goes before it (R135). A plain access to near memory may be issued as one
that is performed out of its place (R190). A unit whose threads have nothing out of place finds the state as it was where no error is undetected. -/
def StepsRunUnitsAndEvents : Prop :=
  ∀ (s : State) (more : List Turn) (late : Bool),
    let turn := fun b => if late then Turn.issueLate b else .issue b
    let m := { s with turns := more }
    (∀ i, i.shape = none → s.turns = .event i :: more → step s = exec i m) ∧
    (∀ b x v rest, s.turns = turn b :: more → s.bundles.find? b = some x → x.tids ≠ [] → x.chain = v :: rest →
      (x.hasWork = false ∨ (x.ready ≤ s.time ∧ waitsTurn m b x v.instr = false)) →
      step s = exec v.instr (issuing m b x v late)) ∧
    (∀ b x tid i w len leaf t, s.turns = turn b :: more → Begins s b x tid → i.ctl.c = false → latchesOk i 0 = true →
      waitsTurn m b x i = false →
      Reads (s.decCtx tid) (quadOf x.core) (s.threadWorld tid) (s.threadLaunch tid).entry x.pc i w len leaf [] m t →
      let v : ChainUnit := ⟨i, w, x.pc, len, leaf⟩
      step s = exec i (issuing (beginning t x tid) b { x with chain := [v], head := x.pc, pos := 0, finished := [] } v late)) ∧
    ∀ x i, (∀ e ∈ s.late, e.tid ∉ x.tids) → (∀ e ∈ s.early, e.tid ∉ x.tids) → s.latent = [] → orderBefore s x i late = s

/-- A unit all of whose threads its guard holds back (R51), of every instruction that has a word, lane or uniform: no register, flag,
memory, counter or generator changes; the latches take R47's value and the bundle goes on. The model's own count of free values may
advance. -/
def GuardedOff : Prop :=
  ∀ (s : State) (u : Issue) (i : Instr), i.shape.isSome = true → Issues s u i → (∀ tid ∈ u.tids, passes s u i tid = false) →
    ∃ t, exec i s = .next t ∧ OnlyThreads { s with freeCount := t.freeCount } t u ∧ Advanced s t u ∧
      ((s.bundle u.bundle).chain.tail ≠ [] → (t.bundle u.bundle).pos = (s.bundle u.bundle).pos + 1) ∧
      ∀ tid ∈ u.tids, t.thread tid = (s.thread tid).pushLatch (guardedOffLatch (s.thread tid) i)

/-- Every step ends in a next state: no instruction and no event of the spec stops the machine. -/
def StepsNeverStop : Prop := ∀ s : State, ∃ t, step s = .next t

/-- Every step keeps the memory in its canonical form: addresses rising, no byte listed that reads as an unlisted one. -/
def StepsKeepMemoryCanonical : Prop := ∀ s t : State, s.memOk = true → step s = .next t → t.memOk = true

/-- The numbers of bundles are below the next one to be given out. -/
def BundlesNumbered (s : State) : Prop := ∀ e ∈ s.bundles, e.1 < s.nextId

/-- Every step keeps the bundles' numbers below the next one. -/
def StepsKeepBundlesNumbered : Prop := ∀ s t : State, BundlesNumbered s → step s = .next t → BundlesNumbered t

/-- The state right after reset: empty and cleared, its memory canonical, its bundles numbered. -/
def ResetIsClear : Prop :=
  Cleared State.reset ∧ State.reset.memOk = true ∧ BundlesNumbered State.reset ∧ ∀ a, State.reset.mem.read a = 0

/-! ## Registers and TRAPINFO (R41, R47, R89) -/

/-- Z reads 0 and discards; L0 to L3 read the latches, which shift (R41, R47). TRAPINFO has the fields of R89 and no other bit. -/
def RegistersAndTrapinfo : Prop :=
  (∀ (t : Thread) (r : Nat) (x y : Tagged Word), t.reg 120 = untagged 0 ∧ (120 ≤ r → t.setReg r x = t) ∧
    (∀ n, n < 120 → (t.setReg n x).reg (BitVec.ofNat 7 n) = x ∧
      ∀ k, k < 120 → k ≠ n → (t.setReg n x).reg (BitVec.ofNat 7 k) = t.reg (BitVec.ofNat 7 k)) ∧
    (t.pushLatch y).reg 124 = y ∧ (t.pushLatch y).reg 125 = t.reg 124 ∧ (t.pushLatch y).reg 126 = t.reg 125 ∧
    (t.pushLatch y).reg 127 = t.reg 126) ∧
  ∀ (a : TrapArgs), let w := trapInfoWord a
    w.getLsbD 31 = true ∧ w.getLsbD 30 = a.async ∧ w.getLsbD 29 = a.uni ∧ w.getLsbD 28 = a.pend ∧ w.getLsbD 27 = false ∧
    w.toNat / 2 ^ 24 % 2 ^ 3 = a.pos % 8 ∧ w.toNat / 2 ^ 17 % 2 ^ 7 = a.vahi % 128 ∧ w.toNat / 2 ^ 8 % 2 ^ 9 = 0 ∧
    w.toNat % 2 ^ 8 = causeCode a.cause

end Sys2Proof.Claims

open Sys2Proof Sys2Proof.Machine

/-- Two-source integer instructions (R97). -/
def Obligations.TwoSourceIntegers : Prop := Claims.GivesResult Claims.twoSource

/-- Integer unary, field, divider, move and select instructions (R99). -/
def Obligations.UnaryFieldDivideMove : Prop := Claims.GivesResult Claims.unaryFieldDivideMove

/-- Compares and predicate logic (R60, R81, R83, R104, R105). -/
def Obligations.ComparesAndPredicates : Prop := Claims.GivesResult Claims.comparesPredicates

/-- Floating-point arithmetic, with the model's own rounding (R79, R80, R81, R82, R106, R107, R108, R109). Resting on the model's
own readings and choices, by notes/assumptions: the values are those of the model's own functions (fadd, fsub, fmul, ffma, frint,
packedAdd, packedMul, packedFma, fdot2, fminmax), which the model takes for the rules of R79 to R82 and R106 to R109: no clause
states them against exact arithmetic; 12 (an exact zero sum under RDN), 83 (a NaN term of a dot product). -/
def Obligations.FloatArithmetic : Prop := Claims.GivesResult Claims.floats

/-- Conversions and special functions, with the model's own values (06_thread_instructions.md, R110, R111, R112, R113, R114).
Resting on the model's own readings and choices, by notes/assumptions: the values are those of the model's own functions, which
the model takes for the rules of R110 to R114: no clause states them against exact arithmetic; 13 (special functions in 420 bits).
-/
def Obligations.ConversionsAndSpecialFunctions : Prop := Claims.GivesResult Claims.conversions

/-- Generator and checksum accumulators (06_thread_instructions.md). Resting on the model's own readings and choices, by
notes/assumptions: the binary64 sum of cka.f is the model's own function. -/
def Obligations.GeneratorAndChecksums : Prop := Claims.GivesResult Claims.generatorChecksum

/-- Instructions that read the machine and change only registers (R69, R74, R119, R120, R124, R125, R159, R162, R175, R239, R246,
R362). The checks of ckv are the model's own function ckvFFails, which it takes for R124. A fence only advances where its thread
has no access out of its place; those that it has come before it (notes/assumptions/10.md, 1.md). -/
def Obligations.ReadingsOfTheMachine : Prop := Claims.GivesReading Claims.readings ∧ Claims.GivesReading Claims.notTaken

/-- Loads from near memory (R83, R117, R190). Which loads may be performed out of their places, and how the bytes read ahead are
kept, is the model's form of R190 (notes/assumptions/10.md). -/
def Obligations.NearLoads : Prop := Claims.NearLoads ∧ Claims.LateLoads

/-- Stores to near memory, with every byte of memory (R83, R118, R177, R190). Which stores may become visible later is the model's
form of R190 (notes/assumptions/10.md). -/
def Obligations.NearStores : Prop := Claims.NearStores ∧ Claims.LateStores

/-- Faults and poisoned addresses of near accesses (R84, R117, R118, R171, R193, R196). -/
def Obligations.NearFaultsAndPoison : Prop := Claims.NearFaults ∧ Claims.PoisonKills

/-- push, pop and mts FFLAGS (R85, R86, R121, R125). -/
def Obligations.StackAndFlags : Prop := Claims.StackAndFlags

/-- Traps that an instruction raises by itself (R86, R88, R90, R94, R120, R124, R125, R126, R128, R362). Resting on the model's
own readings and choices, by notes/assumptions: the checks of ckv are those of the model's own function ckvFFails, which the model
takes for R124. -/
def Obligations.OwnTraps : Prop := Claims.OwnTraps

/-- Branches, calls and returns that are taken (R46, R119, R120, R159). -/
def Obligations.BranchesTaken : Prop := Claims.BranchTaken

/-- reform, yield and rte (R90, R160, R161). -/
def Obligations.ThreadsFiledAgain : Prop := Claims.FiledAgain

/-- natom, bsig and bwait, and what orders near accesses (R64, R150, R151, R152, R165, R171, R172, R173, R175, R190, R290).
Resting on the model's own readings and choices, by notes/assumptions: 10 (which accesses are out of their places, what a unit
does about them, by what rank, and that main memory has no such order). -/
def Obligations.NearAtomicsSignalsAndWaits : Prop := Claims.NearAtomic ∧ Claims.Signal ∧ Claims.Await ∧ Claims.UnitsAreOrdered

/-- Arrivals that wait, and waiters released (R162, R163, R164). Resting on the model's own readings and choices, by
notes/assumptions: 120 (the events of one cc). -/
def Obligations.RendezvousWaitsAndReleases : Prop := Claims.RendezvousWaits ∧ Claims.RendezvousInOrder ∧ Claims.WaitersReleased

/-- Votes, moves, reductions and scans (R163, R166, R167, R168, R169, R170). -/
def Obligations.RendezvousCompletes : Prop := Claims.RendezvousCompletes

/-- Traps of rendezvous and matrix instructions (R163, R215, R216). -/
def Obligations.RendezvousAndMatrixTraps : Prop := Claims.RendezvousTraps ∧ Claims.MatrixTraps

/-- leave and exit (R128, R162). -/
def Obligations.LeaveAndExit : Prop := Claims.Leave ∧ Claims.Exit

/-- Signatures and posts of matrix operations (R213, R214, R215, R216, R217, R232). Resting on the model's own readings and
choices, by notes/assumptions: 29 (a full table), 103 (waits before a signature), 122 (a scale word that was not captured). -/
def Obligations.MatrixOperationsSigned : Prop := Claims.MatrixSigns ∧ Claims.MatrixHolds ∧ Claims.MatrixPosts

/-- Tile instructions (R217, R236, R237, R238, R240, R241). -/
def Obligations.TileInstructionsPosted : Prop := Claims.TilePosted ∧ Claims.TileLoad ∧ Claims.TileSent

/-- qsend and qrecv (R206, R244, R245). -/
def Obligations.QueuesSendAndReceive : Prop := Claims.QueueSend ∧ Claims.QueueReceive

/-- lcp.in, lcp.out and lcpx (R273, R296, R297, R300, R301, R302, R303). Resting on the model's own readings and choices, by
notes/assumptions: 39 (lengths beyond the limit), 40 (rows below address 0), 43 (order of the segments), 44. -/
def Obligations.CopiesQueued : Prop := Claims.CopyQueued ∧ Claims.CopyEndsAtIssue ∧ Claims.CutCovers

/-- atom (R64, R248, R286, R304, R305, R318). Resting on the model's own readings and choices, by notes/assumptions: 10 (the
ordering field), 46 (whether the page is present is a free value). -/
def Obligations.AtomicsSent : Prop := Claims.AtomicSent

/-- fquery, fretype, xlpurge and xlprobe (R83, R266, R307, R308, R309, R310). Resting on the model's own readings and choices, by
notes/assumptions: 78 (purges run at once). -/
def Obligations.FrameAndProbeRequests : Prop := Claims.FrameRequests ∧ Claims.ProbeWord

/-- cprop, cread and crecyc (R391, R393, R395, R405, R406, R407, R408, R409, R410). Resting on the model's own readings and
choices, by notes/assumptions: 37 (the packet's grade), 63 (the payload), 64 (a rank is checked before the cache), 94 (the port by
which a packet leaves). -/
def Obligations.CellRequests : Prop := Claims.CellRequests

/-- svc (R126, R127, R199, R200, R313). Resting on the model's own readings and choices, by notes/assumptions: 48 (vector 2), 49
(a call that waits for a ring). -/
def Obligations.ServiceCalls : Prop := Claims.ServiceCall

/-- Decoding an encoded instruction gives it back (R38, R40, R50, R57, R71). -/
def Obligations.EncodingsDecode : Prop := Claims.DecodesItsEncoding

/-- Words that decode are their instruction's encoding (R38, R40, R57). -/
def Obligations.DecodingsEncode : Prop := Claims.EncodesItsDecoding

/-- Words of the spec's encoding tables (04_opcode_map.md, 06_thread_instructions.md, 08_core_instructions.md,
12_cluster_instructions.md, 22_fabric.md). -/
def Obligations.SampleWordsDecode : Prop := Claims.SampleWordsDecode

/-- Reserved encodings are refused (R40, R49, R52, R57, R98). Resting on the model's own readings and choices, by
notes/assumptions: 11 (UNI of a word under a prefix), 87 (the bare prefix before a format B word, where R158 says otherwise). -/
def Obligations.ReservedWordsRefused : Prop := Claims.ReservedWordsRefused

/-- A step runs the decoded instruction (R38, R53, R54, R93, R135, R137, R190). Resting on the model's own readings and choices,
by notes/assumptions: 1 (whose turn is next), 10 (accesses out of their places), 52 (errors found before a unit), 30 (a chain is
read word by word), 90 (the leaf of a unit under a prefix), 110 (readiness, which bundle goes before and which keeps a unit). -/
def Obligations.StepsRunUnitsAndEvents : Prop := Claims.StepsRunUnitsAndEvents

/-- A guarded-off unit has no effect (R51). -/
def Obligations.GuardedOffUnitsPass : Prop := Claims.GuardedOff

/-- No step stops (00_scope.md, R88). Resting on the model's own readings and choices, by notes/assumptions: 1 (the order of the
turns); it is a sum over the rows of the table, each of which has an effect in every state. -/
def Obligations.StepsNeverStop : Prop := Claims.StepsNeverStop

/-- Every step keeps the memory canonical (R4, R38). That an unlisted byte of host memory reads 0 is the model's choice
(notes/assumptions/5.md). -/
def Obligations.StepsKeepMemoryCanonical : Prop := Claims.StepsKeepMemoryCanonical

/-- Every step keeps the numbers of bundles fresh (R132, R143). Resting on the model's own readings and choices, by
notes/assumptions: 8 (the model's own numbers): it is an invariant of the model's bookkeeping, which the statements about
rendezvous assume. -/
def Obligations.StepsKeepBundlesNumbered : Prop := Claims.StepsKeepBundlesNumbered

/-- The state right after reset (R385, 18_package_trust.md, 17_package_launch.md). That host memory reads 0 is the model's choice
(notes/assumptions/5.md). -/
def Obligations.ResetIsClear : Prop := Claims.ResetIsClear

/-- Z, the latches and the fields of TRAPINFO (R41, R47, R89). -/
def Obligations.RegistersAndTrapinfo : Prop := Claims.RegistersAndTrapinfo

/-- Asynchronous causes, draws, displacements, parking, and errors of tables and of near memory (R88, R91, R131, R132, R133, R134,
R153, R155, R164, R180, R198, R348). Resting on the model's own readings and choices, by notes/assumptions: 14, 23 (threads filed
again), 31 (the mark of age), 49 (a cause in a call that waits for a ring), 52 (what an error leaves, and what finds it), 86
(bundles of a rendezvous), 95 (which granules), 96 (the parked image), 101 (its frames), 106, 107 (what parks and what wakes),
110, 111 (ticks), 124 (which threads count in a bin). -/
def Obligations.CoreEvents : Prop := Claims.AsyncCauses ∧ Claims.CoreSteps ∧ Claims.CoreTableErrors ∧ Claims.ErrorsAreDetected

/-- Posting and granting table entries (R24, R211, R216, R217, R218, R232, R235, R272). Resting on the model's own readings and
choices, by notes/assumptions: 28 (a latch that reuse keeps), 122 (a scale word that was not captured), 126 (two entries of one
rank), 29 (a full table), 32, 91 (the latency of a tile transfer). -/
def Obligations.MatrixPostsAndTableGrants : Prop := Claims.MatrixOperationsPost ∧ Claims.TableGrants

/-- Tile operations and passes complete, with the model's own sums of products (R210, R213, R214, R216, R219, R221, R235, R236,
R237, R238, R240, R241). Resting on the model's own readings and choices, by notes/assumptions: the sums of products of a pass and
the words of tcvt are those of the model's own functions passRow and convertTile, which the model takes for R219 to R228, R241 and
R242: no clause states them against exact arithmetic; 27 (flags of a pass), 28, 33 (FZS of tcvt), 91 (a transfer's latency). -/
def Obligations.TilesAndPassesComplete : Prop := Claims.TileOperationsComplete ∧ Claims.PassesComplete

/-- Ladle segments start and land (R273, R274, R275, R276, R277, R298, R302, R303, R391, R395, R398). Resting on the model's own
readings and choices, by notes/assumptions: 17 (sources are read at the start), 37 and 38 (packets), 43 (order of the starts), 94
(ports), 112 (several runs in one packet). -/
def Obligations.SegmentsStartAndLand : Prop := Claims.SegmentsStart ∧ Claims.RemoteSegmentsStart ∧ Claims.SegmentsLand ∧
  Claims.SegmentsLandInMain ∧ Claims.SegmentsLandInTiles

/-- Ladle segments fail; table writes are accepted or refused (R254, R255, R256, R257, R258, R259, R260, R267, R277, R299, R398).
Resting on the model's own readings and choices, by notes/assumptions: 18 (reservations ahead of the verdict), 66 (the purge's
nodes), 75 (the 100 µs of a route are an event that may come at any time), 127 (the rule reported for FRAME[47:46]). -/
def Obligations.SegmentsFailAndTablesWritten : Prop := Claims.SegmentsFail ∧ Claims.UnitsReserve ∧ Claims.TableUnitsAccepted ∧
  Claims.TableWritesAreChecked

/-- Walks complete and purges are acknowledged (R257, R260, R261, R262, R263, R310, R376). Resting on the model's own readings and
choices, by notes/assumptions: 18 (a walk is one moment), 47 (a walk that no request waits for), 128 (CLOSING on a walk), 66 and
78 (purges). -/
def Obligations.WalksAndPurges : Prop := Claims.WalksComplete ∧ Claims.PurgesAcknowledged

/-- Atomics and metadata operations at their homes (R64, R83, R94, R249, R265, R266, R286, R304, R305, R307, R308, R369). Resting
on the model's own readings and choices, by notes/assumptions: 10, 46 (an atomic whose page request failed), 56 (late results), 71
(which frames minimal mode has), 104 (the half of the identifier in TRAPVAL), 114 (world 0's retype). -/
def Obligations.AtomicsAndMetadataPerformed : Prop := Claims.AtomicsPerformed ∧ Claims.HostAtomicsComplete ∧ Claims.HostLinkLoses
  ∧ Claims.MetadataOperations ∧ Claims.WorldZeroRetypes

/-- Accesses of the host, and page responses (R258, R284, R287, R315, R318, R366, R367). Resting on the model's own readings and
choices, by notes/assumptions: 36 (the addresses of the host's accesses), 46 (pages). -/
def Obligations.HostAccessesAndPages : Prop := Claims.HostAccesses ∧ Claims.HostTableWrites ∧ Claims.PageResponses

/-- Service completions and ring tails (R83, R126, R127, R200, R201, R202, R314, R315, R345). Resting on the model's own readings
and choices, by notes/assumptions: 10 (the reply acquires), 48, 49 (waiting calls), 84 (the guard's tags), 88 and 89 (doorbells),
118 (counters in the block). -/
def Obligations.ServiceRings : Prop := Claims.ServiceCompletions ∧ Claims.RingTails

/-- Writes and reads of the windows' registers (R8, R248, R314, R316, R317, R319, R333, R338, R365, R393, R394, R397). Resting on
the model's own readings and choices, by notes/assumptions: 67 (whole registers; a read is the function readRegister, for which
the table has no row), 71 (which frames minimal mode has), 73 (WCTX), 76 (a quad that is lost), 94 (weights), 113 (FRAMETOP's
offset), 115 (BAR0). -/
def Obligations.RegisterWrites : Prop := Claims.QueueRegisters ∧ Claims.RegisterReads ∧ Claims.WorldRegisters ∧
  Claims.FrozenConfiguration ∧ Claims.FabricRegisters

/-- Worlds are killed, preempted and quiesce (R93, R338, R339, R340, R341, R342). Resting on the model's own readings and choices,
by notes/assumptions: 51, 72 (pending causes), 74 (segments that write at a rank), 119 (operations that stay complete). -/
def Obligations.WorldsHalted : Prop := Claims.WorldsAreKilled ∧ Claims.Preemption ∧ Claims.ThreadsHalt ∧ Claims.WorldsQuiesce

/-- Replays and saves (R342, R344, R346, R348, R349, R350). Resting on the model's own readings and choices, by notes/assumptions:
2 (free values), 53 and 116 (the image: the order and coding of its sections' items; its ciphertext is free), 75, 97 (the replay
entries' fields), 101 (its frames). -/
def Obligations.WorldsSaved : Prop := Claims.RequestsReplay ∧ Claims.SavesComplete

/-- Restores and key rotation (R338, R349, R351, R352, R353, R354, R359, R374). Resting on the model's own readings and choices,
by notes/assumptions: 53 (the tag of an image is ideal), 57, 59 (clusters on another die), 78, 100 (a core without a free entry),
101 (a flip in a frame retyped since), 125 (tables of a quad without a limit), 129 (ended teams). -/
def Obligations.WorldsRestored : Prop := Claims.RestoresAreChecked ∧ Claims.RestoresComplete ∧ Claims.ReissuesWithinBounds ∧
  Claims.KeyRotation

/-- Commands of the queues (R320, R321, R322, R323, R325, R326, R327, R383, R384). Resting on the model's own readings and
choices, by notes/assumptions: 44 (COPY), 45 (where STATUS is written), 71 (starts that fail). -/
def Obligations.CommandsRun : Prop := Claims.CounterCommands ∧ Claims.CommandFailures ∧ Claims.CopyCommands ∧
  Claims.LaunchCommands

/-- Clusters are distributed and launches complete (R19, R129, R203, R269, R326, R329, R330, R331, R332, R335, R336, R337).
Resting on the model's own readings and choices, by notes/assumptions: 4 (the clock), 45, 58 (order of rectangles and chunks), 71,
98 (a status block into a table). -/
def Obligations.LaunchesDistributed : Prop := Claims.ClustersAreDistributed ∧ Claims.ClustersReserve ∧ Claims.LaunchesComplete

/-- The Assayer's commands and readings (R257, R365, R374, R375, R376, R380, R381, R384, R386, R387, R388, R389). Resting on the
model's own readings and choices, by notes/assumptions: 2 (signatures), 61 (which box), 62 (SEQ and MINIMAL), 67 (GRANT_WRITE of a
frozen table), 68 (vendor-defined requests), 75 (the 60 s), 93 (MINIMAL of BBOX_READ). -/
def Obligations.AssayerCommands : Prop := Claims.EnergyReadings ∧ Claims.ManagementCommands ∧ Claims.ImageFlips ∧
  Claims.CheckpointsAndThrottles

/-- The shares of an interval sum to its energy (R19, R377, R378, R379). Resting on the model's own readings and choices, by
notes/assumptions: 4 (the 1 ms whatever the clock), 60 (what an interval counts, and its sensors' figures). -/
def Obligations.EnergyIsConserved : Prop := Claims.EnergyIsConserved

/-- Resets (R6, R336, R366, R367, R368, R381, R382, R383, R384, R385, R387, R400). Resting on the model's own readings and
choices, by notes/assumptions: 2 and 70 (the outcome of a start that no event gives is free; what a reset keeps; dead ports), 60,
62 (records), 71. -/
def Obligations.ResetsOfPackageAndFunctions : Prop := Claims.PackageResets ∧ Claims.OtherPackageResets ∧ Claims.FunctionResets

/-- SPDM and TDISP messages (R363, R364, R365, R366). Resting on the model's own readings and choices, by notes/assumptions: 2
(signatures), 67, 68 (PRESUMED: the order of the SPDM states; the kinds of vendor-defined requests), 69 (the report's layout). -/
def Obligations.SessionsAndInterfaces : Prop := Claims.SpdmMessages ∧ Claims.InterfaceMessages

/-- Packets of the die network and the fabric (R358, R360, R391, R392, R393, R396, R398, R401). Resting on the model's own
readings and choices, by notes/assumptions: 65 (PKEY and incarnations of rejects and answers, and to whom the reject of an answer
goes: the clauses on dropped packets and on what is accepted rest on it), 92 (flows and their retries: every clause of
NetworkPackets), 94 (ports), 112 (resends, and packets that pass through), 133 (an answer that its asker drops). -/
def Obligations.NetworkAndFabricPackets : Prop := Claims.NetworkPackets ∧ Claims.FabricPackets

/-- Remote accesses, lost ranks and purges (R343, R384, R392, R393, R395, R396, R398, R401, R405). Resting on the model's own
readings and choices, by notes/assumptions: 37 (grade and poison of a packet: the clause on read answers), 65 (PKEY and
incarnations: rejects and RANK_DOWN), 66 (codes of rejects; purges of cells), 75, 94 (which packets a lost port resends), 112
(several runs; the port of a stale RANK_DOWN; resends). -/
def Obligations.RemoteAccessesAndRanks : Prop := Claims.RemoteAccesses ∧ Claims.FabricEvents

/-- A cell takes the outcome of its table (R402, R403, R404, R407). Resting on the model's own readings and choices, by
notes/assumptions: 63 (the layout of the answer's payload). -/
def Obligations.CellsAtTheirHome : Prop := Claims.CellOperations
end

