-- ==== Sys2Proof/Laws/Memory.lean ====
section
/-! SUPPORT. Sparse maps and the byte memory: reads after writes, and the canonical form, which every memory operation keeps. -/

namespace Sys2Proof

variable {α : Type}

/-! ## Lookups after updates -/

@[simp] theorem SMap.find?_insert_self (m : SMap α) (x : Nat) (v : α) : (m.insert x v).find? x = some v := by
  induction m with
  | nil => simp [SMap.insert, SMap.find?]
  | cons e m ih =>
    obtain ⟨k, w⟩ := e
    simp only [SMap.insert]
    split
    · simp [SMap.find?]
    · split
      · simp [SMap.find?]
      · rename_i h1 h2
        simp [SMap.find?, Ne.symm h2, ih]

theorem SMap.find?_insert_ne (m : SMap α) {x y : Nat} (v : α) (h : y ≠ x) : (m.insert x v).find? y = m.find? y := by
  induction m with
  | nil => simp [SMap.insert, SMap.find?, h.symm]
  | cons e m ih =>
    obtain ⟨k, w⟩ := e
    simp only [SMap.insert]
    split
    · simp [SMap.find?, h.symm]
    · split
      · rename_i h1 h2
        subst h2
        simp [SMap.find?, h.symm]
      · simp [SMap.find?, ih]

@[simp] theorem SMap.getD_insert_self (m : SMap α) (x : Nat) (v d : α) : (m.insert x v).getD x d = v := by
  simp [SMap.getD]

theorem SMap.getD_insert_ne (m : SMap α) {x y : Nat} (v d : α) (h : y ≠ x) : (m.insert x v).getD y d = m.getD y d := by
  simp [SMap.getD, SMap.find?_insert_ne m v h]

@[simp] theorem SMap.find?_erase_self (m : SMap α) (x : Nat) : (m.erase x).find? x = none := by
  induction m with
  | nil => rfl
  | cons e m ih =>
    simp only [SMap.erase, List.filter_cons] at ih ⊢
    split
    · rename_i h
      have : e.1 ≠ x := by simpa using h
      obtain ⟨k, w⟩ := e
      simpa [SMap.find?, this] using ih
    · exact ih

theorem SMap.find?_erase_ne (m : SMap α) {x y : Nat} (h : y ≠ x) : (m.erase x).find? y = m.find? y := by
  induction m with
  | nil => rfl
  | cons e m ih =>
    obtain ⟨k, w⟩ := e
    simp only [SMap.erase, List.filter_cons] at ih ⊢
    split
    · simp only [SMap.find?, ih]
    · rename_i hk
      have : k = x := by simpa using hk
      subst this
      simp only [SMap.find?, if_neg h.symm, ih]

/-- An entry set reads back: what an unlisted key reads as is what a removed one reads as. -/
@[simp] theorem SMap.getD_set_self [DecidableEq α] (m : SMap α) (x : Nat) (v d : α) : (SMap.set d m x v).getD x d = v := by
  unfold SMap.set
  split
  · rename_i h; simp [SMap.getD, h]
  · simp

theorem SMap.getD_set_ne [DecidableEq α] (m : SMap α) {x y : Nat} (v d : α) (h : y ≠ x) :
    (SMap.set d m x v).getD y d = m.getD y d := by
  unfold SMap.set
  split
  · simp [SMap.getD, SMap.find?_erase_ne m h]
  · exact SMap.getD_insert_ne m v d h

theorem SMap.find?_modify (m : SMap α) (x y : Nat) (f : α → α) :
    (m.modify x f).find? y = if y = x then (m.find? y).map f else m.find? y := by
  induction m with
  | nil => simp [SMap.modify, SMap.find?]
  | cons e m ih =>
    obtain ⟨k, w⟩ := e
    simp only [SMap.modify, List.map_cons] at ih ⊢
    by_cases hk : k = x
    · subst hk
      by_cases hy : k = y
      · subst hy; simp [SMap.find?]
      · simp [SMap.find?, hy, ih, Ne.symm hy]
    · by_cases hy : k = y
      · subst hy; simp [SMap.find?, hk]
      · simp [SMap.find?, hk, hy, ih]

/-! ## Rising keys -/

theorem SMap.wf_cons_iff (k : Nat) (v : α) (m : SMap α) :
    SMap.wf ((k, v) :: m) = true ↔ (∀ e ∈ m, k < e.1) ∧ SMap.wf m = true := by
  induction m generalizing k v with
  | nil => simp [SMap.wf]
  | cons e m ih =>
    obtain ⟨k', w⟩ := e
    simp only [SMap.wf, Bool.and_eq_true, decide_eq_true_eq, List.mem_cons, forall_eq_or_imp]
    constructor
    · rintro ⟨h1, h2⟩
      exact ⟨⟨h1, fun e he => h1.trans ((ih k' w).mp h2 |>.1 e he)⟩, h2⟩
    · rintro ⟨⟨h1, -⟩, h2⟩
      exact ⟨h1, h2⟩

theorem SMap.mem_insert (m : SMap α) (x : Nat) (v : α) {e : Nat × α} (h : e ∈ m.insert x v) : e = (x, v) ∨ e ∈ m := by
  induction m with
  | nil => simpa [SMap.insert] using h
  | cons a m ih =>
    obtain ⟨k, w⟩ := a
    simp only [SMap.insert] at h
    split at h
    · simpa using h
    · split at h
      · rcases List.mem_cons.mp h with h | h
        · exact .inl h
        · exact .inr (List.mem_cons_of_mem _ h)
      · rcases List.mem_cons.mp h with h | h
        · exact .inr (h ▸ List.mem_cons_self ..)
        · exact (ih h).imp id (List.mem_cons_of_mem _)

theorem SMap.wf_insert (m : SMap α) (x : Nat) (v : α) (h : SMap.wf m = true) : SMap.wf (m.insert x v) = true := by
  induction m with
  | nil => rfl
  | cons e m ih =>
    obtain ⟨k, w⟩ := e
    have hm := (SMap.wf_cons_iff k w m).mp h
    simp only [SMap.insert]
    split
    · rename_i hx
      exact (SMap.wf_cons_iff _ _ _).mpr ⟨fun e he => by
        rcases List.mem_cons.mp he with rfl | he
        · exact hx
        · exact hx.trans (hm.1 e he), h⟩
    · split
      · rename_i hx; subst hx
        exact (SMap.wf_cons_iff _ _ _).mpr hm
      · exact (SMap.wf_cons_iff _ _ _).mpr ⟨fun e he => by
          rcases SMap.mem_insert m x v he with rfl | he
          · change k < x; omega
          · exact hm.1 e he, ih hm.2⟩

theorem SMap.wf_filter (m : SMap α) (p : Nat × α → Bool) (h : SMap.wf m = true) : SMap.wf (List.filter p m) = true := by
  induction m with
  | nil => rfl
  | cons e m ih =>
    obtain ⟨k, w⟩ := e
    have hm := (SMap.wf_cons_iff k w m).mp h
    rw [List.filter_cons]
    split
    · exact (SMap.wf_cons_iff _ _ _).mpr ⟨fun e he => hm.1 e (List.mem_filter.mp he).1, ih hm.2⟩
    · exact ih hm.2

/-! ## The byte memory -/

@[simp] theorem Memory.read_write_self (m : Memory) (a : Nat) (b : Byte) : (m.write a b).read a = b :=
  SMap.getD_set_self m a b 0

theorem Memory.read_write_ne (m : Memory) {a x : Nat} (b : Byte) (h : x ≠ a) : (m.write a b).read x = m.read x :=
  SMap.getD_set_ne m b 0 h

theorem Memory.wf_iff (m : Memory) : Memory.wf m = true ↔ SMap.wf m = true ∧ ∀ e ∈ m, e.2 ≠ 0 := by
  simp [Memory.wf]

theorem Memory.wf_write (m : Memory) (a : Nat) (b : Byte) (h : Memory.wf m = true) : Memory.wf (m.write a b) = true := by
  rw [Memory.wf_iff] at h ⊢
  unfold Memory.write SMap.set
  split
  · exact ⟨SMap.wf_filter m _ h.1, fun e he => h.2 e (List.mem_filter.mp he).1⟩
  · rename_i hb
    refine ⟨SMap.wf_insert m a b h.1, fun e he => ?_⟩
    rcases SMap.mem_insert m a b he with rfl | he
    · exact hb
    · exact h.2 e he

theorem Memory.wf_writeBytes (m : Memory) (a : Nat) (bs : List Byte) (h : Memory.wf m = true) :
    Memory.wf (m.writeBytes a bs) = true := by
  induction bs generalizing m a with
  | nil => exact h
  | cons b bs ih => exact ih _ _ (Memory.wf_write m a b h)

theorem Memory.wf_writeLe (m : Memory) (a n v : Nat) (h : Memory.wf m = true) : Memory.wf (m.writeLe a n v) = true :=
  Memory.wf_writeBytes m a _ h

theorem Memory.wf_filter (m : Memory) (p : Nat × Byte → Bool) (h : Memory.wf m = true) :
    Memory.wf (List.filter p m) = true := by
  rw [Memory.wf_iff] at h ⊢
  exact ⟨SMap.wf_filter m p h.1, fun e he => h.2 e (List.mem_filter.mp he).1⟩

/-- Bytes outside a written range stand as they stood. -/
theorem Memory.read_writeBytes_outside (m : Memory) (a x : Nat) (bs : List Byte) (h : x < a ∨ a + bs.length ≤ x) :
    (m.writeBytes a bs).read x = m.read x := by
  induction bs generalizing m a with
  | nil => rfl
  | cons b bs ih =>
    simp only [List.length_cons] at h
    rw [Memory.writeBytes, ih _ _ (by omega), Memory.read_write_ne _ _ (by omega)]

/-- Bytes written read back. -/
theorem Memory.read_writeBytes_inside (m : Memory) (a k : Nat) (bs : List Byte) (h : k < bs.length) :
    (m.writeBytes a bs).read (a + k) = bs[k] := by
  induction bs generalizing m a k with
  | nil => simp at h
  | cons b bs ih =>
    rw [Memory.writeBytes]
    cases k with
    | zero => rw [Memory.read_writeBytes_outside _ _ _ _ (by omega)]; simp
    | succ k =>
      have := ih (m.write a b) (a + 1) k (by simpa using h)
      rw [show a + (k + 1) = a + 1 + k by omega, this]; rfl

@[simp] theorem leBytes_length (n v : Nat) : (leBytes n v).length = n := by
  induction n generalizing v with
  | zero => rfl
  | succ n ih => simp [leBytes, ih]

theorem leValue_leBytes (n v : Nat) : leValue (leBytes n v) = v % 256 ^ n := by
  induction n generalizing v with
  | zero => simp [leBytes, leValue, Nat.mod_one]
  | succ n ih =>
    simp only [leBytes, leValue, ih, BitVec.toNat_ofNat]
    rw [show 256 ^ (n + 1) = 256 * 256 ^ n from by ring, Nat.mod_mul]

theorem Memory.readBytes_writeBytes (m : Memory) (a : Nat) (bs : List Byte) :
    (m.writeBytes a bs).readBytes a bs.length = bs := by
  induction bs generalizing m a with
  | nil => rfl
  | cons b bs ih =>
    simp only [List.length_cons, Memory.readBytes, Memory.writeBytes]
    rw [ih, Memory.read_writeBytes_outside _ _ _ _ (by omega)]; simp

/-- A little-endian value written reads back modulo its width. -/
theorem Memory.readLe_writeLe (m : Memory) (a n v : Nat) : (m.writeLe a n v).readLe a n = v % 256 ^ n := by
  have := Memory.readBytes_writeBytes m a (leBytes n v)
  rw [leBytes_length] at this
  rw [Memory.readLe, Memory.writeLe, this, leValue_leBytes]

/-- Two memories in canonical form that read alike are equal. -/
theorem Memory.ext_of_wf (m m' : Memory) (h : Memory.wf m = true) (h' : Memory.wf m' = true)
    (he : ∀ a, m.read a = m'.read a) : m = m' := by
  rw [Memory.wf_iff] at h h'
  have low : ∀ (k : Nat) (v : Byte) (r : Memory), (∀ e ∈ r, k < e.1) → ∀ x ≤ k, SMap.find? r x = none := by
    intro k v r hr x hx
    induction r with
    | nil => rfl
    | cons e r ih =>
      obtain ⟨k', w⟩ := e
      have : k < k' := hr (k', w) (List.mem_cons_self ..)
      simp only [SMap.find?]
      rw [if_neg (by omega)]
      exact ih fun e he => hr e (List.mem_cons_of_mem _ he)
  induction m generalizing m' with
  | nil =>
    cases m' with
    | nil => rfl
    | cons e r =>
      obtain ⟨k, v⟩ := e
      have := he k
      simp only [Memory.read, SMap.getD, SMap.find?, if_true, Option.getD] at this
      exact absurd this.symm (h'.2 (k, v) (List.mem_cons_self ..))
  | cons e r ih =>
    obtain ⟨k, v⟩ := e
    have hm := (SMap.wf_cons_iff k v r).mp h.1
    cases m' with
    | nil =>
      have := he k
      simp only [Memory.read, SMap.getD, SMap.find?, if_true, Option.getD] at this
      exact absurd this (h.2 (k, v) (List.mem_cons_self ..))
    | cons e' r' =>
      obtain ⟨k', v'⟩ := e'
      have hm' := (SMap.wf_cons_iff k' v' r').mp h'.1
      have hk : k = k' := by
        rcases Nat.lt_trichotomy k k' with hlt | heq | hgt
        · have := he k
          simp only [Memory.read, SMap.getD, SMap.find?, if_true, Option.getD_some] at this
          rw [if_neg (by omega), low k' v' r' hm'.1 k (by omega)] at this
          exact absurd this (h.2 (k, v) (List.mem_cons_self ..))
        · exact heq
        · have := he k'
          simp only [Memory.read, SMap.getD, SMap.find?, if_true, Option.getD_some] at this
          rw [if_neg (by omega), low k v r hm.1 k' (by omega)] at this
          exact absurd this.symm (h'.2 (k', v') (List.mem_cons_self ..))
      subst hk
      have hv : v = v' := by
        have := he k
        simpa only [Memory.read, SMap.getD, SMap.find?, if_true, Option.getD_some] using this
      subst hv
      rw [ih r' ⟨hm.2, fun e he => h.2 e (List.mem_cons_of_mem _ he)⟩ ⟨hm'.2, fun e he => h'.2 e (List.mem_cons_of_mem _ he)⟩]
      intro a
      by_cases ha : k = a
      · subst ha
        simp only [Memory.read, SMap.getD]
        rw [low k v r hm.1 k le_rfl, low k v r' hm'.1 k le_rfl]
      · have := he a
        simpa only [Memory.read, SMap.getD, SMap.find?, if_neg ha] using this

end Sys2Proof
end

