-- ==== Sys2Proof/Laws/State.lean ====
section
/-! SUPPORT. What each named update of the state leaves unchanged: one lemma for each field of each update. -/

namespace Sys2Proof.Machine

open Sys2Proof

@[simp] theorem State.setThread_groups (s : State) (tid : Nat) (x : Thread) : (s.setThread tid x).groups = s.groups := rfl
@[simp] theorem State.setThread_teams (s : State) (tid : Nat) (x : Thread) : (s.setThread tid x).teams = s.teams := rfl
@[simp] theorem State.setThread_clusters (s : State) (tid : Nat) (x : Thread) : (s.setThread tid x).clusters = s.clusters := rfl
@[simp] theorem State.setThread_cores (s : State) (tid : Nat) (x : Thread) : (s.setThread tid x).cores = s.cores := rfl
@[simp] theorem State.setThread_bundles (s : State) (tid : Nat) (x : Thread) : (s.setThread tid x).bundles = s.bundles := rfl
@[simp] theorem State.setThread_launches (s : State) (tid : Nat) (x : Thread) : (s.setThread tid x).launches = s.launches := rfl
@[simp] theorem State.setThread_worlds (s : State) (tid : Nat) (x : Thread) : (s.setThread tid x).worlds = s.worlds := rfl
@[simp] theorem State.setThread_quads (s : State) (tid : Nat) (x : Thread) : (s.setThread tid x).quads = s.quads := rfl
@[simp] theorem State.setThread_frames (s : State) (tid : Nat) (x : Thread) : (s.setThread tid x).frames = s.frames := rfl
@[simp] theorem State.setThread_mem (s : State) (tid : Nat) (x : Thread) : (s.setThread tid x).mem = s.mem := rfl
@[simp] theorem State.setThread_lines (s : State) (tid : Nat) (x : Thread) : (s.setThread tid x).lines = s.lines := rfl
@[simp] theorem State.setThread_ranges (s : State) (tid : Nat) (x : Thread) : (s.setThread tid x).ranges = s.ranges := rfl
@[simp] theorem State.setThread_time (s : State) (tid : Nat) (x : Thread) : (s.setThread tid x).time = s.time := rfl
@[simp] theorem State.setThread_span (s : State) (tid : Nat) (x : Thread) : (s.setThread tid x).span = s.span := rfl
@[simp] theorem State.setThread_late (s : State) (tid : Nat) (x : Thread) : (s.setThread tid x).late = s.late := rfl
@[simp] theorem State.setThread_early (s : State) (tid : Nat) (x : Thread) : (s.setThread tid x).early = s.early := rfl
@[simp] theorem State.setThread_latent (s : State) (tid : Nat) (x : Thread) : (s.setThread tid x).latent = s.latent := rfl
@[simp] theorem State.setThread_cur (s : State) (tid : Nat) (x : Thread) : (s.setThread tid x).cur = s.cur := rfl
@[simp] theorem State.setThread_turns (s : State) (tid : Nat) (x : Thread) : (s.setThread tid x).turns = s.turns := rfl
@[simp] theorem State.setThread_turnCount (s : State) (tid : Nat) (x : Thread) : (s.setThread tid x).turnCount = s.turnCount := rfl
@[simp] theorem State.setThread_freeCount (s : State) (tid : Nat) (x : Thread) : (s.setThread tid x).freeCount = s.freeCount := rfl
@[simp] theorem State.setThread_nextId (s : State) (tid : Nat) (x : Thread) : (s.setThread tid x).nextId = s.nextId := rfl
@[simp] theorem State.setThread_refs (s : State) (tid : Nat) (x : Thread) : (s.setThread tid x).refs = s.refs := rfl
@[simp] theorem State.setThread_bad (s : State) (tid : Nat) (x : Thread) : (s.setThread tid x).bad = s.bad := rfl
@[simp] theorem State.setThread_ladles (s : State) (tid : Nat) (x : Thread) : (s.setThread tid x).ladles = s.ladles := rfl
@[simp] theorem State.setThread_requests (s : State) (tid : Nat) (x : Thread) : (s.setThread tid x).requests = s.requests := rfl
@[simp] theorem State.setThread_services (s : State) (tid : Nat) (x : Thread) : (s.setThread tid x).services = s.services := rfl
@[simp] theorem State.setThread_purges (s : State) (tid : Nat) (x : Thread) : (s.setThread tid x).purges = s.purges := rfl
@[simp] theorem State.setThread_hostCaches (s : State) (tid : Nat) (x : Thread) : (s.setThread tid x).hostCaches = s.hostCaches := rfl
@[simp] theorem State.setThread_fabCaches (s : State) (tid : Nat) (x : Thread) : (s.setThread tid x).fabCaches = s.fabCaches := rfl
@[simp] theorem State.setThread_slices (s : State) (tid : Nat) (x : Thread) : (s.setThread tid x).slices = s.slices := rfl
@[simp] theorem State.setThread_toHost (s : State) (tid : Nat) (x : Thread) : (s.setThread tid x).toHost = s.toHost := rfl
@[simp] theorem State.setThread_msix (s : State) (tid : Nat) (x : Thread) : (s.setThread tid x).msix = s.msix := rfl
@[simp] theorem State.setThread_doe (s : State) (tid : Nat) (x : Thread) : (s.setThread tid x).doe = s.doe := rfl
@[simp] theorem State.setThread_mgmt (s : State) (tid : Nat) (x : Thread) : (s.setThread tid x).mgmt = s.mgmt := rfl
@[simp] theorem State.setThread_assayer (s : State) (tid : Nat) (x : Thread) : (s.setThread tid x).assayer = s.assayer := rfl
@[simp] theorem State.setThread_fabric (s : State) (tid : Nat) (x : Thread) : (s.setThread tid x).fabric = s.fabric := rfl
@[simp] theorem State.setThread_lastWinner (s : State) (tid : Nat) (x : Thread) : (s.setThread tid x).lastWinner = s.lastWinner := rfl
@[simp] theorem State.setThread_portKeys (s : State) (tid : Nat) (x : Thread) : (s.setThread tid x).portKeys = s.portKeys := rfl
@[simp] theorem State.setThread_flows (s : State) (tid : Nat) (x : Thread) : (s.setThread tid x).flows = s.flows := rfl
@[simp] theorem State.setThread_lastDraw (s : State) (tid : Nat) (x : Thread) : (s.setThread tid x).lastDraw = s.lastDraw := rfl
@[simp] theorem State.setThread_cellTimes (s : State) (tid : Nat) (x : Thread) : (s.setThread tid x).cellTimes = s.cellTimes := rfl

@[simp] theorem State.setGroup_threads (s : State) (gid : Nat) (x : Group) : (s.setGroup gid x).threads = s.threads := rfl
@[simp] theorem State.setGroup_teams (s : State) (gid : Nat) (x : Group) : (s.setGroup gid x).teams = s.teams := rfl
@[simp] theorem State.setGroup_clusters (s : State) (gid : Nat) (x : Group) : (s.setGroup gid x).clusters = s.clusters := rfl
@[simp] theorem State.setGroup_cores (s : State) (gid : Nat) (x : Group) : (s.setGroup gid x).cores = s.cores := rfl
@[simp] theorem State.setGroup_bundles (s : State) (gid : Nat) (x : Group) : (s.setGroup gid x).bundles = s.bundles := rfl
@[simp] theorem State.setGroup_launches (s : State) (gid : Nat) (x : Group) : (s.setGroup gid x).launches = s.launches := rfl
@[simp] theorem State.setGroup_worlds (s : State) (gid : Nat) (x : Group) : (s.setGroup gid x).worlds = s.worlds := rfl
@[simp] theorem State.setGroup_quads (s : State) (gid : Nat) (x : Group) : (s.setGroup gid x).quads = s.quads := rfl
@[simp] theorem State.setGroup_frames (s : State) (gid : Nat) (x : Group) : (s.setGroup gid x).frames = s.frames := rfl
@[simp] theorem State.setGroup_mem (s : State) (gid : Nat) (x : Group) : (s.setGroup gid x).mem = s.mem := rfl
@[simp] theorem State.setGroup_lines (s : State) (gid : Nat) (x : Group) : (s.setGroup gid x).lines = s.lines := rfl
@[simp] theorem State.setGroup_ranges (s : State) (gid : Nat) (x : Group) : (s.setGroup gid x).ranges = s.ranges := rfl
@[simp] theorem State.setGroup_time (s : State) (gid : Nat) (x : Group) : (s.setGroup gid x).time = s.time := rfl
@[simp] theorem State.setGroup_span (s : State) (gid : Nat) (x : Group) : (s.setGroup gid x).span = s.span := rfl
@[simp] theorem State.setGroup_late (s : State) (gid : Nat) (x : Group) : (s.setGroup gid x).late = s.late := rfl
@[simp] theorem State.setGroup_early (s : State) (gid : Nat) (x : Group) : (s.setGroup gid x).early = s.early := rfl
@[simp] theorem State.setGroup_latent (s : State) (gid : Nat) (x : Group) : (s.setGroup gid x).latent = s.latent := rfl
@[simp] theorem State.setGroup_cur (s : State) (gid : Nat) (x : Group) : (s.setGroup gid x).cur = s.cur := rfl
@[simp] theorem State.setGroup_turns (s : State) (gid : Nat) (x : Group) : (s.setGroup gid x).turns = s.turns := rfl
@[simp] theorem State.setGroup_turnCount (s : State) (gid : Nat) (x : Group) : (s.setGroup gid x).turnCount = s.turnCount := rfl
@[simp] theorem State.setGroup_freeCount (s : State) (gid : Nat) (x : Group) : (s.setGroup gid x).freeCount = s.freeCount := rfl
@[simp] theorem State.setGroup_nextId (s : State) (gid : Nat) (x : Group) : (s.setGroup gid x).nextId = s.nextId := rfl
@[simp] theorem State.setGroup_refs (s : State) (gid : Nat) (x : Group) : (s.setGroup gid x).refs = s.refs := rfl
@[simp] theorem State.setGroup_bad (s : State) (gid : Nat) (x : Group) : (s.setGroup gid x).bad = s.bad := rfl
@[simp] theorem State.setGroup_ladles (s : State) (gid : Nat) (x : Group) : (s.setGroup gid x).ladles = s.ladles := rfl
@[simp] theorem State.setGroup_requests (s : State) (gid : Nat) (x : Group) : (s.setGroup gid x).requests = s.requests := rfl
@[simp] theorem State.setGroup_services (s : State) (gid : Nat) (x : Group) : (s.setGroup gid x).services = s.services := rfl
@[simp] theorem State.setGroup_purges (s : State) (gid : Nat) (x : Group) : (s.setGroup gid x).purges = s.purges := rfl
@[simp] theorem State.setGroup_hostCaches (s : State) (gid : Nat) (x : Group) : (s.setGroup gid x).hostCaches = s.hostCaches := rfl
@[simp] theorem State.setGroup_fabCaches (s : State) (gid : Nat) (x : Group) : (s.setGroup gid x).fabCaches = s.fabCaches := rfl
@[simp] theorem State.setGroup_slices (s : State) (gid : Nat) (x : Group) : (s.setGroup gid x).slices = s.slices := rfl
@[simp] theorem State.setGroup_toHost (s : State) (gid : Nat) (x : Group) : (s.setGroup gid x).toHost = s.toHost := rfl
@[simp] theorem State.setGroup_msix (s : State) (gid : Nat) (x : Group) : (s.setGroup gid x).msix = s.msix := rfl
@[simp] theorem State.setGroup_doe (s : State) (gid : Nat) (x : Group) : (s.setGroup gid x).doe = s.doe := rfl
@[simp] theorem State.setGroup_mgmt (s : State) (gid : Nat) (x : Group) : (s.setGroup gid x).mgmt = s.mgmt := rfl
@[simp] theorem State.setGroup_assayer (s : State) (gid : Nat) (x : Group) : (s.setGroup gid x).assayer = s.assayer := rfl
@[simp] theorem State.setGroup_fabric (s : State) (gid : Nat) (x : Group) : (s.setGroup gid x).fabric = s.fabric := rfl
@[simp] theorem State.setGroup_lastWinner (s : State) (gid : Nat) (x : Group) : (s.setGroup gid x).lastWinner = s.lastWinner := rfl
@[simp] theorem State.setGroup_portKeys (s : State) (gid : Nat) (x : Group) : (s.setGroup gid x).portKeys = s.portKeys := rfl
@[simp] theorem State.setGroup_flows (s : State) (gid : Nat) (x : Group) : (s.setGroup gid x).flows = s.flows := rfl
@[simp] theorem State.setGroup_lastDraw (s : State) (gid : Nat) (x : Group) : (s.setGroup gid x).lastDraw = s.lastDraw := rfl
@[simp] theorem State.setGroup_cellTimes (s : State) (gid : Nat) (x : Group) : (s.setGroup gid x).cellTimes = s.cellTimes := rfl

@[simp] theorem State.setTeam_threads (s : State) (n : Nat) (x : Team) : (s.setTeam n x).threads = s.threads := rfl
@[simp] theorem State.setTeam_groups (s : State) (n : Nat) (x : Team) : (s.setTeam n x).groups = s.groups := rfl
@[simp] theorem State.setTeam_clusters (s : State) (n : Nat) (x : Team) : (s.setTeam n x).clusters = s.clusters := rfl
@[simp] theorem State.setTeam_cores (s : State) (n : Nat) (x : Team) : (s.setTeam n x).cores = s.cores := rfl
@[simp] theorem State.setTeam_bundles (s : State) (n : Nat) (x : Team) : (s.setTeam n x).bundles = s.bundles := rfl
@[simp] theorem State.setTeam_launches (s : State) (n : Nat) (x : Team) : (s.setTeam n x).launches = s.launches := rfl
@[simp] theorem State.setTeam_worlds (s : State) (n : Nat) (x : Team) : (s.setTeam n x).worlds = s.worlds := rfl
@[simp] theorem State.setTeam_quads (s : State) (n : Nat) (x : Team) : (s.setTeam n x).quads = s.quads := rfl
@[simp] theorem State.setTeam_frames (s : State) (n : Nat) (x : Team) : (s.setTeam n x).frames = s.frames := rfl
@[simp] theorem State.setTeam_mem (s : State) (n : Nat) (x : Team) : (s.setTeam n x).mem = s.mem := rfl
@[simp] theorem State.setTeam_lines (s : State) (n : Nat) (x : Team) : (s.setTeam n x).lines = s.lines := rfl
@[simp] theorem State.setTeam_ranges (s : State) (n : Nat) (x : Team) : (s.setTeam n x).ranges = s.ranges := rfl
@[simp] theorem State.setTeam_time (s : State) (n : Nat) (x : Team) : (s.setTeam n x).time = s.time := rfl
@[simp] theorem State.setTeam_span (s : State) (n : Nat) (x : Team) : (s.setTeam n x).span = s.span := rfl
@[simp] theorem State.setTeam_late (s : State) (n : Nat) (x : Team) : (s.setTeam n x).late = s.late := rfl
@[simp] theorem State.setTeam_early (s : State) (n : Nat) (x : Team) : (s.setTeam n x).early = s.early := rfl
@[simp] theorem State.setTeam_latent (s : State) (n : Nat) (x : Team) : (s.setTeam n x).latent = s.latent := rfl
@[simp] theorem State.setTeam_cur (s : State) (n : Nat) (x : Team) : (s.setTeam n x).cur = s.cur := rfl
@[simp] theorem State.setTeam_turns (s : State) (n : Nat) (x : Team) : (s.setTeam n x).turns = s.turns := rfl
@[simp] theorem State.setTeam_turnCount (s : State) (n : Nat) (x : Team) : (s.setTeam n x).turnCount = s.turnCount := rfl
@[simp] theorem State.setTeam_freeCount (s : State) (n : Nat) (x : Team) : (s.setTeam n x).freeCount = s.freeCount := rfl
@[simp] theorem State.setTeam_nextId (s : State) (n : Nat) (x : Team) : (s.setTeam n x).nextId = s.nextId := rfl
@[simp] theorem State.setTeam_refs (s : State) (n : Nat) (x : Team) : (s.setTeam n x).refs = s.refs := rfl
@[simp] theorem State.setTeam_bad (s : State) (n : Nat) (x : Team) : (s.setTeam n x).bad = s.bad := rfl
@[simp] theorem State.setTeam_ladles (s : State) (n : Nat) (x : Team) : (s.setTeam n x).ladles = s.ladles := rfl
@[simp] theorem State.setTeam_requests (s : State) (n : Nat) (x : Team) : (s.setTeam n x).requests = s.requests := rfl
@[simp] theorem State.setTeam_services (s : State) (n : Nat) (x : Team) : (s.setTeam n x).services = s.services := rfl
@[simp] theorem State.setTeam_purges (s : State) (n : Nat) (x : Team) : (s.setTeam n x).purges = s.purges := rfl
@[simp] theorem State.setTeam_hostCaches (s : State) (n : Nat) (x : Team) : (s.setTeam n x).hostCaches = s.hostCaches := rfl
@[simp] theorem State.setTeam_fabCaches (s : State) (n : Nat) (x : Team) : (s.setTeam n x).fabCaches = s.fabCaches := rfl
@[simp] theorem State.setTeam_slices (s : State) (n : Nat) (x : Team) : (s.setTeam n x).slices = s.slices := rfl
@[simp] theorem State.setTeam_toHost (s : State) (n : Nat) (x : Team) : (s.setTeam n x).toHost = s.toHost := rfl
@[simp] theorem State.setTeam_msix (s : State) (n : Nat) (x : Team) : (s.setTeam n x).msix = s.msix := rfl
@[simp] theorem State.setTeam_doe (s : State) (n : Nat) (x : Team) : (s.setTeam n x).doe = s.doe := rfl
@[simp] theorem State.setTeam_mgmt (s : State) (n : Nat) (x : Team) : (s.setTeam n x).mgmt = s.mgmt := rfl
@[simp] theorem State.setTeam_assayer (s : State) (n : Nat) (x : Team) : (s.setTeam n x).assayer = s.assayer := rfl
@[simp] theorem State.setTeam_fabric (s : State) (n : Nat) (x : Team) : (s.setTeam n x).fabric = s.fabric := rfl
@[simp] theorem State.setTeam_lastWinner (s : State) (n : Nat) (x : Team) : (s.setTeam n x).lastWinner = s.lastWinner := rfl
@[simp] theorem State.setTeam_portKeys (s : State) (n : Nat) (x : Team) : (s.setTeam n x).portKeys = s.portKeys := rfl
@[simp] theorem State.setTeam_flows (s : State) (n : Nat) (x : Team) : (s.setTeam n x).flows = s.flows := rfl
@[simp] theorem State.setTeam_lastDraw (s : State) (n : Nat) (x : Team) : (s.setTeam n x).lastDraw = s.lastDraw := rfl
@[simp] theorem State.setTeam_cellTimes (s : State) (n : Nat) (x : Team) : (s.setTeam n x).cellTimes = s.cellTimes := rfl

@[simp] theorem State.setLaunch_threads (s : State) (n : Nat) (x : Launch) : (s.setLaunch n x).threads = s.threads := rfl
@[simp] theorem State.setLaunch_groups (s : State) (n : Nat) (x : Launch) : (s.setLaunch n x).groups = s.groups := rfl
@[simp] theorem State.setLaunch_teams (s : State) (n : Nat) (x : Launch) : (s.setLaunch n x).teams = s.teams := rfl
@[simp] theorem State.setLaunch_clusters (s : State) (n : Nat) (x : Launch) : (s.setLaunch n x).clusters = s.clusters := rfl
@[simp] theorem State.setLaunch_cores (s : State) (n : Nat) (x : Launch) : (s.setLaunch n x).cores = s.cores := rfl
@[simp] theorem State.setLaunch_bundles (s : State) (n : Nat) (x : Launch) : (s.setLaunch n x).bundles = s.bundles := rfl
@[simp] theorem State.setLaunch_worlds (s : State) (n : Nat) (x : Launch) : (s.setLaunch n x).worlds = s.worlds := rfl
@[simp] theorem State.setLaunch_quads (s : State) (n : Nat) (x : Launch) : (s.setLaunch n x).quads = s.quads := rfl
@[simp] theorem State.setLaunch_frames (s : State) (n : Nat) (x : Launch) : (s.setLaunch n x).frames = s.frames := rfl
@[simp] theorem State.setLaunch_mem (s : State) (n : Nat) (x : Launch) : (s.setLaunch n x).mem = s.mem := rfl
@[simp] theorem State.setLaunch_lines (s : State) (n : Nat) (x : Launch) : (s.setLaunch n x).lines = s.lines := rfl
@[simp] theorem State.setLaunch_ranges (s : State) (n : Nat) (x : Launch) : (s.setLaunch n x).ranges = s.ranges := rfl
@[simp] theorem State.setLaunch_time (s : State) (n : Nat) (x : Launch) : (s.setLaunch n x).time = s.time := rfl
@[simp] theorem State.setLaunch_span (s : State) (n : Nat) (x : Launch) : (s.setLaunch n x).span = s.span := rfl
@[simp] theorem State.setLaunch_late (s : State) (n : Nat) (x : Launch) : (s.setLaunch n x).late = s.late := rfl
@[simp] theorem State.setLaunch_early (s : State) (n : Nat) (x : Launch) : (s.setLaunch n x).early = s.early := rfl
@[simp] theorem State.setLaunch_latent (s : State) (n : Nat) (x : Launch) : (s.setLaunch n x).latent = s.latent := rfl
@[simp] theorem State.setLaunch_cur (s : State) (n : Nat) (x : Launch) : (s.setLaunch n x).cur = s.cur := rfl
@[simp] theorem State.setLaunch_turns (s : State) (n : Nat) (x : Launch) : (s.setLaunch n x).turns = s.turns := rfl
@[simp] theorem State.setLaunch_turnCount (s : State) (n : Nat) (x : Launch) : (s.setLaunch n x).turnCount = s.turnCount := rfl
@[simp] theorem State.setLaunch_freeCount (s : State) (n : Nat) (x : Launch) : (s.setLaunch n x).freeCount = s.freeCount := rfl
@[simp] theorem State.setLaunch_nextId (s : State) (n : Nat) (x : Launch) : (s.setLaunch n x).nextId = s.nextId := rfl
@[simp] theorem State.setLaunch_refs (s : State) (n : Nat) (x : Launch) : (s.setLaunch n x).refs = s.refs := rfl
@[simp] theorem State.setLaunch_bad (s : State) (n : Nat) (x : Launch) : (s.setLaunch n x).bad = s.bad := rfl
@[simp] theorem State.setLaunch_ladles (s : State) (n : Nat) (x : Launch) : (s.setLaunch n x).ladles = s.ladles := rfl
@[simp] theorem State.setLaunch_requests (s : State) (n : Nat) (x : Launch) : (s.setLaunch n x).requests = s.requests := rfl
@[simp] theorem State.setLaunch_services (s : State) (n : Nat) (x : Launch) : (s.setLaunch n x).services = s.services := rfl
@[simp] theorem State.setLaunch_purges (s : State) (n : Nat) (x : Launch) : (s.setLaunch n x).purges = s.purges := rfl
@[simp] theorem State.setLaunch_hostCaches (s : State) (n : Nat) (x : Launch) : (s.setLaunch n x).hostCaches = s.hostCaches := rfl
@[simp] theorem State.setLaunch_fabCaches (s : State) (n : Nat) (x : Launch) : (s.setLaunch n x).fabCaches = s.fabCaches := rfl
@[simp] theorem State.setLaunch_slices (s : State) (n : Nat) (x : Launch) : (s.setLaunch n x).slices = s.slices := rfl
@[simp] theorem State.setLaunch_toHost (s : State) (n : Nat) (x : Launch) : (s.setLaunch n x).toHost = s.toHost := rfl
@[simp] theorem State.setLaunch_msix (s : State) (n : Nat) (x : Launch) : (s.setLaunch n x).msix = s.msix := rfl
@[simp] theorem State.setLaunch_doe (s : State) (n : Nat) (x : Launch) : (s.setLaunch n x).doe = s.doe := rfl
@[simp] theorem State.setLaunch_mgmt (s : State) (n : Nat) (x : Launch) : (s.setLaunch n x).mgmt = s.mgmt := rfl
@[simp] theorem State.setLaunch_assayer (s : State) (n : Nat) (x : Launch) : (s.setLaunch n x).assayer = s.assayer := rfl
@[simp] theorem State.setLaunch_fabric (s : State) (n : Nat) (x : Launch) : (s.setLaunch n x).fabric = s.fabric := rfl
@[simp] theorem State.setLaunch_lastWinner (s : State) (n : Nat) (x : Launch) : (s.setLaunch n x).lastWinner = s.lastWinner := rfl
@[simp] theorem State.setLaunch_portKeys (s : State) (n : Nat) (x : Launch) : (s.setLaunch n x).portKeys = s.portKeys := rfl
@[simp] theorem State.setLaunch_flows (s : State) (n : Nat) (x : Launch) : (s.setLaunch n x).flows = s.flows := rfl
@[simp] theorem State.setLaunch_lastDraw (s : State) (n : Nat) (x : Launch) : (s.setLaunch n x).lastDraw = s.lastDraw := rfl
@[simp] theorem State.setLaunch_cellTimes (s : State) (n : Nat) (x : Launch) : (s.setLaunch n x).cellTimes = s.cellTimes := rfl

@[simp] theorem State.setCore_threads (s : State) (n : Nat) (x : Core) : (s.setCore n x).threads = s.threads := rfl
@[simp] theorem State.setCore_groups (s : State) (n : Nat) (x : Core) : (s.setCore n x).groups = s.groups := rfl
@[simp] theorem State.setCore_teams (s : State) (n : Nat) (x : Core) : (s.setCore n x).teams = s.teams := rfl
@[simp] theorem State.setCore_clusters (s : State) (n : Nat) (x : Core) : (s.setCore n x).clusters = s.clusters := rfl
@[simp] theorem State.setCore_bundles (s : State) (n : Nat) (x : Core) : (s.setCore n x).bundles = s.bundles := rfl
@[simp] theorem State.setCore_launches (s : State) (n : Nat) (x : Core) : (s.setCore n x).launches = s.launches := rfl
@[simp] theorem State.setCore_worlds (s : State) (n : Nat) (x : Core) : (s.setCore n x).worlds = s.worlds := rfl
@[simp] theorem State.setCore_quads (s : State) (n : Nat) (x : Core) : (s.setCore n x).quads = s.quads := rfl
@[simp] theorem State.setCore_frames (s : State) (n : Nat) (x : Core) : (s.setCore n x).frames = s.frames := rfl
@[simp] theorem State.setCore_mem (s : State) (n : Nat) (x : Core) : (s.setCore n x).mem = s.mem := rfl
@[simp] theorem State.setCore_lines (s : State) (n : Nat) (x : Core) : (s.setCore n x).lines = s.lines := rfl
@[simp] theorem State.setCore_ranges (s : State) (n : Nat) (x : Core) : (s.setCore n x).ranges = s.ranges := rfl
@[simp] theorem State.setCore_time (s : State) (n : Nat) (x : Core) : (s.setCore n x).time = s.time := rfl
@[simp] theorem State.setCore_span (s : State) (n : Nat) (x : Core) : (s.setCore n x).span = s.span := rfl
@[simp] theorem State.setCore_late (s : State) (n : Nat) (x : Core) : (s.setCore n x).late = s.late := rfl
@[simp] theorem State.setCore_early (s : State) (n : Nat) (x : Core) : (s.setCore n x).early = s.early := rfl
@[simp] theorem State.setCore_latent (s : State) (n : Nat) (x : Core) : (s.setCore n x).latent = s.latent := rfl
@[simp] theorem State.setCore_cur (s : State) (n : Nat) (x : Core) : (s.setCore n x).cur = s.cur := rfl
@[simp] theorem State.setCore_turns (s : State) (n : Nat) (x : Core) : (s.setCore n x).turns = s.turns := rfl
@[simp] theorem State.setCore_turnCount (s : State) (n : Nat) (x : Core) : (s.setCore n x).turnCount = s.turnCount := rfl
@[simp] theorem State.setCore_freeCount (s : State) (n : Nat) (x : Core) : (s.setCore n x).freeCount = s.freeCount := rfl
@[simp] theorem State.setCore_nextId (s : State) (n : Nat) (x : Core) : (s.setCore n x).nextId = s.nextId := rfl
@[simp] theorem State.setCore_refs (s : State) (n : Nat) (x : Core) : (s.setCore n x).refs = s.refs := rfl
@[simp] theorem State.setCore_bad (s : State) (n : Nat) (x : Core) : (s.setCore n x).bad = s.bad := rfl
@[simp] theorem State.setCore_ladles (s : State) (n : Nat) (x : Core) : (s.setCore n x).ladles = s.ladles := rfl
@[simp] theorem State.setCore_requests (s : State) (n : Nat) (x : Core) : (s.setCore n x).requests = s.requests := rfl
@[simp] theorem State.setCore_services (s : State) (n : Nat) (x : Core) : (s.setCore n x).services = s.services := rfl
@[simp] theorem State.setCore_purges (s : State) (n : Nat) (x : Core) : (s.setCore n x).purges = s.purges := rfl
@[simp] theorem State.setCore_hostCaches (s : State) (n : Nat) (x : Core) : (s.setCore n x).hostCaches = s.hostCaches := rfl
@[simp] theorem State.setCore_fabCaches (s : State) (n : Nat) (x : Core) : (s.setCore n x).fabCaches = s.fabCaches := rfl
@[simp] theorem State.setCore_slices (s : State) (n : Nat) (x : Core) : (s.setCore n x).slices = s.slices := rfl
@[simp] theorem State.setCore_toHost (s : State) (n : Nat) (x : Core) : (s.setCore n x).toHost = s.toHost := rfl
@[simp] theorem State.setCore_msix (s : State) (n : Nat) (x : Core) : (s.setCore n x).msix = s.msix := rfl
@[simp] theorem State.setCore_doe (s : State) (n : Nat) (x : Core) : (s.setCore n x).doe = s.doe := rfl
@[simp] theorem State.setCore_mgmt (s : State) (n : Nat) (x : Core) : (s.setCore n x).mgmt = s.mgmt := rfl
@[simp] theorem State.setCore_assayer (s : State) (n : Nat) (x : Core) : (s.setCore n x).assayer = s.assayer := rfl
@[simp] theorem State.setCore_fabric (s : State) (n : Nat) (x : Core) : (s.setCore n x).fabric = s.fabric := rfl
@[simp] theorem State.setCore_lastWinner (s : State) (n : Nat) (x : Core) : (s.setCore n x).lastWinner = s.lastWinner := rfl
@[simp] theorem State.setCore_portKeys (s : State) (n : Nat) (x : Core) : (s.setCore n x).portKeys = s.portKeys := rfl
@[simp] theorem State.setCore_flows (s : State) (n : Nat) (x : Core) : (s.setCore n x).flows = s.flows := rfl
@[simp] theorem State.setCore_lastDraw (s : State) (n : Nat) (x : Core) : (s.setCore n x).lastDraw = s.lastDraw := rfl
@[simp] theorem State.setCore_cellTimes (s : State) (n : Nat) (x : Core) : (s.setCore n x).cellTimes = s.cellTimes := rfl

@[simp] theorem State.setQuad_threads (s : State) (n : Nat) (x : Quad) : (s.setQuad n x).threads = s.threads := rfl
@[simp] theorem State.setQuad_groups (s : State) (n : Nat) (x : Quad) : (s.setQuad n x).groups = s.groups := rfl
@[simp] theorem State.setQuad_teams (s : State) (n : Nat) (x : Quad) : (s.setQuad n x).teams = s.teams := rfl
@[simp] theorem State.setQuad_clusters (s : State) (n : Nat) (x : Quad) : (s.setQuad n x).clusters = s.clusters := rfl
@[simp] theorem State.setQuad_cores (s : State) (n : Nat) (x : Quad) : (s.setQuad n x).cores = s.cores := rfl
@[simp] theorem State.setQuad_bundles (s : State) (n : Nat) (x : Quad) : (s.setQuad n x).bundles = s.bundles := rfl
@[simp] theorem State.setQuad_launches (s : State) (n : Nat) (x : Quad) : (s.setQuad n x).launches = s.launches := rfl
@[simp] theorem State.setQuad_worlds (s : State) (n : Nat) (x : Quad) : (s.setQuad n x).worlds = s.worlds := rfl
@[simp] theorem State.setQuad_frames (s : State) (n : Nat) (x : Quad) : (s.setQuad n x).frames = s.frames := rfl
@[simp] theorem State.setQuad_mem (s : State) (n : Nat) (x : Quad) : (s.setQuad n x).mem = s.mem := rfl
@[simp] theorem State.setQuad_lines (s : State) (n : Nat) (x : Quad) : (s.setQuad n x).lines = s.lines := rfl
@[simp] theorem State.setQuad_ranges (s : State) (n : Nat) (x : Quad) : (s.setQuad n x).ranges = s.ranges := rfl
@[simp] theorem State.setQuad_time (s : State) (n : Nat) (x : Quad) : (s.setQuad n x).time = s.time := rfl
@[simp] theorem State.setQuad_span (s : State) (n : Nat) (x : Quad) : (s.setQuad n x).span = s.span := rfl
@[simp] theorem State.setQuad_late (s : State) (n : Nat) (x : Quad) : (s.setQuad n x).late = s.late := rfl
@[simp] theorem State.setQuad_early (s : State) (n : Nat) (x : Quad) : (s.setQuad n x).early = s.early := rfl
@[simp] theorem State.setQuad_latent (s : State) (n : Nat) (x : Quad) : (s.setQuad n x).latent = s.latent := rfl
@[simp] theorem State.setQuad_cur (s : State) (n : Nat) (x : Quad) : (s.setQuad n x).cur = s.cur := rfl
@[simp] theorem State.setQuad_turns (s : State) (n : Nat) (x : Quad) : (s.setQuad n x).turns = s.turns := rfl
@[simp] theorem State.setQuad_turnCount (s : State) (n : Nat) (x : Quad) : (s.setQuad n x).turnCount = s.turnCount := rfl
@[simp] theorem State.setQuad_freeCount (s : State) (n : Nat) (x : Quad) : (s.setQuad n x).freeCount = s.freeCount := rfl
@[simp] theorem State.setQuad_nextId (s : State) (n : Nat) (x : Quad) : (s.setQuad n x).nextId = s.nextId := rfl
@[simp] theorem State.setQuad_refs (s : State) (n : Nat) (x : Quad) : (s.setQuad n x).refs = s.refs := rfl
@[simp] theorem State.setQuad_bad (s : State) (n : Nat) (x : Quad) : (s.setQuad n x).bad = s.bad := rfl
@[simp] theorem State.setQuad_ladles (s : State) (n : Nat) (x : Quad) : (s.setQuad n x).ladles = s.ladles := rfl
@[simp] theorem State.setQuad_requests (s : State) (n : Nat) (x : Quad) : (s.setQuad n x).requests = s.requests := rfl
@[simp] theorem State.setQuad_services (s : State) (n : Nat) (x : Quad) : (s.setQuad n x).services = s.services := rfl
@[simp] theorem State.setQuad_purges (s : State) (n : Nat) (x : Quad) : (s.setQuad n x).purges = s.purges := rfl
@[simp] theorem State.setQuad_hostCaches (s : State) (n : Nat) (x : Quad) : (s.setQuad n x).hostCaches = s.hostCaches := rfl
@[simp] theorem State.setQuad_fabCaches (s : State) (n : Nat) (x : Quad) : (s.setQuad n x).fabCaches = s.fabCaches := rfl
@[simp] theorem State.setQuad_slices (s : State) (n : Nat) (x : Quad) : (s.setQuad n x).slices = s.slices := rfl
@[simp] theorem State.setQuad_toHost (s : State) (n : Nat) (x : Quad) : (s.setQuad n x).toHost = s.toHost := rfl
@[simp] theorem State.setQuad_msix (s : State) (n : Nat) (x : Quad) : (s.setQuad n x).msix = s.msix := rfl
@[simp] theorem State.setQuad_doe (s : State) (n : Nat) (x : Quad) : (s.setQuad n x).doe = s.doe := rfl
@[simp] theorem State.setQuad_mgmt (s : State) (n : Nat) (x : Quad) : (s.setQuad n x).mgmt = s.mgmt := rfl
@[simp] theorem State.setQuad_assayer (s : State) (n : Nat) (x : Quad) : (s.setQuad n x).assayer = s.assayer := rfl
@[simp] theorem State.setQuad_fabric (s : State) (n : Nat) (x : Quad) : (s.setQuad n x).fabric = s.fabric := rfl
@[simp] theorem State.setQuad_lastWinner (s : State) (n : Nat) (x : Quad) : (s.setQuad n x).lastWinner = s.lastWinner := rfl
@[simp] theorem State.setQuad_portKeys (s : State) (n : Nat) (x : Quad) : (s.setQuad n x).portKeys = s.portKeys := rfl
@[simp] theorem State.setQuad_flows (s : State) (n : Nat) (x : Quad) : (s.setQuad n x).flows = s.flows := rfl
@[simp] theorem State.setQuad_lastDraw (s : State) (n : Nat) (x : Quad) : (s.setQuad n x).lastDraw = s.lastDraw := rfl
@[simp] theorem State.setQuad_cellTimes (s : State) (n : Nat) (x : Quad) : (s.setQuad n x).cellTimes = s.cellTimes := rfl

@[simp] theorem State.setWorld_threads (s : State) (n : Nat) (x : World) : (s.setWorld n x).threads = s.threads := rfl
@[simp] theorem State.setWorld_groups (s : State) (n : Nat) (x : World) : (s.setWorld n x).groups = s.groups := rfl
@[simp] theorem State.setWorld_teams (s : State) (n : Nat) (x : World) : (s.setWorld n x).teams = s.teams := rfl
@[simp] theorem State.setWorld_clusters (s : State) (n : Nat) (x : World) : (s.setWorld n x).clusters = s.clusters := rfl
@[simp] theorem State.setWorld_cores (s : State) (n : Nat) (x : World) : (s.setWorld n x).cores = s.cores := rfl
@[simp] theorem State.setWorld_bundles (s : State) (n : Nat) (x : World) : (s.setWorld n x).bundles = s.bundles := rfl
@[simp] theorem State.setWorld_launches (s : State) (n : Nat) (x : World) : (s.setWorld n x).launches = s.launches := rfl
@[simp] theorem State.setWorld_quads (s : State) (n : Nat) (x : World) : (s.setWorld n x).quads = s.quads := rfl
@[simp] theorem State.setWorld_frames (s : State) (n : Nat) (x : World) : (s.setWorld n x).frames = s.frames := rfl
@[simp] theorem State.setWorld_mem (s : State) (n : Nat) (x : World) : (s.setWorld n x).mem = s.mem := rfl
@[simp] theorem State.setWorld_lines (s : State) (n : Nat) (x : World) : (s.setWorld n x).lines = s.lines := rfl
@[simp] theorem State.setWorld_ranges (s : State) (n : Nat) (x : World) : (s.setWorld n x).ranges = s.ranges := rfl
@[simp] theorem State.setWorld_time (s : State) (n : Nat) (x : World) : (s.setWorld n x).time = s.time := rfl
@[simp] theorem State.setWorld_span (s : State) (n : Nat) (x : World) : (s.setWorld n x).span = s.span := rfl
@[simp] theorem State.setWorld_late (s : State) (n : Nat) (x : World) : (s.setWorld n x).late = s.late := rfl
@[simp] theorem State.setWorld_early (s : State) (n : Nat) (x : World) : (s.setWorld n x).early = s.early := rfl
@[simp] theorem State.setWorld_latent (s : State) (n : Nat) (x : World) : (s.setWorld n x).latent = s.latent := rfl
@[simp] theorem State.setWorld_cur (s : State) (n : Nat) (x : World) : (s.setWorld n x).cur = s.cur := rfl
@[simp] theorem State.setWorld_turns (s : State) (n : Nat) (x : World) : (s.setWorld n x).turns = s.turns := rfl
@[simp] theorem State.setWorld_turnCount (s : State) (n : Nat) (x : World) : (s.setWorld n x).turnCount = s.turnCount := rfl
@[simp] theorem State.setWorld_freeCount (s : State) (n : Nat) (x : World) : (s.setWorld n x).freeCount = s.freeCount := rfl
@[simp] theorem State.setWorld_nextId (s : State) (n : Nat) (x : World) : (s.setWorld n x).nextId = s.nextId := rfl
@[simp] theorem State.setWorld_refs (s : State) (n : Nat) (x : World) : (s.setWorld n x).refs = s.refs := rfl
@[simp] theorem State.setWorld_bad (s : State) (n : Nat) (x : World) : (s.setWorld n x).bad = s.bad := rfl
@[simp] theorem State.setWorld_ladles (s : State) (n : Nat) (x : World) : (s.setWorld n x).ladles = s.ladles := rfl
@[simp] theorem State.setWorld_requests (s : State) (n : Nat) (x : World) : (s.setWorld n x).requests = s.requests := rfl
@[simp] theorem State.setWorld_services (s : State) (n : Nat) (x : World) : (s.setWorld n x).services = s.services := rfl
@[simp] theorem State.setWorld_purges (s : State) (n : Nat) (x : World) : (s.setWorld n x).purges = s.purges := rfl
@[simp] theorem State.setWorld_hostCaches (s : State) (n : Nat) (x : World) : (s.setWorld n x).hostCaches = s.hostCaches := rfl
@[simp] theorem State.setWorld_fabCaches (s : State) (n : Nat) (x : World) : (s.setWorld n x).fabCaches = s.fabCaches := rfl
@[simp] theorem State.setWorld_slices (s : State) (n : Nat) (x : World) : (s.setWorld n x).slices = s.slices := rfl
@[simp] theorem State.setWorld_toHost (s : State) (n : Nat) (x : World) : (s.setWorld n x).toHost = s.toHost := rfl
@[simp] theorem State.setWorld_msix (s : State) (n : Nat) (x : World) : (s.setWorld n x).msix = s.msix := rfl
@[simp] theorem State.setWorld_doe (s : State) (n : Nat) (x : World) : (s.setWorld n x).doe = s.doe := rfl
@[simp] theorem State.setWorld_mgmt (s : State) (n : Nat) (x : World) : (s.setWorld n x).mgmt = s.mgmt := rfl
@[simp] theorem State.setWorld_assayer (s : State) (n : Nat) (x : World) : (s.setWorld n x).assayer = s.assayer := rfl
@[simp] theorem State.setWorld_fabric (s : State) (n : Nat) (x : World) : (s.setWorld n x).fabric = s.fabric := rfl
@[simp] theorem State.setWorld_lastWinner (s : State) (n : Nat) (x : World) : (s.setWorld n x).lastWinner = s.lastWinner := rfl
@[simp] theorem State.setWorld_portKeys (s : State) (n : Nat) (x : World) : (s.setWorld n x).portKeys = s.portKeys := rfl
@[simp] theorem State.setWorld_flows (s : State) (n : Nat) (x : World) : (s.setWorld n x).flows = s.flows := rfl
@[simp] theorem State.setWorld_lastDraw (s : State) (n : Nat) (x : World) : (s.setWorld n x).lastDraw = s.lastDraw := rfl
@[simp] theorem State.setWorld_cellTimes (s : State) (n : Nat) (x : World) : (s.setWorld n x).cellTimes = s.cellTimes := rfl

@[simp] theorem State.setFrame_threads (s : State) (n : Nat) (x : Frame) : (s.setFrame n x).threads = s.threads := rfl
@[simp] theorem State.setFrame_groups (s : State) (n : Nat) (x : Frame) : (s.setFrame n x).groups = s.groups := rfl
@[simp] theorem State.setFrame_teams (s : State) (n : Nat) (x : Frame) : (s.setFrame n x).teams = s.teams := rfl
@[simp] theorem State.setFrame_clusters (s : State) (n : Nat) (x : Frame) : (s.setFrame n x).clusters = s.clusters := rfl
@[simp] theorem State.setFrame_cores (s : State) (n : Nat) (x : Frame) : (s.setFrame n x).cores = s.cores := rfl
@[simp] theorem State.setFrame_bundles (s : State) (n : Nat) (x : Frame) : (s.setFrame n x).bundles = s.bundles := rfl
@[simp] theorem State.setFrame_launches (s : State) (n : Nat) (x : Frame) : (s.setFrame n x).launches = s.launches := rfl
@[simp] theorem State.setFrame_worlds (s : State) (n : Nat) (x : Frame) : (s.setFrame n x).worlds = s.worlds := rfl
@[simp] theorem State.setFrame_quads (s : State) (n : Nat) (x : Frame) : (s.setFrame n x).quads = s.quads := rfl
@[simp] theorem State.setFrame_mem (s : State) (n : Nat) (x : Frame) : (s.setFrame n x).mem = s.mem := rfl
@[simp] theorem State.setFrame_lines (s : State) (n : Nat) (x : Frame) : (s.setFrame n x).lines = s.lines := rfl
@[simp] theorem State.setFrame_ranges (s : State) (n : Nat) (x : Frame) : (s.setFrame n x).ranges = s.ranges := rfl
@[simp] theorem State.setFrame_time (s : State) (n : Nat) (x : Frame) : (s.setFrame n x).time = s.time := rfl
@[simp] theorem State.setFrame_span (s : State) (n : Nat) (x : Frame) : (s.setFrame n x).span = s.span := rfl
@[simp] theorem State.setFrame_late (s : State) (n : Nat) (x : Frame) : (s.setFrame n x).late = s.late := rfl
@[simp] theorem State.setFrame_early (s : State) (n : Nat) (x : Frame) : (s.setFrame n x).early = s.early := rfl
@[simp] theorem State.setFrame_latent (s : State) (n : Nat) (x : Frame) : (s.setFrame n x).latent = s.latent := rfl
@[simp] theorem State.setFrame_cur (s : State) (n : Nat) (x : Frame) : (s.setFrame n x).cur = s.cur := rfl
@[simp] theorem State.setFrame_turns (s : State) (n : Nat) (x : Frame) : (s.setFrame n x).turns = s.turns := rfl
@[simp] theorem State.setFrame_turnCount (s : State) (n : Nat) (x : Frame) : (s.setFrame n x).turnCount = s.turnCount := rfl
@[simp] theorem State.setFrame_freeCount (s : State) (n : Nat) (x : Frame) : (s.setFrame n x).freeCount = s.freeCount := rfl
@[simp] theorem State.setFrame_nextId (s : State) (n : Nat) (x : Frame) : (s.setFrame n x).nextId = s.nextId := rfl
@[simp] theorem State.setFrame_refs (s : State) (n : Nat) (x : Frame) : (s.setFrame n x).refs = s.refs := rfl
@[simp] theorem State.setFrame_bad (s : State) (n : Nat) (x : Frame) : (s.setFrame n x).bad = s.bad := rfl
@[simp] theorem State.setFrame_ladles (s : State) (n : Nat) (x : Frame) : (s.setFrame n x).ladles = s.ladles := rfl
@[simp] theorem State.setFrame_requests (s : State) (n : Nat) (x : Frame) : (s.setFrame n x).requests = s.requests := rfl
@[simp] theorem State.setFrame_services (s : State) (n : Nat) (x : Frame) : (s.setFrame n x).services = s.services := rfl
@[simp] theorem State.setFrame_purges (s : State) (n : Nat) (x : Frame) : (s.setFrame n x).purges = s.purges := rfl
@[simp] theorem State.setFrame_hostCaches (s : State) (n : Nat) (x : Frame) : (s.setFrame n x).hostCaches = s.hostCaches := rfl
@[simp] theorem State.setFrame_fabCaches (s : State) (n : Nat) (x : Frame) : (s.setFrame n x).fabCaches = s.fabCaches := rfl
@[simp] theorem State.setFrame_slices (s : State) (n : Nat) (x : Frame) : (s.setFrame n x).slices = s.slices := rfl
@[simp] theorem State.setFrame_toHost (s : State) (n : Nat) (x : Frame) : (s.setFrame n x).toHost = s.toHost := rfl
@[simp] theorem State.setFrame_msix (s : State) (n : Nat) (x : Frame) : (s.setFrame n x).msix = s.msix := rfl
@[simp] theorem State.setFrame_doe (s : State) (n : Nat) (x : Frame) : (s.setFrame n x).doe = s.doe := rfl
@[simp] theorem State.setFrame_mgmt (s : State) (n : Nat) (x : Frame) : (s.setFrame n x).mgmt = s.mgmt := rfl
@[simp] theorem State.setFrame_assayer (s : State) (n : Nat) (x : Frame) : (s.setFrame n x).assayer = s.assayer := rfl
@[simp] theorem State.setFrame_fabric (s : State) (n : Nat) (x : Frame) : (s.setFrame n x).fabric = s.fabric := rfl
@[simp] theorem State.setFrame_lastWinner (s : State) (n : Nat) (x : Frame) : (s.setFrame n x).lastWinner = s.lastWinner := rfl
@[simp] theorem State.setFrame_portKeys (s : State) (n : Nat) (x : Frame) : (s.setFrame n x).portKeys = s.portKeys := rfl
@[simp] theorem State.setFrame_flows (s : State) (n : Nat) (x : Frame) : (s.setFrame n x).flows = s.flows := rfl
@[simp] theorem State.setFrame_lastDraw (s : State) (n : Nat) (x : Frame) : (s.setFrame n x).lastDraw = s.lastDraw := rfl
@[simp] theorem State.setFrame_cellTimes (s : State) (n : Nat) (x : Frame) : (s.setFrame n x).cellTimes = s.cellTimes := rfl

@[simp] theorem State.setLine_threads (s : State) (n : Nat) (x : Line) : (s.setLine n x).threads = s.threads := rfl
@[simp] theorem State.setLine_groups (s : State) (n : Nat) (x : Line) : (s.setLine n x).groups = s.groups := rfl
@[simp] theorem State.setLine_teams (s : State) (n : Nat) (x : Line) : (s.setLine n x).teams = s.teams := rfl
@[simp] theorem State.setLine_clusters (s : State) (n : Nat) (x : Line) : (s.setLine n x).clusters = s.clusters := rfl
@[simp] theorem State.setLine_cores (s : State) (n : Nat) (x : Line) : (s.setLine n x).cores = s.cores := rfl
@[simp] theorem State.setLine_bundles (s : State) (n : Nat) (x : Line) : (s.setLine n x).bundles = s.bundles := rfl
@[simp] theorem State.setLine_launches (s : State) (n : Nat) (x : Line) : (s.setLine n x).launches = s.launches := rfl
@[simp] theorem State.setLine_worlds (s : State) (n : Nat) (x : Line) : (s.setLine n x).worlds = s.worlds := rfl
@[simp] theorem State.setLine_quads (s : State) (n : Nat) (x : Line) : (s.setLine n x).quads = s.quads := rfl
@[simp] theorem State.setLine_frames (s : State) (n : Nat) (x : Line) : (s.setLine n x).frames = s.frames := rfl
@[simp] theorem State.setLine_mem (s : State) (n : Nat) (x : Line) : (s.setLine n x).mem = s.mem := rfl
@[simp] theorem State.setLine_ranges (s : State) (n : Nat) (x : Line) : (s.setLine n x).ranges = s.ranges := rfl
@[simp] theorem State.setLine_time (s : State) (n : Nat) (x : Line) : (s.setLine n x).time = s.time := rfl
@[simp] theorem State.setLine_span (s : State) (n : Nat) (x : Line) : (s.setLine n x).span = s.span := rfl
@[simp] theorem State.setLine_late (s : State) (n : Nat) (x : Line) : (s.setLine n x).late = s.late := rfl
@[simp] theorem State.setLine_early (s : State) (n : Nat) (x : Line) : (s.setLine n x).early = s.early := rfl
@[simp] theorem State.setLine_latent (s : State) (n : Nat) (x : Line) : (s.setLine n x).latent = s.latent := rfl
@[simp] theorem State.setLine_cur (s : State) (n : Nat) (x : Line) : (s.setLine n x).cur = s.cur := rfl
@[simp] theorem State.setLine_turns (s : State) (n : Nat) (x : Line) : (s.setLine n x).turns = s.turns := rfl
@[simp] theorem State.setLine_turnCount (s : State) (n : Nat) (x : Line) : (s.setLine n x).turnCount = s.turnCount := rfl
@[simp] theorem State.setLine_freeCount (s : State) (n : Nat) (x : Line) : (s.setLine n x).freeCount = s.freeCount := rfl
@[simp] theorem State.setLine_nextId (s : State) (n : Nat) (x : Line) : (s.setLine n x).nextId = s.nextId := rfl
@[simp] theorem State.setLine_refs (s : State) (n : Nat) (x : Line) : (s.setLine n x).refs = s.refs := rfl
@[simp] theorem State.setLine_bad (s : State) (n : Nat) (x : Line) : (s.setLine n x).bad = s.bad := rfl
@[simp] theorem State.setLine_ladles (s : State) (n : Nat) (x : Line) : (s.setLine n x).ladles = s.ladles := rfl
@[simp] theorem State.setLine_requests (s : State) (n : Nat) (x : Line) : (s.setLine n x).requests = s.requests := rfl
@[simp] theorem State.setLine_services (s : State) (n : Nat) (x : Line) : (s.setLine n x).services = s.services := rfl
@[simp] theorem State.setLine_purges (s : State) (n : Nat) (x : Line) : (s.setLine n x).purges = s.purges := rfl
@[simp] theorem State.setLine_hostCaches (s : State) (n : Nat) (x : Line) : (s.setLine n x).hostCaches = s.hostCaches := rfl
@[simp] theorem State.setLine_fabCaches (s : State) (n : Nat) (x : Line) : (s.setLine n x).fabCaches = s.fabCaches := rfl
@[simp] theorem State.setLine_slices (s : State) (n : Nat) (x : Line) : (s.setLine n x).slices = s.slices := rfl
@[simp] theorem State.setLine_toHost (s : State) (n : Nat) (x : Line) : (s.setLine n x).toHost = s.toHost := rfl
@[simp] theorem State.setLine_msix (s : State) (n : Nat) (x : Line) : (s.setLine n x).msix = s.msix := rfl
@[simp] theorem State.setLine_doe (s : State) (n : Nat) (x : Line) : (s.setLine n x).doe = s.doe := rfl
@[simp] theorem State.setLine_mgmt (s : State) (n : Nat) (x : Line) : (s.setLine n x).mgmt = s.mgmt := rfl
@[simp] theorem State.setLine_assayer (s : State) (n : Nat) (x : Line) : (s.setLine n x).assayer = s.assayer := rfl
@[simp] theorem State.setLine_fabric (s : State) (n : Nat) (x : Line) : (s.setLine n x).fabric = s.fabric := rfl
@[simp] theorem State.setLine_lastWinner (s : State) (n : Nat) (x : Line) : (s.setLine n x).lastWinner = s.lastWinner := rfl
@[simp] theorem State.setLine_portKeys (s : State) (n : Nat) (x : Line) : (s.setLine n x).portKeys = s.portKeys := rfl
@[simp] theorem State.setLine_flows (s : State) (n : Nat) (x : Line) : (s.setLine n x).flows = s.flows := rfl
@[simp] theorem State.setLine_lastDraw (s : State) (n : Nat) (x : Line) : (s.setLine n x).lastDraw = s.lastDraw := rfl
@[simp] theorem State.setLine_cellTimes (s : State) (n : Nat) (x : Line) : (s.setLine n x).cellTimes = s.cellTimes := rfl

@[simp] theorem State.setLadle_threads (s : State) (n : Nat) (x : Ladle) : (s.setLadle n x).threads = s.threads := rfl
@[simp] theorem State.setLadle_groups (s : State) (n : Nat) (x : Ladle) : (s.setLadle n x).groups = s.groups := rfl
@[simp] theorem State.setLadle_teams (s : State) (n : Nat) (x : Ladle) : (s.setLadle n x).teams = s.teams := rfl
@[simp] theorem State.setLadle_clusters (s : State) (n : Nat) (x : Ladle) : (s.setLadle n x).clusters = s.clusters := rfl
@[simp] theorem State.setLadle_cores (s : State) (n : Nat) (x : Ladle) : (s.setLadle n x).cores = s.cores := rfl
@[simp] theorem State.setLadle_bundles (s : State) (n : Nat) (x : Ladle) : (s.setLadle n x).bundles = s.bundles := rfl
@[simp] theorem State.setLadle_launches (s : State) (n : Nat) (x : Ladle) : (s.setLadle n x).launches = s.launches := rfl
@[simp] theorem State.setLadle_worlds (s : State) (n : Nat) (x : Ladle) : (s.setLadle n x).worlds = s.worlds := rfl
@[simp] theorem State.setLadle_quads (s : State) (n : Nat) (x : Ladle) : (s.setLadle n x).quads = s.quads := rfl
@[simp] theorem State.setLadle_frames (s : State) (n : Nat) (x : Ladle) : (s.setLadle n x).frames = s.frames := rfl
@[simp] theorem State.setLadle_mem (s : State) (n : Nat) (x : Ladle) : (s.setLadle n x).mem = s.mem := rfl
@[simp] theorem State.setLadle_lines (s : State) (n : Nat) (x : Ladle) : (s.setLadle n x).lines = s.lines := rfl
@[simp] theorem State.setLadle_ranges (s : State) (n : Nat) (x : Ladle) : (s.setLadle n x).ranges = s.ranges := rfl
@[simp] theorem State.setLadle_time (s : State) (n : Nat) (x : Ladle) : (s.setLadle n x).time = s.time := rfl
@[simp] theorem State.setLadle_span (s : State) (n : Nat) (x : Ladle) : (s.setLadle n x).span = s.span := rfl
@[simp] theorem State.setLadle_late (s : State) (n : Nat) (x : Ladle) : (s.setLadle n x).late = s.late := rfl
@[simp] theorem State.setLadle_early (s : State) (n : Nat) (x : Ladle) : (s.setLadle n x).early = s.early := rfl
@[simp] theorem State.setLadle_latent (s : State) (n : Nat) (x : Ladle) : (s.setLadle n x).latent = s.latent := rfl
@[simp] theorem State.setLadle_cur (s : State) (n : Nat) (x : Ladle) : (s.setLadle n x).cur = s.cur := rfl
@[simp] theorem State.setLadle_turns (s : State) (n : Nat) (x : Ladle) : (s.setLadle n x).turns = s.turns := rfl
@[simp] theorem State.setLadle_turnCount (s : State) (n : Nat) (x : Ladle) : (s.setLadle n x).turnCount = s.turnCount := rfl
@[simp] theorem State.setLadle_freeCount (s : State) (n : Nat) (x : Ladle) : (s.setLadle n x).freeCount = s.freeCount := rfl
@[simp] theorem State.setLadle_nextId (s : State) (n : Nat) (x : Ladle) : (s.setLadle n x).nextId = s.nextId := rfl
@[simp] theorem State.setLadle_refs (s : State) (n : Nat) (x : Ladle) : (s.setLadle n x).refs = s.refs := rfl
@[simp] theorem State.setLadle_bad (s : State) (n : Nat) (x : Ladle) : (s.setLadle n x).bad = s.bad := rfl
@[simp] theorem State.setLadle_requests (s : State) (n : Nat) (x : Ladle) : (s.setLadle n x).requests = s.requests := rfl
@[simp] theorem State.setLadle_services (s : State) (n : Nat) (x : Ladle) : (s.setLadle n x).services = s.services := rfl
@[simp] theorem State.setLadle_purges (s : State) (n : Nat) (x : Ladle) : (s.setLadle n x).purges = s.purges := rfl
@[simp] theorem State.setLadle_hostCaches (s : State) (n : Nat) (x : Ladle) : (s.setLadle n x).hostCaches = s.hostCaches := rfl
@[simp] theorem State.setLadle_fabCaches (s : State) (n : Nat) (x : Ladle) : (s.setLadle n x).fabCaches = s.fabCaches := rfl
@[simp] theorem State.setLadle_slices (s : State) (n : Nat) (x : Ladle) : (s.setLadle n x).slices = s.slices := rfl
@[simp] theorem State.setLadle_toHost (s : State) (n : Nat) (x : Ladle) : (s.setLadle n x).toHost = s.toHost := rfl
@[simp] theorem State.setLadle_msix (s : State) (n : Nat) (x : Ladle) : (s.setLadle n x).msix = s.msix := rfl
@[simp] theorem State.setLadle_doe (s : State) (n : Nat) (x : Ladle) : (s.setLadle n x).doe = s.doe := rfl
@[simp] theorem State.setLadle_mgmt (s : State) (n : Nat) (x : Ladle) : (s.setLadle n x).mgmt = s.mgmt := rfl
@[simp] theorem State.setLadle_assayer (s : State) (n : Nat) (x : Ladle) : (s.setLadle n x).assayer = s.assayer := rfl
@[simp] theorem State.setLadle_fabric (s : State) (n : Nat) (x : Ladle) : (s.setLadle n x).fabric = s.fabric := rfl
@[simp] theorem State.setLadle_lastWinner (s : State) (n : Nat) (x : Ladle) : (s.setLadle n x).lastWinner = s.lastWinner := rfl
@[simp] theorem State.setLadle_portKeys (s : State) (n : Nat) (x : Ladle) : (s.setLadle n x).portKeys = s.portKeys := rfl
@[simp] theorem State.setLadle_flows (s : State) (n : Nat) (x : Ladle) : (s.setLadle n x).flows = s.flows := rfl
@[simp] theorem State.setLadle_lastDraw (s : State) (n : Nat) (x : Ladle) : (s.setLadle n x).lastDraw = s.lastDraw := rfl
@[simp] theorem State.setLadle_cellTimes (s : State) (n : Nat) (x : Ladle) : (s.setLadle n x).cellTimes = s.cellTimes := rfl

@[simp] theorem State.setCmdQueue_threads (s : State) (w q : Nat) (x : CmdQueue) : (s.setCmdQueue w q x).threads = s.threads := rfl
@[simp] theorem State.setCmdQueue_groups (s : State) (w q : Nat) (x : CmdQueue) : (s.setCmdQueue w q x).groups = s.groups := rfl
@[simp] theorem State.setCmdQueue_teams (s : State) (w q : Nat) (x : CmdQueue) : (s.setCmdQueue w q x).teams = s.teams := rfl
@[simp] theorem State.setCmdQueue_clusters (s : State) (w q : Nat) (x : CmdQueue) : (s.setCmdQueue w q x).clusters = s.clusters := rfl
@[simp] theorem State.setCmdQueue_cores (s : State) (w q : Nat) (x : CmdQueue) : (s.setCmdQueue w q x).cores = s.cores := rfl
@[simp] theorem State.setCmdQueue_bundles (s : State) (w q : Nat) (x : CmdQueue) : (s.setCmdQueue w q x).bundles = s.bundles := rfl
@[simp] theorem State.setCmdQueue_launches (s : State) (w q : Nat) (x : CmdQueue) : (s.setCmdQueue w q x).launches = s.launches := rfl
@[simp] theorem State.setCmdQueue_quads (s : State) (w q : Nat) (x : CmdQueue) : (s.setCmdQueue w q x).quads = s.quads := rfl
@[simp] theorem State.setCmdQueue_frames (s : State) (w q : Nat) (x : CmdQueue) : (s.setCmdQueue w q x).frames = s.frames := rfl
@[simp] theorem State.setCmdQueue_mem (s : State) (w q : Nat) (x : CmdQueue) : (s.setCmdQueue w q x).mem = s.mem := rfl
@[simp] theorem State.setCmdQueue_lines (s : State) (w q : Nat) (x : CmdQueue) : (s.setCmdQueue w q x).lines = s.lines := rfl
@[simp] theorem State.setCmdQueue_ranges (s : State) (w q : Nat) (x : CmdQueue) : (s.setCmdQueue w q x).ranges = s.ranges := rfl
@[simp] theorem State.setCmdQueue_time (s : State) (w q : Nat) (x : CmdQueue) : (s.setCmdQueue w q x).time = s.time := rfl
@[simp] theorem State.setCmdQueue_span (s : State) (w q : Nat) (x : CmdQueue) : (s.setCmdQueue w q x).span = s.span := rfl
@[simp] theorem State.setCmdQueue_late (s : State) (w q : Nat) (x : CmdQueue) : (s.setCmdQueue w q x).late = s.late := rfl
@[simp] theorem State.setCmdQueue_early (s : State) (w q : Nat) (x : CmdQueue) : (s.setCmdQueue w q x).early = s.early := rfl
@[simp] theorem State.setCmdQueue_latent (s : State) (w q : Nat) (x : CmdQueue) : (s.setCmdQueue w q x).latent = s.latent := rfl
@[simp] theorem State.setCmdQueue_cur (s : State) (w q : Nat) (x : CmdQueue) : (s.setCmdQueue w q x).cur = s.cur := rfl
@[simp] theorem State.setCmdQueue_turns (s : State) (w q : Nat) (x : CmdQueue) : (s.setCmdQueue w q x).turns = s.turns := rfl
@[simp] theorem State.setCmdQueue_turnCount (s : State) (w q : Nat) (x : CmdQueue) : (s.setCmdQueue w q x).turnCount = s.turnCount := rfl
@[simp] theorem State.setCmdQueue_freeCount (s : State) (w q : Nat) (x : CmdQueue) : (s.setCmdQueue w q x).freeCount = s.freeCount := rfl
@[simp] theorem State.setCmdQueue_nextId (s : State) (w q : Nat) (x : CmdQueue) : (s.setCmdQueue w q x).nextId = s.nextId := rfl
@[simp] theorem State.setCmdQueue_refs (s : State) (w q : Nat) (x : CmdQueue) : (s.setCmdQueue w q x).refs = s.refs := rfl
@[simp] theorem State.setCmdQueue_bad (s : State) (w q : Nat) (x : CmdQueue) : (s.setCmdQueue w q x).bad = s.bad := rfl
@[simp] theorem State.setCmdQueue_ladles (s : State) (w q : Nat) (x : CmdQueue) : (s.setCmdQueue w q x).ladles = s.ladles := rfl
@[simp] theorem State.setCmdQueue_requests (s : State) (w q : Nat) (x : CmdQueue) : (s.setCmdQueue w q x).requests = s.requests := rfl
@[simp] theorem State.setCmdQueue_services (s : State) (w q : Nat) (x : CmdQueue) : (s.setCmdQueue w q x).services = s.services := rfl
@[simp] theorem State.setCmdQueue_purges (s : State) (w q : Nat) (x : CmdQueue) : (s.setCmdQueue w q x).purges = s.purges := rfl
@[simp] theorem State.setCmdQueue_hostCaches (s : State) (w q : Nat) (x : CmdQueue) : (s.setCmdQueue w q x).hostCaches = s.hostCaches := rfl
@[simp] theorem State.setCmdQueue_fabCaches (s : State) (w q : Nat) (x : CmdQueue) : (s.setCmdQueue w q x).fabCaches = s.fabCaches := rfl
@[simp] theorem State.setCmdQueue_slices (s : State) (w q : Nat) (x : CmdQueue) : (s.setCmdQueue w q x).slices = s.slices := rfl
@[simp] theorem State.setCmdQueue_toHost (s : State) (w q : Nat) (x : CmdQueue) : (s.setCmdQueue w q x).toHost = s.toHost := rfl
@[simp] theorem State.setCmdQueue_msix (s : State) (w q : Nat) (x : CmdQueue) : (s.setCmdQueue w q x).msix = s.msix := rfl
@[simp] theorem State.setCmdQueue_doe (s : State) (w q : Nat) (x : CmdQueue) : (s.setCmdQueue w q x).doe = s.doe := rfl
@[simp] theorem State.setCmdQueue_mgmt (s : State) (w q : Nat) (x : CmdQueue) : (s.setCmdQueue w q x).mgmt = s.mgmt := rfl
@[simp] theorem State.setCmdQueue_assayer (s : State) (w q : Nat) (x : CmdQueue) : (s.setCmdQueue w q x).assayer = s.assayer := rfl
@[simp] theorem State.setCmdQueue_fabric (s : State) (w q : Nat) (x : CmdQueue) : (s.setCmdQueue w q x).fabric = s.fabric := rfl
@[simp] theorem State.setCmdQueue_lastWinner (s : State) (w q : Nat) (x : CmdQueue) : (s.setCmdQueue w q x).lastWinner = s.lastWinner := rfl
@[simp] theorem State.setCmdQueue_portKeys (s : State) (w q : Nat) (x : CmdQueue) : (s.setCmdQueue w q x).portKeys = s.portKeys := rfl
@[simp] theorem State.setCmdQueue_flows (s : State) (w q : Nat) (x : CmdQueue) : (s.setCmdQueue w q x).flows = s.flows := rfl
@[simp] theorem State.setCmdQueue_lastDraw (s : State) (w q : Nat) (x : CmdQueue) : (s.setCmdQueue w q x).lastDraw = s.lastDraw := rfl
@[simp] theorem State.setCmdQueue_cellTimes (s : State) (w q : Nat) (x : CmdQueue) : (s.setCmdQueue w q x).cellTimes = s.cellTimes := rfl

@[simp] theorem State.setMask_threads (s : State) (gid m : Nat) (x : Word) : (s.setMask gid m x).threads = s.threads := rfl
@[simp] theorem State.setMask_teams (s : State) (gid m : Nat) (x : Word) : (s.setMask gid m x).teams = s.teams := rfl
@[simp] theorem State.setMask_clusters (s : State) (gid m : Nat) (x : Word) : (s.setMask gid m x).clusters = s.clusters := rfl
@[simp] theorem State.setMask_cores (s : State) (gid m : Nat) (x : Word) : (s.setMask gid m x).cores = s.cores := rfl
@[simp] theorem State.setMask_bundles (s : State) (gid m : Nat) (x : Word) : (s.setMask gid m x).bundles = s.bundles := rfl
@[simp] theorem State.setMask_launches (s : State) (gid m : Nat) (x : Word) : (s.setMask gid m x).launches = s.launches := rfl
@[simp] theorem State.setMask_worlds (s : State) (gid m : Nat) (x : Word) : (s.setMask gid m x).worlds = s.worlds := rfl
@[simp] theorem State.setMask_quads (s : State) (gid m : Nat) (x : Word) : (s.setMask gid m x).quads = s.quads := rfl
@[simp] theorem State.setMask_frames (s : State) (gid m : Nat) (x : Word) : (s.setMask gid m x).frames = s.frames := rfl
@[simp] theorem State.setMask_mem (s : State) (gid m : Nat) (x : Word) : (s.setMask gid m x).mem = s.mem := rfl
@[simp] theorem State.setMask_lines (s : State) (gid m : Nat) (x : Word) : (s.setMask gid m x).lines = s.lines := rfl
@[simp] theorem State.setMask_ranges (s : State) (gid m : Nat) (x : Word) : (s.setMask gid m x).ranges = s.ranges := rfl
@[simp] theorem State.setMask_time (s : State) (gid m : Nat) (x : Word) : (s.setMask gid m x).time = s.time := rfl
@[simp] theorem State.setMask_span (s : State) (gid m : Nat) (x : Word) : (s.setMask gid m x).span = s.span := rfl
@[simp] theorem State.setMask_late (s : State) (gid m : Nat) (x : Word) : (s.setMask gid m x).late = s.late := rfl
@[simp] theorem State.setMask_early (s : State) (gid m : Nat) (x : Word) : (s.setMask gid m x).early = s.early := rfl
@[simp] theorem State.setMask_latent (s : State) (gid m : Nat) (x : Word) : (s.setMask gid m x).latent = s.latent := rfl
@[simp] theorem State.setMask_cur (s : State) (gid m : Nat) (x : Word) : (s.setMask gid m x).cur = s.cur := rfl
@[simp] theorem State.setMask_turns (s : State) (gid m : Nat) (x : Word) : (s.setMask gid m x).turns = s.turns := rfl
@[simp] theorem State.setMask_turnCount (s : State) (gid m : Nat) (x : Word) : (s.setMask gid m x).turnCount = s.turnCount := rfl
@[simp] theorem State.setMask_freeCount (s : State) (gid m : Nat) (x : Word) : (s.setMask gid m x).freeCount = s.freeCount := rfl
@[simp] theorem State.setMask_nextId (s : State) (gid m : Nat) (x : Word) : (s.setMask gid m x).nextId = s.nextId := rfl
@[simp] theorem State.setMask_refs (s : State) (gid m : Nat) (x : Word) : (s.setMask gid m x).refs = s.refs := rfl
@[simp] theorem State.setMask_bad (s : State) (gid m : Nat) (x : Word) : (s.setMask gid m x).bad = s.bad := rfl
@[simp] theorem State.setMask_ladles (s : State) (gid m : Nat) (x : Word) : (s.setMask gid m x).ladles = s.ladles := rfl
@[simp] theorem State.setMask_requests (s : State) (gid m : Nat) (x : Word) : (s.setMask gid m x).requests = s.requests := rfl
@[simp] theorem State.setMask_services (s : State) (gid m : Nat) (x : Word) : (s.setMask gid m x).services = s.services := rfl
@[simp] theorem State.setMask_purges (s : State) (gid m : Nat) (x : Word) : (s.setMask gid m x).purges = s.purges := rfl
@[simp] theorem State.setMask_hostCaches (s : State) (gid m : Nat) (x : Word) : (s.setMask gid m x).hostCaches = s.hostCaches := rfl
@[simp] theorem State.setMask_fabCaches (s : State) (gid m : Nat) (x : Word) : (s.setMask gid m x).fabCaches = s.fabCaches := rfl
@[simp] theorem State.setMask_slices (s : State) (gid m : Nat) (x : Word) : (s.setMask gid m x).slices = s.slices := rfl
@[simp] theorem State.setMask_toHost (s : State) (gid m : Nat) (x : Word) : (s.setMask gid m x).toHost = s.toHost := rfl
@[simp] theorem State.setMask_msix (s : State) (gid m : Nat) (x : Word) : (s.setMask gid m x).msix = s.msix := rfl
@[simp] theorem State.setMask_doe (s : State) (gid m : Nat) (x : Word) : (s.setMask gid m x).doe = s.doe := rfl
@[simp] theorem State.setMask_mgmt (s : State) (gid m : Nat) (x : Word) : (s.setMask gid m x).mgmt = s.mgmt := rfl
@[simp] theorem State.setMask_assayer (s : State) (gid m : Nat) (x : Word) : (s.setMask gid m x).assayer = s.assayer := rfl
@[simp] theorem State.setMask_fabric (s : State) (gid m : Nat) (x : Word) : (s.setMask gid m x).fabric = s.fabric := rfl
@[simp] theorem State.setMask_lastWinner (s : State) (gid m : Nat) (x : Word) : (s.setMask gid m x).lastWinner = s.lastWinner := rfl
@[simp] theorem State.setMask_portKeys (s : State) (gid m : Nat) (x : Word) : (s.setMask gid m x).portKeys = s.portKeys := rfl
@[simp] theorem State.setMask_flows (s : State) (gid m : Nat) (x : Word) : (s.setMask gid m x).flows = s.flows := rfl
@[simp] theorem State.setMask_lastDraw (s : State) (gid m : Nat) (x : Word) : (s.setMask gid m x).lastDraw = s.lastDraw := rfl
@[simp] theorem State.setMask_cellTimes (s : State) (gid m : Nat) (x : Word) : (s.setMask gid m x).cellTimes = s.cellTimes := rfl

@[simp] theorem State.setArrivals_threads (s : State) (gid m : Nat) (x : List Arrival) : (s.setArrivals gid m x).threads = s.threads := rfl
@[simp] theorem State.setArrivals_teams (s : State) (gid m : Nat) (x : List Arrival) : (s.setArrivals gid m x).teams = s.teams := rfl
@[simp] theorem State.setArrivals_clusters (s : State) (gid m : Nat) (x : List Arrival) : (s.setArrivals gid m x).clusters = s.clusters := rfl
@[simp] theorem State.setArrivals_cores (s : State) (gid m : Nat) (x : List Arrival) : (s.setArrivals gid m x).cores = s.cores := rfl
@[simp] theorem State.setArrivals_bundles (s : State) (gid m : Nat) (x : List Arrival) : (s.setArrivals gid m x).bundles = s.bundles := rfl
@[simp] theorem State.setArrivals_launches (s : State) (gid m : Nat) (x : List Arrival) : (s.setArrivals gid m x).launches = s.launches := rfl
@[simp] theorem State.setArrivals_worlds (s : State) (gid m : Nat) (x : List Arrival) : (s.setArrivals gid m x).worlds = s.worlds := rfl
@[simp] theorem State.setArrivals_quads (s : State) (gid m : Nat) (x : List Arrival) : (s.setArrivals gid m x).quads = s.quads := rfl
@[simp] theorem State.setArrivals_frames (s : State) (gid m : Nat) (x : List Arrival) : (s.setArrivals gid m x).frames = s.frames := rfl
@[simp] theorem State.setArrivals_mem (s : State) (gid m : Nat) (x : List Arrival) : (s.setArrivals gid m x).mem = s.mem := rfl
@[simp] theorem State.setArrivals_lines (s : State) (gid m : Nat) (x : List Arrival) : (s.setArrivals gid m x).lines = s.lines := rfl
@[simp] theorem State.setArrivals_ranges (s : State) (gid m : Nat) (x : List Arrival) : (s.setArrivals gid m x).ranges = s.ranges := rfl
@[simp] theorem State.setArrivals_time (s : State) (gid m : Nat) (x : List Arrival) : (s.setArrivals gid m x).time = s.time := rfl
@[simp] theorem State.setArrivals_span (s : State) (gid m : Nat) (x : List Arrival) : (s.setArrivals gid m x).span = s.span := rfl
@[simp] theorem State.setArrivals_late (s : State) (gid m : Nat) (x : List Arrival) : (s.setArrivals gid m x).late = s.late := rfl
@[simp] theorem State.setArrivals_early (s : State) (gid m : Nat) (x : List Arrival) : (s.setArrivals gid m x).early = s.early := rfl
@[simp] theorem State.setArrivals_latent (s : State) (gid m : Nat) (x : List Arrival) : (s.setArrivals gid m x).latent = s.latent := rfl
@[simp] theorem State.setArrivals_cur (s : State) (gid m : Nat) (x : List Arrival) : (s.setArrivals gid m x).cur = s.cur := rfl
@[simp] theorem State.setArrivals_turns (s : State) (gid m : Nat) (x : List Arrival) : (s.setArrivals gid m x).turns = s.turns := rfl
@[simp] theorem State.setArrivals_turnCount (s : State) (gid m : Nat) (x : List Arrival) : (s.setArrivals gid m x).turnCount = s.turnCount := rfl
@[simp] theorem State.setArrivals_freeCount (s : State) (gid m : Nat) (x : List Arrival) : (s.setArrivals gid m x).freeCount = s.freeCount := rfl
@[simp] theorem State.setArrivals_nextId (s : State) (gid m : Nat) (x : List Arrival) : (s.setArrivals gid m x).nextId = s.nextId := rfl
@[simp] theorem State.setArrivals_refs (s : State) (gid m : Nat) (x : List Arrival) : (s.setArrivals gid m x).refs = s.refs := rfl
@[simp] theorem State.setArrivals_bad (s : State) (gid m : Nat) (x : List Arrival) : (s.setArrivals gid m x).bad = s.bad := rfl
@[simp] theorem State.setArrivals_ladles (s : State) (gid m : Nat) (x : List Arrival) : (s.setArrivals gid m x).ladles = s.ladles := rfl
@[simp] theorem State.setArrivals_requests (s : State) (gid m : Nat) (x : List Arrival) : (s.setArrivals gid m x).requests = s.requests := rfl
@[simp] theorem State.setArrivals_services (s : State) (gid m : Nat) (x : List Arrival) : (s.setArrivals gid m x).services = s.services := rfl
@[simp] theorem State.setArrivals_purges (s : State) (gid m : Nat) (x : List Arrival) : (s.setArrivals gid m x).purges = s.purges := rfl
@[simp] theorem State.setArrivals_hostCaches (s : State) (gid m : Nat) (x : List Arrival) : (s.setArrivals gid m x).hostCaches = s.hostCaches := rfl
@[simp] theorem State.setArrivals_fabCaches (s : State) (gid m : Nat) (x : List Arrival) : (s.setArrivals gid m x).fabCaches = s.fabCaches := rfl
@[simp] theorem State.setArrivals_slices (s : State) (gid m : Nat) (x : List Arrival) : (s.setArrivals gid m x).slices = s.slices := rfl
@[simp] theorem State.setArrivals_toHost (s : State) (gid m : Nat) (x : List Arrival) : (s.setArrivals gid m x).toHost = s.toHost := rfl
@[simp] theorem State.setArrivals_msix (s : State) (gid m : Nat) (x : List Arrival) : (s.setArrivals gid m x).msix = s.msix := rfl
@[simp] theorem State.setArrivals_doe (s : State) (gid m : Nat) (x : List Arrival) : (s.setArrivals gid m x).doe = s.doe := rfl
@[simp] theorem State.setArrivals_mgmt (s : State) (gid m : Nat) (x : List Arrival) : (s.setArrivals gid m x).mgmt = s.mgmt := rfl
@[simp] theorem State.setArrivals_assayer (s : State) (gid m : Nat) (x : List Arrival) : (s.setArrivals gid m x).assayer = s.assayer := rfl
@[simp] theorem State.setArrivals_fabric (s : State) (gid m : Nat) (x : List Arrival) : (s.setArrivals gid m x).fabric = s.fabric := rfl
@[simp] theorem State.setArrivals_lastWinner (s : State) (gid m : Nat) (x : List Arrival) : (s.setArrivals gid m x).lastWinner = s.lastWinner := rfl
@[simp] theorem State.setArrivals_portKeys (s : State) (gid m : Nat) (x : List Arrival) : (s.setArrivals gid m x).portKeys = s.portKeys := rfl
@[simp] theorem State.setArrivals_flows (s : State) (gid m : Nat) (x : List Arrival) : (s.setArrivals gid m x).flows = s.flows := rfl
@[simp] theorem State.setArrivals_lastDraw (s : State) (gid m : Nat) (x : List Arrival) : (s.setArrivals gid m x).lastDraw = s.lastDraw := rfl
@[simp] theorem State.setArrivals_cellTimes (s : State) (gid m : Nat) (x : List Arrival) : (s.setArrivals gid m x).cellTimes = s.cellTimes := rfl

@[simp] theorem State.setConv_threads (s : State) (gid n : Nat) (x : Conv) : (s.setConv gid n x).threads = s.threads := rfl
@[simp] theorem State.setConv_teams (s : State) (gid n : Nat) (x : Conv) : (s.setConv gid n x).teams = s.teams := rfl
@[simp] theorem State.setConv_clusters (s : State) (gid n : Nat) (x : Conv) : (s.setConv gid n x).clusters = s.clusters := rfl
@[simp] theorem State.setConv_cores (s : State) (gid n : Nat) (x : Conv) : (s.setConv gid n x).cores = s.cores := rfl
@[simp] theorem State.setConv_bundles (s : State) (gid n : Nat) (x : Conv) : (s.setConv gid n x).bundles = s.bundles := rfl
@[simp] theorem State.setConv_launches (s : State) (gid n : Nat) (x : Conv) : (s.setConv gid n x).launches = s.launches := rfl
@[simp] theorem State.setConv_worlds (s : State) (gid n : Nat) (x : Conv) : (s.setConv gid n x).worlds = s.worlds := rfl
@[simp] theorem State.setConv_quads (s : State) (gid n : Nat) (x : Conv) : (s.setConv gid n x).quads = s.quads := rfl
@[simp] theorem State.setConv_frames (s : State) (gid n : Nat) (x : Conv) : (s.setConv gid n x).frames = s.frames := rfl
@[simp] theorem State.setConv_mem (s : State) (gid n : Nat) (x : Conv) : (s.setConv gid n x).mem = s.mem := rfl
@[simp] theorem State.setConv_lines (s : State) (gid n : Nat) (x : Conv) : (s.setConv gid n x).lines = s.lines := rfl
@[simp] theorem State.setConv_ranges (s : State) (gid n : Nat) (x : Conv) : (s.setConv gid n x).ranges = s.ranges := rfl
@[simp] theorem State.setConv_time (s : State) (gid n : Nat) (x : Conv) : (s.setConv gid n x).time = s.time := rfl
@[simp] theorem State.setConv_span (s : State) (gid n : Nat) (x : Conv) : (s.setConv gid n x).span = s.span := rfl
@[simp] theorem State.setConv_late (s : State) (gid n : Nat) (x : Conv) : (s.setConv gid n x).late = s.late := rfl
@[simp] theorem State.setConv_early (s : State) (gid n : Nat) (x : Conv) : (s.setConv gid n x).early = s.early := rfl
@[simp] theorem State.setConv_latent (s : State) (gid n : Nat) (x : Conv) : (s.setConv gid n x).latent = s.latent := rfl
@[simp] theorem State.setConv_cur (s : State) (gid n : Nat) (x : Conv) : (s.setConv gid n x).cur = s.cur := rfl
@[simp] theorem State.setConv_turns (s : State) (gid n : Nat) (x : Conv) : (s.setConv gid n x).turns = s.turns := rfl
@[simp] theorem State.setConv_turnCount (s : State) (gid n : Nat) (x : Conv) : (s.setConv gid n x).turnCount = s.turnCount := rfl
@[simp] theorem State.setConv_freeCount (s : State) (gid n : Nat) (x : Conv) : (s.setConv gid n x).freeCount = s.freeCount := rfl
@[simp] theorem State.setConv_nextId (s : State) (gid n : Nat) (x : Conv) : (s.setConv gid n x).nextId = s.nextId := rfl
@[simp] theorem State.setConv_refs (s : State) (gid n : Nat) (x : Conv) : (s.setConv gid n x).refs = s.refs := rfl
@[simp] theorem State.setConv_bad (s : State) (gid n : Nat) (x : Conv) : (s.setConv gid n x).bad = s.bad := rfl
@[simp] theorem State.setConv_ladles (s : State) (gid n : Nat) (x : Conv) : (s.setConv gid n x).ladles = s.ladles := rfl
@[simp] theorem State.setConv_requests (s : State) (gid n : Nat) (x : Conv) : (s.setConv gid n x).requests = s.requests := rfl
@[simp] theorem State.setConv_services (s : State) (gid n : Nat) (x : Conv) : (s.setConv gid n x).services = s.services := rfl
@[simp] theorem State.setConv_purges (s : State) (gid n : Nat) (x : Conv) : (s.setConv gid n x).purges = s.purges := rfl
@[simp] theorem State.setConv_hostCaches (s : State) (gid n : Nat) (x : Conv) : (s.setConv gid n x).hostCaches = s.hostCaches := rfl
@[simp] theorem State.setConv_fabCaches (s : State) (gid n : Nat) (x : Conv) : (s.setConv gid n x).fabCaches = s.fabCaches := rfl
@[simp] theorem State.setConv_slices (s : State) (gid n : Nat) (x : Conv) : (s.setConv gid n x).slices = s.slices := rfl
@[simp] theorem State.setConv_toHost (s : State) (gid n : Nat) (x : Conv) : (s.setConv gid n x).toHost = s.toHost := rfl
@[simp] theorem State.setConv_msix (s : State) (gid n : Nat) (x : Conv) : (s.setConv gid n x).msix = s.msix := rfl
@[simp] theorem State.setConv_doe (s : State) (gid n : Nat) (x : Conv) : (s.setConv gid n x).doe = s.doe := rfl
@[simp] theorem State.setConv_mgmt (s : State) (gid n : Nat) (x : Conv) : (s.setConv gid n x).mgmt = s.mgmt := rfl
@[simp] theorem State.setConv_assayer (s : State) (gid n : Nat) (x : Conv) : (s.setConv gid n x).assayer = s.assayer := rfl
@[simp] theorem State.setConv_fabric (s : State) (gid n : Nat) (x : Conv) : (s.setConv gid n x).fabric = s.fabric := rfl
@[simp] theorem State.setConv_lastWinner (s : State) (gid n : Nat) (x : Conv) : (s.setConv gid n x).lastWinner = s.lastWinner := rfl
@[simp] theorem State.setConv_portKeys (s : State) (gid n : Nat) (x : Conv) : (s.setConv gid n x).portKeys = s.portKeys := rfl
@[simp] theorem State.setConv_flows (s : State) (gid n : Nat) (x : Conv) : (s.setConv gid n x).flows = s.flows := rfl
@[simp] theorem State.setConv_lastDraw (s : State) (gid n : Nat) (x : Conv) : (s.setConv gid n x).lastDraw = s.lastDraw := rfl
@[simp] theorem State.setConv_cellTimes (s : State) (gid n : Nat) (x : Conv) : (s.setConv gid n x).cellTimes = s.cellTimes := rfl

@[simp] theorem State.setGrant_threads (s : State) (w g : Nat) (x : Grant) : (s.setGrant w g x).threads = s.threads := rfl
@[simp] theorem State.setGrant_groups (s : State) (w g : Nat) (x : Grant) : (s.setGrant w g x).groups = s.groups := rfl
@[simp] theorem State.setGrant_teams (s : State) (w g : Nat) (x : Grant) : (s.setGrant w g x).teams = s.teams := rfl
@[simp] theorem State.setGrant_clusters (s : State) (w g : Nat) (x : Grant) : (s.setGrant w g x).clusters = s.clusters := rfl
@[simp] theorem State.setGrant_cores (s : State) (w g : Nat) (x : Grant) : (s.setGrant w g x).cores = s.cores := rfl
@[simp] theorem State.setGrant_bundles (s : State) (w g : Nat) (x : Grant) : (s.setGrant w g x).bundles = s.bundles := rfl
@[simp] theorem State.setGrant_launches (s : State) (w g : Nat) (x : Grant) : (s.setGrant w g x).launches = s.launches := rfl
@[simp] theorem State.setGrant_quads (s : State) (w g : Nat) (x : Grant) : (s.setGrant w g x).quads = s.quads := rfl
@[simp] theorem State.setGrant_frames (s : State) (w g : Nat) (x : Grant) : (s.setGrant w g x).frames = s.frames := rfl
@[simp] theorem State.setGrant_mem (s : State) (w g : Nat) (x : Grant) : (s.setGrant w g x).mem = s.mem := rfl
@[simp] theorem State.setGrant_lines (s : State) (w g : Nat) (x : Grant) : (s.setGrant w g x).lines = s.lines := rfl
@[simp] theorem State.setGrant_ranges (s : State) (w g : Nat) (x : Grant) : (s.setGrant w g x).ranges = s.ranges := rfl
@[simp] theorem State.setGrant_time (s : State) (w g : Nat) (x : Grant) : (s.setGrant w g x).time = s.time := rfl
@[simp] theorem State.setGrant_span (s : State) (w g : Nat) (x : Grant) : (s.setGrant w g x).span = s.span := rfl
@[simp] theorem State.setGrant_late (s : State) (w g : Nat) (x : Grant) : (s.setGrant w g x).late = s.late := rfl
@[simp] theorem State.setGrant_early (s : State) (w g : Nat) (x : Grant) : (s.setGrant w g x).early = s.early := rfl
@[simp] theorem State.setGrant_latent (s : State) (w g : Nat) (x : Grant) : (s.setGrant w g x).latent = s.latent := rfl
@[simp] theorem State.setGrant_cur (s : State) (w g : Nat) (x : Grant) : (s.setGrant w g x).cur = s.cur := rfl
@[simp] theorem State.setGrant_turns (s : State) (w g : Nat) (x : Grant) : (s.setGrant w g x).turns = s.turns := rfl
@[simp] theorem State.setGrant_turnCount (s : State) (w g : Nat) (x : Grant) : (s.setGrant w g x).turnCount = s.turnCount := rfl
@[simp] theorem State.setGrant_freeCount (s : State) (w g : Nat) (x : Grant) : (s.setGrant w g x).freeCount = s.freeCount := rfl
@[simp] theorem State.setGrant_nextId (s : State) (w g : Nat) (x : Grant) : (s.setGrant w g x).nextId = s.nextId := rfl
@[simp] theorem State.setGrant_refs (s : State) (w g : Nat) (x : Grant) : (s.setGrant w g x).refs = s.refs := rfl
@[simp] theorem State.setGrant_bad (s : State) (w g : Nat) (x : Grant) : (s.setGrant w g x).bad = s.bad := rfl
@[simp] theorem State.setGrant_ladles (s : State) (w g : Nat) (x : Grant) : (s.setGrant w g x).ladles = s.ladles := rfl
@[simp] theorem State.setGrant_requests (s : State) (w g : Nat) (x : Grant) : (s.setGrant w g x).requests = s.requests := rfl
@[simp] theorem State.setGrant_services (s : State) (w g : Nat) (x : Grant) : (s.setGrant w g x).services = s.services := rfl
@[simp] theorem State.setGrant_purges (s : State) (w g : Nat) (x : Grant) : (s.setGrant w g x).purges = s.purges := rfl
@[simp] theorem State.setGrant_hostCaches (s : State) (w g : Nat) (x : Grant) : (s.setGrant w g x).hostCaches = s.hostCaches := rfl
@[simp] theorem State.setGrant_fabCaches (s : State) (w g : Nat) (x : Grant) : (s.setGrant w g x).fabCaches = s.fabCaches := rfl
@[simp] theorem State.setGrant_slices (s : State) (w g : Nat) (x : Grant) : (s.setGrant w g x).slices = s.slices := rfl
@[simp] theorem State.setGrant_toHost (s : State) (w g : Nat) (x : Grant) : (s.setGrant w g x).toHost = s.toHost := rfl
@[simp] theorem State.setGrant_msix (s : State) (w g : Nat) (x : Grant) : (s.setGrant w g x).msix = s.msix := rfl
@[simp] theorem State.setGrant_doe (s : State) (w g : Nat) (x : Grant) : (s.setGrant w g x).doe = s.doe := rfl
@[simp] theorem State.setGrant_mgmt (s : State) (w g : Nat) (x : Grant) : (s.setGrant w g x).mgmt = s.mgmt := rfl
@[simp] theorem State.setGrant_assayer (s : State) (w g : Nat) (x : Grant) : (s.setGrant w g x).assayer = s.assayer := rfl
@[simp] theorem State.setGrant_fabric (s : State) (w g : Nat) (x : Grant) : (s.setGrant w g x).fabric = s.fabric := rfl
@[simp] theorem State.setGrant_lastWinner (s : State) (w g : Nat) (x : Grant) : (s.setGrant w g x).lastWinner = s.lastWinner := rfl
@[simp] theorem State.setGrant_portKeys (s : State) (w g : Nat) (x : Grant) : (s.setGrant w g x).portKeys = s.portKeys := rfl
@[simp] theorem State.setGrant_flows (s : State) (w g : Nat) (x : Grant) : (s.setGrant w g x).flows = s.flows := rfl
@[simp] theorem State.setGrant_lastDraw (s : State) (w g : Nat) (x : Grant) : (s.setGrant w g x).lastDraw = s.lastDraw := rfl
@[simp] theorem State.setGrant_cellTimes (s : State) (w g : Nat) (x : Grant) : (s.setGrant w g x).cellTimes = s.cellTimes := rfl

@[simp] theorem State.modTile_threads (s : State) (team n : Nat) (f : Tile → Tile) : (s.modTile team n f).threads = s.threads := rfl
@[simp] theorem State.modTile_groups (s : State) (team n : Nat) (f : Tile → Tile) : (s.modTile team n f).groups = s.groups := rfl
@[simp] theorem State.modTile_clusters (s : State) (team n : Nat) (f : Tile → Tile) : (s.modTile team n f).clusters = s.clusters := rfl
@[simp] theorem State.modTile_cores (s : State) (team n : Nat) (f : Tile → Tile) : (s.modTile team n f).cores = s.cores := rfl
@[simp] theorem State.modTile_bundles (s : State) (team n : Nat) (f : Tile → Tile) : (s.modTile team n f).bundles = s.bundles := rfl
@[simp] theorem State.modTile_launches (s : State) (team n : Nat) (f : Tile → Tile) : (s.modTile team n f).launches = s.launches := rfl
@[simp] theorem State.modTile_worlds (s : State) (team n : Nat) (f : Tile → Tile) : (s.modTile team n f).worlds = s.worlds := rfl
@[simp] theorem State.modTile_quads (s : State) (team n : Nat) (f : Tile → Tile) : (s.modTile team n f).quads = s.quads := rfl
@[simp] theorem State.modTile_frames (s : State) (team n : Nat) (f : Tile → Tile) : (s.modTile team n f).frames = s.frames := rfl
@[simp] theorem State.modTile_mem (s : State) (team n : Nat) (f : Tile → Tile) : (s.modTile team n f).mem = s.mem := rfl
@[simp] theorem State.modTile_lines (s : State) (team n : Nat) (f : Tile → Tile) : (s.modTile team n f).lines = s.lines := rfl
@[simp] theorem State.modTile_ranges (s : State) (team n : Nat) (f : Tile → Tile) : (s.modTile team n f).ranges = s.ranges := rfl
@[simp] theorem State.modTile_time (s : State) (team n : Nat) (f : Tile → Tile) : (s.modTile team n f).time = s.time := rfl
@[simp] theorem State.modTile_span (s : State) (team n : Nat) (f : Tile → Tile) : (s.modTile team n f).span = s.span := rfl
@[simp] theorem State.modTile_late (s : State) (team n : Nat) (f : Tile → Tile) : (s.modTile team n f).late = s.late := rfl
@[simp] theorem State.modTile_early (s : State) (team n : Nat) (f : Tile → Tile) : (s.modTile team n f).early = s.early := rfl
@[simp] theorem State.modTile_latent (s : State) (team n : Nat) (f : Tile → Tile) : (s.modTile team n f).latent = s.latent := rfl
@[simp] theorem State.modTile_cur (s : State) (team n : Nat) (f : Tile → Tile) : (s.modTile team n f).cur = s.cur := rfl
@[simp] theorem State.modTile_turns (s : State) (team n : Nat) (f : Tile → Tile) : (s.modTile team n f).turns = s.turns := rfl
@[simp] theorem State.modTile_turnCount (s : State) (team n : Nat) (f : Tile → Tile) : (s.modTile team n f).turnCount = s.turnCount := rfl
@[simp] theorem State.modTile_freeCount (s : State) (team n : Nat) (f : Tile → Tile) : (s.modTile team n f).freeCount = s.freeCount := rfl
@[simp] theorem State.modTile_nextId (s : State) (team n : Nat) (f : Tile → Tile) : (s.modTile team n f).nextId = s.nextId := rfl
@[simp] theorem State.modTile_refs (s : State) (team n : Nat) (f : Tile → Tile) : (s.modTile team n f).refs = s.refs := rfl
@[simp] theorem State.modTile_bad (s : State) (team n : Nat) (f : Tile → Tile) : (s.modTile team n f).bad = s.bad := rfl
@[simp] theorem State.modTile_ladles (s : State) (team n : Nat) (f : Tile → Tile) : (s.modTile team n f).ladles = s.ladles := rfl
@[simp] theorem State.modTile_requests (s : State) (team n : Nat) (f : Tile → Tile) : (s.modTile team n f).requests = s.requests := rfl
@[simp] theorem State.modTile_services (s : State) (team n : Nat) (f : Tile → Tile) : (s.modTile team n f).services = s.services := rfl
@[simp] theorem State.modTile_purges (s : State) (team n : Nat) (f : Tile → Tile) : (s.modTile team n f).purges = s.purges := rfl
@[simp] theorem State.modTile_hostCaches (s : State) (team n : Nat) (f : Tile → Tile) : (s.modTile team n f).hostCaches = s.hostCaches := rfl
@[simp] theorem State.modTile_fabCaches (s : State) (team n : Nat) (f : Tile → Tile) : (s.modTile team n f).fabCaches = s.fabCaches := rfl
@[simp] theorem State.modTile_slices (s : State) (team n : Nat) (f : Tile → Tile) : (s.modTile team n f).slices = s.slices := rfl
@[simp] theorem State.modTile_toHost (s : State) (team n : Nat) (f : Tile → Tile) : (s.modTile team n f).toHost = s.toHost := rfl
@[simp] theorem State.modTile_msix (s : State) (team n : Nat) (f : Tile → Tile) : (s.modTile team n f).msix = s.msix := rfl
@[simp] theorem State.modTile_doe (s : State) (team n : Nat) (f : Tile → Tile) : (s.modTile team n f).doe = s.doe := rfl
@[simp] theorem State.modTile_mgmt (s : State) (team n : Nat) (f : Tile → Tile) : (s.modTile team n f).mgmt = s.mgmt := rfl
@[simp] theorem State.modTile_assayer (s : State) (team n : Nat) (f : Tile → Tile) : (s.modTile team n f).assayer = s.assayer := rfl
@[simp] theorem State.modTile_fabric (s : State) (team n : Nat) (f : Tile → Tile) : (s.modTile team n f).fabric = s.fabric := rfl
@[simp] theorem State.modTile_lastWinner (s : State) (team n : Nat) (f : Tile → Tile) : (s.modTile team n f).lastWinner = s.lastWinner := rfl
@[simp] theorem State.modTile_portKeys (s : State) (team n : Nat) (f : Tile → Tile) : (s.modTile team n f).portKeys = s.portKeys := rfl
@[simp] theorem State.modTile_flows (s : State) (team n : Nat) (f : Tile → Tile) : (s.modTile team n f).flows = s.flows := rfl
@[simp] theorem State.modTile_lastDraw (s : State) (team n : Nat) (f : Tile → Tile) : (s.modTile team n f).lastDraw = s.lastDraw := rfl
@[simp] theorem State.modTile_cellTimes (s : State) (team n : Nat) (f : Tile → Tile) : (s.modTile team n f).cellTimes = s.cellTimes := rfl

@[simp] theorem State.modThread_groups (s : State) (tid : Nat) (f : Thread → Thread) : (s.modThread tid f).groups = s.groups := rfl
@[simp] theorem State.modThread_teams (s : State) (tid : Nat) (f : Thread → Thread) : (s.modThread tid f).teams = s.teams := rfl
@[simp] theorem State.modThread_clusters (s : State) (tid : Nat) (f : Thread → Thread) : (s.modThread tid f).clusters = s.clusters := rfl
@[simp] theorem State.modThread_cores (s : State) (tid : Nat) (f : Thread → Thread) : (s.modThread tid f).cores = s.cores := rfl
@[simp] theorem State.modThread_bundles (s : State) (tid : Nat) (f : Thread → Thread) : (s.modThread tid f).bundles = s.bundles := rfl
@[simp] theorem State.modThread_launches (s : State) (tid : Nat) (f : Thread → Thread) : (s.modThread tid f).launches = s.launches := rfl
@[simp] theorem State.modThread_worlds (s : State) (tid : Nat) (f : Thread → Thread) : (s.modThread tid f).worlds = s.worlds := rfl
@[simp] theorem State.modThread_quads (s : State) (tid : Nat) (f : Thread → Thread) : (s.modThread tid f).quads = s.quads := rfl
@[simp] theorem State.modThread_frames (s : State) (tid : Nat) (f : Thread → Thread) : (s.modThread tid f).frames = s.frames := rfl
@[simp] theorem State.modThread_mem (s : State) (tid : Nat) (f : Thread → Thread) : (s.modThread tid f).mem = s.mem := rfl
@[simp] theorem State.modThread_lines (s : State) (tid : Nat) (f : Thread → Thread) : (s.modThread tid f).lines = s.lines := rfl
@[simp] theorem State.modThread_ranges (s : State) (tid : Nat) (f : Thread → Thread) : (s.modThread tid f).ranges = s.ranges := rfl
@[simp] theorem State.modThread_time (s : State) (tid : Nat) (f : Thread → Thread) : (s.modThread tid f).time = s.time := rfl
@[simp] theorem State.modThread_span (s : State) (tid : Nat) (f : Thread → Thread) : (s.modThread tid f).span = s.span := rfl
@[simp] theorem State.modThread_late (s : State) (tid : Nat) (f : Thread → Thread) : (s.modThread tid f).late = s.late := rfl
@[simp] theorem State.modThread_early (s : State) (tid : Nat) (f : Thread → Thread) : (s.modThread tid f).early = s.early := rfl
@[simp] theorem State.modThread_latent (s : State) (tid : Nat) (f : Thread → Thread) : (s.modThread tid f).latent = s.latent := rfl
@[simp] theorem State.modThread_cur (s : State) (tid : Nat) (f : Thread → Thread) : (s.modThread tid f).cur = s.cur := rfl
@[simp] theorem State.modThread_turns (s : State) (tid : Nat) (f : Thread → Thread) : (s.modThread tid f).turns = s.turns := rfl
@[simp] theorem State.modThread_turnCount (s : State) (tid : Nat) (f : Thread → Thread) : (s.modThread tid f).turnCount = s.turnCount := rfl
@[simp] theorem State.modThread_freeCount (s : State) (tid : Nat) (f : Thread → Thread) : (s.modThread tid f).freeCount = s.freeCount := rfl
@[simp] theorem State.modThread_nextId (s : State) (tid : Nat) (f : Thread → Thread) : (s.modThread tid f).nextId = s.nextId := rfl
@[simp] theorem State.modThread_refs (s : State) (tid : Nat) (f : Thread → Thread) : (s.modThread tid f).refs = s.refs := rfl
@[simp] theorem State.modThread_bad (s : State) (tid : Nat) (f : Thread → Thread) : (s.modThread tid f).bad = s.bad := rfl
@[simp] theorem State.modThread_ladles (s : State) (tid : Nat) (f : Thread → Thread) : (s.modThread tid f).ladles = s.ladles := rfl
@[simp] theorem State.modThread_requests (s : State) (tid : Nat) (f : Thread → Thread) : (s.modThread tid f).requests = s.requests := rfl
@[simp] theorem State.modThread_services (s : State) (tid : Nat) (f : Thread → Thread) : (s.modThread tid f).services = s.services := rfl
@[simp] theorem State.modThread_purges (s : State) (tid : Nat) (f : Thread → Thread) : (s.modThread tid f).purges = s.purges := rfl
@[simp] theorem State.modThread_hostCaches (s : State) (tid : Nat) (f : Thread → Thread) : (s.modThread tid f).hostCaches = s.hostCaches := rfl
@[simp] theorem State.modThread_fabCaches (s : State) (tid : Nat) (f : Thread → Thread) : (s.modThread tid f).fabCaches = s.fabCaches := rfl
@[simp] theorem State.modThread_slices (s : State) (tid : Nat) (f : Thread → Thread) : (s.modThread tid f).slices = s.slices := rfl
@[simp] theorem State.modThread_toHost (s : State) (tid : Nat) (f : Thread → Thread) : (s.modThread tid f).toHost = s.toHost := rfl
@[simp] theorem State.modThread_msix (s : State) (tid : Nat) (f : Thread → Thread) : (s.modThread tid f).msix = s.msix := rfl
@[simp] theorem State.modThread_doe (s : State) (tid : Nat) (f : Thread → Thread) : (s.modThread tid f).doe = s.doe := rfl
@[simp] theorem State.modThread_mgmt (s : State) (tid : Nat) (f : Thread → Thread) : (s.modThread tid f).mgmt = s.mgmt := rfl
@[simp] theorem State.modThread_assayer (s : State) (tid : Nat) (f : Thread → Thread) : (s.modThread tid f).assayer = s.assayer := rfl
@[simp] theorem State.modThread_fabric (s : State) (tid : Nat) (f : Thread → Thread) : (s.modThread tid f).fabric = s.fabric := rfl
@[simp] theorem State.modThread_lastWinner (s : State) (tid : Nat) (f : Thread → Thread) : (s.modThread tid f).lastWinner = s.lastWinner := rfl
@[simp] theorem State.modThread_portKeys (s : State) (tid : Nat) (f : Thread → Thread) : (s.modThread tid f).portKeys = s.portKeys := rfl
@[simp] theorem State.modThread_flows (s : State) (tid : Nat) (f : Thread → Thread) : (s.modThread tid f).flows = s.flows := rfl
@[simp] theorem State.modThread_lastDraw (s : State) (tid : Nat) (f : Thread → Thread) : (s.modThread tid f).lastDraw = s.lastDraw := rfl
@[simp] theorem State.modThread_cellTimes (s : State) (tid : Nat) (f : Thread → Thread) : (s.modThread tid f).cellTimes = s.cellTimes := rfl

@[simp] theorem State.setBundle_threads (s : State) (b : Nat) (x : Bundle) : (s.setBundle b x).threads = s.threads := by
  unfold State.setBundle; split <;> rfl
@[simp] theorem State.setBundle_groups (s : State) (b : Nat) (x : Bundle) : (s.setBundle b x).groups = s.groups := by
  unfold State.setBundle; split <;> rfl
@[simp] theorem State.setBundle_teams (s : State) (b : Nat) (x : Bundle) : (s.setBundle b x).teams = s.teams := by
  unfold State.setBundle; split <;> rfl
@[simp] theorem State.setBundle_clusters (s : State) (b : Nat) (x : Bundle) : (s.setBundle b x).clusters = s.clusters := by
  unfold State.setBundle; split <;> rfl
@[simp] theorem State.setBundle_cores (s : State) (b : Nat) (x : Bundle) : (s.setBundle b x).cores = s.cores := by
  unfold State.setBundle; split <;> rfl
@[simp] theorem State.setBundle_launches (s : State) (b : Nat) (x : Bundle) : (s.setBundle b x).launches = s.launches := by
  unfold State.setBundle; split <;> rfl
@[simp] theorem State.setBundle_worlds (s : State) (b : Nat) (x : Bundle) : (s.setBundle b x).worlds = s.worlds := by
  unfold State.setBundle; split <;> rfl
@[simp] theorem State.setBundle_quads (s : State) (b : Nat) (x : Bundle) : (s.setBundle b x).quads = s.quads := by
  unfold State.setBundle; split <;> rfl
@[simp] theorem State.setBundle_frames (s : State) (b : Nat) (x : Bundle) : (s.setBundle b x).frames = s.frames := by
  unfold State.setBundle; split <;> rfl
@[simp] theorem State.setBundle_mem (s : State) (b : Nat) (x : Bundle) : (s.setBundle b x).mem = s.mem := by
  unfold State.setBundle; split <;> rfl
@[simp] theorem State.setBundle_lines (s : State) (b : Nat) (x : Bundle) : (s.setBundle b x).lines = s.lines := by
  unfold State.setBundle; split <;> rfl
@[simp] theorem State.setBundle_ranges (s : State) (b : Nat) (x : Bundle) : (s.setBundle b x).ranges = s.ranges := by
  unfold State.setBundle; split <;> rfl
@[simp] theorem State.setBundle_time (s : State) (b : Nat) (x : Bundle) : (s.setBundle b x).time = s.time := by
  unfold State.setBundle; split <;> rfl
@[simp] theorem State.setBundle_span (s : State) (b : Nat) (x : Bundle) : (s.setBundle b x).span = s.span := by
  unfold State.setBundle; split <;> rfl
@[simp] theorem State.setBundle_late (s : State) (b : Nat) (x : Bundle) : (s.setBundle b x).late = s.late := by
  unfold State.setBundle; split <;> rfl
@[simp] theorem State.setBundle_early (s : State) (b : Nat) (x : Bundle) : (s.setBundle b x).early = s.early := by
  unfold State.setBundle; split <;> rfl
@[simp] theorem State.setBundle_latent (s : State) (b : Nat) (x : Bundle) : (s.setBundle b x).latent = s.latent := by
  unfold State.setBundle; split <;> rfl
@[simp] theorem State.setBundle_cur (s : State) (b : Nat) (x : Bundle) : (s.setBundle b x).cur = s.cur := by
  unfold State.setBundle; split <;> rfl
@[simp] theorem State.setBundle_turns (s : State) (b : Nat) (x : Bundle) : (s.setBundle b x).turns = s.turns := by
  unfold State.setBundle; split <;> rfl
@[simp] theorem State.setBundle_turnCount (s : State) (b : Nat) (x : Bundle) : (s.setBundle b x).turnCount = s.turnCount := by
  unfold State.setBundle; split <;> rfl
@[simp] theorem State.setBundle_freeCount (s : State) (b : Nat) (x : Bundle) : (s.setBundle b x).freeCount = s.freeCount := by
  unfold State.setBundle; split <;> rfl
@[simp] theorem State.setBundle_nextId (s : State) (b : Nat) (x : Bundle) : (s.setBundle b x).nextId = s.nextId := by
  unfold State.setBundle; split <;> rfl
@[simp] theorem State.setBundle_refs (s : State) (b : Nat) (x : Bundle) : (s.setBundle b x).refs = s.refs := by
  unfold State.setBundle; split <;> rfl
@[simp] theorem State.setBundle_bad (s : State) (b : Nat) (x : Bundle) : (s.setBundle b x).bad = s.bad := by
  unfold State.setBundle; split <;> rfl
@[simp] theorem State.setBundle_ladles (s : State) (b : Nat) (x : Bundle) : (s.setBundle b x).ladles = s.ladles := by
  unfold State.setBundle; split <;> rfl
@[simp] theorem State.setBundle_requests (s : State) (b : Nat) (x : Bundle) : (s.setBundle b x).requests = s.requests := by
  unfold State.setBundle; split <;> rfl
@[simp] theorem State.setBundle_services (s : State) (b : Nat) (x : Bundle) : (s.setBundle b x).services = s.services := by
  unfold State.setBundle; split <;> rfl
@[simp] theorem State.setBundle_purges (s : State) (b : Nat) (x : Bundle) : (s.setBundle b x).purges = s.purges := by
  unfold State.setBundle; split <;> rfl
@[simp] theorem State.setBundle_hostCaches (s : State) (b : Nat) (x : Bundle) : (s.setBundle b x).hostCaches = s.hostCaches := by
  unfold State.setBundle; split <;> rfl
@[simp] theorem State.setBundle_fabCaches (s : State) (b : Nat) (x : Bundle) : (s.setBundle b x).fabCaches = s.fabCaches := by
  unfold State.setBundle; split <;> rfl
@[simp] theorem State.setBundle_slices (s : State) (b : Nat) (x : Bundle) : (s.setBundle b x).slices = s.slices := by
  unfold State.setBundle; split <;> rfl
@[simp] theorem State.setBundle_toHost (s : State) (b : Nat) (x : Bundle) : (s.setBundle b x).toHost = s.toHost := by
  unfold State.setBundle; split <;> rfl
@[simp] theorem State.setBundle_msix (s : State) (b : Nat) (x : Bundle) : (s.setBundle b x).msix = s.msix := by
  unfold State.setBundle; split <;> rfl
@[simp] theorem State.setBundle_doe (s : State) (b : Nat) (x : Bundle) : (s.setBundle b x).doe = s.doe := by
  unfold State.setBundle; split <;> rfl
@[simp] theorem State.setBundle_mgmt (s : State) (b : Nat) (x : Bundle) : (s.setBundle b x).mgmt = s.mgmt := by
  unfold State.setBundle; split <;> rfl
@[simp] theorem State.setBundle_assayer (s : State) (b : Nat) (x : Bundle) : (s.setBundle b x).assayer = s.assayer := by
  unfold State.setBundle; split <;> rfl
@[simp] theorem State.setBundle_fabric (s : State) (b : Nat) (x : Bundle) : (s.setBundle b x).fabric = s.fabric := by
  unfold State.setBundle; split <;> rfl
@[simp] theorem State.setBundle_lastWinner (s : State) (b : Nat) (x : Bundle) : (s.setBundle b x).lastWinner = s.lastWinner := by
  unfold State.setBundle; split <;> rfl
@[simp] theorem State.setBundle_portKeys (s : State) (b : Nat) (x : Bundle) : (s.setBundle b x).portKeys = s.portKeys := by
  unfold State.setBundle; split <;> rfl
@[simp] theorem State.setBundle_flows (s : State) (b : Nat) (x : Bundle) : (s.setBundle b x).flows = s.flows := by
  unfold State.setBundle; split <;> rfl
@[simp] theorem State.setBundle_lastDraw (s : State) (b : Nat) (x : Bundle) : (s.setBundle b x).lastDraw = s.lastDraw := by
  unfold State.setBundle; split <;> rfl
@[simp] theorem State.setBundle_cellTimes (s : State) (b : Nat) (x : Bundle) : (s.setBundle b x).cellTimes = s.cellTimes := by
  unfold State.setBundle; split <;> rfl

@[simp] theorem State.newId_threads (s : State) : (s.newId).2.threads = s.threads := rfl
@[simp] theorem State.newId_groups (s : State) : (s.newId).2.groups = s.groups := rfl
@[simp] theorem State.newId_teams (s : State) : (s.newId).2.teams = s.teams := rfl
@[simp] theorem State.newId_clusters (s : State) : (s.newId).2.clusters = s.clusters := rfl
@[simp] theorem State.newId_cores (s : State) : (s.newId).2.cores = s.cores := rfl
@[simp] theorem State.newId_bundles (s : State) : (s.newId).2.bundles = s.bundles := rfl
@[simp] theorem State.newId_launches (s : State) : (s.newId).2.launches = s.launches := rfl
@[simp] theorem State.newId_worlds (s : State) : (s.newId).2.worlds = s.worlds := rfl
@[simp] theorem State.newId_quads (s : State) : (s.newId).2.quads = s.quads := rfl
@[simp] theorem State.newId_frames (s : State) : (s.newId).2.frames = s.frames := rfl
@[simp] theorem State.newId_mem (s : State) : (s.newId).2.mem = s.mem := rfl
@[simp] theorem State.newId_lines (s : State) : (s.newId).2.lines = s.lines := rfl
@[simp] theorem State.newId_ranges (s : State) : (s.newId).2.ranges = s.ranges := rfl
@[simp] theorem State.newId_time (s : State) : (s.newId).2.time = s.time := rfl
@[simp] theorem State.newId_span (s : State) : (s.newId).2.span = s.span := rfl
@[simp] theorem State.newId_late (s : State) : (s.newId).2.late = s.late := rfl
@[simp] theorem State.newId_early (s : State) : (s.newId).2.early = s.early := rfl
@[simp] theorem State.newId_latent (s : State) : (s.newId).2.latent = s.latent := rfl
@[simp] theorem State.newId_cur (s : State) : (s.newId).2.cur = s.cur := rfl
@[simp] theorem State.newId_turns (s : State) : (s.newId).2.turns = s.turns := rfl
@[simp] theorem State.newId_turnCount (s : State) : (s.newId).2.turnCount = s.turnCount := rfl
@[simp] theorem State.newId_freeCount (s : State) : (s.newId).2.freeCount = s.freeCount := rfl
@[simp] theorem State.newId_refs (s : State) : (s.newId).2.refs = s.refs := rfl
@[simp] theorem State.newId_bad (s : State) : (s.newId).2.bad = s.bad := rfl
@[simp] theorem State.newId_ladles (s : State) : (s.newId).2.ladles = s.ladles := rfl
@[simp] theorem State.newId_requests (s : State) : (s.newId).2.requests = s.requests := rfl
@[simp] theorem State.newId_services (s : State) : (s.newId).2.services = s.services := rfl
@[simp] theorem State.newId_purges (s : State) : (s.newId).2.purges = s.purges := rfl
@[simp] theorem State.newId_hostCaches (s : State) : (s.newId).2.hostCaches = s.hostCaches := rfl
@[simp] theorem State.newId_fabCaches (s : State) : (s.newId).2.fabCaches = s.fabCaches := rfl
@[simp] theorem State.newId_slices (s : State) : (s.newId).2.slices = s.slices := rfl
@[simp] theorem State.newId_toHost (s : State) : (s.newId).2.toHost = s.toHost := rfl
@[simp] theorem State.newId_msix (s : State) : (s.newId).2.msix = s.msix := rfl
@[simp] theorem State.newId_doe (s : State) : (s.newId).2.doe = s.doe := rfl
@[simp] theorem State.newId_mgmt (s : State) : (s.newId).2.mgmt = s.mgmt := rfl
@[simp] theorem State.newId_assayer (s : State) : (s.newId).2.assayer = s.assayer := rfl
@[simp] theorem State.newId_fabric (s : State) : (s.newId).2.fabric = s.fabric := rfl
@[simp] theorem State.newId_lastWinner (s : State) : (s.newId).2.lastWinner = s.lastWinner := rfl
@[simp] theorem State.newId_portKeys (s : State) : (s.newId).2.portKeys = s.portKeys := rfl
@[simp] theorem State.newId_flows (s : State) : (s.newId).2.flows = s.flows := rfl
@[simp] theorem State.newId_lastDraw (s : State) : (s.newId).2.lastDraw = s.lastDraw := rfl
@[simp] theorem State.newId_cellTimes (s : State) : (s.newId).2.cellTimes = s.cellTimes := rfl
@[simp] theorem State.free_threads (s : State) : (s.free).2.threads = s.threads := rfl
@[simp] theorem State.free_groups (s : State) : (s.free).2.groups = s.groups := rfl
@[simp] theorem State.free_teams (s : State) : (s.free).2.teams = s.teams := rfl
@[simp] theorem State.free_clusters (s : State) : (s.free).2.clusters = s.clusters := rfl
@[simp] theorem State.free_cores (s : State) : (s.free).2.cores = s.cores := rfl
@[simp] theorem State.free_bundles (s : State) : (s.free).2.bundles = s.bundles := rfl
@[simp] theorem State.free_launches (s : State) : (s.free).2.launches = s.launches := rfl
@[simp] theorem State.free_worlds (s : State) : (s.free).2.worlds = s.worlds := rfl
@[simp] theorem State.free_quads (s : State) : (s.free).2.quads = s.quads := rfl
@[simp] theorem State.free_frames (s : State) : (s.free).2.frames = s.frames := rfl
@[simp] theorem State.free_mem (s : State) : (s.free).2.mem = s.mem := rfl
@[simp] theorem State.free_lines (s : State) : (s.free).2.lines = s.lines := rfl
@[simp] theorem State.free_ranges (s : State) : (s.free).2.ranges = s.ranges := rfl
@[simp] theorem State.free_time (s : State) : (s.free).2.time = s.time := rfl
@[simp] theorem State.free_span (s : State) : (s.free).2.span = s.span := rfl
@[simp] theorem State.free_late (s : State) : (s.free).2.late = s.late := rfl
@[simp] theorem State.free_early (s : State) : (s.free).2.early = s.early := rfl
@[simp] theorem State.free_latent (s : State) : (s.free).2.latent = s.latent := rfl
@[simp] theorem State.free_cur (s : State) : (s.free).2.cur = s.cur := rfl
@[simp] theorem State.free_turns (s : State) : (s.free).2.turns = s.turns := rfl
@[simp] theorem State.free_turnCount (s : State) : (s.free).2.turnCount = s.turnCount := rfl
@[simp] theorem State.free_nextId (s : State) : (s.free).2.nextId = s.nextId := rfl
@[simp] theorem State.free_refs (s : State) : (s.free).2.refs = s.refs := rfl
@[simp] theorem State.free_bad (s : State) : (s.free).2.bad = s.bad := rfl
@[simp] theorem State.free_ladles (s : State) : (s.free).2.ladles = s.ladles := rfl
@[simp] theorem State.free_requests (s : State) : (s.free).2.requests = s.requests := rfl
@[simp] theorem State.free_services (s : State) : (s.free).2.services = s.services := rfl
@[simp] theorem State.free_purges (s : State) : (s.free).2.purges = s.purges := rfl
@[simp] theorem State.free_hostCaches (s : State) : (s.free).2.hostCaches = s.hostCaches := rfl
@[simp] theorem State.free_fabCaches (s : State) : (s.free).2.fabCaches = s.fabCaches := rfl
@[simp] theorem State.free_slices (s : State) : (s.free).2.slices = s.slices := rfl
@[simp] theorem State.free_toHost (s : State) : (s.free).2.toHost = s.toHost := rfl
@[simp] theorem State.free_msix (s : State) : (s.free).2.msix = s.msix := rfl
@[simp] theorem State.free_doe (s : State) : (s.free).2.doe = s.doe := rfl
@[simp] theorem State.free_mgmt (s : State) : (s.free).2.mgmt = s.mgmt := rfl
@[simp] theorem State.free_assayer (s : State) : (s.free).2.assayer = s.assayer := rfl
@[simp] theorem State.free_fabric (s : State) : (s.free).2.fabric = s.fabric := rfl
@[simp] theorem State.free_lastWinner (s : State) : (s.free).2.lastWinner = s.lastWinner := rfl
@[simp] theorem State.free_portKeys (s : State) : (s.free).2.portKeys = s.portKeys := rfl
@[simp] theorem State.free_flows (s : State) : (s.free).2.flows = s.flows := rfl
@[simp] theorem State.free_lastDraw (s : State) : (s.free).2.lastDraw = s.lastDraw := rfl
@[simp] theorem State.free_cellTimes (s : State) : (s.free).2.cellTimes = s.cellTimes := rfl

end Sys2Proof.Machine
end

