-- ==== Sys2Proof/Laws/Units.lean ====
section
/-! SUPPORT. What a unit does whose threads all complete it (`issueUnit`, `aluUnit`): one lemma for the operation, which the claims
about single instructions cite. -/

namespace Sys2Proof.Machine

open Sys2Proof

/-! ## Threads after updates -/

@[simp] theorem State.thread_setThread_self (s : State) (tid : Nat) (x : Thread) : (s.setThread tid x).thread tid = x := by
  simp [State.thread, State.setThread]

theorem State.thread_setThread_ne (s : State) {tid k : Nat} (x : Thread) (h : k ≠ tid) :
    (s.setThread tid x).thread k = s.thread k := by
  simp [State.thread, State.setThread, SMap.getD_insert_ne _ _ _ h]

@[simp] theorem State.thread_modThread_self (s : State) (tid : Nat) (f : Thread → Thread) :
    (s.modThread tid f).thread tid = f (s.thread tid) := by simp [State.modThread]

theorem State.thread_modThread_ne (s : State) {tid k : Nat} (f : Thread → Thread) (h : k ≠ tid) :
    (s.modThread tid f).thread k = s.thread k := State.thread_setThread_ne _ _ h

theorem SameBut.refl (s : State) : SameBut s s := rfl

theorem SameBut.trans {a b c : State} (h : SameBut a b) (h' : SameBut b c) : SameBut a c := by
  unfold SameBut at *
  rw [← h]; rw [← h']

theorem SameBut.setThread {a b : State} (h : SameBut a b) (tid : Nat) (x : Thread) : SameBut a (b.setThread tid x) := h

theorem SameBut.modThread {a b : State} (h : SameBut a b) (tid : Nat) (f : Thread → Thread) : SameBut a (b.modThread tid f) := h

theorem SameBut.bundles {a b : State} (h : SameBut a b) (m : SMap Bundle) : SameBut a { b with bundles := m } := h

/-- One change to each thread of a list. -/
theorem thread_fold_modThread (f : Nat → Thread → Thread) (l : List Nat) (hl : l.Nodup) (s : State) (k : Nat) :
    (l.foldl (fun s tid => s.modThread tid (f tid)) s).thread k = if k ∈ l then f k (s.thread k) else s.thread k := by
  induction l generalizing s with
  | nil => simp
  | cons a l ih =>
    have hn := List.nodup_cons.mp hl
    rw [List.foldl_cons, ih hn.2]
    by_cases hk : k = a
    · subst hk; simp [hn.1]
    · rw [State.thread_modThread_ne _ _ hk]; simp [hk]

theorem sameBut_fold_modThread (f : Nat → Thread → Thread) (l : List Nat) (s : State) :
    SameBut s (l.foldl (fun s tid => s.modThread tid (f tid)) s) ∧
      (l.foldl (fun s tid => s.modThread tid (f tid)) s).bundles = s.bundles ∧
      (l.foldl (fun s tid => s.modThread tid (f tid)) s).cur = s.cur := by
  induction l generalizing s with
  | nil => exact ⟨rfl, rfl, rfl⟩
  | cons a l ih =>
    have := ih (s.modThread a (f a))
    exact ⟨SameBut.trans (SameBut.modThread (SameBut.refl s) a (f a)) this.1, this.2⟩

/-! ## A unit over its bundle -/

/-- How far a unit has come that all its threads complete: the threads done and what became of them. -/
structure Prog (s : State) (u : Issue) (x : Bundle) (fin : Nat → Thread) (p : Progress) (done : List Nat) : Prop where
  held   : p.held = false
  jumps  : p.jumps = []
  same   : SameBut s p.st
  bundle : p.st.bundles.find? u.bundle = some { x with finished := x.finished ++ done }
  others : ∀ b, b ≠ u.bundle → p.st.bundles.find? b = s.bundles.find? b
  cur    : p.st.cur = s.cur
  after  : ∀ tid ∈ done, p.st.thread tid = fin tid
  before : ∀ tid, tid ∉ done → p.st.thread tid = s.thread tid

/-- What a unit leaves of a thread: `x` is the thread after the unit's own effect on it, `r` the result it takes. -/
def unitThread (s : State) (u : Issue) (i : Instr) (x : Nat → Thread) (r : Nat → Result) (tid : Nat) : Thread :=
  if passes s u i tid then (if tid = sourceOf u i tid then x tid else s.thread tid).apply (r (sourceOf u i tid))
  else (s.thread tid).pushLatch (guardedOffLatch (s.thread tid) i)

/-- What is asked of a unit's computation: it completes, and changes nothing but its own thread. -/
def Completes (s : State) (f : Compute) (src : Nat) (g : Tag) (x : Thread) (r : Result) : Prop :=
  ∀ s', SameBut s s' → s'.thread src = s.thread src →
    ∃ s'', f s' src g = (.done r, s'') ∧ SameBut s' s'' ∧ s''.bundles = s'.bundles ∧ s''.cur = s'.cur ∧ s''.thread src = x ∧
      ∀ k, k ≠ src → s''.thread k = s'.thread k

theorem markFinished_find (s : State) (b : Nat) (l : List Nat) (x : Bundle) (h : s.bundles.find? b = some x) :
    (markFinished s b l).bundles.find? b = some { x with finished := x.finished ++ l } := by
  simp [markFinished, SMap.find?_modify, h]

theorem markFinished_ne (s : State) {b c : Nat} (l : List Nat) (h : c ≠ b) :
    (markFinished s b l).bundles.find? c = s.bundles.find? c := by
  simp [markFinished, SMap.find?_modify, h]

theorem passes_none {s : State} {u : Issue} {i : Instr} {tid : Nat} (h : (s.thread (sourceOf u i tid)).guard i = none) :
    passes s u i tid = true ∧ guardTag s u i tid = Tag.zero := by simp [passes, guardTag, h]

theorem passes_some {s : State} {u : Issue} {i : Instr} {tid : Nat} {g : Tagged Bool}
    (h : (s.thread (sourceOf u i tid)).guard i = some g) : passes s u i tid = g.val ∧ guardTag s u i tid = g.tag := by
  simp [passes, guardTag, h]

/-- The threads `targets` of a unit whose source is `src`, done after the others. -/
theorem runThread_completes {s : State} {u : Issue} {i : Instr} {f : Compute} {x : Nat → Thread} {r : Nat → Result}
    {b : Bundle} {p : Progress} {done targets : List Nat} {src : Nat}
    (hp : Prog s u b (unitThread s u i x r) p done) (hsrc : src ∉ done) (hmem : src ∈ targets)
    (hall : ∀ tid ∈ targets, sourceOf u i tid = src) (hnd : targets.Nodup) (hdis : ∀ tid ∈ targets, tid ∉ done)
    (hclean : (s.thread src).guardClean i = true)
    (hf : passes s u i src = true → Completes s f src (guardTag s u i src) (x src) (r src)) :
    Prog s u b (unitThread s u i x r) (runThread u i f p src targets) (done ++ targets) := by
  have hs : p.st.thread src = s.thread src := hp.before src hsrc
  have hself : sourceOf u i src = src := hall src hmem
  have key : ∀ (F : Nat → Thread → Thread) (st : State), SameBut s st → st.bundles = p.st.bundles → st.cur = p.st.cur →
      (∀ tid ∈ targets, F tid (st.thread tid) = unitThread s u i x r tid) →
      (∀ tid, tid ∉ targets → st.thread tid = p.st.thread tid) →
      Prog s u b (unitThread s u i x r)
        { p with st := markFinished (targets.foldl (fun s tid => s.modThread tid (F tid)) st) u.bundle targets }
        (done ++ targets) := by
    intro F st h1 h2 h2' h3 h4
    have hfold := sameBut_fold_modThread F targets st
    refine ⟨hp.held, hp.jumps, SameBut.bundles (SameBut.trans h1 hfold.1) _, ?_, ?_, (hfold.2.2.trans h2').trans hp.cur, ?_, ?_⟩
    · have := markFinished_find (targets.foldl (fun s tid => s.modThread tid (F tid)) st) u.bundle targets
        { b with finished := b.finished ++ done } (by rw [hfold.2.1, h2]; exact hp.bundle)
      simpa [List.append_assoc] using this
    · intro c hc
      rw [markFinished_ne _ _ hc, hfold.2.1, h2]; exact hp.others c hc
    · intro tid ht
      change (targets.foldl (fun s tid => s.modThread tid (F tid)) st).thread tid = _
      rw [thread_fold_modThread F targets hnd]
      split
      · rename_i h; exact h3 tid h
      · rename_i h
        rw [h4 tid h]
        exact hp.after tid ((List.mem_append.mp ht).resolve_right h)
    · intro tid ht
      rw [List.mem_append, not_or] at ht
      change (targets.foldl (fun s tid => s.modThread tid (F tid)) st).thread tid = _
      rw [thread_fold_modThread F targets hnd, if_neg ht.2, h4 tid ht.2]
      exact hp.before tid ht.1
  have act : passes s u i src = true → Prog s u b (unitThread s u i x r)
      (deliver u i p src targets (f p.st src (guardTag s u i src))) (done ++ targets) := by
    intro hpass
    obtain ⟨s'', e, h1, h2, h2', h3, h4⟩ := hf hpass p.st hp.same hs
    rw [e]
    refine key (fun _ t => t.apply (r src)) s'' (SameBut.trans hp.same h1) h2 h2' ?_ ?_
    · intro tid ht
      have hh := hall tid ht
      have hpt : passes s u i tid = true := by
        unfold passes at hpass ⊢; rw [hh]; rw [hself] at hpass; exact hpass
      simp only [unitThread, hpt, if_true, hh]
      by_cases hk : tid = src
      · subst hk; rw [if_pos rfl, h3]
      · rw [if_neg hk, h4 tid hk, hp.before tid (hdis tid ht)]
    · intro tid ht
      refine h4 tid ?_
      rintro rfl; exact ht hmem
  unfold runThread
  simp only [hp.held, Bool.false_eq_true, if_false, hs]
  cases hg : (s.thread src).guard i with
  | none =>
    have h := passes_none (s := s) (u := u) (i := i) (tid := src) (by rw [hself]; exact hg)
    have := act h.1
    rw [h.2] at this; exact this
  | some g =>
    have h := passes_some (s := s) (u := u) (i := i) (tid := src) (by rw [hself]; exact hg)
    have hcl : g.tag.poison = false := by simpa [Thread.guardClean, hg] using hclean
    simp only [hcl, Bool.false_eq_true, if_false]
    cases hv : g.val with
    | true =>
      have := act (by rw [h.1, hv])
      rw [h.2] at this
      simpa using this
    | false =>
      simp only [Bool.false_eq_true, if_false]
      have := key (fun _ t => t.pushLatch (guardedOffLatch t i)) p.st hp.same rfl rfl ?_ (fun _ _ => rfl)
      · rw [hp.held] at this; exact this
      intro tid ht
      have hh := hall tid ht
      have hpt : passes s u i tid = false := by
        have := h.1; unfold passes at this ⊢; rw [hh]; rw [hself] at this; rw [this, hv]
      simp [unitThread, hpt, hp.before tid (hdis tid ht)]

/-- The threads of a lane unit one after another. -/
theorem foldThreads_completes {s : State} {u : Issue} {i : Instr} {f : Compute} {x : Nat → Thread} {r : Nat → Result}
    {b : Bundle} (hk : i.ctl.k = false) (l : List Nat) (hl : l.Nodup)
    (hclean : ∀ tid ∈ l, (s.thread tid).guardClean i = true)
    (hf : ∀ tid ∈ l, passes s u i tid = true → Completes s f tid (guardTag s u i tid) (x tid) (r tid))
    (p : Progress) (done : List Nat) (hp : Prog s u b (unitThread s u i x r) p done) (hdis : ∀ tid ∈ l, tid ∉ done) :
    Prog s u b (unitThread s u i x r) (l.foldl (fun p tid => runThread u i f p tid [tid]) p) (done ++ l) := by
  induction l generalizing p done with
  | nil => simpa using hp
  | cons a l ih =>
    have hn := List.nodup_cons.mp hl
    have h1 := runThread_completes (f := f) (targets := [a]) (src := a) hp (hdis a (List.mem_cons_self ..)) (by simp)
      (by intro tid ht; simp only [List.mem_singleton] at ht; subst ht; simp [sourceOf, hk]) (by simp)
      (by intro tid ht; simp only [List.mem_singleton] at ht; subst ht; exact hdis tid (List.mem_cons_self ..))
      (hclean a (List.mem_cons_self ..)) (hf a (List.mem_cons_self ..))
    have h2 := ih hn.2 (fun tid ht => hclean tid (List.mem_cons_of_mem _ ht)) (fun tid ht => hf tid (List.mem_cons_of_mem _ ht))
      _ (done ++ [a]) h1 (by
        intro tid ht hd
        rcases List.mem_append.mp hd with hd | hd
        · exact hdis tid (List.mem_cons_of_mem _ ht) hd
        · simp only [List.mem_singleton] at hd; subst hd; exact hn.1 ht)
    simpa [List.append_assoc] using h2

theorem Thread.write_same (t : Thread) (g : Tag) (w : Write) :
    (t.write g w).request = t.request ∧ (t.write g w).place = t.place := by
  cases w
  · simp only [Thread.write, Thread.setReg]; split <;> exact ⟨rfl, rfl⟩
  all_goals exact ⟨rfl, rfl⟩

theorem Thread.raise_same (t : Thread) (fl : Flags) (g : BitVec 2) :
    (t.raise fl g).request = t.request ∧ (t.raise fl g).place = t.place := by
  unfold Thread.raise; split <;> exact ⟨rfl, rfl⟩

theorem Thread.apply_same (t : Thread) (r : Result) : (t.apply r).request = t.request ∧ (t.apply r).place = t.place := by
  have h : ∀ (l : List Write) (t : Thread), (l.foldl (fun t w => t.write r.tag w) t).request = t.request ∧
      (l.foldl (fun t w => t.write r.tag w) t).place = t.place := by
    intro l
    induction l with
    | nil => intro t; exact ⟨rfl, rfl⟩
    | cons w l ih =>
      intro t
      have h1 := ih (t.write r.tag w)
      have h2 := Thread.write_same t r.tag w
      exact ⟨h1.1.trans h2.1, h1.2.trans h2.2⟩
  have h1 := h r.writes t
  have h2 := Thread.raise_same (r.writes.foldl (fun t w => t.write r.tag w) t) r.flags r.tag.grade
  exact ⟨(show (Thread.raise _ _ _).request = _ from h2.1).trans h1.1, (show (Thread.raise _ _ _).place = _ from h2.2).trans h1.2⟩

theorem isKilled_same {s t : State} (h : SameBut s t) (tid : Nat) : t.isKilled tid = s.isKilled tid := by
  unfold SameBut at h; rw [← h]; rfl

theorem atBoundary_alive (s : State) (b : Nat) (h : ∀ tid ∈ (s.bundle b).tids, s.isKilled tid = false) : atBoundary s b = s := by
  unfold atBoundary
  split
  · rfl
  · rename_i tid r e
    have h1 := h tid (by rw [e]; exact List.mem_cons_self ..)
    unfold State.isKilled at h1
    rw [h1]; rfl

/-- A bundle moved on with all its answers there. -/
theorem closeUnit_open (s : State) (u : Issue) (target : Option Word) (x : Bundle) (hx : s.bundles.find? u.bundle = some x)
    (hreq : ∀ tid ∈ x.tids, (s.thread tid).request = none) (halive : ∀ tid ∈ x.tids, s.isKilled tid = false) :
    closeUnit s u target = putBundle s u.bundle (x.after u.next target) := by
  have hany : (x.tids.any fun tid => (s.thread tid).request.isSome) = false := by
    rw [List.any_eq_false]; intro tid ht; simp [hreq tid ht]
  unfold closeUnit
  rw [hx]
  simp only [hany, Bool.false_eq_true, if_false]
  split
  · refine atBoundary_alive _ _ fun tid ht => ?_
    have : tid ∈ x.tids := by simpa [State.bundle, putBundle, Bundle.after] using ht
    exact halive tid this
  · rfl

/-- The bundle after a unit that all its threads have completed without a jump. -/
theorem finish_advances {s : State} {u : Issue} {x : Bundle} {fin : Nat → Thread} {p : Progress} {done : List Nat}
    (hp : Prog s u x fin p done) (htids : x.tids = u.tids) (hdone : ∀ tid ∈ u.tids, tid ∈ done) (hsub : ∀ tid ∈ done, tid ∈ u.tids)
    (hfree : ∀ tid ∈ u.tids, (fin tid).request = none) (halive : ∀ tid ∈ u.tids, s.isKilled tid = false) :
    OnlyThreads s (finish u p) u ∧ (∀ tid ∈ u.tids, (finish u p).thread tid = fin tid) ∧
      (finish u p).bundle u.bundle = x.after u.next none ∧ (finish u p).cur = s.cur := by
  have e : finish u p = putBundle p.st u.bundle (x.after u.next none) := by
    have h := closeUnit_open p.st u none _ hp.bundle
      (fun tid ht => by rw [htids] at ht; rw [hp.after tid (hdone tid ht)]; exact hfree tid ht)
      (fun tid ht => by rw [htids] at ht; rw [isKilled_same hp.same tid]; exact halive tid ht)
    unfold finish settleJumps
    simp only [hp.held, hp.jumps, Bool.false_eq_true, if_false]
    rw [h]; rfl
  rw [e]
  refine ⟨⟨SameBut.bundles hp.same _, ?_, ?_⟩, ?_, ?_, hp.cur⟩
  · intro tid ht
    exact hp.before tid fun h => ht (hsub tid h)
  · intro b hb
    change SMap.find? (SMap.insert _ _ _) b = _
    rw [SMap.find?_insert_ne _ _ hb]; exact hp.others b hb
  · intro tid ht; exact hp.after tid (hdone tid ht)
  · simp [State.bundle, putBundle]

theorem SameBut.of_clear {s t : State} (h : SameBut { s with cur := none } t) : SameBut s t := by
  have := congrArg (fun z : State => { z with cur := s.cur }) h
  exact this

theorem Completes.clear {s : State} {f : Compute} {src : Nat} {g : Tag} {x : Thread} {r : Result}
    (h : Completes s f src g x r) : Completes { s with cur := none } f src g x r :=
  fun s' h1 h2 => h s' (SameBut.of_clear h1) h2

/-- All threads of a unit done. -/
theorem runAll_completes {s : State} {u : Issue} {i : Instr} {f : Compute} {x : Nat → Thread} {r : Nat → Result} {b : Bundle}
    (hb : s.bundles.find? u.bundle = some b) (hfin : b.finished = []) (hnd : u.tids.Nodup) (hne : u.tids ≠ [])
    (hclean : ∀ tid ∈ u.tids, (s.thread tid).guardClean i = true)
    (hf : ∀ tid ∈ u.tids, sourceOf u i tid = tid → passes s u i tid = true →
      Completes s f tid (guardTag s u i tid) (x tid) (r tid)) :
    Prog s u b (unitThread s u i x r) (runAll u i f s id) u.tids := by
  have h0 : Prog s u b (unitThread s u i x r) ⟨s, [], false⟩ [] :=
    ⟨rfl, rfl, rfl, by simpa using hb, fun _ _ => rfl, rfl, by simp, fun _ _ => rfl⟩
  have hwait : (u.tids.filter fun tid => !(s.bundle u.bundle).finished.contains tid) = u.tids := by
    have : (s.bundle u.bundle).finished = [] := by simp [State.bundle, SMap.getD, hb, hfin]
    rw [this]; simp
  unfold runAll
  simp only [id, hwait]
  cases hk : i.ctl.k with
  | true =>
    cases ht : u.tids with
    | nil => exact absurd ht hne
    | cons src rest =>
      have hsrc : src ∈ u.tids := by rw [ht]; exact List.mem_cons_self ..
      have hself : ∀ tid, sourceOf u i tid = src := by intro tid; simp [sourceOf, hk, ht]
      have := runThread_completes (f := f) (x := x) (r := r) (targets := src :: rest) (src := src) h0 (by simp) (by simp)
        (fun tid _ => hself tid) (ht ▸ hnd) (by simp) (hclean src hsrc) (fun hp => hf src hsrc (hself src) hp)
      exact this
  | false =>
    have := foldThreads_completes (f := f) (x := x) (r := r) hk u.tids hnd hclean
      (fun tid ht hp => hf tid ht (by simp [sourceOf, hk]) hp) _ [] h0 (by simp)
    exact this

/-- A unit that all threads that take part complete, each changing no more of the state than its own thread. -/
theorem issueUnit_completes {s : State} {u : Issue} {i : Instr} {f : Issue → Compute} {x : Nat → Thread} {r : Nat → Result}
    (h : Issues s u i) (hx : ∀ tid ∈ u.tids, (x tid).request = none)
    (hf : ∀ tid ∈ u.tids, sourceOf u i tid = tid → passes s u i tid = true →
      Completes s (f u) tid (guardTag s u i tid) (x tid) (r tid)) :
    ∃ t, issueUnit i f s = .next t ∧ OnlyThreads s t u ∧ Advanced s t u ∧
      ∀ tid ∈ u.tids, t.thread tid = unitThread s u i x r tid := by
  obtain ⟨b, hb, htids, hfin⟩ := h.bundle
  have hprog := runAll_completes (s := { s with cur := none }) (x := x) (r := r) hb hfin h.distinct h.someone h.clean
    (fun tid ht h1 h2 => (hf tid ht h1 h2).clear)
  have hfree : ∀ tid ∈ u.tids, (unitThread s u i x r tid).request = none := by
    intro tid ht
    unfold unitThread
    split
    · rw [(Thread.apply_same _ _).1]; split
      · exact hx tid ht
      · exact h.free tid ht
    · exact h.free tid ht
  have fin := finish_advances hprog htids (fun _ h => h) (fun _ h => h) hfree h.alive
  refine ⟨runUnit u i (f u) { s with cur := none }, by simp [issueUnit, h.cur], ?_, ?_, fin.2.1⟩
  · exact ⟨SameBut.of_clear fin.1.rest, fin.1.threads, fin.1.bundles⟩
  · have e : (runUnit u i (f u) { s with cur := none }).bundle u.bundle = b.after u.next none := fin.2.2.1
    have hbun : s.bundle u.bundle = b := by simp [State.bundle, SMap.getD, hb]
    unfold Advanced
    rw [e, hbun]
    exact ⟨htids, rfl, rfl, rfl, fin.2.2.2⟩

/-- The same for a result computed from the registers of the source thread alone. -/
theorem aluUnit_completes {s : State} {u : Issue} {i : Instr} {f : Thread → Tag → Result} (h : Issues s u i) :
    ∃ t, aluUnit i f s = .next t ∧ OnlyThreads s t u ∧ Advanced s t u ∧ ∀ tid ∈ u.tids, t.thread tid =
      if passes s u i tid then (s.thread tid).apply (f (s.thread (sourceOf u i tid)) (guardTag s u i tid))
      else (s.thread tid).pushLatch (guardedOffLatch (s.thread tid) i) := by
  obtain ⟨t, h1, h2, h3, h4⟩ := issueUnit_completes (f := fun _ s tid g => (.done (f (s.thread tid) g), s))
    (x := fun tid => s.thread tid) (r := fun tid => f (s.thread tid) (guardTag s u i tid)) h h.free
    (fun tid _ _ _ s' _ hs => ⟨s', by simp only [hs], rfl, rfl, rfl, hs, fun _ _ => rfl⟩)
  refine ⟨t, h1, h2, h3, fun tid ht => ?_⟩
  rw [h4 tid ht]
  unfold unitThread
  have hg : guardTag s u i (sourceOf u i tid) = guardTag s u i tid := by
    have : sourceOf u i (sourceOf u i tid) = sourceOf u i tid := by
      unfold sourceOf
      cases i.ctl.k <;> cases u.tids <;> rfl
    unfold guardTag
    rw [this]
  simp only [hg]
  split
  · split <;> rfl
  · rfl

end Sys2Proof.Machine
end

