-- ==== Sys2Proof/Laws/Alone.lean ====
section
/-! SUPPORT. What a unit of a bundle of one thread does, outcome by outcome: the claims about instructions that act on more than
their own thread cite these. -/

namespace Sys2Proof.Machine

open Sys2Proof

variable {s : State} {u : Issue} {i : Instr} {tid : Nat}

/-- A unit of one thread is its computation, delivered to the thread, and the bundle moved on. -/
theorem issueUnit_alone (f : Issue → Compute) (h : Alone s u i tid) :
    issueUnit i f s = .next (finish u (deliver u i ⟨{ s with cur := none }, [], false⟩ tid [tid]
      (f u { s with cur := none } tid (guardTag s u i tid)))) := by
  obtain ⟨b, hb, htids, hfin⟩ := h.issues.bundle
  have hbun : ({ s with cur := none } : State).bundle u.bundle = b := by simp [State.bundle, SMap.getD, hb]
  have hsrc : sourceOf u i tid = tid := by unfold sourceOf; cases i.ctl.k <;> simp [h.one]
  have hrun : ∀ p : Progress, p = ⟨{ s with cur := none }, [], false⟩ → runThread u i (f u) p tid [tid] =
      deliver u i p tid [tid] (f u p.st tid (guardTag s u i tid)) := by
    intro p hp
    subst hp
    unfold runThread
    have hclean := h.issues.clean tid (by rw [h.one]; exact List.mem_cons_self ..)
    have hopen := h.isOpen
    unfold Thread.guardClean at hclean
    unfold passes at hopen
    unfold guardTag
    rw [hsrc] at hopen ⊢
    have e : (State.thread { s with cur := none } tid) = s.thread tid := rfl
    simp only [Bool.false_eq_true, if_false, e]
    cases hg : (s.thread tid).guard i with
    | none => rfl
    | some g =>
      rw [hg] at hclean hopen
      have h1 : g.tag.poison = false := by simpa using hclean
      have h2 : g.val = true := hopen
      simp [h1, h2]
  have hwait : (u.tids.filter fun t => !(State.bundle { s with cur := none } u.bundle).finished.contains t) = [tid] := by
    rw [hbun, hfin, h.one]; rfl
  unfold issueUnit
  rw [h.issues.cur]
  unfold runUnit runAll
  simp only [id, hwait]
  cases hk : i.ctl.k with
  | true => simp only [if_true]; rw [hrun _ rfl]
  | false => simp only [Bool.false_eq_true, if_false, List.foldl_cons, List.foldl_nil]; rw [hrun _ rfl]

/-- What a completed unit leaves, where the state after the unit's effect still holds the bundle with its one thread. -/
theorem finish_done_alone {s1 : State} {r : Result} {x : Bundle} (hx : s1.bundles.find? u.bundle = some x) (ht : x.tids = [tid])
    (hreq : (s1.thread tid).request = none) (halive : s1.isKilled tid = false) :
    Onward (s1.modThread tid fun t => t.apply r) (finish u (deliver u i ⟨s, [], false⟩ tid [tid] (.done r, s1))) u := by
  have hb : (markFinished (s1.modThread tid fun t => t.apply r) u.bundle [tid]).bundles.find? u.bundle =
      some { x with finished := x.finished ++ [tid] } := markFinished_find _ _ _ _ hx
  have hc := closeUnit_open (markFinished (s1.modThread tid fun t => t.apply r) u.bundle [tid]) u none _ hb
    (by
      intro k hk
      have hk : k = tid := by simpa [ht] using hk
      subst hk
      change ((s1.modThread k fun t => t.apply r).thread k).request = none
      rw [State.thread_modThread_self, (Thread.apply_same _ _).1]; exact hreq)
    (by
      intro k hk
      have hk : k = tid := by simpa [ht] using hk
      subst hk; exact halive)
  unfold finish settleJumps deliver
  simp only [List.foldl_cons, List.foldl_nil, Bool.false_eq_true, if_false]
  rw [hc]
  have e : (s1.modThread tid fun t => t.apply r).bundle u.bundle = x := by
    change s1.bundles.getD u.bundle noBundle = x
    simp [SMap.getD, hx]
  refine ⟨rfl, ?_, ?_⟩
  · rw [e]
    change SMap.find? (SMap.insert _ _ _) _ = _
    rw [SMap.find?_insert_self]
    simp [Bundle.after]
  · intro c hc
    change SMap.find? (SMap.insert _ _ _) _ = _
    rw [SMap.find?_insert_ne _ _ hc]
    exact markFinished_ne _ _ hc

/-- A unit of one thread that it completes. -/
theorem issueUnit_alone_done {f : Issue → Compute} {r : Result} {s1 : State} (h : Alone s u i tid)
    (hf : f u { s with cur := none } tid (guardTag s u i tid) = (.done r, s1)) (hb : s1.bundles = s.bundles)
    (hreq : (s1.thread tid).request = none) (halive : s1.isKilled tid = false) :
    ∃ t, issueUnit i f s = .next t ∧ Onward (s1.modThread tid fun t => t.apply r) t u := by
  rw [issueUnit_alone f h, hf]
  obtain ⟨b, hb', htids, hfin⟩ := h.issues.bundle
  exact ⟨_, rfl, finish_done_alone (x := b) (by rw [hb]; exact hb') (by rw [htids, h.one]) hreq halive⟩

/-! ## A thread that leaves its bundle to a bin -/

theorem State.core_setCore_self (s : State) (c : Nat) (x : Core) : (s.setCore c x).core c = x := by
  simp [State.core, State.setCore]

theorem State.core_setCore_ne (s : State) {c d : Nat} (x : Core) (h : d ≠ c) : (s.setCore c x).core d = s.core d := by
  simp [State.core, State.setCore, SMap.getD_insert_ne _ _ _ h]

theorem binFor_spec {c : Core} {team role : Nat} {pc : Word} {j : Nat} (h : c.binFor team role pc = some j) :
    ∃ e ∈ c.bins, e.1 = j ∧ e.2.team = team ∧ e.2.role = role ∧ e.2.pc = pc := by
  unfold Core.binFor at h
  cases hf : List.find? (fun e => decide (e.2.team = team) && decide (e.2.role = role) && decide (e.2.pc = pc)) c.bins with
  | none => rw [hf] at h; cases h
  | some e =>
    rw [hf] at h
    have h1 := List.find?_some hf
    have h2 := List.mem_of_find?_eq_some hf
    simp only [Bool.and_eq_true, decide_eq_true_eq] at h1
    exact ⟨e, h2, by simpa using h, h1.1.1, h1.1.2, h1.2⟩

theorem mem_modify_members {bins : SMap Bin} {j tid : Nat} {e : Nat × Bin} (he : e ∈ bins) (hj : e.1 = j) :
    ∃ e' ∈ bins.modify j fun b => { b with members := b.members ++ [tid] },
      tid ∈ e'.2.members ∧ e'.2.team = e.2.team ∧ e'.2.role = e.2.role ∧ e'.2.pc = e.2.pc := by
  refine ⟨(e.1, { e.2 with members := e.2.members ++ [tid] }), ?_, by simp, rfl, rfl, rfl⟩
  unfold SMap.modify
  exact List.mem_map.mpr ⟨e, he, by simp [hj]⟩

theorem SMap.mem_insert_self {α : Type} (m : SMap α) (k : Nat) (v : α) : (k, v) ∈ m.insert k v := by
  induction m with
  | nil => simp [SMap.insert]
  | cons e m ih =>
    obtain ⟨j, x⟩ := e
    simp only [SMap.insert]
    split
    · simp
    · split
      · simp
      · exact List.mem_cons_of_mem _ ih

/-- A thread of a group that is on its core, filed. -/
theorem fileThread_filed (s : State) (tid time : Nat) (h : (s.threadGroup tid).offCore = false) :
    Filed (fileThread s tid time) tid ∧
    (∃ cs, fileThread s tid time =
      { s.modThread tid fun t => { t with place := .filed, runnable := time } with cores := cs }) ∧
    ∀ c, c ≠ s.threadCore tid → (fileThread s tid time).core c = s.core c := by
  have hg : (s.modThread tid fun t => { t with place := .filed, runnable := time }).threadGroup tid = s.threadGroup tid := rfl
  unfold fileThread
  simp only [hg, h, Bool.false_eq_true, if_false]
  have hset : ∀ (c' : Core), let S := (s.modThread tid fun t => { t with place := .filed, runnable := time })
      (tid ∈ c'.queue ∨ ∃ e ∈ c'.bins, tid ∈ e.2.members ∧ e.2.team = teamOf tid ∧ e.2.role = (s.threadGroup tid).role ∧
        e.2.pc = (S.thread tid).pc) →
      Filed (S.setCore (s.threadGroup tid).core c') tid ∧ (∃ cs, S.setCore (s.threadGroup tid).core c' = { S with cores := cs }) ∧
      ∀ c, c ≠ s.threadCore tid → (S.setCore (s.threadGroup tid).core c').core c = s.core c := by
    intro c' S hh
    refine ⟨?_, ⟨_, rfl⟩, ?_⟩
    · unfold Filed
      have e1 : (S.setCore (s.threadGroup tid).core c').threadCore tid = (s.threadGroup tid).core := rfl
      rw [e1, State.core_setCore_self]
      exact hh
    · intro c hc
      rw [State.core_setCore_ne]
      · rfl
      · exact hc
  split
  · split
    · rename_i c' hc'
      apply hset
      right
      unfold Core.tryFile at hc'
      split at hc'
      · rename_i j hj
        obtain ⟨e, he, hj1, ht, hr, hp⟩ := binFor_spec hj
        obtain ⟨e', h1, h2, h3, h4, h5⟩ := mem_modify_members (tid := tid) he hj1
        cases hc'
        exact ⟨e', h1, h2, h3.trans ht, h4.trans hr, h5.trans hp⟩
      · obtain ⟨i, -, rfl⟩ := Option.map_eq_some_iff.mp hc'
        exact ⟨_, SMap.mem_insert_self _ _ _, by simp, rfl, rfl, rfl⟩
    · apply hset
      left; simp
  · split
    · rename_i j hj
      apply hset
      right
      obtain ⟨e, he, hj1, ht, hr, hp⟩ := binFor_spec hj
      obtain ⟨e', h1, h2, h3, h4, h5⟩ := mem_modify_members (tid := tid) he hj1
      exact ⟨e', h1, h2, h3.trans ht, h4.trans hr, h5.trans hp⟩
    · apply hset
      left; simp

/-- The one thread of a bundle out of it. -/
theorem leaveBundle_alone {x : Bundle} (hp : (s.thread tid).place = .inBundle u.bundle) (hx : s.bundles.find? u.bundle = some x)
    (ht : x.tids = [tid]) : leaveBundle s tid = { s with bundles := s.bundles.erase u.bundle } := by
  unfold leaveBundle
  rw [hp]
  have : s.bundle u.bundle = x := by simp [State.bundle, SMap.getD, hx]
  simp [this, ht, State.setBundle]

theorem State.thread_cores (s : State) (cs : SMap Core) (k : Nat) : State.thread { s with cores := cs } k = s.thread k := rfl

/-- The one thread of a bundle changed, out of the bundle and filed. -/
theorem leftFiled (s : State) (u : Issue) (tid : Nat) (F : Thread → Thread) (time : Nat) (h : (s.threadGroup tid).offCore = false)
    (hcur : s.cur = none) :
    LeftFiled s (fileThread (State.modThread { s with bundles := s.bundles.erase u.bundle } tid F) tid time) u tid
      { F (s.thread tid) with runnable := time } := by
  have hf := fileThread_filed (State.modThread { s with bundles := s.bundles.erase u.bundle } tid F) tid time h
  obtain ⟨h1, ⟨cs, h2⟩, h3⟩ := hf
  refine ⟨?_, h1, ?_, ?_, ?_, fun c hc => ?_, ?_, ?_⟩
  · rw [h2, State.thread_cores, State.thread_modThread_self, State.thread_modThread_self]
    rfl
  · intro k hk
    rw [h2, State.thread_cores, State.thread_modThread_ne _ _ hk, State.thread_modThread_ne _ _ hk]
    rfl
  · rw [h2]; exact SMap.find?_erase_self _ _
  · intro b hb; rw [h2]; exact SMap.find?_erase_ne _ hb
  · rw [h3 c hc]; rfl
  · rw [h2]; rfl
  · rw [h2]; exact hcur

/-- A trap taken by the one thread of a bundle. -/
theorem takeTrap_alone {a : TrapArgs} {x : Bundle} (hc : CanTrap s tid) (halive : s.isKilled tid = false) (hcur : s.cur = none)
    (hp : (s.thread tid).place = .inBundle u.bundle) (hx : s.bundles.find? u.bundle = some x) (ht : x.tids = [tid]) :
    LeftFiled s (takeTrap s tid a) u tid (trapped s tid a) := by
  have e : ((s.thread tid).place == Place.filed) = false := by rw [hp]; rfl
  have h := leftFiled s u tid (fun t : Thread => { t with
        trapinfo := trapInfoWord a
        trappc := a.pc
        trapval := ⟨a.val.val, ⟨if a.async then 0 else a.val.tag.grade, false⟩⟩
        resume := a.resume
        hnd := true
        enters := (s.world (s.threadWorld tid)).stat = 2
        request := none
        retries := false
        pc := handlerPc s tid }) s.time hc.onCore hcur
  unfold takeTrap
  rw [if_neg hc.handler, if_neg (by simp [hc.outside]), if_neg (by simp [halive]), if_neg (by simp [e]),
    leaveBundle_alone hp hx ht]
  exact h

theorem LeftFiled.of_clear {t : State} {x : Thread} (h : LeftFiled { s with cur := none } t u tid x) : LeftFiled s t u tid x :=
  ⟨h.thread, h.filed, h.others, h.bundle, h.bundles, h.cores,
    by have := congrArg (fun z : State => { z with cur := s.cur }) h.rest; exact this, h.cur⟩

/-- A unit whose bundle is gone ends there. -/
theorem finish_gone {p : Progress} (hh : p.held = false) (hj : p.jumps = []) (hb : p.st.bundles.find? u.bundle = none) :
    finish u p = p.st := by
  unfold finish settleJumps closeUnit
  simp only [hh, hj, Bool.false_eq_true, if_false]
  rw [hb]

/-- A unit of one thread that traps without any effect. -/
theorem issueUnit_alone_trap {f : Issue → Compute} {c : Cause} {val : Word} {vahi : Nat} {atNext : Bool} (h : Alone s u i tid)
    (hc : CanTrap s tid)
    (hf : f u { s with cur := none } tid (guardTag s u i tid) = (.trap c val vahi atNext, { s with cur := none })) :
    ∃ t, issueUnit i f s = .next t ∧
      LeftFiled s t u tid (trapped s tid (unitTrap u i (s.sourceTag tid i) c val vahi atNext (s.thread tid).hasPending)) := by
  obtain ⟨b, hb, htids, _⟩ := h.issues.bundle
  have hm : tid ∈ u.tids := by rw [h.one]; exact List.mem_cons_self ..
  have hl : LeftFiled { s with cur := none } (takeTrap { s with cur := none } tid (unitTrap u i (s.sourceTag tid i) c val vahi atNext (s.thread tid).hasPending))
      u tid (trapped s tid (unitTrap u i (s.sourceTag tid i) c val vahi atNext (s.thread tid).hasPending)) :=
    takeTrap_alone ⟨hc.handler, hc.outside, hc.onCore⟩ (h.issues.alive tid hm) rfl (h.issues.placed tid hm) hb (by rw [htids, h.one])
  rw [issueUnit_alone f h, hf]
  refine ⟨_, rfl, ?_⟩
  rw [finish_gone (by rfl) (by rfl)]
  · exact hl.of_clear
  · exact hl.bundle

/-! ## The other outcomes -/

/-- A unit of one thread has no order to choose. -/
theorem issueUnordered_alone (f : Issue → Compute) (h : Alone s u i tid) : issueUnordered i f s = issueUnit i f s := by
  unfold issueUnordered issueUnit
  rw [h.issues.cur]
  simp [runUnordered, h.one]

/-- What a lemma asks of the state after the effect of a unit of one thread: the thread is in its bundle, and its team lives. -/
structure Still (s a : State) (u : Issue) (tid : Nat) : Prop where
  bundles : a.bundles = s.bundles
  placed  : (a.thread tid).place = .inBundle u.bundle
  alive   : a.isKilled tid = false
  cur     : a.cur = none
  free    : (a.thread tid).request = none

theorem Alone.mem (h : Alone s u i tid) : tid ∈ u.tids := by rw [h.one]; exact List.mem_cons_self ..

theorem Alone.still (h : Alone s u i tid) : Still s { s with cur := none } u tid :=
  ⟨rfl, h.issues.placed tid h.mem, h.issues.alive tid h.mem, rfl, h.issues.free tid h.mem⟩

theorem Alone.found (h : Alone s u i tid) :
    s.bundles.find? u.bundle = some (s.bundle u.bundle) ∧ (s.bundle u.bundle).tids = [tid] ∧ (s.bundle u.bundle).finished = [] := by
  obtain ⟨b, hb, ht, hf⟩ := h.issues.bundle
  have : s.bundle u.bundle = b := by simp [State.bundle, SMap.getD, hb]
  rw [this]
  exact ⟨hb, by rw [ht, h.one], hf⟩

/-- A unit of one thread that files it again. -/
theorem issueUnit_alone_file {f : Issue → Compute} {pc : Word} {time : Nat} {a : State} (h : Alone s u i tid)
    (ha : Still s a u tid) (ho : (a.threadGroup tid).offCore = false)
    (hf : f u { s with cur := none } tid (guardTag s u i tid) = (.file pc time, a)) :
    ∃ t, issueUnit i f s = .next t ∧ LeftFiled a t u tid { a.thread tid with pc := pc, runnable := time } := by
  obtain ⟨hb, ht, _⟩ := h.found
  rw [← ha.bundles] at hb
  have e : refile a tid pc time =
      fileThread (State.modThread { a with bundles := a.bundles.erase u.bundle } tid fun t => { t with pc := pc }) tid time := by
    unfold refile
    rw [if_neg (by simp [ha.alive]), leaveBundle_alone ha.placed hb ht]
  have hl := leftFiled a u tid (fun t => { t with pc := pc }) time ho ha.cur
  rw [← e] at hl
  rw [issueUnit_alone f h, hf]
  refine ⟨_, rfl, ?_⟩
  rw [finish_gone (by rfl) (by rfl)]
  · exact hl
  · exact hl.bundle

/-- The one thread of a bundle parked. -/
theorem park_alone {a : State} {pc : Word} {w : Wait} {x : Bundle} (ha : Still s a u tid)
    (hb : a.bundles.find? u.bundle = some x) (ht : x.tids = [tid]) :
    LeftWaiting a (park a tid pc w) u tid { a.thread tid with
      pc := pc, place := .waiting w, since := if (a.thread tid).retries then (a.thread tid).since else a.time,
      retries := false } := by
  unfold park
  rw [if_neg (by simp [ha.alive]), leaveBundle_alone ha.placed hb ht]
  refine ⟨State.thread_modThread_self _ _ _, fun k hk => State.thread_modThread_ne _ _ hk, SMap.find?_erase_self _ _,
    fun b hb => SMap.find?_erase_ne _ hb, rfl, ha.cur⟩

/-- A unit of one thread that waits outside its bundle. -/
theorem issueUnit_alone_wait {f : Issue → Compute} {w : Wait} {atNext : Bool} {a : State} (h : Alone s u i tid)
    (ha : Still s a u tid) (hf : f u { s with cur := none } tid (guardTag s u i tid) = (.wait w atNext, a)) :
    ∃ t, issueUnit i f s = .next t ∧ LeftWaiting a t u tid { a.thread tid with
      pc := if atNext then u.next else u.head, place := .waiting w,
      since := if (a.thread tid).retries then (a.thread tid).since else a.time, retries := false } := by
  obtain ⟨hb, ht, _⟩ := h.found
  rw [← ha.bundles] at hb
  have hl := park_alone (pc := if atNext then u.next else u.head) (w := w) ha hb ht
  rw [issueUnit_alone f h, hf]
  refine ⟨_, rfl, ?_⟩
  rw [finish_gone (by rfl) (by rfl)]
  · exact hl
  · exact hl.bundle

/-- A unit of one thread that waits before its effect. -/
theorem issueUnit_alone_hold {f : Issue → Compute} {a : State} (h : Alone s u i tid) (ha : a.bundles = s.bundles)
    (hf : f u { s with cur := none } tid (guardTag s u i tid) = (.hold, a)) :
    ∃ t, issueUnit i f s = .next t ∧ Stays a t u { s.bundle u.bundle with held := true, ready := a.time } := by
  obtain ⟨hb, _, _⟩ := h.found
  rw [← ha] at hb
  rw [issueUnit_alone f h, hf]
  refine ⟨_, rfl, ?_⟩
  have e : finish u (deliver u i ⟨{ s with cur := none }, [], false⟩ tid [tid] (.hold, a)) =
      { a with bundles := a.bundles.modify u.bundle fun x => { x with held := true, ready := a.time } } := rfl
  rw [e]
  refine ⟨rfl, ?_, fun b hne => ?_⟩
  · rw [SMap.find?_modify, if_pos rfl, hb]; rfl
  · rw [SMap.find?_modify, if_neg hne]

/-- A unit of one thread whose operation is sent. -/
theorem issueUnit_alone_sent {f : Issue → Compute} {a : State} {req : Nat} (h : Alone s u i tid) (ha : Still s a u tid)
    (hf : f u { s with cur := none } tid (guardTag s u i tid) = (.sent req, a)) :
    ∃ t, issueUnit i f s = .next t ∧ Stays (a.modThread tid fun t => { t with request := some req }) t u
      { s.bundle u.bundle with finished := [tid], held := false } := by
  obtain ⟨hb, ht, hfin⟩ := h.found
  rw [← ha.bundles] at hb
  rw [issueUnit_alone f h, hf]
  have hm : (markFinished (a.modThread tid fun t => { t with request := some req }) u.bundle [tid]).bundles.find? u.bundle =
      some { s.bundle u.bundle with finished := [tid] } := by
    have := markFinished_find (a.modThread tid fun t => { t with request := some req }) u.bundle [tid] _ hb
    rw [this, hfin]; rfl
  have e : finish u (deliver u i ⟨{ s with cur := none }, [], false⟩ tid [tid] (.sent req, a)) =
      putBundle (markFinished (a.modThread tid fun t => { t with request := some req }) u.bundle [tid]) u.bundle
        { s.bundle u.bundle with finished := [tid], held := false } := by
    have hany : (((s.bundle u.bundle).tids).any fun k => ((markFinished (a.modThread tid fun t => { t with request := some req })
        u.bundle [tid]).thread k).request.isSome) = true := by
      rw [ht]
      simp only [List.any_cons, List.any_nil, Bool.or_false]
      have : (markFinished (a.modThread tid fun t => { t with request := some req }) u.bundle [tid]).thread tid =
          { a.thread tid with request := some req } :=
        State.thread_modThread_self a tid fun t => { t with request := some req }
      rw [this]; rfl
    unfold finish settleJumps deliver closeUnit
    simp only [List.foldl_cons, List.foldl_nil, Bool.false_eq_true, if_false, hm]
    exact if_pos hany
  refine ⟨_, rfl, ?_⟩
  rw [e]
  refine ⟨rfl, SMap.find?_insert_self _ _ _, fun b hne => ?_⟩
  change SMap.find? (SMap.insert _ _ _) _ = _
  rw [SMap.find?_insert_ne _ _ hne]
  exact markFinished_ne _ _ hne

/-- A unit of one thread that jumps. -/
theorem issueUnit_alone_jump {f : Issue → Compute} {a : State} {pc : Word} (h : Alone s u i tid) (ha : Still s a u tid)
    (hf : f u { s with cur := none } tid (guardTag s u i tid) = (.jump pc, a)) :
    ∃ t, issueUnit i f s = .next t ∧ Jumped (a.modThread tid fun t => t.pushLatch (untagged 0)) t u pc := by
  obtain ⟨hb, ht, hfin⟩ := h.found
  rw [← ha.bundles] at hb
  rw [issueUnit_alone f h, hf]
  have hm := markFinished_find (a.modThread tid fun t => t.pushLatch (untagged 0)) u.bundle [tid] _ hb
  have hc := closeUnit_open (markFinished (a.modThread tid fun t => t.pushLatch (untagged 0)) u.bundle [tid]) u (some pc) _ hm
    (by
      intro k hk
      have hk : k = tid := by simpa [ht] using hk
      subst hk
      change ((a.modThread k fun t => t.pushLatch (untagged 0)).thread k).request = none
      rw [State.thread_modThread_self]; exact ha.free)
    (by
      intro k hk
      have hk : k = tid := by simpa [ht] using hk
      subst hk; exact ha.alive)
  have e : finish u (deliver u i ⟨{ s with cur := none }, [], false⟩ tid [tid] (.jump pc, a)) =
      closeUnit (markFinished (a.modThread tid fun t => t.pushLatch (untagged 0)) u.bundle [tid]) u (some pc) := by
    unfold finish settleJumps deliver
    simp [h.one]
  refine ⟨_, rfl, ?_⟩
  rw [e, hc]
  have hbun : (a.modThread tid fun t => t.pushLatch (untagged 0)).bundle u.bundle = s.bundle u.bundle := by
    change a.bundles.getD u.bundle noBundle = _
    simp [SMap.getD, hb]
  refine ⟨rfl, ?_, fun b hne => ?_⟩
  · rw [hbun]
    change SMap.find? (SMap.insert _ _ _) _ = _
    rw [SMap.find?_insert_self]; rfl
  · change SMap.find? (SMap.insert _ _ _) _ = _
    rw [SMap.find?_insert_ne _ _ hne]
    exact markFinished_ne _ _ hne

end Sys2Proof.Machine
end

