-- ==== Sys2Proof/Laws/Near.lean ====
section
/-! SUPPORT. What bytes written to near memory change (`writeNear`): memory, the lines, and the threads that wait for them. -/

namespace Sys2Proof.Machine

open Sys2Proof

/-- The same machine but for near memory, threads, bins, and loads read ahead; bundles and the unit executed are the same, a thread
differs at most in its place and runnable time, and only where it waited, and only such a thread loses what it read ahead; of the errors not yet found only ones in data go. -/
structure Woken (s t : State) : Prop where
  rest    : { t with threads := s.threads, cores := s.cores, mem := s.mem, lines := s.lines, early := s.early,
                     latent := s.latent } = s
  threads : ∀ k, ∃ p r, t.thread k = { s.thread k with place := p, runnable := r }
  still   : ∀ k, (∀ w, (s.thread k).place ≠ .waiting w) → t.thread k = s.thread k
  early   : ∃ p : EarlyLoad → Bool, t.early = s.early.filter p ∧ ∀ e, (∀ w, (s.thread e.tid).place ≠ .waiting w) → p e = true
  latent  : ∃ p : Latent → Bool, t.latent = s.latent.filter p ∧ ∀ e, (∀ g, e ≠ .data g) → p e = true

/-- A change of near memory alone, and of the errors in its data. -/
theorem Woken.of_mend {s t : State} (h : { t with mem := s.mem, lines := s.lines, latent := s.latent } = s)
    (hl : ∃ p : Latent → Bool, t.latent = s.latent.filter p ∧ ∀ e, (∀ g, e ≠ .data g) → p e = true) : Woken s t := by
  have ht : t.threads = s.threads := by have := congrArg State.threads h; exact this
  have hc : t.cores = s.cores := by have := congrArg State.cores h; exact this
  have he : t.early = s.early := by have := congrArg State.early h; exact this
  have hk : ∀ k, t.thread k = s.thread k := fun k => by unfold State.thread; rw [ht]
  refine ⟨?_, fun k => ⟨_, _, hk k⟩, fun k _ => hk k, ⟨fun _ => true, by rw [he]; exact (List.filter_true _).symm, fun _ _ => rfl⟩, hl⟩
  rw [← ht, ← hc, ← he]; exact h

/-- A change of near memory alone. -/
theorem Woken.of_mem {s t : State} (h : { t with mem := s.mem, lines := s.lines } = s) : Woken s t := by
  have hl : t.latent = s.latent := by have := congrArg State.latent h; exact this
  refine .of_mend ?_ ⟨fun _ => true, by rw [hl]; exact (List.filter_true _).symm, fun _ _ => rfl⟩
  rw [← hl]; exact h

theorem Woken.refl (s : State) : Woken s s := .of_mem rfl

theorem Woken.trans {a b c : State} (h : Woken a b) (h' : Woken b c) : Woken a c := by
  refine ⟨?_, fun k => ?_, fun k hk => ?_, ?_, ?_⟩
  · have h1 := h.rest; have h2 := h'.rest
    have := congrArg (fun z : State =>
      { z with threads := a.threads, cores := a.cores, mem := a.mem, lines := a.lines, early := a.early,
                   latent := a.latent }) h2
    exact this.trans h1
  · obtain ⟨p, r, e⟩ := h.threads k
    obtain ⟨p', r', e'⟩ := h'.threads k
    exact ⟨p', r', by rw [e', e]⟩
  · have e := h.still k hk
    rw [h'.still k (by rw [e]; exact hk), e]
  · obtain ⟨p, e, hp⟩ := h.early
    obtain ⟨p', e', hp'⟩ := h'.early
    refine ⟨fun k => p k && p' k, by rw [e', e, List.filter_filter]; simp only [Bool.and_comm], fun k hk => ?_⟩
    simp only [hp k hk, hp' k (by rw [h.still k.tid hk]; exact hk), Bool.and_self]
  · obtain ⟨p, e, hp⟩ := h.latent
    obtain ⟨p', e', hp'⟩ := h'.latent
    refine ⟨fun k => p k && p' k, by rw [e', e, List.filter_filter]; simp only [Bool.and_comm], fun k hk => ?_⟩
    simp only [hp k hk, hp' k hk, Bool.and_self]

theorem Woken.bundles {s t : State} (h : Woken s t) : t.bundles = s.bundles := by
  have := congrArg State.bundles h.rest; exact this
theorem Woken.cur {s t : State} (h : Woken s t) : t.cur = s.cur := by
  have := congrArg State.cur h.rest; exact this
theorem Woken.teams {s t : State} (h : Woken s t) : t.teams = s.teams := by
  have := congrArg State.teams h.rest; exact this
theorem Woken.groups {s t : State} (h : Woken s t) : t.groups = s.groups := by
  have := congrArg State.groups h.rest; exact this
theorem Woken.time {s t : State} (h : Woken s t) : t.time = s.time := by
  have := congrArg State.time h.rest; exact this
theorem Woken.worlds {s t : State} (h : Woken s t) : t.worlds = s.worlds := by
  have := congrArg State.worlds h.rest; exact this

/-- What a wake leaves of memory: all of it. -/
theorem wake_spec (s : State) (tid : Nat) : ∃ cs, wake s tid =
    { s.modThread tid fun t => { t with place := .filed, runnable := s.time } with cores := cs } := by
  unfold wake fileThread
  cases hg : (s.threadGroup tid).offCore with
  | true => exact ⟨s.cores, by
      have : (State.threadGroup (s.modThread tid fun t => { t with place := .filed, runnable := s.time }) tid).offCore = true := hg
      simp only [this, if_true]; rfl⟩
  | false =>
    have : (State.threadGroup (s.modThread tid fun t => { t with place := .filed, runnable := s.time }) tid).offCore = false := hg
    simp only [this, Bool.false_eq_true, if_false]
    split
    · split
      · exact ⟨_, rfl⟩
      · exact ⟨_, rfl⟩
    · split
      · exact ⟨_, rfl⟩
      · exact ⟨_, rfl⟩

/-- A thread woken, after losing some of what it read ahead and nobody else anything. -/
def WakesOne (f : State → Nat → State) (s : State) (a : Nat) : Prop :=
  ∃ q : EarlyLoad → Bool, f s a = wake { s with early := s.early.filter q } a ∧ ∀ e, e.tid ≠ a → q e = true

theorem wake_one (s : State) (a : Nat) : WakesOne wake s a := by
  refine ⟨fun _ => true, ?_, fun _ _ => rfl⟩
  rw [List.filter_true]

theorem wakeAcquire_one (s : State) (a : Nat) : WakesOne wakeAcquire s a := by
  unfold WakesOne wakeAcquire
  split
  · exact ⟨_, rfl, fun e he => by simp [he]⟩
  · exact wake_one s a

/-- Threads woken one after another, each after losing some of what it read ahead. -/
theorem wakeAll_spec (f : State → Nat → State) (hf : ∀ s a, WakesOne f s a) (l : List Nat) (s : State) :
    { l.foldl f s with threads := s.threads, cores := s.cores, early := s.early } = s ∧
    (∀ k, ∃ p r, (l.foldl f s).thread k = { s.thread k with place := p, runnable := r } ∧
      (k ∉ l → (l.foldl f s).thread k = s.thread k)) ∧
    ∃ p : EarlyLoad → Bool, (l.foldl f s).early = s.early.filter p ∧ ∀ e, e.tid ∉ l → p e = true := by
  induction l generalizing s with
  | nil => exact ⟨rfl, fun k => ⟨_, _, rfl, fun _ => rfl⟩, fun _ => true, (List.filter_true _).symm, fun _ _ => rfl⟩
  | cons a l ih =>
    obtain ⟨cs, q, e, hq⟩ : ∃ cs, ∃ q : EarlyLoad → Bool, f s a =
        { s.modThread a fun t => { t with place := .filed, runnable := s.time } with
          cores := cs, early := s.early.filter q } ∧ ∀ e, e.tid ≠ a → q e = true := by
      obtain ⟨q, h, hq⟩ := hf s a
      obtain ⟨cs, e⟩ := wake_spec { s with early := s.early.filter q } a
      exact ⟨cs, q, by rw [h, e]; rfl, hq⟩
    obtain ⟨h1, h2, p, h3, h4⟩ := ih (f s a)
    refine ⟨?_, fun k => ?_, fun k => q k && p k, ?_, fun k hk => ?_⟩
    · have := congrArg (fun z : State => { z with threads := s.threads, cores := s.cores, early := s.early }) h1
      exact this.trans (by rw [e]; rfl)
    · obtain ⟨p, r, e2, e3⟩ := h2 k
      by_cases hk : k = a
      · subst hk
        refine ⟨p, r, ?_, fun h => absurd (List.mem_cons_self ..) h⟩
        have : (f s k).thread k = { s.thread k with place := .filed, runnable := s.time } := by
          rw [e]; exact State.thread_modThread_self s k fun t => { t with place := .filed, runnable := s.time }
        rw [List.foldl_cons, e2, this]
      · have : (f s a).thread k = s.thread k := by
          rw [e]; exact State.thread_modThread_ne s (fun t => { t with place := .filed, runnable := s.time }) hk
        exact ⟨p, r, by rw [List.foldl_cons, e2, this], fun h => by
          rw [List.foldl_cons, e3 (fun h' => h (List.mem_cons_of_mem _ h')), this]⟩
    · have : (f s a).early = s.early.filter q := by rw [e]
      rw [List.foldl_cons, h3, this, List.filter_filter]; simp only [Bool.and_comm]
    · simp only [hq k fun h => hk (h ▸ List.mem_cons_self ..), h4 k fun h => hk (List.mem_cons_of_mem _ h), Bool.and_self]

/-- The threads woken that wait in a place of a kind. -/
theorem wakeIn_woken (f : State → Nat → State) (hf : ∀ s a, WakesOne f s a) (s : State) (p : Place → Bool) (hp : ∀ x, p x = true → ∃ w, x = .waiting w) :
    Woken s ((threadsIn s p).foldl f s) ∧ ((threadsIn s p).foldl f s).mem = s.mem ∧
      ((threadsIn s p).foldl f s).lines = s.lines := by
  obtain ⟨h1, h2, q, h3, h4⟩ := wakeAll_spec f hf (threadsIn s p) s
  have hm : ((threadsIn s p).foldl f s).mem = s.mem := by have := congrArg State.mem h1; exact this
  have hl : ((threadsIn s p).foldl f s).lines = s.lines := by have := congrArg State.lines h1; exact this
  have hn : ∀ k, (∀ w, (s.thread k).place ≠ .waiting w) → k ∉ threadsIn s p := fun k hk hm => by
    obtain ⟨w, hw⟩ := hp _ (List.mem_filter.mp hm).2
    exact hk w hw
  have ht : ((threadsIn s p).foldl f s).latent = s.latent := by have := congrArg State.latent h1; exact this
  refine ⟨⟨?_, fun k => ?_, fun k hk => ?_, ⟨q, h3, fun e he => h4 e (hn e.tid he)⟩,
    ⟨fun _ => true, by rw [ht]; exact (List.filter_true _).symm, fun _ _ => rfl⟩⟩, hm, hl⟩
  · have := congrArg (fun z : State => { z with mem := s.mem, lines := s.lines, latent := s.latent }) h1
    exact this
  · obtain ⟨q, r, e, _⟩ := h2 k; exact ⟨q, r, e⟩
  · obtain ⟨q, r, _, e⟩ := h2 k
    exact e (hn k hk)

theorem State.line_setLine (s : State) (k n : Nat) (x : Line) : (s.setLine k x).line n = if n = k then x else s.line n := by
  unfold State.line State.setLine
  split
  · rename_i h; subst h; exact SMap.getD_set_self _ _ _ _
  · rename_i h; exact SMap.getD_set_ne _ _ _ h

theorem line_of_lines {s t : State} (h : t.lines = s.lines) (n : Nat) : t.line n = s.line n := by
  unfold State.line; rw [h]

theorem setPresent_woken (s : State) (k : Nat) :
    Woken s (setPresent s k) ∧ (setPresent s k).mem = s.mem ∧
      ∀ n, (setPresent s k).line n = if n = k then { s.line n with present := true } else s.line n := by
  have h := wakeIn_woken wake wake_one (s.setLine k { s.line k with present := true })
    (fun p => match p with
      | .waiting (.line x _ _ _) => decide (x = k)
      | _ => false) (by
        intro x hx
        split at hx
        · exact ⟨_, rfl⟩
        · cases hx)
  have h0 : Woken s (s.setLine k { s.line k with present := true }) := .of_mem rfl
  refine ⟨h0.trans h.1, h.2.1, fun n => ?_⟩
  have := line_of_lines h.2.2 n
  refine this.trans ?_
  rw [State.line_setLine]
  split
  · rename_i hh; rw [hh]
  · rfl

theorem notifyCounters_woken (s : State) (key n : Nat) :
    Woken s (notifyCounters s key n) ∧ (notifyCounters s key n).mem = s.mem ∧ (notifyCounters s key n).lines = s.lines := by
  refine wakeIn_woken wakeAcquire wakeAcquire_one s (fun p => match p with
    | .waiting (.counter k target _) => decide (k < key + n) && decide (key < k + 8) && decide (target ≤ nearValue s k 8)
    | _ => false) ?_
  intro x hx
  split at hx
  · exact ⟨_, rfl⟩
  · cases hx

theorem tagLines_spec (ks : List Nat) (hk : ks.Nodup) (tag : Tag) (s : State) :
    (∃ ls, ks.foldl (fun s k => s.setLine k { s.line k with tag := (s.line k).tag.join tag }) s = { s with lines := ls }) ∧
    ∀ n, (ks.foldl (fun s k => s.setLine k { s.line k with tag := (s.line k).tag.join tag }) s).line n =
      if n ∈ ks then { s.line n with tag := (s.line n).tag.join tag } else s.line n := by
  induction ks generalizing s with
  | nil => exact ⟨⟨s.lines, rfl⟩, fun n => by simp⟩
  | cons a ks ih =>
    have hn := List.nodup_cons.mp hk
    obtain ⟨⟨ls, e⟩, h⟩ := ih hn.2 (s.setLine a { s.line a with tag := (s.line a).tag.join tag })
    refine ⟨⟨ls, by rw [List.foldl_cons, e]; rfl⟩, fun n => ?_⟩
    rw [List.foldl_cons, h n, State.line_setLine]
    by_cases hna : n = a
    · subst hna; simp [hn.1]
    · simp [hna]

theorem presentLines_spec (ks : List Nat) (s : State) :
    Woken s (ks.foldl setPresent s) ∧ (ks.foldl setPresent s).mem = s.mem ∧
    ∀ n, (ks.foldl setPresent s).line n = if n ∈ ks then { s.line n with present := true } else s.line n := by
  induction ks generalizing s with
  | nil => exact ⟨Woken.refl s, rfl, fun n => by simp⟩
  | cons a ks ih =>
    have h1 := setPresent_woken s a
    have h2 := ih (setPresent s a)
    refine ⟨h1.1.trans h2.1, h2.2.1.trans h1.2.1, fun n => ?_⟩
    rw [List.foldl_cons, h2.2.2 n, h1.2.2 n]
    by_cases hna : n = a
    · subst hna; simp
    · simp [hna]

theorem linesOf_nodup (key n : Nat) : (linesOf key n).Nodup := by
  unfold linesOf
  split
  · exact List.nodup_nil
  · exact List.Nodup.map (fun a b h => Nat.add_left_cancel h) List.nodup_range

theorem read_zeroed (m : Memory) (k a : Nat) (z : List Byte) (hl : z.length = 128) (hz : ∀ i (h : i < z.length), z[i] = 0) :
    (m.writeBytes (k * 128) z).read a = if a / 128 = k then 0 else m.read a := by
  split
  · rename_i hk
    have e : a = k * 128 + a % 128 := by omega
    rw [e, Memory.read_writeBytes_inside m (k * 128) (a % 128) z (by rw [hl]; omega)]
    exact hz _ _
  · rename_i hk
    exact Memory.read_writeBytes_outside m (k * 128) a z (by rw [hl]; omega)

theorem clearAbsent_mem (s : State) (k a : Nat) :
    (clearAbsent s k).mem.read a = if a / 128 = k ∧ (s.line k).present = false then 0 else s.mem.read a := by
  unfold clearAbsent
  split
  · rename_i h; rw [if_neg (by simp [h])]
  · rename_i h
    simp only [Bool.not_eq_true] at h
    have := read_zeroed s.mem k a (List.replicate 128 0) List.length_replicate
      (fun i hi => List.getElem_replicate ..)
    simp only [h, and_true]
    exact this

theorem clearAbsent_only (s : State) (k : Nat) : ∃ m, ∃ q : Latent → Bool,
    clearAbsent s k = { s with mem := m, latent := s.latent.filter q } ∧ ∀ e, (∀ g, e ≠ .data g) → q e = true := by
  unfold clearAbsent
  split
  · exact ⟨s.mem, fun _ => true, by rw [List.filter_true], fun _ _ => rfl⟩
  · refine ⟨_, _, rfl, fun e he => ?_⟩
    cases e with
    | data g => exact absurd rfl (he g)
    | _ => rfl

/-- What clearing the absent lines among some does: their bytes alone change, to 0 (R118), and errors in their data are gone. -/
theorem clearLines_spec (ks : List Nat) (s : State) :
    (∃ m, ∃ q : Latent → Bool, ks.foldl clearAbsent s = { s with mem := m, latent := s.latent.filter q } ∧
      ∀ e, (∀ g, e ≠ .data g) → q e = true) ∧
      ∀ a, (ks.foldl clearAbsent s).mem.read a = byteBefore s ks a := by
  induction ks generalizing s with
  | nil => exact ⟨⟨s.mem, fun _ => true, by rw [List.filter_true]; rfl, fun _ _ => rfl⟩, fun a => by simp [byteBefore]⟩
  | cons k ks ih =>
    obtain ⟨m0, q0, e0, h0⟩ := clearAbsent_only s k
    obtain ⟨⟨m, q, e, hq⟩, h⟩ := ih (clearAbsent s k)
    refine ⟨⟨m, fun e => q0 e && q e, ?_, fun e he => by simp only [h0 e he, hq e he, Bool.and_self]⟩, fun a => ?_⟩
    · rw [List.foldl_cons, e, e0]; simp only [List.filter_filter, Bool.and_comm]
    rw [List.foldl_cons, h a]
    have hl : ∀ n, (clearAbsent s k).line n = s.line n := fun n => by rw [e0]; rfl
    unfold byteBefore
    rw [hl, clearAbsent_mem, List.contains_cons]
    by_cases hp : (s.line (a / 128)).present = true
    · simp only [hp, Bool.not_true, Bool.and_false, Bool.false_eq_true, if_false]
      rw [if_neg]
      rintro ⟨hk, hq⟩
      rw [← hk, hp] at hq
      exact Bool.noConfusion hq
    · simp only [Bool.not_eq_true] at hp
      by_cases hk : a / 128 = k
      · subst hk
        simp [hp]
      · simp [hk, hp]

/-- Bytes written into near memory (R118): the lines touched become present with the tag joined, their other bytes 0 where they were
absent, and waiting threads are filed. -/
theorem writeNear_spec (s : State) (key : Nat) (bytes : List Byte) (tag : Tag) :
    Woken s (writeNear s key bytes tag) ∧
    (writeNear s key bytes tag).mem = ((linesOf key bytes.length).foldl clearAbsent s).mem.writeBytes key bytes ∧
    ∀ n, (writeNear s key bytes tag).line n =
      if n ∈ linesOf key bytes.length then ⟨true, (s.line n).tag.join tag⟩ else s.line n := by
  unfold writeNear
  obtain ⟨⟨m, q, e0, hq⟩, -⟩ := clearLines_spec (linesOf key bytes.length) s
  simp only []
  generalize hC : (linesOf key bytes.length).foldl clearAbsent s = C at *
  obtain ⟨⟨ls, e1⟩, h1⟩ := tagLines_spec (linesOf key bytes.length) (linesOf_nodup _ _) tag { C with mem := C.mem.writeBytes key bytes }
  generalize hS : (linesOf key bytes.length).foldl (fun s k => s.setLine k { s.line k with tag := (s.line k).tag.join tag })
    { C with mem := C.mem.writeBytes key bytes } = S at *
  obtain ⟨h2, h3, h4⟩ := presentLines_spec (linesOf key bytes.length) S
  obtain ⟨h5, h6, h7⟩ := notifyCounters_woken ((linesOf key bytes.length).foldl setPresent S) key bytes.length
  have h0 : Woken s S := by rw [e1, e0]; exact .of_mend rfl ⟨q, rfl, hq⟩
  refine ⟨(h0.trans h2).trans h5, ?_, fun n => ?_⟩
  · rw [h6, h3, e1]
  · have hl : ∀ n, ({ C with mem := C.mem.writeBytes key bytes } : State).line n = s.line n := fun n => by rw [e0]; rfl
    rw [line_of_lines h7 n, h4 n, h1 n, hl n]
    split
    · rfl
    · rfl

/-- The bytes of near memory after a write (R118). -/
theorem writeNear_bytes (s : State) (key : Nat) (bytes : List Byte) (tag : Tag) :
    (writeNear s key bytes tag).mem.readBytes key bytes.length = bytes ∧
    ∀ a, a < key ∨ key + bytes.length ≤ a →
      (writeNear s key bytes tag).mem.read a = byteBefore s (linesOf key bytes.length) a := by
  rw [(writeNear_spec s key bytes tag).2.1]
  refine ⟨Memory.readBytes_writeBytes _ _ _, fun a ha => ?_⟩
  rw [Memory.read_writeBytes_outside _ _ _ _ ha, (clearLines_spec _ s).2 a]

/-! ## Tags -/

theorem gradeMax_zero : ∀ g : BitVec 2, gradeMax 0 g = g := by decide

@[simp] theorem Tag.zero_join (a : Tag) : Tag.zero.join a = a := by
  cases a
  simp only [Tag.join, Tag.zero, Bool.false_or, gradeMax_zero]

@[simp] theorem Tag.join_zero (a : Tag) : a.join Tag.zero = a := by
  cases a; simp [Tag.join, Tag.zero, gradeMax]

theorem joinTags_one (a : Tag) : joinTags [a] = a := by simp [joinTags]
theorem joinTags_two (a b : Tag) : joinTags [a, b] = a.join b := by simp [joinTags]
theorem joinTags_three (a b c : Tag) : joinTags [a, b, c] = (a.join b).join c := by simp [joinTags]
theorem joinTags_four (a b c d : Tag) : joinTags [a, b, c, d] = ((a.join b).join c).join d := by simp [joinTags]

/-! ## Sources -/

theorem sourceOf_sourceOf (u : Issue) (i : Instr) (tid : Nat) : sourceOf u i (sourceOf u i tid) = sourceOf u i tid := by
  unfold sourceOf; cases i.ctl.k <;> cases u.tids <;> rfl

theorem sourceOf_mem {u : Issue} {i : Instr} {tid : Nat} (h : tid ∈ u.tids) : sourceOf u i tid ∈ u.tids := by
  unfold sourceOf
  cases i.ctl.k
  · simpa using h
  · simp only [if_true]
    cases hu : u.tids with
    | nil => rw [hu] at h; cases h
    | cons a l => simp

theorem passes_source (s : State) (u : Issue) (i : Instr) (tid : Nat) : passes s u i (sourceOf u i tid) = passes s u i tid := by
  unfold passes; rw [sourceOf_sourceOf]

theorem guardTag_source (s : State) (u : Issue) (i : Instr) (tid : Nat) :
    guardTag s u i (sourceOf u i tid) = guardTag s u i tid := by unfold guardTag; rw [sourceOf_sourceOf]

theorem acts_source {s : State} {u : Issue} {i : Instr} {tid : Nat} (h : tid ∈ u.tids) (hp : passes s u i tid = true) :
    Acts s u i (sourceOf u i tid) := ⟨sourceOf_mem h, sourceOf_sourceOf u i tid, by rw [passes_source]; exact hp⟩

/-! ## Loads -/

theorem nearAddr_effAddr (b : Word) (off : BitVec 8) (n : Nat) : nearAddr b off n = effAddr b off n := by
  unfold nearAddr effAddr
  rw [BitVec.ofInt_add, BitVec.ofInt_mul]
  simp [BitVec.signExtend]

theorem nearCheck_ok {s : State} {tid size : Nat} {base : Tagged Word} {ea : Word} {load : Bool} {key : Nat}
    (h : NearOk s tid base ea size load key) : nearCheck s tid base ea size load = .ok key := by
  unfold nearCheck
  simp [h.clean, h.aligned, h.mapped, h.unlocked]

theorem nearCheck_same {s s' : State} (h : SameBut s s') (tid : Nat) (base : Tagged Word) (ea : Word) (size : Nat) (load : Bool) :
    nearCheck s' tid base ea size load = nearCheck s tid base ea size load := by unfold SameBut at h; rw [← h]; rfl

theorem SameBut.mem {s t : State} (h : SameBut s t) : t.mem = s.mem := by unfold SameBut at h; rw [← h]
theorem SameBut.line {s t : State} (h : SameBut s t) (n : Nat) : t.line n = s.line n := by unfold SameBut at h; rw [← h]; rfl

/-- A unit whose result is read from the state, which it does not change. -/
theorem issueUnit_reading {s : State} {u : Issue} {i : Instr} {f : Issue → Compute} {r : Nat → Result} (h : Issues s u i)
    (hf : ∀ tid, Acts s u i tid → ∀ s', SameBut s s' → s'.thread tid = s.thread tid →
      f u s' tid (guardTag s u i tid) = (.done (r tid), s')) :
    ∃ t, issueUnit i f s = .next t ∧ OnlyThreads s t u ∧ Advanced s t u ∧ ∀ tid ∈ u.tids, t.thread tid =
      if passes s u i tid then (s.thread tid).apply (r (sourceOf u i tid))
      else (s.thread tid).pushLatch (guardedOffLatch (s.thread tid) i) := by
  obtain ⟨t, h1, h2, h3, h4⟩ := issueUnit_completes (f := f) (x := fun tid => s.thread tid) (r := r) h h.free
    (fun tid ht hs hp s' hb hst => ⟨s', hf tid ⟨ht, hs, hp⟩ s' hb hst, rfl, rfl, rfl, hst, fun _ _ => rfl⟩)
  refine ⟨t, h1, h2, h3, fun tid ht => ?_⟩
  rw [h4 tid ht]
  unfold unitThread
  split
  · split <;> rfl
  · rfl

/-! What an access in its place does about the accesses that are out of theirs (R190): nothing. -/

@[simp] theorem loadedValue_false (s : State) (tid key n : Nat) :
    loadedValue false s tid key n = (s.mem.readLe key n, (s.line (key / 128)).tag) := rfl
@[simp] theorem beforeLoad_false (s : State) (tid key n : Nat) : beforeLoad false s tid key n = s := rfl
@[simp] theorem afterAccess_false (s : State) (tid key n : Nat) : afterAccess false s tid key n = s := rfl
@[simp] theorem storeNear_false (s : State) (tid key : Nat) (bytes : List Byte) (tag : Tag) :
    storeNear false s tid key bytes tag = writeNear s key bytes tag := rfl

/-- A load in its place that every source thread performs (R117). -/
theorem loadUnit_completes {s : State} {u : Issue} {i : Instr} {a : Reg} {off : BitVec 8} {size : Nat} {res : Nat → Tag → Result}
    {key : Nat → Nat} (h : Issues s u i) (hl : u.late = false)
    (hk : ∀ tid, Acts s u i tid → NearOk s tid ((s.thread tid).reg a) (effAddr ((s.thread tid).reg a).val off size) size true
      (key tid) ∧ (s.line (key tid / 128)).present = true) :
    ∃ t, loadUnit i a off size res s = .next t ∧ OnlyThreads s t u ∧ Advanced s t u ∧ ∀ tid ∈ u.tids, t.thread tid =
      if passes s u i tid then (s.thread tid).apply (res (s.mem.readLe (key (sourceOf u i tid)) size)
        (joinTags [((s.thread (sourceOf u i tid)).reg a).tag, (s.line (key (sourceOf u i tid) / 128)).tag, guardTag s u i tid]))
      else (s.thread tid).pushLatch (guardedOffLatch (s.thread tid) i) := by
  obtain ⟨t, h1, h2, h3, h4⟩ := issueUnit_reading (i := i) (f := fun u s tid g =>
      let b := (s.thread tid).reg a
      let ea := effAddr b.val off size
      match nearCheck s tid b ea size true with
      | .error r => (r, s)
      | .ok key =>
        let s := beforeLoad u.late s tid key size
        if !(s.line (key / 128)).present then parkOnLine u s tid ea.toNat (key / 128)
        else
          let x := loadedValue u.late s tid key size
          (.done (res x.1 (joinTags [b.tag, x.2, g])), afterAccess u.late s tid key size))
    (r := fun tid => res (s.mem.readLe (key tid) size)
      (joinTags [((s.thread tid).reg a).tag, (s.line (key tid / 128)).tag, guardTag s u i tid])) h (by
      intro tid ha s' hb hst
      have hh := hk tid ha
      simp only [hst, nearCheck_same hb, nearCheck_ok hh.1, hl, loadedValue_false, beforeLoad_false, afterAccess_false, hb.line,
        hh.2, hb.mem]
      rfl)
  refine ⟨t, h1, h2, h3, fun tid ht => ?_⟩
  rw [h4 tid ht]
  simp only [guardTag_source]

end Sys2Proof.Machine
end

