-- ==== Sys2Proof/Laws/Order.lean ====
section
/-! SUPPORT. What the operations on accesses out of their places, on errors that nothing has found yet, and on references of frames can
change. -/

namespace Sys2Proof.Machine

open Sys2Proof

/-- Words written whole: only errors in data go. -/
theorem mendWords_woken (s : State) (key n : Nat) : Woken s (mendWords s key n) :=
  .of_mend rfl ⟨_, rfl, fun e h => by cases e <;> first | rfl | exact absurd rfl (h _)⟩

/-- A late store that becomes visible changes near memory, and wakes. -/
theorem performLate_woken (s : State) (e : LateStore) : Woken s (performLate s e) :=
  (mendWords_woken s e.key e.bytes.length).trans (writeNear_spec _ _ _ _).1

/-- So do all that become visible together, beside leaving the late stores. -/
theorem drainLate_woken (s : State) (p : LateStore → Bool) :
    Woken { s with late := s.late.filter fun e => !p e } (drainLate s p) := by
  suffices h : ∀ (l : List LateStore) (t : State), Woken t (l.foldl performLate t) from h _ _
  intro l
  induction l with
  | nil => exact fun t => .refl t
  | cons e l ih => exact fun t => (performLate_woken t e).trans (ih _)

/-- An event of a black box changes the Assayer alone. -/
theorem boxEvent_only (s : State) (die code w unit : Nat) (data : List Byte) :
    { boxEvent s die code w unit data with assayer := s.assayer } = s := rfl

/-- So do several. -/
theorem noteErrors_only (l : List Latent) (s : State) (die w unit : Nat) :
    { l.foldl (fun s _ => noteError s die w unit) s with assayer := s.assayer } = s := by
  induction l generalizing s with
  | nil => rfl
  | cons e l ih =>
    have h := congrArg (fun z : State => { z with assayer := s.assayer }) (ih (noteError s die w unit))
    exact h.trans (boxEvent_only s die 2 w unit _)

/-- A line read leaves the state as it is, or changes the lines' tags, the errors not found yet and the black box. -/
theorem detectLine_cases (s : State) (k : Nat) : detectLine s k = s ∨ ∃ x q l die w unit,
    detectLine s k = State.setLine { s with latent := q } k x ∨
      detectLine s k = List.foldl (fun (s : State) (_ : Latent) => noteError s die w unit) (State.setLine { s with latent := q } k x) l := by
  unfold detectLine
  simp only []
  split
  · exact .inl rfl
  · refine .inr ?_
    split
    · exact ⟨_, _, _, _, _, _, .inr rfl⟩
    · exact ⟨_, _, [], 0, 0, 0, .inl rfl⟩

/-- Nothing else changes. -/
theorem detectLine_only (s : State) (k : Nat) :
    { detectLine s k with lines := s.lines, latent := s.latent, assayer := s.assayer } = s := by
  obtain h | ⟨x, q, l, die, w, unit, h | h⟩ := detectLine_cases s k <;> rw [h]
  · rfl
  · exact congrArg (fun z : State => { z with lines := s.lines, latent := s.latent, assayer := s.assayer })
      (noteErrors_only l (State.setLine { s with latent := q } k x) die w unit)

/-- So do lines read one after another. -/
theorem senseNear_only (s : State) (key n : Nat) :
    { senseNear s key n with lines := s.lines, latent := s.latent, assayer := s.assayer } = s := by
  unfold senseNear
  suffices h : ∀ (l : List Nat) (t : State),
      { l.foldl detectLine t with lines := t.lines, latent := t.latent, assayer := t.assayer } = t from h _ _
  intro l
  induction l with
  | nil => exact fun t => rfl
  | cons k l ih =>
    intro t
    have h := congrArg (fun z : State => { z with lines := t.lines, latent := t.latent, assayer := t.assayer }) (ih (detectLine t k))
    exact h.trans (detectLine_only t k)

/-- One more reference to each frame of a run, and to no other. -/
theorem count_addRef (s : State) (r : Nat × Nat) (k : Nat) :
    (addRef s r).count k = s.count k + if r.1 ≤ k ∧ k < r.1 + r.2 then 1 else 0 := by
  unfold addRef State.count
  simp only [List.filter_cons]
  split <;> split <;> simp_all

end Sys2Proof.Machine
end

