-- ==== Sys2Proof/Laws/PerInstr.lean ====
section
/-! SUPPORT. The fields of each instruction word are identified as that instruction: no field is dropped and none is read as
another's (one lemma for each constructor; the events have no word). -/

namespace Sys2Proof.Laws

open Sys2Proof

/-- The shape that the encoder gives an encodable instruction is identified as that instruction, in every launch mode that has it. -/
def Fields.Statement (i : Instr) : Prop :=
  i.encodable = true → ∀ pool : Bool, (pool && i.isQueue) = false → ∀ s, i.shape = some s →
    identify pool i.ctl.pre (i.literal.getD 0) s = .ok i

theorem identify_a {pool : Bool} {pre : Option Pre} {lit : Word} {f : FieldsA} (h : (!f.k || hasUniform f.op) = true) :
    identify pool pre lit (.a f) = identifyA pool f ⟨f.k, f.c, f.w, pre⟩ lit := by
  have : (f.k && !hasUniform f.op) = false := by cases hk : f.k <;> simp_all
  simp only [identify, this, Bool.false_eq_true, if_false]

theorem identify_i {pool : Bool} {pre : Option Pre} {lit : Word} {f : FieldsI} (h : (!f.k || hasUniform f.op) = true) :
    identify pool pre lit (.i f) = identifyI f ⟨f.k, f.c, f.w, pre⟩ := by
  have : (f.k && !hasUniform f.op) = false := by cases hk : f.k <;> simp_all
  simp only [identify, this, Bool.false_eq_true, if_false]

theorem identify_b {pool : Bool} {pre : Option Pre} {lit : Word} {f : FieldsB} (h : (!f.k || hasUniform f.op) = true) :
    identify pool pre lit (.b f) = identifyB f ⟨f.k, false, false, pre⟩ := by
  have : (f.k && !hasUniform f.op) = false := by cases hk : f.k <;> simp_all
  simp only [identify, this, Bool.false_eq_true, if_false]

theorem encodable_a {i : Instr} {f : FieldsA} (hs : i.shape = some (.a f)) (h : i.encodable = true) :
    (!f.k || hasUniform f.op) = true := by
  have h := (Bool.and_eq_true_iff.mp h).1
  rwa [Instr.classOk, hs] at h

theorem encodable_i {i : Instr} {f : FieldsI} (hs : i.shape = some (.i f)) (h : i.encodable = true) :
    (!f.k || hasUniform f.op) = true := by
  have h := (Bool.and_eq_true_iff.mp h).1
  rwa [Instr.classOk, hs] at h

theorem encodable_b {i : Instr} {f : FieldsB} (hs : i.shape = some (.b f)) (h : i.encodable = true) :
    i.ctl.c = false ∧ i.ctl.w = false ∧ i.ctl.pre = none ∧ (!f.k || hasUniform f.op) = true := by
  have this := (Bool.and_eq_true_iff.mp h).1
  rw [Instr.classOk, hs] at this
  simp only [Bool.and_eq_true, Bool.not_eq_true', Option.isNone_iff_eq_none] at this
  exact ⟨this.1.1.1, this.1.1.2, this.1.2, this.2⟩

theorem encodable_x {i : Instr} {f : FieldsX} (hs : i.shape = some (.x f)) (h : i.encodable = true) :
    i.ctl.k = false ∧ i.ctl.c = false ∧ i.ctl.w = false := by
  have this := (Bool.and_eq_true_iff.mp h).1
  rw [Instr.classOk, hs] at this
  simp only [Bool.and_eq_true, Bool.not_eq_true'] at this
  exact ⟨this.1.1, this.1.2, this.2⟩

/-! Fields put side by side and cut apart again. -/

theorem bit_pair (q : BitVec 2) (p : BitVec 5) : (q ++ p).extractLsb' 5 2 = q := by revert q p; decide
theorem bit_low5 (q : BitVec 2) (p : BitVec 5) : (q ++ p).extractLsb' 0 5 = p := by revert q p; decide
theorem bit_neg6 (n : Bool) (p : BitVec 5) : (0#1 ++ BitVec.ofBool n ++ p)[6] = false := by revert n p; decide
theorem bit_neg5 (n : Bool) (p : BitVec 5) : (0#1 ++ BitVec.ofBool n ++ p)[5] = n := by revert n p; decide
theorem bit_neg0 (n : Bool) (p : BitVec 5) : (0#1 ++ BitVec.ofBool n ++ p).extractLsb' 0 5 = p := by revert n p; decide
theorem bit_hi3 (x : BitVec 3) (m : BitVec 4) : (x ++ m).extractLsb' 4 3 = x := by revert x m; decide
theorem bit_lo4 (x : BitVec 3) (m : BitVec 4) : (x ++ m).extractLsb' 0 4 = m := by revert x m; decide
theorem bit_hi4 (x : BitVec 4) (m : BitVec 3) : (x ++ m).extractLsb' 3 4 = x := by revert x m; decide
theorem bit_lo3 (x : BitVec 4) (m : BitVec 3) : (x ++ m).extractLsb' 0 3 = m := by revert x m; decide
theorem bit_op (r : BitVec 2) (p : BitVec 4) : (r ++ p ++ 0#2).extractLsb' 2 4 = p := by revert r p; decide
theorem bit_ord (r : BitVec 2) (p : BitVec 4) : (r ++ p ++ 0#2).extractLsb' 6 2 = r := by revert r p; decide
theorem bit_zero (r : BitVec 2) (p : BitVec 4) : (r ++ p ++ 0#2).extractLsb' 0 2 = 0#2 := by revert r p; decide
theorem bit3_cases (s : BitVec 3) :
    (s = 0 ∧ 1#4 ++ s = 8#7) ∨ (s = 1 ∧ 1#4 ++ s = 9#7) ∨ (s = 2 ∧ 1#4 ++ s = 10#7) ∨ (s = 3 ∧ 1#4 ++ s = 11#7) ∨ (s = 4 ∧ 1#4 ++ s = 12#7) ∨ (s = 5 ∧ 1#4 ++ s = 13#7) ∨ (s = 6 ∧ 1#4 ++ s = 14#7) ∨ (s = 7 ∧ 1#4 ++ s = 15#7) := by
  revert s; decide
theorem bit4_cases (s : BitVec 4) (h : s.toNat ≤ 8) :
    (s = 0 ∧ 1#3 ++ s = 16#7) ∨ (s = 1 ∧ 1#3 ++ s = 17#7) ∨ (s = 2 ∧ 1#3 ++ s = 18#7) ∨ (s = 3 ∧ 1#3 ++ s = 19#7) ∨ (s = 4 ∧ 1#3 ++ s = 20#7) ∨ (s = 5 ∧ 1#3 ++ s = 21#7) ∨ (s = 6 ∧ 1#3 ++ s = 22#7) ∨ (s = 7 ∧ 1#3 ++ s = 23#7) ∨ (s = 8 ∧ 1#3 ++ s = 24#7) := by
  revert s; decide

theorem Fields.addN32 (c : Ctl) (d a : Reg) (b : OpB) : Fields.Statement (.addN32 c d a b) := by
  rintro h pool hp s ⟨⟩
  refine (identify_a (encodable_a rfl h)).trans ?_
  cases b <;> rfl

theorem Fields.addI32 (c : Ctl) (d a : Reg) (b : OpB) : Fields.Statement (.addI32 c d a b) := by
  rintro h pool hp s ⟨⟩
  refine (identify_a (encodable_a rfl h)).trans ?_
  cases b <;> rfl

theorem Fields.subN32 (c : Ctl) (d a : Reg) (b : OpB) : Fields.Statement (.subN32 c d a b) := by
  rintro h pool hp s ⟨⟩
  refine (identify_a (encodable_a rfl h)).trans ?_
  cases b <;> rfl

theorem Fields.subI32 (c : Ctl) (d a : Reg) (b : OpB) : Fields.Statement (.subI32 c d a b) := by
  rintro h pool hp s ⟨⟩
  refine (identify_a (encodable_a rfl h)).trans ?_
  cases b <;> rfl

theorem Fields.mulB32 (c : Ctl) (d a : Reg) (b : OpB) : Fields.Statement (.mulB32 c d a b) := by
  rintro h pool hp s ⟨⟩
  refine (identify_a (encodable_a rfl h)).trans ?_
  cases b <;> rfl

theorem Fields.mulwN32 (c : Ctl) (d a : Reg) (b : OpB) : Fields.Statement (.mulwN32 c d a b) := by
  rintro h pool hp s ⟨⟩
  refine (identify_a (encodable_a rfl h)).trans ?_
  cases b <;> rfl

theorem Fields.mulwI32 (c : Ctl) (d a : Reg) (b : OpB) : Fields.Statement (.mulwI32 c d a b) := by
  rintro h pool hp s ⟨⟩
  refine (identify_a (encodable_a rfl h)).trans ?_
  cases b <;> rfl

theorem Fields.macB32 (c : Ctl) (d a : Reg) (b : OpB) : Fields.Statement (.macB32 c d a b) := by
  rintro h pool hp s ⟨⟩
  refine (identify_a (encodable_a rfl h)).trans ?_
  cases b <;> rfl

theorem Fields.minN32 (c : Ctl) (d a : Reg) (b : OpB) : Fields.Statement (.minN32 c d a b) := by
  rintro h pool hp s ⟨⟩
  refine (identify_a (encodable_a rfl h)).trans ?_
  cases b <;> rfl

theorem Fields.minI32 (c : Ctl) (d a : Reg) (b : OpB) : Fields.Statement (.minI32 c d a b) := by
  rintro h pool hp s ⟨⟩
  refine (identify_a (encodable_a rfl h)).trans ?_
  cases b <;> rfl

theorem Fields.maxN32 (c : Ctl) (d a : Reg) (b : OpB) : Fields.Statement (.maxN32 c d a b) := by
  rintro h pool hp s ⟨⟩
  refine (identify_a (encodable_a rfl h)).trans ?_
  cases b <;> rfl

theorem Fields.maxI32 (c : Ctl) (d a : Reg) (b : OpB) : Fields.Statement (.maxI32 c d a b) := by
  rintro h pool hp s ⟨⟩
  refine (identify_a (encodable_a rfl h)).trans ?_
  cases b <;> rfl

theorem Fields.andB32 (c : Ctl) (d a : Reg) (b : OpB) : Fields.Statement (.andB32 c d a b) := by
  rintro h pool hp s ⟨⟩
  refine (identify_a (encodable_a rfl h)).trans ?_
  cases b <;> rfl

theorem Fields.orB32 (c : Ctl) (d a : Reg) (b : OpB) : Fields.Statement (.orB32 c d a b) := by
  rintro h pool hp s ⟨⟩
  refine (identify_a (encodable_a rfl h)).trans ?_
  cases b <;> rfl

theorem Fields.xorB32 (c : Ctl) (d a : Reg) (b : OpB) : Fields.Statement (.xorB32 c d a b) := by
  rintro h pool hp s ⟨⟩
  refine (identify_a (encodable_a rfl h)).trans ?_
  cases b <;> rfl

theorem Fields.shlB32 (c : Ctl) (d a : Reg) (b : OpB) : Fields.Statement (.shlB32 c d a b) := by
  rintro h pool hp s ⟨⟩
  refine (identify_a (encodable_a rfl h)).trans ?_
  cases b <;> rfl

theorem Fields.shrN32 (c : Ctl) (d a : Reg) (b : OpB) : Fields.Statement (.shrN32 c d a b) := by
  rintro h pool hp s ⟨⟩
  refine (identify_a (encodable_a rfl h)).trans ?_
  cases b <;> rfl

theorem Fields.shrI32 (c : Ctl) (d a : Reg) (b : OpB) : Fields.Statement (.shrI32 c d a b) := by
  rintro h pool hp s ⟨⟩
  refine (identify_a (encodable_a rfl h)).trans ?_
  cases b <;> rfl

theorem Fields.notB32 (c : Ctl) (d a : Reg) : Fields.Statement (.notB32 c d a) := by
  rintro h pool hp s ⟨⟩
  refine (identify_a (encodable_a rfl h)).trans ?_
  rfl

theorem Fields.onesB32 (c : Ctl) (d a : Reg) : Fields.Statement (.onesB32 c d a) := by
  rintro h pool hp s ⟨⟩
  refine (identify_a (encodable_a rfl h)).trans ?_
  rfl

theorem Fields.lzcB32 (c : Ctl) (d a : Reg) : Fields.Statement (.lzcB32 c d a) := by
  rintro h pool hp s ⟨⟩
  refine (identify_a (encodable_a rfl h)).trans ?_
  rfl

theorem Fields.tzcB32 (c : Ctl) (d a : Reg) : Fields.Statement (.tzcB32 c d a) := by
  rintro h pool hp s ⟨⟩
  refine (identify_a (encodable_a rfl h)).trans ?_
  rfl

theorem Fields.revB32 (c : Ctl) (d a : Reg) : Fields.Statement (.revB32 c d a) := by
  rintro h pool hp s ⟨⟩
  refine (identify_a (encodable_a rfl h)).trans ?_
  rfl

theorem Fields.absI32 (c : Ctl) (d a : Reg) : Fields.Statement (.absI32 c d a) := by
  rintro h pool hp s ⟨⟩
  refine (identify_a (encodable_a rfl h)).trans ?_
  rfl

theorem Fields.negI32 (c : Ctl) (d a : Reg) : Fields.Statement (.negI32 c d a) := by
  rintro h pool hp s ⟨⟩
  refine (identify_a (encodable_a rfl h)).trans ?_
  rfl

theorem Fields.sxtB8 (c : Ctl) (d a : Reg) : Fields.Statement (.sxtB8 c d a) := by
  rintro h pool hp s ⟨⟩
  refine (identify_a (encodable_a rfl h)).trans ?_
  rfl

theorem Fields.sxtB16 (c : Ctl) (d a : Reg) : Fields.Statement (.sxtB16 c d a) := by
  rintro h pool hp s ⟨⟩
  refine (identify_a (encodable_a rfl h)).trans ?_
  rfl

theorem Fields.zxtB8 (c : Ctl) (d a : Reg) : Fields.Statement (.zxtB8 c d a) := by
  rintro h pool hp s ⟨⟩
  refine (identify_a (encodable_a rfl h)).trans ?_
  rfl

theorem Fields.zxtB16 (c : Ctl) (d a : Reg) : Fields.Statement (.zxtB16 c d a) := by
  rintro h pool hp s ⟨⟩
  refine (identify_a (encodable_a rfl h)).trans ?_
  rfl

theorem Fields.fgetN32 (c : Ctl) (d a : Reg) (b : OpB) : Fields.Statement (.fgetN32 c d a b) := by
  rintro h pool hp s ⟨⟩
  refine (identify_a (encodable_a rfl h)).trans ?_
  cases b <;> rfl

theorem Fields.fgetI32 (c : Ctl) (d a : Reg) (b : OpB) : Fields.Statement (.fgetI32 c d a b) := by
  rintro h pool hp s ⟨⟩
  refine (identify_a (encodable_a rfl h)).trans ?_
  cases b <;> rfl

theorem Fields.fputB32 (c : Ctl) (d a : Reg) (b : OpB) : Fields.Statement (.fputB32 c d a b) := by
  rintro h pool hp s ⟨⟩
  refine (identify_a (encodable_a rfl h)).trans ?_
  cases b <;> rfl

theorem Fields.divN32 (c : Ctl) (d a : Reg) (b : OpB) : Fields.Statement (.divN32 c d a b) := by
  rintro h pool hp s ⟨⟩
  refine (identify_a (encodable_a rfl h)).trans ?_
  cases b <;> rfl

theorem Fields.divI32 (c : Ctl) (d a : Reg) (b : OpB) : Fields.Statement (.divI32 c d a b) := by
  rintro h pool hp s ⟨⟩
  refine (identify_a (encodable_a rfl h)).trans ?_
  cases b <;> rfl

theorem Fields.remN32 (c : Ctl) (d a : Reg) (b : OpB) : Fields.Statement (.remN32 c d a b) := by
  rintro h pool hp s ⟨⟩
  refine (identify_a (encodable_a rfl h)).trans ?_
  cases b <;> rfl

theorem Fields.remI32 (c : Ctl) (d a : Reg) (b : OpB) : Fields.Statement (.remI32 c d a b) := by
  rintro h pool hp s ⟨⟩
  refine (identify_a (encodable_a rfl h)).trans ?_
  cases b <;> rfl

theorem Fields.addN32Imm (c : Ctl) (d a : Reg) (i : BitVec 8) : Fields.Statement (.addN32Imm c d a i) := by
  rintro h pool hp s ⟨⟩
  exact (identify_i (encodable_i rfl h)).trans rfl

theorem Fields.andB32Imm (c : Ctl) (d a : Reg) (i : BitVec 8) : Fields.Statement (.andB32Imm c d a i) := by
  rintro h pool hp s ⟨⟩
  exact (identify_i (encodable_i rfl h)).trans rfl

theorem Fields.orB32Imm (c : Ctl) (d a : Reg) (i : BitVec 8) : Fields.Statement (.orB32Imm c d a i) := by
  rintro h pool hp s ⟨⟩
  exact (identify_i (encodable_i rfl h)).trans rfl

theorem Fields.xorB32Imm (c : Ctl) (d a : Reg) (i : BitVec 8) : Fields.Statement (.xorB32Imm c d a i) := by
  rintro h pool hp s ⟨⟩
  exact (identify_i (encodable_i rfl h)).trans rfl

theorem Fields.shlB32Imm (c : Ctl) (d a : Reg) (i : BitVec 8) : Fields.Statement (.shlB32Imm c d a i) := by
  rintro h pool hp s ⟨⟩
  exact (identify_i (encodable_i rfl h)).trans rfl

theorem Fields.shrN32Imm (c : Ctl) (d a : Reg) (i : BitVec 8) : Fields.Statement (.shrN32Imm c d a i) := by
  rintro h pool hp s ⟨⟩
  exact (identify_i (encodable_i rfl h)).trans rfl

theorem Fields.shrI32Imm (c : Ctl) (d a : Reg) (i : BitVec 8) : Fields.Statement (.shrI32Imm c d a i) := by
  rintro h pool hp s ⟨⟩
  exact (identify_i (encodable_i rfl h)).trans rfl

theorem Fields.movB32Imm (c : Ctl) (d : Reg) (i : BitVec 8) : Fields.Statement (.movB32Imm c d i) := by
  rintro h pool hp s ⟨⟩
  exact (identify_i (encodable_i rfl h)).trans rfl

theorem Fields.movB32 (c : Ctl) (d : Reg) (b : OpB) : Fields.Statement (.movB32 c d b) := by
  rintro h pool hp s ⟨⟩
  refine (identify_a (encodable_a rfl h)).trans ?_
  cases b <;> rfl

theorem Fields.selB32 (c : Ctl) (d a : Reg) (b : OpB) : Fields.Statement (.selB32 c d a b) := by
  rintro h pool hp s ⟨⟩
  refine (identify_a (encodable_a rfl h)).trans ?_
  cases b <;> rfl

theorem Fields.cmpN32Set1 (c : Ctl) (q : BitVec 2) (p : BitVec 5) (a : Reg) (b : OpB) : Fields.Statement (.cmpN32Set1 c q p a b) := by
  rintro h pool hp s ⟨⟩
  refine (identify_a (encodable_a rfl h)).trans ?_
  cases b
  · refine Eq.trans (b := .ok (.cmpN32Set1 c ((q ++ p).extractLsb' 5 2) ((q ++ p).extractLsb' 0 5) (a) (.reg _))) rfl ?_
    rw [bit_pair, bit_low5]; rfl
  · refine Eq.trans (b := .ok (.cmpN32Set1 c ((q ++ p).extractLsb' 5 2) ((q ++ p).extractLsb' 0 5) (a) (.lit _))) rfl ?_
    rw [bit_pair, bit_low5]; rfl

theorem Fields.cmpN32Set2 (c : Ctl) (q : BitVec 2) (p : BitVec 5) (a : Reg) (b : OpB) : Fields.Statement (.cmpN32Set2 c q p a b) := by
  rintro h pool hp s ⟨⟩
  refine (identify_a (encodable_a rfl h)).trans ?_
  cases b
  · refine Eq.trans (b := .ok (.cmpN32Set2 c ((q ++ p).extractLsb' 5 2) ((q ++ p).extractLsb' 0 5) (a) (.reg _))) rfl ?_
    rw [bit_pair, bit_low5]; rfl
  · refine Eq.trans (b := .ok (.cmpN32Set2 c ((q ++ p).extractLsb' 5 2) ((q ++ p).extractLsb' 0 5) (a) (.lit _))) rfl ?_
    rw [bit_pair, bit_low5]; rfl

theorem Fields.cmpI32Set1 (c : Ctl) (q : BitVec 2) (p : BitVec 5) (a : Reg) (b : OpB) : Fields.Statement (.cmpI32Set1 c q p a b) := by
  rintro h pool hp s ⟨⟩
  refine (identify_a (encodable_a rfl h)).trans ?_
  cases b
  · refine Eq.trans (b := .ok (.cmpI32Set1 c ((q ++ p).extractLsb' 5 2) ((q ++ p).extractLsb' 0 5) (a) (.reg _))) rfl ?_
    rw [bit_pair, bit_low5]; rfl
  · refine Eq.trans (b := .ok (.cmpI32Set1 c ((q ++ p).extractLsb' 5 2) ((q ++ p).extractLsb' 0 5) (a) (.lit _))) rfl ?_
    rw [bit_pair, bit_low5]; rfl

theorem Fields.cmpI32Set2 (c : Ctl) (q : BitVec 2) (p : BitVec 5) (a : Reg) (b : OpB) : Fields.Statement (.cmpI32Set2 c q p a b) := by
  rintro h pool hp s ⟨⟩
  refine (identify_a (encodable_a rfl h)).trans ?_
  cases b
  · refine Eq.trans (b := .ok (.cmpI32Set2 c ((q ++ p).extractLsb' 5 2) ((q ++ p).extractLsb' 0 5) (a) (.reg _))) rfl ?_
    rw [bit_pair, bit_low5]; rfl
  · refine Eq.trans (b := .ok (.cmpI32Set2 c ((q ++ p).extractLsb' 5 2) ((q ++ p).extractLsb' 0 5) (a) (.lit _))) rfl ?_
    rw [bit_pair, bit_low5]; rfl

theorem Fields.cmpF32Set1 (c : Ctl) (q : BitVec 2) (p : BitVec 5) (a : Reg) (b : OpB) : Fields.Statement (.cmpF32Set1 c q p a b) := by
  rintro h pool hp s ⟨⟩
  refine (identify_a (encodable_a rfl h)).trans ?_
  cases b
  · refine Eq.trans (b := .ok (.cmpF32Set1 c ((q ++ p).extractLsb' 5 2) ((q ++ p).extractLsb' 0 5) (a) (.reg _))) rfl ?_
    rw [bit_pair, bit_low5]; rfl
  · refine Eq.trans (b := .ok (.cmpF32Set1 c ((q ++ p).extractLsb' 5 2) ((q ++ p).extractLsb' 0 5) (a) (.lit _))) rfl ?_
    rw [bit_pair, bit_low5]; rfl

theorem Fields.cmpF32Set2 (c : Ctl) (q : BitVec 2) (p : BitVec 5) (a : Reg) (b : OpB) : Fields.Statement (.cmpF32Set2 c q p a b) := by
  rintro h pool hp s ⟨⟩
  refine (identify_a (encodable_a rfl h)).trans ?_
  cases b
  · refine Eq.trans (b := .ok (.cmpF32Set2 c ((q ++ p).extractLsb' 5 2) ((q ++ p).extractLsb' 0 5) (a) (.reg _))) rfl ?_
    rw [bit_pair, bit_low5]; rfl
  · refine Eq.trans (b := .ok (.cmpF32Set2 c ((q ++ p).extractLsb' 5 2) ((q ++ p).extractLsb' 0 5) (a) (.lit _))) rfl ?_
    rw [bit_pair, bit_low5]; rfl

theorem Fields.pand (c : Ctl) (p : BitVec 5) (na : Bool) (pa : BitVec 5) (nb : Bool) (pb : BitVec 5) : Fields.Statement (.pand c p na pa nb pb) := by
  rintro h pool hp s ⟨⟩
  refine (identify_a (encodable_a rfl h)).trans (Eq.trans (b := need (!false && (0#2 ++ p).extractLsb' 5 2 = 0 && (0#1 ++ BitVec.ofBool na ++ pa).getLsbD 6 = false && (0#1 ++ BitVec.ofBool nb ++ pb).getLsbD 6 = false) (.ok (.pand c ((0#2 ++ p).extractLsb' 0 5) ((0#1 ++ BitVec.ofBool na ++ pa).getLsbD 5) ((0#1 ++ BitVec.ofBool na ++ pa).extractLsb' 0 5) ((0#1 ++ BitVec.ofBool nb ++ pb).getLsbD 5) ((0#1 ++ BitVec.ofBool nb ++ pb).extractLsb' 0 5)))) rfl ?_)
  simp [need, bit_pair, bit_low5, bit_neg6, bit_neg5, bit_neg0]

theorem Fields.por (c : Ctl) (p : BitVec 5) (na : Bool) (pa : BitVec 5) (nb : Bool) (pb : BitVec 5) : Fields.Statement (.por c p na pa nb pb) := by
  rintro h pool hp s ⟨⟩
  refine (identify_a (encodable_a rfl h)).trans (Eq.trans (b := need (!false && (0#2 ++ p).extractLsb' 5 2 = 0 && (0#1 ++ BitVec.ofBool na ++ pa).getLsbD 6 = false && (0#1 ++ BitVec.ofBool nb ++ pb).getLsbD 6 = false) (.ok (.por c ((0#2 ++ p).extractLsb' 0 5) ((0#1 ++ BitVec.ofBool na ++ pa).getLsbD 5) ((0#1 ++ BitVec.ofBool na ++ pa).extractLsb' 0 5) ((0#1 ++ BitVec.ofBool nb ++ pb).getLsbD 5) ((0#1 ++ BitVec.ofBool nb ++ pb).extractLsb' 0 5)))) rfl ?_)
  simp [need, bit_pair, bit_low5, bit_neg6, bit_neg5, bit_neg0]

theorem Fields.pxor (c : Ctl) (p : BitVec 5) (na : Bool) (pa : BitVec 5) (nb : Bool) (pb : BitVec 5) : Fields.Statement (.pxor c p na pa nb pb) := by
  rintro h pool hp s ⟨⟩
  refine (identify_a (encodable_a rfl h)).trans (Eq.trans (b := need (!false && (0#2 ++ p).extractLsb' 5 2 = 0 && (0#1 ++ BitVec.ofBool na ++ pa).getLsbD 6 = false && (0#1 ++ BitVec.ofBool nb ++ pb).getLsbD 6 = false) (.ok (.pxor c ((0#2 ++ p).extractLsb' 0 5) ((0#1 ++ BitVec.ofBool na ++ pa).getLsbD 5) ((0#1 ++ BitVec.ofBool na ++ pa).extractLsb' 0 5) ((0#1 ++ BitVec.ofBool nb ++ pb).getLsbD 5) ((0#1 ++ BitVec.ofBool nb ++ pb).extractLsb' 0 5)))) rfl ?_)
  simp [need, bit_pair, bit_low5, bit_neg6, bit_neg5, bit_neg0]

theorem Fields.vtp (c : Ctl) (p : BitVec 5) (a : Reg) : Fields.Statement (.vtp c p a) := by
  rintro h pool hp s ⟨⟩
  refine (identify_a (encodable_a rfl h)).trans (Eq.trans (b := need (!false && (0#2 ++ p).extractLsb' 5 2 = 0) (.ok (.vtp c ((0#2 ++ p).extractLsb' 0 5) (a)))) rfl ?_)
  simp [need, bit_pair, bit_low5]

theorem Fields.ptv (c : Ctl) (d : Reg) (na : Bool) (pa : BitVec 5) : Fields.Statement (.ptv c d na pa) := by
  rintro h pool hp s ⟨⟩
  refine (identify_a (encodable_a rfl h)).trans (Eq.trans (b := need (!false && (0#1 ++ BitVec.ofBool na ++ pa).getLsbD 6 = false) (.ok (.ptv c (d) ((0#1 ++ BitVec.ofBool na ++ pa).getLsbD 5) ((0#1 ++ BitVec.ofBool na ++ pa).extractLsb' 0 5)))) rfl ?_)
  simp [need, bit_neg6, bit_neg5, bit_neg0]

theorem Fields.faddF32 (c : Ctl) (d a : Reg) (b : OpB) : Fields.Statement (.faddF32 c d a b) := by
  rintro h pool hp s ⟨⟩
  refine (identify_a (encodable_a rfl h)).trans ?_
  cases b <;> rfl

theorem Fields.fsubF32 (c : Ctl) (d a : Reg) (b : OpB) : Fields.Statement (.fsubF32 c d a b) := by
  rintro h pool hp s ⟨⟩
  refine (identify_a (encodable_a rfl h)).trans ?_
  cases b <;> rfl

theorem Fields.fmulF32 (c : Ctl) (d a : Reg) (b : OpB) : Fields.Statement (.fmulF32 c d a b) := by
  rintro h pool hp s ⟨⟩
  refine (identify_a (encodable_a rfl h)).trans ?_
  cases b <;> rfl

theorem Fields.ffmaF32 (c : Ctl) (d a : Reg) (b : OpB) : Fields.Statement (.ffmaF32 c d a b) := by
  rintro h pool hp s ⟨⟩
  refine (identify_a (encodable_a rfl h)).trans ?_
  cases b <;> rfl

theorem Fields.fminF32 (c : Ctl) (d a : Reg) (b : OpB) : Fields.Statement (.fminF32 c d a b) := by
  rintro h pool hp s ⟨⟩
  refine (identify_a (encodable_a rfl h)).trans ?_
  cases b <;> rfl

theorem Fields.fmaxF32 (c : Ctl) (d a : Reg) (b : OpB) : Fields.Statement (.fmaxF32 c d a b) := by
  rintro h pool hp s ⟨⟩
  refine (identify_a (encodable_a rfl h)).trans ?_
  cases b <;> rfl

theorem Fields.fabsF32 (c : Ctl) (d a : Reg) : Fields.Statement (.fabsF32 c d a) := by
  rintro h pool hp s ⟨⟩
  refine (identify_a (encodable_a rfl h)).trans ?_
  rfl

theorem Fields.fnegF32 (c : Ctl) (d a : Reg) : Fields.Statement (.fnegF32 c d a) := by
  rintro h pool hp s ⟨⟩
  refine (identify_a (encodable_a rfl h)).trans ?_
  rfl

theorem Fields.frintF32 (c : Ctl) (d a : Reg) : Fields.Statement (.frintF32 c d a) := by
  rintro h pool hp s ⟨⟩
  refine (identify_a (encodable_a rfl h)).trans ?_
  rfl

theorem Fields.fabsF16x2 (c : Ctl) (d a : Reg) : Fields.Statement (.fabsF16x2 c d a) := by
  rintro h pool hp s ⟨⟩
  refine (identify_a (encodable_a rfl h)).trans ?_
  rfl

theorem Fields.fnegF16x2 (c : Ctl) (d a : Reg) : Fields.Statement (.fnegF16x2 c d a) := by
  rintro h pool hp s ⟨⟩
  refine (identify_a (encodable_a rfl h)).trans ?_
  rfl

theorem Fields.fabsBf16x2 (c : Ctl) (d a : Reg) : Fields.Statement (.fabsBf16x2 c d a) := by
  rintro h pool hp s ⟨⟩
  refine (identify_a (encodable_a rfl h)).trans ?_
  rfl

theorem Fields.fnegBf16x2 (c : Ctl) (d a : Reg) : Fields.Statement (.fnegBf16x2 c d a) := by
  rintro h pool hp s ⟨⟩
  refine (identify_a (encodable_a rfl h)).trans ?_
  rfl

theorem Fields.faddF16x2 (c : Ctl) (d a : Reg) (b : OpB) : Fields.Statement (.faddF16x2 c d a b) := by
  rintro h pool hp s ⟨⟩
  refine (identify_a (encodable_a rfl h)).trans ?_
  cases b <;> rfl

theorem Fields.fmulF16x2 (c : Ctl) (d a : Reg) (b : OpB) : Fields.Statement (.fmulF16x2 c d a b) := by
  rintro h pool hp s ⟨⟩
  refine (identify_a (encodable_a rfl h)).trans ?_
  cases b <;> rfl

theorem Fields.ffmaF16x2 (c : Ctl) (d a : Reg) (b : OpB) : Fields.Statement (.ffmaF16x2 c d a b) := by
  rintro h pool hp s ⟨⟩
  refine (identify_a (encodable_a rfl h)).trans ?_
  cases b <;> rfl

theorem Fields.faddBf16x2 (c : Ctl) (d a : Reg) (b : OpB) : Fields.Statement (.faddBf16x2 c d a b) := by
  rintro h pool hp s ⟨⟩
  refine (identify_a (encodable_a rfl h)).trans ?_
  cases b <;> rfl

theorem Fields.fmulBf16x2 (c : Ctl) (d a : Reg) (b : OpB) : Fields.Statement (.fmulBf16x2 c d a b) := by
  rintro h pool hp s ⟨⟩
  refine (identify_a (encodable_a rfl h)).trans ?_
  cases b <;> rfl

theorem Fields.ffmaBf16x2 (c : Ctl) (d a : Reg) (b : OpB) : Fields.Statement (.ffmaBf16x2 c d a b) := by
  rintro h pool hp s ⟨⟩
  refine (identify_a (encodable_a rfl h)).trans ?_
  cases b <;> rfl

theorem Fields.fdot2F32F16x2 (c : Ctl) (d a : Reg) (b : OpB) : Fields.Statement (.fdot2F32F16x2 c d a b) := by
  rintro h pool hp s ⟨⟩
  refine (identify_a (encodable_a rfl h)).trans ?_
  cases b <;> rfl

theorem Fields.fdot2F32Bf16x2 (c : Ctl) (d a : Reg) (b : OpB) : Fields.Statement (.fdot2F32Bf16x2 c d a b) := by
  rintro h pool hp s ⟨⟩
  refine (identify_a (encodable_a rfl h)).trans ?_
  cases b <;> rfl

theorem Fields.cvtF32I32 (c : Ctl) (d a : Reg) : Fields.Statement (.cvtF32I32 c d a) := by
  rintro h pool hp s ⟨⟩
  refine (identify_a (encodable_a rfl h)).trans ?_
  rfl

theorem Fields.cvtF32N32 (c : Ctl) (d a : Reg) : Fields.Statement (.cvtF32N32 c d a) := by
  rintro h pool hp s ⟨⟩
  refine (identify_a (encodable_a rfl h)).trans ?_
  rfl

theorem Fields.cvtI32F32 (c : Ctl) (d a : Reg) : Fields.Statement (.cvtI32F32 c d a) := by
  rintro h pool hp s ⟨⟩
  refine (identify_a (encodable_a rfl h)).trans ?_
  rfl

theorem Fields.cvtN32F32 (c : Ctl) (d a : Reg) : Fields.Statement (.cvtN32F32 c d a) := by
  rintro h pool hp s ⟨⟩
  refine (identify_a (encodable_a rfl h)).trans ?_
  rfl

theorem Fields.cvtF32F16 (c : Ctl) (d a : Reg) : Fields.Statement (.cvtF32F16 c d a) := by
  rintro h pool hp s ⟨⟩
  refine (identify_a (encodable_a rfl h)).trans ?_
  rfl

theorem Fields.cvtF32Bf16 (c : Ctl) (d a : Reg) : Fields.Statement (.cvtF32Bf16 c d a) := by
  rintro h pool hp s ⟨⟩
  refine (identify_a (encodable_a rfl h)).trans ?_
  rfl

theorem Fields.cvtF16F32 (c : Ctl) (d a : Reg) : Fields.Statement (.cvtF16F32 c d a) := by
  rintro h pool hp s ⟨⟩
  refine (identify_a (encodable_a rfl h)).trans ?_
  rfl

theorem Fields.cvtBf16F32 (c : Ctl) (d a : Reg) : Fields.Statement (.cvtBf16F32 c d a) := by
  rintro h pool hp s ⟨⟩
  refine (identify_a (encodable_a rfl h)).trans ?_
  rfl

theorem Fields.cvtF32E4m3 (c : Ctl) (d a : Reg) : Fields.Statement (.cvtF32E4m3 c d a) := by
  rintro h pool hp s ⟨⟩
  refine (identify_a (encodable_a rfl h)).trans ?_
  rfl

theorem Fields.cvtF32E5m2 (c : Ctl) (d a : Reg) : Fields.Statement (.cvtF32E5m2 c d a) := by
  rintro h pool hp s ⟨⟩
  refine (identify_a (encodable_a rfl h)).trans ?_
  rfl

theorem Fields.cvtF32E2m1 (c : Ctl) (d a : Reg) : Fields.Statement (.cvtF32E2m1 c d a) := by
  rintro h pool hp s ⟨⟩
  refine (identify_a (encodable_a rfl h)).trans ?_
  rfl

theorem Fields.cvtE4m3F32 (c : Ctl) (d a : Reg) : Fields.Statement (.cvtE4m3F32 c d a) := by
  rintro h pool hp s ⟨⟩
  refine (identify_a (encodable_a rfl h)).trans ?_
  rfl

theorem Fields.cvtE5m2F32 (c : Ctl) (d a : Reg) : Fields.Statement (.cvtE5m2F32 c d a) := by
  rintro h pool hp s ⟨⟩
  refine (identify_a (encodable_a rfl h)).trans ?_
  rfl

theorem Fields.cvtE2m1F32 (c : Ctl) (d a : Reg) : Fields.Statement (.cvtE2m1F32 c d a) := by
  rintro h pool hp s ⟨⟩
  refine (identify_a (encodable_a rfl h)).trans ?_
  rfl

theorem Fields.cvtF32Ue4m3 (c : Ctl) (d a : Reg) : Fields.Statement (.cvtF32Ue4m3 c d a) := by
  rintro h pool hp s ⟨⟩
  refine (identify_a (encodable_a rfl h)).trans ?_
  rfl

theorem Fields.cvtI32Rns24 (c : Ctl) (d a : Reg) : Fields.Statement (.cvtI32Rns24 c d a) := by
  rintro h pool hp s ⟨⟩
  refine (identify_a (encodable_a rfl h)).trans ?_
  rfl

theorem Fields.cvtN32Rns24 (c : Ctl) (d a : Reg) : Fields.Statement (.cvtN32Rns24 c d a) := by
  rintro h pool hp s ⟨⟩
  refine (identify_a (encodable_a rfl h)).trans ?_
  rfl

theorem Fields.cvtRns24I32 (c : Ctl) (d a : Reg) : Fields.Statement (.cvtRns24I32 c d a) := by
  rintro h pool hp s ⟨⟩
  refine (identify_a (encodable_a rfl h)).trans ?_
  rfl

theorem Fields.cvtRns24N32 (c : Ctl) (d a : Reg) : Fields.Statement (.cvtRns24N32 c d a) := by
  rintro h pool hp s ⟨⟩
  refine (identify_a (encodable_a rfl h)).trans ?_
  rfl

theorem Fields.rcpF32 (c : Ctl) (d a : Reg) : Fields.Statement (.rcpF32 c d a) := by
  rintro h pool hp s ⟨⟩
  refine (identify_a (encodable_a rfl h)).trans ?_
  rfl

theorem Fields.rsqrtF32 (c : Ctl) (d a : Reg) : Fields.Statement (.rsqrtF32 c d a) := by
  rintro h pool hp s ⟨⟩
  refine (identify_a (encodable_a rfl h)).trans ?_
  rfl

theorem Fields.sqrtF32 (c : Ctl) (d a : Reg) : Fields.Statement (.sqrtF32 c d a) := by
  rintro h pool hp s ⟨⟩
  refine (identify_a (encodable_a rfl h)).trans ?_
  rfl

theorem Fields.exp2F32 (c : Ctl) (d a : Reg) : Fields.Statement (.exp2F32 c d a) := by
  rintro h pool hp s ⟨⟩
  refine (identify_a (encodable_a rfl h)).trans ?_
  rfl

theorem Fields.log2F32 (c : Ctl) (d a : Reg) : Fields.Statement (.log2F32 c d a) := by
  rintro h pool hp s ⟨⟩
  refine (identify_a (encodable_a rfl h)).trans ?_
  rfl

theorem Fields.sinF32 (c : Ctl) (d a : Reg) : Fields.Statement (.sinF32 c d a) := by
  rintro h pool hp s ⟨⟩
  refine (identify_a (encodable_a rfl h)).trans ?_
  rfl

theorem Fields.cosF32 (c : Ctl) (d a : Reg) : Fields.Statement (.cosF32 c d a) := by
  rintro h pool hp s ⟨⟩
  refine (identify_a (encodable_a rfl h)).trans ?_
  rfl

theorem Fields.tanhF32 (c : Ctl) (d a : Reg) : Fields.Statement (.tanhF32 c d a) := by
  rintro h pool hp s ⟨⟩
  refine (identify_a (encodable_a rfl h)).trans ?_
  rfl

theorem Fields.gnextB32 (c : Ctl) (d a : Reg) : Fields.Statement (.gnextB32 c d a) := by
  rintro h pool hp s ⟨⟩
  refine (identify_a (encodable_a rfl h)).trans ?_
  rfl

theorem Fields.gseed (c : Ctl) (d a : Reg) : Fields.Statement (.gseed c d a) := by
  rintro h pool hp s ⟨⟩
  refine (identify_a (encodable_a rfl h)).trans ?_
  rfl

theorem Fields.ldN8 (c : Ctl) (d a : Reg) (off : BitVec 8) : Fields.Statement (.ldN8 c d a off) := by
  rintro h pool hp s ⟨⟩
  exact (identify_i (encodable_i rfl h)).trans rfl

theorem Fields.ldI8 (c : Ctl) (d a : Reg) (off : BitVec 8) : Fields.Statement (.ldI8 c d a off) := by
  rintro h pool hp s ⟨⟩
  exact (identify_i (encodable_i rfl h)).trans rfl

theorem Fields.ldN16 (c : Ctl) (d a : Reg) (off : BitVec 8) : Fields.Statement (.ldN16 c d a off) := by
  rintro h pool hp s ⟨⟩
  exact (identify_i (encodable_i rfl h)).trans rfl

theorem Fields.ldI16 (c : Ctl) (d a : Reg) (off : BitVec 8) : Fields.Statement (.ldI16 c d a off) := by
  rintro h pool hp s ⟨⟩
  exact (identify_i (encodable_i rfl h)).trans rfl

theorem Fields.ldB32 (c : Ctl) (d a : Reg) (off : BitVec 8) : Fields.Statement (.ldB32 c d a off) := by
  rintro h pool hp s ⟨⟩
  exact (identify_i (encodable_i rfl h)).trans rfl

theorem Fields.ldB64 (c : Ctl) (d a : Reg) (off : BitVec 8) : Fields.Statement (.ldB64 c d a off) := by
  rintro h pool hp s ⟨⟩
  exact (identify_i (encodable_i rfl h)).trans rfl

theorem Fields.stB8 (c : Ctl) (d a : Reg) (off : BitVec 8) : Fields.Statement (.stB8 c d a off) := by
  rintro h pool hp s ⟨⟩
  exact (identify_i (encodable_i rfl h)).trans rfl

theorem Fields.stB16 (c : Ctl) (d a : Reg) (off : BitVec 8) : Fields.Statement (.stB16 c d a off) := by
  rintro h pool hp s ⟨⟩
  exact (identify_i (encodable_i rfl h)).trans rfl

theorem Fields.stB32 (c : Ctl) (d a : Reg) (off : BitVec 8) : Fields.Statement (.stB32 c d a off) := by
  rintro h pool hp s ⟨⟩
  exact (identify_i (encodable_i rfl h)).trans rfl

theorem Fields.stB64 (c : Ctl) (d a : Reg) (off : BitVec 8) : Fields.Statement (.stB64 c d a off) := by
  rintro h pool hp s ⟨⟩
  exact (identify_i (encodable_i rfl h)).trans rfl

theorem Fields.natom (c : Ctl) (d a : Reg) (ord : BitVec 2) (op : BitVec 4) : Fields.Statement (.natom c d a ord op) := by
  rintro h pool hp s ⟨⟩
  have ho : op.toNat < 12 := by simpa [Instr.codeOk] using (Bool.and_eq_true_iff.mp h).2
  refine (identify_i (encodable_i rfl h)).trans (Eq.trans (b :=
    if (ord ++ op ++ 0#2).extractLsb' 2 4 ≥ 12 then .error .illegalOp else need ((ord ++ op ++ 0#2).extractLsb' 0 2 = 0)
      (.ok (.natom c d a ((ord ++ op ++ 0#2).extractLsb' 6 2) ((ord ++ op ++ 0#2).extractLsb' 2 4)))) rfl ?_)
  have : ¬ 12#4 ≤ op := by rw [BitVec.le_def]; simpa using ho
  simp [need, bit_op, bit_ord, bit_zero, this]

theorem Fields.atom (c : Ctl) (d a : Reg) (ord : BitVec 2) (op : BitVec 4) : Fields.Statement (.atom c d a ord op) := by
  rintro h pool hp s ⟨⟩
  have ho : op.toNat < 12 := by simpa [Instr.codeOk] using (Bool.and_eq_true_iff.mp h).2
  refine (identify_i (encodable_i rfl h)).trans (Eq.trans (b :=
    if (ord ++ op ++ 0#2).extractLsb' 2 4 ≥ 12 then .error .illegalOp else need ((ord ++ op ++ 0#2).extractLsb' 0 2 = 0)
      (.ok (.atom c d a ((ord ++ op ++ 0#2).extractLsb' 6 2) ((ord ++ op ++ 0#2).extractLsb' 2 4)))) rfl ?_)
  have : ¬ 12#4 ≤ op := by rw [BitVec.le_def]; simpa using ho
  simp [need, bit_op, bit_ord, bit_zero, this]

theorem Fields.push (c : Ctl) (a : Reg) (n : BitVec 8) : Fields.Statement (.push c a n) := by
  rintro h pool hp s ⟨⟩
  exact (identify_i (encodable_i rfl h)).trans rfl

theorem Fields.pop (c : Ctl) (d : Reg) (n : BitVec 8) : Fields.Statement (.pop c d n) := by
  rintro h pool hp s ⟨⟩
  exact (identify_i (encodable_i rfl h)).trans rfl

theorem Fields.mfs (c : Ctl) (d : Reg) (n : BitVec 8) : Fields.Statement (.mfs c d n) := by
  rintro h pool hp s ⟨⟩
  exact (identify_i (encodable_i rfl h)).trans rfl

theorem Fields.mts (c : Ctl) (a : Reg) (n : BitVec 8) : Fields.Statement (.mts c a n) := by
  rintro h pool hp s ⟨⟩
  exact (identify_i (encodable_i rfl h)).trans rfl

theorem Fields.ckz (c : Ctl) (d : Reg) : Fields.Statement (.ckz c d) := by
  rintro h pool hp s ⟨⟩
  refine (identify_a (encodable_a rfl h)).trans ?_
  rfl

theorem Fields.ckaMod (c : Ctl) (d a : Reg) : Fields.Statement (.ckaMod c d a) := by
  rintro h pool hp s ⟨⟩
  refine (identify_a (encodable_a rfl h)).trans ?_
  rfl

theorem Fields.ckaF (c : Ctl) (d a : Reg) : Fields.Statement (.ckaF c d a) := by
  rintro h pool hp s ⟨⟩
  refine (identify_a (encodable_a rfl h)).trans ?_
  rfl

theorem Fields.ckvMod (c : Ctl) (d a : Reg) : Fields.Statement (.ckvMod c d a) := by
  rintro h pool hp s ⟨⟩
  refine (identify_a (encodable_a rfl h)).trans ?_
  rfl

theorem Fields.ckvF (c : Ctl) (d a b : Reg) : Fields.Statement (.ckvF c d a b) := by
  rintro h pool hp s ⟨⟩
  refine (identify_a (encodable_a rfl h)).trans ?_
  rfl

theorem Fields.svc (c : Ctl) (d a : Reg) (i : BitVec 8) : Fields.Statement (.svc c d a i) := by
  rintro h pool hp s ⟨⟩
  exact (identify_i (encodable_i rfl h)).trans rfl

theorem Fields.trap (c : Ctl) (n : BitVec 8) : Fields.Statement (.trap c n) := by
  rintro h pool hp s ⟨⟩
  exact (identify_i (encodable_i rfl h)).trans rfl

theorem Fields.rte (c : Ctl) : Fields.Statement (.rte c) := by
  rintro h pool hp s ⟨⟩
  refine (identify_a (encodable_a rfl h)).trans ?_
  rfl

theorem Fields.exit (c : Ctl) : Fields.Statement (.exit c) := by
  rintro h pool hp s ⟨⟩
  refine (identify_a (encodable_a rfl h)).trans ?_
  rfl

theorem Fields.bra (c : Ctl) (g : BitVec 5) (n : Bool) (off : BitVec 18) : Fields.Statement (.bra c g n off) := by
  rintro h pool hp s ⟨⟩
  obtain ⟨h1, h2, h3, h4⟩ := encodable_b rfl h
  obtain ⟨k, c, w, pre⟩ := c
  cases h1; cases h2; cases h3
  exact (identify_b h4).trans rfl

theorem Fields.braAlways (c : Ctl) (off : BitVec 18) : Fields.Statement (.braAlways c off) := by
  rintro h pool hp s ⟨⟩
  obtain ⟨h1, h2, h3, h4⟩ := encodable_b rfl h
  obtain ⟨k, c, w, pre⟩ := c
  cases h1; cases h2; cases h3
  exact (identify_b h4).trans rfl

theorem Fields.call (c : Ctl) (g : BitVec 5) (n : Bool) (off : BitVec 18) : Fields.Statement (.call c g n off) := by
  rintro h pool hp s ⟨⟩
  obtain ⟨h1, h2, h3, h4⟩ := encodable_b rfl h
  obtain ⟨k, c, w, pre⟩ := c
  cases h1; cases h2; cases h3
  exact (identify_b h4).trans rfl

theorem Fields.callAlways (c : Ctl) (off : BitVec 18) : Fields.Statement (.callAlways c off) := by
  rintro h pool hp s ⟨⟩
  obtain ⟨h1, h2, h3, h4⟩ := encodable_b rfl h
  obtain ⟨k, c, w, pre⟩ := c
  cases h1; cases h2; cases h3
  exact (identify_b h4).trans rfl

theorem Fields.ret (c : Ctl) : Fields.Statement (.ret c) := by
  rintro h pool hp s ⟨⟩
  refine (identify_a (encodable_a rfl h)).trans ?_
  rfl

theorem Fields.brx (c : Ctl) (a : Reg) : Fields.Statement (.brx c a) := by
  rintro h pool hp s ⟨⟩
  refine (identify_a (encodable_a rfl h)).trans ?_
  rfl

theorem Fields.mma (c : Ctl) (t : BitVec 5) (a : Reg) (b : BitVec 5) (q : BitVec 2) (s : BitVec 3) (n : BitVec 2) (r : Bool) : Fields.Statement (.mma c t a b q s n r) := by
  rintro h pool hp s ⟨⟩
  obtain ⟨h1, h2, h3⟩ := encodable_x rfl h
  obtain ⟨k, c, w, pre⟩ := c
  cases h1; cases h2; cases h3
  rfl

theorem Fields.mmaSc (c : Ctl) (t : BitVec 5) (a : Reg) (b : BitVec 5) (q : BitVec 2) (s : BitVec 3) (n : BitVec 2) (r : Bool) : Fields.Statement (.mmaSc c t a b q s n r) := by
  rintro h pool hp s ⟨⟩
  obtain ⟨h1, h2, h3⟩ := encodable_x rfl h
  obtain ⟨k, c, w, pre⟩ := c
  cases h1; cases h2; cases h3
  rfl

theorem Fields.mmaSet (c : Ctl) (t : BitVec 5) (a : Reg) (b : BitVec 5) (q : BitVec 2) (s : BitVec 3) (n : BitVec 2) (r : Bool) : Fields.Statement (.mmaSet c t a b q s n r) := by
  rintro h pool hp s ⟨⟩
  obtain ⟨h1, h2, h3⟩ := encodable_x rfl h
  obtain ⟨k, c, w, pre⟩ := c
  cases h1; cases h2; cases h3
  rfl

theorem Fields.reform (c : Ctl) : Fields.Statement (.reform c) := by
  rintro h pool hp s ⟨⟩
  refine (identify_a (encodable_a rfl h)).trans ?_
  rfl

theorem Fields.waitm (c : Ctl) (a : Reg) : Fields.Statement (.waitm c a) := by
  rintro h pool hp s ⟨⟩
  refine (identify_a (encodable_a rfl h)).trans ?_
  rfl

theorem Fields.leave (c : Ctl) (a : Reg) : Fields.Statement (.leave c a) := by
  rintro h pool hp s ⟨⟩
  refine (identify_a (encodable_a rfl h)).trans ?_
  rfl

theorem Fields.join (c : Ctl) (a : Reg) : Fields.Statement (.join c a) := by
  rintro h pool hp s ⟨⟩
  refine (identify_a (encodable_a rfl h)).trans ?_
  rfl

theorem Fields.pseg (c : Ctl) (m : Reg) (n : BitVec 8) : Fields.Statement (.pseg c m n) := by
  rintro h pool hp s ⟨⟩
  exact (identify_i (encodable_i rfl h)).trans rfl

theorem Fields.cvset (c : Ctl) (d a : Reg) : Fields.Statement (.cvset c d a) := by
  rintro h pool hp s ⟨⟩
  refine (identify_a (encodable_a rfl h)).trans ?_
  rfl

theorem Fields.agreeEvery (c : Ctl) (p : BitVec 5) (na : Bool) (pa : BitVec 5) (m : BitVec 4) : Fields.Statement (.agreeEvery c p na pa m) := by
  rintro h pool hp s ⟨⟩
  refine (identify_a (encodable_a rfl h)).trans (Eq.trans (b := identifyAgree ⟨c.k, 0x6c, 0#2 ++ p, 0#1 ++ BitVec.ofBool na ++ pa, 0#3 ++ m, c.c, c.w, false⟩ c) rfl ?_)
  simp [identifyAgree, need, bit_pair, bit_low5, bit_neg6, bit_neg5, bit_neg0, bit_lo4, bit_hi3]

theorem Fields.agreeSome (c : Ctl) (p : BitVec 5) (na : Bool) (pa : BitVec 5) (m : BitVec 4) : Fields.Statement (.agreeSome c p na pa m) := by
  rintro h pool hp s ⟨⟩
  refine (identify_a (encodable_a rfl h)).trans (Eq.trans (b := identifyAgree ⟨c.k, 0x6c, 0#2 ++ p, 0#1 ++ BitVec.ofBool na ++ pa, 1#3 ++ m, c.c, c.w, false⟩ c) rfl ?_)
  simp [identifyAgree, need, bit_pair, bit_low5, bit_neg6, bit_neg5, bit_neg0, bit_lo4, bit_hi3]

theorem Fields.agreeMask (c : Ctl) (d : Reg) (na : Bool) (pa : BitVec 5) (m : BitVec 4) : Fields.Statement (.agreeMask c d na pa m) := by
  rintro h pool hp s ⟨⟩
  refine (identify_a (encodable_a rfl h)).trans (Eq.trans (b := identifyAgree ⟨c.k, 0x6c, d, 0#1 ++ BitVec.ofBool na ++ pa, 2#3 ++ m, c.c, c.w, false⟩ c) rfl ?_)
  simp [identifyAgree, need, bit_neg6, bit_neg5, bit_neg0, bit_lo4, bit_hi3]

theorem Fields.agreeSame (c : Ctl) (p : BitVec 5) (a : Reg) (m : BitVec 4) : Fields.Statement (.agreeSame c p a m) := by
  rintro h pool hp s ⟨⟩
  refine (identify_a (encodable_a rfl h)).trans (Eq.trans (b := identifyAgree ⟨c.k, 0x6c, 0#2 ++ p, a, 3#3 ++ m, c.c, c.w, false⟩ c) rfl ?_)
  simp [identifyAgree, need, bit_pair, bit_low5, bit_lo4, bit_hi3]

theorem Fields.xlane (c : Ctl) (d a : Reg) (x : BitVec 3) (m : BitVec 4) : Fields.Statement (.xlane c d a x m) := by
  rintro h pool hp s ⟨⟩
  have hx : x.toNat < 4 := by simpa [Instr.codeOk] using (Bool.and_eq_true_iff.mp h).2
  refine (identify_a (encodable_a rfl h)).trans (Eq.trans (b :=
    if (x ++ m).extractLsb' 4 3 ≥ 4 then .error .illegalOp else need (!false)
      (.ok (.xlane c d a ((x ++ m).extractLsb' 4 3) ((x ++ m).extractLsb' 0 4)))) rfl ?_)
  have : ¬ 4#3 ≤ x := by rw [BitVec.le_def]; simpa using hx
  simp [need, bit_hi3, bit_lo4, this]

theorem Fields.sred (c : Ctl) (d a : Reg) (x : BitVec 3) (m : BitVec 4) : Fields.Statement (.sred c d a x m) := by
  rintro h pool hp s ⟨⟩
  refine (identify_a (encodable_a rfl h)).trans (Eq.trans (b := need (!false) (.ok (.sred c (d) (a) ((x ++ m).extractLsb' 4 3) ((x ++ m).extractLsb' 0 4)))) rfl ?_)
  simp [need, bit_hi3, bit_lo4]

theorem Fields.sscan (c : Ctl) (d a : Reg) (x : BitVec 3) (m : BitVec 4) : Fields.Statement (.sscan c d a x m) := by
  rintro h pool hp s ⟨⟩
  refine (identify_a (encodable_a rfl h)).trans (Eq.trans (b := need (!false) (.ok (.sscan c (d) (a) ((x ++ m).extractLsb' 4 3) ((x ++ m).extractLsb' 0 4)))) rfl ?_)
  simp [need, bit_hi3, bit_lo4]

theorem Fields.bsig (c : Ctl) (a : Reg) (b : OpB) : Fields.Statement (.bsig c a b) := by
  rintro h pool hp s ⟨⟩
  refine (identify_a (encodable_a rfl h)).trans ?_
  cases b <;> rfl

theorem Fields.bwait (c : Ctl) (a b : Reg) : Fields.Statement (.bwait c a b) := by
  rintro h pool hp s ⟨⟩
  refine (identify_a (encodable_a rfl h)).trans ?_
  rfl

theorem Fields.fenceAr (c : Ctl) : Fields.Statement (.fenceAr c) := by
  rintro h pool hp s ⟨⟩
  refine (identify_a (encodable_a rfl h)).trans ?_
  rfl

theorem Fields.fenceAcq (c : Ctl) : Fields.Statement (.fenceAcq c) := by
  rintro h pool hp s ⟨⟩
  refine (identify_a (encodable_a rfl h)).trans ?_
  rfl

theorem Fields.fenceRel (c : Ctl) : Fields.Statement (.fenceRel c) := by
  rintro h pool hp s ⟨⟩
  refine (identify_a (encodable_a rfl h)).trans ?_
  rfl

theorem Fields.yield (c : Ctl) : Fields.Statement (.yield c) := by
  rintro h pool hp s ⟨⟩
  refine (identify_a (encodable_a rfl h)).trans ?_
  rfl

theorem Fields.tzero (c : Ctl) (d : Reg) : Fields.Statement (.tzero c d) := by
  rintro h pool hp s ⟨⟩
  refine (identify_a (encodable_a rfl h)).trans ?_
  rfl

theorem Fields.tld (c : Ctl) (d a : Reg) : Fields.Statement (.tld c d a) := by
  rintro h pool hp s ⟨⟩
  refine (identify_a (encodable_a rfl h)).trans ?_
  rfl

theorem Fields.tst (c : Ctl) (d a : Reg) : Fields.Statement (.tst c d a) := by
  rintro h pool hp s ⟨⟩
  refine (identify_a (encodable_a rfl h)).trans ?_
  rfl

theorem Fields.tstat (c : Ctl) (d a : Reg) : Fields.Statement (.tstat c d a) := by
  rintro h pool hp s ⟨⟩
  refine (identify_a (encodable_a rfl h)).trans ?_
  rfl

theorem Fields.trd (c : Ctl) (d a : Reg) : Fields.Statement (.trd c d a) := by
  rintro h pool hp s ⟨⟩
  refine (identify_a (encodable_a rfl h)).trans ?_
  rfl

theorem Fields.tcvt (c : Ctl) (d a : Reg) (s : BitVec 3) : Fields.Statement (.tcvt c d a s) := by
  rintro h pool hp s ⟨⟩
  refine (identify_a (encodable_a rfl h)).trans (Eq.trans (b := identifyTile ⟨c.k, 0x73, d, a, 1#4 ++ s, c.c, c.w, false⟩ c) rfl ?_)
  rcases bit3_cases s with ⟨rfl, e⟩ | ⟨rfl, e⟩ | ⟨rfl, e⟩ | ⟨rfl, e⟩ | ⟨rfl, e⟩ | ⟨rfl, e⟩ | ⟨rfl, e⟩ | ⟨rfl, e⟩ <;> (rw [e]; simp [identifyTile, need])

theorem Fields.qsend (c : Ctl) (d : Reg) : Fields.Statement (.qsend c d) := by
  rintro h pool hp s ⟨⟩
  obtain rfl : pool = false := by simpa [Instr.isQueue] using hp
  exact (identify_a (encodable_a rfl h)).trans rfl

theorem Fields.qrecv (c : Ctl) (d : Reg) : Fields.Statement (.qrecv c d) := by
  rintro h pool hp s ⟨⟩
  obtain rfl : pool = false := by simpa [Instr.isQueue] using hp
  exact (identify_a (encodable_a rfl h)).trans rfl

theorem Fields.qcred (c : Ctl) (d : Reg) : Fields.Statement (.qcred c d) := by
  rintro h pool hp s ⟨⟩
  obtain rfl : pool = false := by simpa [Instr.isQueue] using hp
  exact (identify_a (encodable_a rfl h)).trans rfl

theorem Fields.cprop (c : Ctl) (d a b : Reg) : Fields.Statement (.cprop c d a b) := by
  rintro h pool hp s ⟨⟩
  refine (identify_a (encodable_a rfl h)).trans ?_
  rfl

theorem Fields.cread (c : Ctl) (d a b : Reg) : Fields.Statement (.cread c d a b) := by
  rintro h pool hp s ⟨⟩
  refine (identify_a (encodable_a rfl h)).trans ?_
  rfl

theorem Fields.crecyc (c : Ctl) (d a b : Reg) : Fields.Statement (.crecyc c d a b) := by
  rintro h pool hp s ⟨⟩
  refine (identify_a (encodable_a rfl h)).trans ?_
  rfl

theorem Fields.lcpIn (c : Ctl) (d a b : Reg) : Fields.Statement (.lcpIn c d a b) := by
  rintro h pool hp s ⟨⟩
  refine (identify_a (encodable_a rfl h)).trans ?_
  rfl

theorem Fields.lcpOut (c : Ctl) (d a b : Reg) : Fields.Statement (.lcpOut c d a b) := by
  rintro h pool hp s ⟨⟩
  refine (identify_a (encodable_a rfl h)).trans ?_
  rfl

theorem Fields.lcpx (c : Ctl) (d a b : Reg) : Fields.Statement (.lcpx c d a b) := by
  rintro h pool hp s ⟨⟩
  refine (identify_a (encodable_a rfl h)).trans ?_
  rfl

theorem Fields.fquery (c : Ctl) (d a : Reg) : Fields.Statement (.fquery c d a) := by
  rintro h pool hp s ⟨⟩
  refine (identify_a (encodable_a rfl h)).trans ?_
  rfl

theorem Fields.xlprobe (c : Ctl) (d a : Reg) : Fields.Statement (.xlprobe c d a) := by
  rintro h pool hp s ⟨⟩
  refine (identify_a (encodable_a rfl h)).trans ?_
  rfl

theorem Fields.xlpurge (c : Ctl) (d a : Reg) : Fields.Statement (.xlpurge c d a) := by
  rintro h pool hp s ⟨⟩
  refine (identify_a (encodable_a rfl h)).trans ?_
  rfl

theorem Fields.fretype (c : Ctl) (d a : Reg) (t : BitVec 4) : Fields.Statement (.fretype c d a t) := by
  rintro h pool hp s ⟨⟩
  have ht : t.toNat ≤ 8 := by simpa [Instr.codeOk] using (Bool.and_eq_true_iff.mp h).2
  refine (identify_a (encodable_a rfl h)).trans (Eq.trans (b := identifyFrame ⟨c.k, 0x7b, d, a, 1#3 ++ t, c.c, c.w, false⟩ c) rfl ?_)
  rcases bit4_cases t ht with ⟨rfl, e⟩ | ⟨rfl, e⟩ | ⟨rfl, e⟩ | ⟨rfl, e⟩ | ⟨rfl, e⟩ | ⟨rfl, e⟩ | ⟨rfl, e⟩ | ⟨rfl, e⟩ | ⟨rfl, e⟩ <;> (rw [e]; simp [identifyFrame, need])

theorem Fields.declass (c : Ctl) (d a : Reg) (i : BitVec 8) : Fields.Statement (.declass c d a i) := by
  rintro h pool hp s ⟨⟩
  exact (identify_i (encodable_i rfl h)).trans rfl

theorem Fields.asyncCauseTaken (tid : Nat) : Fields.Statement (.asyncCauseTaken tid) := by rintro _ _ _ _ ⟨⟩

theorem Fields.bundleDraw (core : Nat) : Fields.Statement (.bundleDraw core) := by rintro _ _ _ _ ⟨⟩

theorem Fields.binAged (core : Nat) : Fields.Statement (.binAged core) := by rintro _ _ _ _ ⟨⟩

theorem Fields.displacement (bid : Nat) : Fields.Statement (.displacement bid) := by rintro _ _ _ _ ⟨⟩

theorem Fields.groupPark (gid : Nat) : Fields.Statement (.groupPark gid) := by rintro _ _ _ _ ⟨⟩

theorem Fields.groupReload (gid : Nat) : Fields.Statement (.groupReload gid) := by rintro _ _ _ _ ⟨⟩

theorem Fields.coreTableError (core : Nat) : Fields.Statement (.coreTableError core) := by rintro _ _ _ _ ⟨⟩

theorem Fields.matrixPost (gid n : Nat) : Fields.Statement (.matrixPost gid n) := by rintro _ _ _ _ ⟨⟩

theorem Fields.anvilGrant (quad : Nat) : Fields.Statement (.anvilGrant quad) := by rintro _ _ _ _ ⟨⟩

theorem Fields.passComplete (quad : Nat) : Fields.Statement (.passComplete quad) := by rintro _ _ _ _ ⟨⟩

theorem Fields.tilePortGrant (quad : Nat) : Fields.Statement (.tilePortGrant quad) := by rintro _ _ _ _ ⟨⟩

theorem Fields.tileOpComplete (quad : Nat) : Fields.Statement (.tileOpComplete quad) := by rintro _ _ _ _ ⟨⟩

theorem Fields.segmentStart (core : Nat) : Fields.Statement (.segmentStart core) := by rintro _ _ _ _ ⟨⟩

theorem Fields.walkComplete (cache : CacheId) (w : Nat) (va : DWord) (acc : Access) : Fields.Statement (.walkComplete cache w va acc) := by rintro _ _ _ _ ⟨⟩

theorem Fields.segmentLand (op seg : Nat) : Fields.Statement (.segmentLand op seg) := by rintro _ _ _ _ ⟨⟩

theorem Fields.segmentFail (op seg : Nat) (st : Status) : Fields.Statement (.segmentFail op seg st) := by rintro _ _ _ _ ⟨⟩

theorem Fields.tableWriteUnit (op seg : Nat) : Fields.Statement (.tableWriteUnit op seg) := by rintro _ _ _ _ ⟨⟩

theorem Fields.purgeAck (purge : Nat) (cache : CacheId) : Fields.Statement (.purgeAck purge cache) := by rintro _ _ _ _ ⟨⟩

theorem Fields.atomicAtHome (req : Nat) : Fields.Statement (.atomicAtHome req) := by rintro _ _ _ _ ⟨⟩

theorem Fields.hostAtomicCompletion (req : Nat) (code : BitVec 3) : Fields.Statement (.hostAtomicCompletion req code) := by rintro _ _ _ _ ⟨⟩

theorem Fields.hostAtomicopRequest (w : Nat) (va : DWord) (size : Nat) (op : BitVec 4) (x y : DWord) : Fields.Statement (.hostAtomicopRequest w va size op x y) := by rintro _ _ _ _ ⟨⟩

theorem Fields.hostWrite (w va : Nat) (bytes : List Byte) : Fields.Statement (.hostWrite w va bytes) := by rintro _ _ _ _ ⟨⟩

theorem Fields.pageRequestResponse (w : Nat) (inc : BitVec 5) (grp : Nat) (ok : Bool) : Fields.Statement (.pageRequestResponse w inc grp ok) := by rintro _ _ _ _ ⟨⟩

theorem Fields.hostLink (req : Nat) : Fields.Statement (.hostLink req) := by rintro _ _ _ _ ⟨⟩

theorem Fields.serviceCompletionDoorbell (w : Nat) (v : Word) : Fields.Statement (.serviceCompletionDoorbell w v) := by rintro _ _ _ _ ⟨⟩

theorem Fields.srtailWrite (w : Nat) (v : Word) : Fields.Statement (.srtailWrite w v) := by rintro _ _ _ _ ⟨⟩

theorem Fields.qtailWrite (w q : Nat) (v : Word) : Fields.Statement (.qtailWrite w q v) := by rintro _ _ _ _ ⟨⟩

theorem Fields.qctlWrite (w q : Nat) (v : Word) : Fields.Statement (.qctlWrite w q v) := by rintro _ _ _ _ ⟨⟩

theorem Fields.handlerWrite (w : Nat) (v : DWord) : Fields.Statement (.handlerWrite w v) := by rintro _ _ _ _ ⟨⟩

theorem Fields.wrootWrite (w : Nat) (v : Word) : Fields.Statement (.wrootWrite w v) := by rintro _ _ _ _ ⟨⟩

theorem Fields.wquadsWrite (w : Nat) (v : BitVec 256) : Fields.Statement (.wquadsWrite w v) := by rintro _ _ _ _ ⟨⟩

theorem Fields.wctxWrite (w : Nat) (cnt : Bool) (v : Word) : Fields.Statement (.wctxWrite w cnt v) := by rintro _ _ _ _ ⟨⟩

theorem Fields.registerWrite (fn : Nat) (off : Nat) (v : DWord) : Fields.Statement (.registerWrite fn off v) := by rintro _ _ _ _ ⟨⟩

theorem Fields.kill (w : Nat) : Fields.Statement (.kill w) := by rintro _ _ _ _ ⟨⟩

theorem Fields.preempt (w : Nat) : Fields.Statement (.preempt w) := by rintro _ _ _ _ ⟨⟩

theorem Fields.restore (w : Nat) : Fields.Statement (.restore w) := by rintro _ _ _ _ ⟨⟩

theorem Fields.rekey (w : Nat) : Fields.Statement (.rekey w) := by rintro _ _ _ _ ⟨⟩

theorem Fields.rekeyFrame (w : Nat) : Fields.Statement (.rekeyFrame w) := by rintro _ _ _ _ ⟨⟩

theorem Fields.threadHalt (tid : Nat) : Fields.Statement (.threadHalt tid) := by rintro _ _ _ _ ⟨⟩

theorem Fields.worldQuiesced (w : Nat) : Fields.Statement (.worldQuiesced w) := by rintro _ _ _ _ ⟨⟩

theorem Fields.replayTimeout (req : Nat) : Fields.Statement (.replayTimeout req) := by rintro _ _ _ _ ⟨⟩

theorem Fields.saveComplete (w : Nat) : Fields.Statement (.saveComplete w) := by rintro _ _ _ _ ⟨⟩

theorem Fields.restoreComplete (w : Nat) : Fields.Statement (.restoreComplete w) := by rintro _ _ _ _ ⟨⟩

theorem Fields.launch (w q : Nat) : Fields.Statement (.launch w q) := by rintro _ _ _ _ ⟨⟩

theorem Fields.waitcount (w q : Nat) : Fields.Statement (.waitcount w q) := by rintro _ _ _ _ ⟨⟩

theorem Fields.waitcountSatisfied (w q : Nat) : Fields.Statement (.waitcountSatisfied w q) := by rintro _ _ _ _ ⟨⟩

theorem Fields.signalcount (w q : Nat) : Fields.Statement (.signalcount w q) := by rintro _ _ _ _ ⟨⟩

theorem Fields.copy (w q : Nat) : Fields.Statement (.copy w q) := by rintro _ _ _ _ ⟨⟩

theorem Fields.mark (w q : Nat) : Fields.Statement (.mark w q) := by rintro _ _ _ _ ⟨⟩

theorem Fields.launchComplete (lid : Nat) : Fields.Statement (.launchComplete lid) := by rintro _ _ _ _ ⟨⟩

theorem Fields.schedulerArbitration  : Fields.Statement .schedulerArbitration := by rintro _ _ _ _ ⟨⟩

theorem Fields.clusterReserving (w q : Nat) : Fields.Statement (.clusterReserving w q) := by rintro _ _ _ _ ⟨⟩

theorem Fields.meterRead  : Fields.Statement .meterRead := by rintro _ _ _ _ ⟨⟩

theorem Fields.meterFinal  : Fields.Statement .meterFinal := by rintro _ _ _ _ ⟨⟩

theorem Fields.startStatus  : Fields.Statement .startStatus := by rintro _ _ _ _ ⟨⟩

theorem Fields.startRetry  : Fields.Statement .startRetry := by rintro _ _ _ _ ⟨⟩

theorem Fields.bboxRead  : Fields.Statement .bboxRead := by rintro _ _ _ _ ⟨⟩

theorem Fields.ctxFlip  : Fields.Statement .ctxFlip := by rintro _ _ _ _ ⟨⟩

theorem Fields.powerCap  : Fields.Statement .powerCap := by rintro _ _ _ _ ⟨⟩

theorem Fields.grantWrite  : Fields.Statement .grantWrite := by rintro _ _ _ _ ⟨⟩

theorem Fields.grantRead  : Fields.Statement .grantRead := by rintro _ _ _ _ ⟨⟩

theorem Fields.meteringInterval (m : Measure) : Fields.Statement (.meteringInterval m) := by rintro _ _ _ _ ⟨⟩

theorem Fields.meterCheckpoint  : Fields.Statement .meterCheckpoint := by rintro _ _ _ _ ⟨⟩

theorem Fields.throttle (watts junction : Nat) : Fields.Statement (.throttle watts junction) := by rintro _ _ _ _ ⟨⟩

theorem Fields.coldReset (reason : Nat) : Fields.Statement (.coldReset reason) := by rintro _ _ _ _ ⟨⟩

theorem Fields.warmReset (reason : Nat) : Fields.Statement (.warmReset reason) := by rintro _ _ _ _ ⟨⟩

theorem Fields.functionReset (w : Nat) : Fields.Statement (.functionReset w) := by rintro _ _ _ _ ⟨⟩

theorem Fields.fatalError (f : Fatal) : Fields.Statement (.fatalError f) := by rintro _ _ _ _ ⟨⟩

theorem Fields.networkPacketReceive (w port : Nat) (p : NetPacket) (tagOk : Bool) :
    Fields.Statement (.networkPacketReceive w port p tagOk) := by rintro _ _ _ _ ⟨⟩

theorem Fields.getVersion (w : Nat) : Fields.Statement (.getVersion w) := by rintro _ _ _ _ ⟨⟩

theorem Fields.getCapabilities (w : Nat) : Fields.Statement (.getCapabilities w) := by rintro _ _ _ _ ⟨⟩

theorem Fields.negotiateAlgorithms (w : Nat) : Fields.Statement (.negotiateAlgorithms w) := by rintro _ _ _ _ ⟨⟩

theorem Fields.getMeasurements (w : Nat) : Fields.Statement (.getMeasurements w) := by rintro _ _ _ _ ⟨⟩

theorem Fields.keyExchange (w : Nat) : Fields.Statement (.keyExchange w) := by rintro _ _ _ _ ⟨⟩

theorem Fields.finish (w : Nat) : Fields.Statement (.finish w) := by rintro _ _ _ _ ⟨⟩

theorem Fields.endSession (w : Nat) : Fields.Statement (.endSession w) := by rintro _ _ _ _ ⟨⟩

theorem Fields.vendorDefinedRequest (w : Nat) (kind : Nat) : Fields.Statement (.vendorDefinedRequest w kind) := by rintro _ _ _ _ ⟨⟩

theorem Fields.lockInterfaceRequest (w : Nat) (nonce : BitVec 256) : Fields.Statement (.lockInterfaceRequest w nonce) := by rintro _ _ _ _ ⟨⟩

theorem Fields.getDeviceInterfaceReport (w : Nat) : Fields.Statement (.getDeviceInterfaceReport w) := by rintro _ _ _ _ ⟨⟩

theorem Fields.startInterfaceRequest (w : Nat) : Fields.Statement (.startInterfaceRequest w) := by rintro _ _ _ _ ⟨⟩

theorem Fields.stopInterfaceRequest (w : Nat) : Fields.Statement (.stopInterfaceRequest w) := by rintro _ _ _ _ ⟨⟩

theorem Fields.ideIntegrityFailure (w : Nat) : Fields.Statement (.ideIntegrityFailure w) := by rintro _ _ _ _ ⟨⟩

theorem Fields.fnodeWrite (v : Word) : Fields.Statement (.fnodeWrite v) := by rintro _ _ _ _ ⟨⟩

theorem Fields.rtdataWrite (v : DWord) : Fields.Statement (.rtdataWrite v) := by rintro _ _ _ _ ⟨⟩

theorem Fields.routedataWrite (v : DWord) : Fields.Statement (.routedataWrite v) := by rintro _ _ _ _ ⟨⟩

theorem Fields.wfabWrite (w : Nat) (v : DWord) : Fields.Statement (.wfabWrite w v) := by rintro _ _ _ _ ⟨⟩

theorem Fields.brazePacketReceive (port : Nat) (p : Packet) (tagOk : Bool) : Fields.Statement (.brazePacketReceive port p tagOk) := by rintro _ _ _ _ ⟨⟩

theorem Fields.remoteAccess (n : Nat) : Fields.Statement (.remoteAccess n) := by rintro _ _ _ _ ⟨⟩

theorem Fields.reject (p : Packet) : Fields.Statement (.reject p) := by rintro _ _ _ _ ⟨⟩

theorem Fields.rankDown (node w : Nat) (inc : BitVec 5) : Fields.Statement (.rankDown node w inc) := by rintro _ _ _ _ ⟨⟩

theorem Fields.fabricPurge (node w : Nat) : Fields.Statement (.fabricPurge node w) := by rintro _ _ _ _ ⟨⟩

theorem Fields.cellOperation (req : Nat) : Fields.Statement (.cellOperation req) := by rintro _ _ _ _ ⟨⟩

theorem Fields.cellAnswer (req : Nat) : Fields.Statement (.cellAnswer req) := by rintro _ _ _ _ ⟨⟩

theorem Fields.routeTimeout (op seg : Nat) : Fields.Statement (.routeTimeout op seg) := by rintro _ _ _ _ ⟨⟩

theorem Fields.metadataHomeOperation (req : Nat) : Fields.Statement (.metadataHomeOperation req) := by rintro _ _ _ _ ⟨⟩

theorem Fields.powerLoss  : Fields.Statement .powerLoss := by rintro _ _ _ _ ⟨⟩

theorem Fields.brazePortLost (port : Nat) : Fields.Statement (.brazePortLost port) := by rintro _ _ _ _ ⟨⟩

theorem Fields.brazePortLive (port : Nat) : Fields.Statement (.brazePortLive port) := by rintro _ _ _ _ ⟨⟩

theorem Fields.portKeyRotation (port : Nat) : Fields.Statement (.portKeyRotation port) := by rintro _ _ _ _ ⟨⟩

theorem Fields.hostRead (w va len : Nat) : Fields.Statement (.hostRead w va len) := by rintro _ _ _ _ ⟨⟩

end Sys2Proof.Laws
end

