-- ==== Sys2Proof/Tests/Slice0.lean ====
section
/-! SUPPORT. The model's own tests: each expected result stands in the spec, or was worked out by hand from its tables; and for each
statement a state that meets its hypotheses. -/

set_option maxRecDepth 100000

namespace Sys2Proof.Tests

open Sys2Proof Sys2Proof.Machine Sys2Proof.Claims

def words0 : List (Nat × Instr) :=
  [(0x00082060, .addN32 ⟨false, false, false, none⟩ 4 8 (.reg 12)),
   (0x810C2868, .addI32 ⟨true, false, false, none⟩ 6 10 (.reg 13)),
   (0x02102074, .subN32 ⟨false, true, false, none⟩ 8 8 (.reg 14)),
   (0x8308287C, .subI32 ⟨true, true, false, none⟩ 4 10 (.reg 15)),
   (0x040C2082, .mulB32 ⟨false, false, true, none⟩ 6 8 (.reg 16)),
   (0x85102862, .mulwN32 ⟨true, false, true, none⟩ 8 10 (.reg 12)),
   (0x0608206E, .mulwI32 ⟨false, true, true, none⟩ 4 8 (.reg 13)),
   (0x870C2876, .macB32 ⟨true, true, true, none⟩ 6 10 (.reg 14)),
   (0x08102078, .minN32 ⟨false, false, false, none⟩ 8 8 (.reg 15)),
   (0x89082880, .minI32 ⟨true, false, false, none⟩ 4 10 (.reg 16)),
   (0x0A0C2064, .maxN32 ⟨false, true, false, none⟩ 6 8 (.reg 12)),
   (0x8B10286C, .maxI32 ⟨true, true, false, none⟩ 8 10 (.reg 13)),
   (0x0C082072, .andB32 ⟨false, false, true, none⟩ 4 8 (.reg 14)),
   (0x8D0C287A, .orB32 ⟨true, false, true, none⟩ 6 10 (.reg 15)),
   (0x0E102086, .xorB32 ⟨false, true, true, none⟩ 8 8 (.reg 16)),
   (0x8F082866, .shlB32 ⟨true, true, true, none⟩ 4 10 (.reg 12)),
   (0x100C2068, .shrN32 ⟨false, false, false, none⟩ 6 8 (.reg 13)),
   (0x91102870, .shrI32 ⟨true, false, false, none⟩ 8 10 (.reg 14)),
   (0x12082004, .notB32 ⟨false, true, false, none⟩ 4 8),
   (0x920C280C, .onesB32 ⟨true, true, false, none⟩ 6 10)]

theorem test_words0 : (words0.all fun e => decodeTableWord 32 e.1 == some e.2) = true := by decide

def words1 : List (Nat × Instr) :=
  [(0x12102012, .lzcB32 ⟨false, false, true, none⟩ 8 8),
   (0x9208281A, .tzcB32 ⟨true, false, true, none⟩ 4 10),
   (0x120C2026, .revB32 ⟨false, true, true, none⟩ 6 8),
   (0x9210282E, .absI32 ⟨true, true, true, none⟩ 8 10),
   (0x12082030, .negI32 ⟨false, false, false, none⟩ 4 8),
   (0x920C2838, .sxtB8 ⟨true, false, false, none⟩ 6 10),
   (0x12102044, .sxtB16 ⟨false, true, false, none⟩ 8 8),
   (0x9208284C, .zxtB8 ⟨true, true, false, none⟩ 4 10),
   (0x120C2052, .zxtB16 ⟨false, false, true, none⟩ 6 8),
   (0x93102882, .fgetN32 ⟨true, false, true, none⟩ 8 10 (.reg 16)),
   (0x14082066, .fgetI32 ⟨false, true, true, none⟩ 4 8 (.reg 12)),
   (0x950C286E, .fputB32 ⟨true, true, true, none⟩ 6 10 (.reg 13)),
   (0x16102070, .divN32 ⟨false, false, false, none⟩ 8 8 (.reg 14)),
   (0x97082878, .divI32 ⟨true, false, false, none⟩ 4 10 (.reg 15)),
   (0x180C2084, .remN32 ⟨false, true, false, none⟩ 6 8 (.reg 16)),
   (0x99102864, .remI32 ⟨true, true, false, none⟩ 8 10 (.reg 12)),
   (0x1A082015, .addN32Imm ⟨false, false, true, none⟩ 4 8 5),
   (0x9B0C2819, .andB32Imm ⟨true, false, true, none⟩ 6 10 6),
   (0x1C10201F, .orB32Imm ⟨false, true, true, none⟩ 8 8 7),
   (0x9D082817, .xorB32Imm ⟨true, true, true, none⟩ 4 10 5)]

theorem test_words1 : (words1.all fun e => decodeTableWord 32 e.1 == some e.2) = true := by decide

def words2 : List (Nat × Instr) :=
  [(0x1E0C2018, .shlB32Imm ⟨false, false, false, none⟩ 6 8 6),
   (0x9F10281C, .shrN32Imm ⟨true, false, false, none⟩ 8 10 7),
   (0x20082016, .shrI32Imm ⟨false, true, false, none⟩ 4 8 5),
   (0xA10C001A, .movB32Imm ⟨true, true, false, none⟩ 6 6),
   (0x22100082, .movB32 ⟨false, false, true, none⟩ 8 (.reg 16)),
   (0xA3082862, .selB32 ⟨true, false, true, none⟩ 4 10 (.reg 12)),
   (0x2446206C, .cmpN32Set1 ⟨false, true, false, none⟩ 1 3 8 (.reg 13)),
   (0xA5462874, .cmpN32Set2 ⟨true, true, false, none⟩ 1 3 10 (.reg 14)),
   (0x26462078, .cmpI32Set1 ⟨false, false, false, none⟩ 1 3 8 (.reg 15)),
   (0xA7462880, .cmpI32Set2 ⟨true, false, false, none⟩ 1 3 10 (.reg 16)),
   (0x28462064, .cmpF32Set1 ⟨false, true, false, none⟩ 1 3 8 (.reg 12)),
   (0xA946286C, .cmpF32Set2 ⟨true, true, false, none⟩ 1 3 10 (.reg 13)),
   (0x2A068548, .pand ⟨false, false, false, none⟩ 3 true 1 true 9),
   (0xAB068548, .por ⟨true, false, false, none⟩ 3 true 1 true 9),
   (0x2C06854C, .pxor ⟨false, true, false, none⟩ 3 true 1 true 9),
   (0xAD062804, .vtp ⟨true, true, false, none⟩ 3 10),
   (0x2D108408, .ptv ⟨false, false, false, none⟩ 8 true 1),
   (0xAE082870, .faddF32 ⟨true, false, false, none⟩ 4 10 (.reg 14)),
   (0x2F0C207C, .fsubF32 ⟨false, true, false, none⟩ 6 8 (.reg 15)),
   (0xB0102884, .fmulF32 ⟨true, true, false, none⟩ 8 10 (.reg 16))]

theorem test_words2 : (words2.all fun e => decodeTableWord 32 e.1 == some e.2) = true := by decide

def words3 : List (Nat × Instr) :=
  [(0x31082062, .ffmaF32 ⟨false, false, true, none⟩ 4 8 (.reg 12)),
   (0xB20C286A, .fminF32 ⟨true, false, true, none⟩ 6 10 (.reg 13)),
   (0x33102076, .fmaxF32 ⟨false, true, true, none⟩ 8 8 (.reg 14)),
   (0xB4082806, .fabsF32 ⟨true, true, true, none⟩ 4 10),
   (0x340C2008, .fnegF32 ⟨false, false, false, none⟩ 6 8),
   (0xB4102810, .frintF32 ⟨true, false, false, none⟩ 8 10),
   (0x3408201C, .fabsF16x2 ⟨false, true, false, none⟩ 4 8),
   (0xB40C2824, .fnegF16x2 ⟨true, true, false, none⟩ 6 10),
   (0x3410202A, .fabsBf16x2 ⟨false, false, true, none⟩ 8 8),
   (0xB4082832, .fnegBf16x2 ⟨true, false, true, none⟩ 4 10),
   (0x350C2066, .faddF16x2 ⟨false, true, true, none⟩ 6 8 (.reg 12)),
   (0xB610286E, .fmulF16x2 ⟨true, true, true, none⟩ 8 10 (.reg 13)),
   (0x37082070, .ffmaF16x2 ⟨false, false, false, none⟩ 4 8 (.reg 14)),
   (0xB80C2878, .faddBf16x2 ⟨true, false, false, none⟩ 6 10 (.reg 15)),
   (0x39102084, .fmulBf16x2 ⟨false, true, false, none⟩ 8 8 (.reg 16)),
   (0xBA082864, .ffmaBf16x2 ⟨true, true, false, none⟩ 4 10 (.reg 12)),
   (0x3B0C206A, .fdot2F32F16x2 ⟨false, false, true, none⟩ 6 8 (.reg 13)),
   (0xBC102872, .fdot2F32Bf16x2 ⟨true, false, true, none⟩ 8 10 (.reg 14)),
   (0x3D082006, .cvtF32I32 ⟨false, true, true, none⟩ 4 8),
   (0xBD0C280E, .cvtF32N32 ⟨true, true, true, none⟩ 6 10)]

theorem test_words3 : (words3.all fun e => decodeTableWord 32 e.1 == some e.2) = true := by decide

def words4 : List (Nat × Instr) :=
  [(0x3D102010, .cvtI32F32 ⟨false, false, false, none⟩ 8 8),
   (0xBD082818, .cvtN32F32 ⟨true, false, false, none⟩ 4 10),
   (0x3D0C2024, .cvtF32F16 ⟨false, true, false, none⟩ 6 8),
   (0xBD10282C, .cvtF32Bf16 ⟨true, true, false, none⟩ 8 10),
   (0x3D082032, .cvtF16F32 ⟨false, false, true, none⟩ 4 8),
   (0xBD0C283A, .cvtBf16F32 ⟨true, false, true, none⟩ 6 10),
   (0x3D102046, .cvtF32E4m3 ⟨false, true, true, none⟩ 8 8),
   (0xBD08284E, .cvtF32E5m2 ⟨true, true, true, none⟩ 4 10),
   (0x3D0C2050, .cvtF32E2m1 ⟨false, false, false, none⟩ 6 8),
   (0xBD102858, .cvtE4m3F32 ⟨true, false, false, none⟩ 8 10),
   (0x3D082064, .cvtE5m2F32 ⟨false, true, false, none⟩ 4 8),
   (0xBD0C286C, .cvtE2m1F32 ⟨true, true, false, none⟩ 6 10),
   (0x3D102072, .cvtF32Ue4m3 ⟨false, false, true, none⟩ 8 8),
   (0xBD08287A, .cvtI32Rns24 ⟨true, false, true, none⟩ 4 10),
   (0x3D0C2086, .cvtN32Rns24 ⟨false, true, true, none⟩ 6 8),
   (0xBD10288E, .cvtRns24I32 ⟨true, true, true, none⟩ 8 10),
   (0x3D082090, .cvtRns24N32 ⟨false, false, false, none⟩ 4 8),
   (0xBE0C2800, .rcpF32 ⟨true, false, false, none⟩ 6 10),
   (0x3E10200C, .rsqrtF32 ⟨false, true, false, none⟩ 8 8),
   (0xBE082814, .sqrtF32 ⟨true, true, false, none⟩ 4 10)]

theorem test_words4 : (words4.all fun e => decodeTableWord 32 e.1 == some e.2) = true := by decide

def words5 : List (Nat × Instr) :=
  [(0x3E0C201A, .exp2F32 ⟨false, false, true, none⟩ 6 8),
   (0xBE102822, .log2F32 ⟨true, false, true, none⟩ 8 10),
   (0x3E08202E, .sinF32 ⟨false, true, true, none⟩ 4 8),
   (0xBE0C2836, .cosF32 ⟨true, true, true, none⟩ 6 10),
   (0x3E102038, .tanhF32 ⟨false, false, false, none⟩ 8 8),
   (0x3F082800, .gnextB32 ⟨false, false, false, none⟩ 4 10),
   (0x400C2004, .gseed ⟨false, true, false, none⟩ 6 8),
   (0xC1102BEE, .ldN8 ⟨true, true, false, none⟩ 8 10 0xFB),
   (0x420823E1, .ldI8 ⟨false, false, true, none⟩ 4 8 0xF8),
   (0xC30C2BE5, .ldN16 ⟨true, false, true, none⟩ 6 10 0xF9),
   (0x441023EB, .ldI16 ⟨false, true, true, none⟩ 8 8 0xFA),
   (0xC5082BEF, .ldB32 ⟨true, true, true, none⟩ 4 10 0xFB),
   (0x460C23E0, .ldB64 ⟨false, false, false, none⟩ 6 8 0xF8),
   (0xC7102BE4, .stB8 ⟨true, false, false, none⟩ 8 10 0xF9),
   (0x480823EA, .stB16 ⟨false, true, false, none⟩ 4 8 0xFA),
   (0xC90C2BEE, .stB32 ⟨true, true, false, none⟩ 6 10 0xFB),
   (0x4A1023E0, .stB64 ⟨false, false, false, none⟩ 8 8 0xF8),
   (0xCB082A61, .natom ⟨true, false, true, none⟩ 4 10 2 6),
   (0x4C0C2263, .atom ⟨false, true, true, none⟩ 6 8 2 6),
   (0x4D00281E, .push ⟨false, true, false, none⟩ 10 7)]

theorem test_words5 : (words5.all fun e => decodeTableWord 32 e.1 == some e.2) = true := by decide

def words6 : List (Nat × Instr) :=
  [(0x4E080014, .pop ⟨false, false, false, none⟩ 4 5),
   (0xCF0C0018, .mfs ⟨true, false, false, none⟩ 6 6),
   (0x5000201E, .mts ⟨false, true, false, none⟩ 8 7),
   (0x51080004, .ckz ⟨false, true, false, none⟩ 4),
   (0x520C2000, .ckaMod ⟨false, false, false, none⟩ 6 8),
   (0x53102800, .ckaF ⟨false, false, false, none⟩ 8 10),
   (0x54082004, .ckvMod ⟨false, true, false, none⟩ 4 8),
   (0x550C2874, .ckvF ⟨false, true, false, none⟩ 6 10 14),
   (0x5610201C, .svc ⟨false, false, false, none⟩ 8 8 7),
   (0x57000014, .trap ⟨false, false, false, none⟩ 5),
   (0x58000004, .rte ⟨false, true, false, none⟩),
   (0x59000004, .exit ⟨false, true, false, none⟩),
   (0x5A3FFFF4, .bra ⟨false, false, false, none⟩ 7 true 0x3FFF4),
   (0xDB03FFF5, .braAlways ⟨true, false, false, none⟩ 0x3FFF5),
   (0x5C3FFFF6, .call ⟨false, false, false, none⟩ 7 true 0x3FFF6),
   (0x5D03FFF7, .callAlways ⟨false, false, false, none⟩ 0x3FFF7),
   (0x5E000000, .ret ⟨false, false, false, none⟩),
   (0xDF002800, .brx ⟨true, false, false, none⟩ 10),
   (0x60610F6B, .mma ⟨false, false, false, none⟩ 6 8 15 1 5 1 true),
   (0x6261506B, .mmaSc ⟨false, false, false, none⟩ 6 10 16 1 5 1 true)]

theorem test_words6 : (words6.all fun e => decodeTableWord 32 e.1 == some e.2) = true := by decide

def words7 : List (Nat × Instr) :=
  [(0x64610C6B, .mmaSet ⟨false, false, false, none⟩ 6 8 12 1 5 1 true),
   (0x68000000, .reform ⟨false, false, false, none⟩),
   (0x69002004, .waitm ⟨false, true, false, none⟩ 8),
   (0x6900280C, .leave ⟨false, true, false, none⟩ 10),
   (0x69002010, .join ⟨false, false, false, none⟩ 8),
   (0x6A002818, .pseg ⟨false, false, false, none⟩ 10 6),
   (0x6B102004, .cvset ⟨false, true, false, none⟩ 8 8),
   (0x6C068414, .agreeEvery ⟨false, true, false, none⟩ 3 true 1 2),
   (0x6C068490, .agreeSome ⟨false, false, false, none⟩ 3 true 1 2),
   (0x6C108512, .agreeMask ⟨false, false, true, none⟩ 8 true 1 2),
   (0x6C062194, .agreeSame ⟨false, true, false, none⟩ 3 8 2),
   (0x6D0C2996, .xlane ⟨false, true, true, none⟩ 6 10 3 2),
   (0x6E102190, .sred ⟨false, false, false, none⟩ 8 8 3 2),
   (0x6F082990, .sscan ⟨false, false, false, none⟩ 4 10 3 2),
   (0x70002084, .bsig ⟨false, true, false, none⟩ 8 (.reg 16)),
   (0xF1002864, .bwait ⟨true, true, false, none⟩ 10 12),
   (0x72000000, .fenceAr ⟨false, false, false, none⟩),
   (0x72000008, .fenceAcq ⟨false, false, false, none⟩),
   (0x72000014, .fenceRel ⟨false, true, false, none⟩),
   (0x7200001C, .yield ⟨false, true, false, none⟩)]

theorem test_words7 : (words7.all fun e => decodeTableWord 32 e.1 == some e.2) = true := by decide

def words8 : List (Nat × Instr) :=
  [(0x730C0000, .tzero ⟨false, false, false, none⟩ 6),
   (0xF3102808, .tld ⟨true, false, false, none⟩ 8 10),
   (0x73082014, .tst ⟨false, true, false, none⟩ 4 8),
   (0xF30C281C, .tstat ⟨true, true, false, none⟩ 6 10),
   (0x73102022, .trd ⟨false, false, true, none⟩ 8 8),
   (0xF3082868, .tcvt ⟨true, false, false, none⟩ 4 10 5),
   (0x740C0006, .qsend ⟨false, true, true, none⟩ 6),
   (0xF410000E, .qrecv ⟨true, true, true, none⟩ 8),
   (0x74080010, .qcred ⟨false, false, false, none⟩ 4),
   (0xF50C2880, .cprop ⟨true, false, false, none⟩ 6 10 16),
   (0x76102064, .cread ⟨false, true, false, none⟩ 8 8 12),
   (0xF708286C, .crecyc ⟨true, true, false, none⟩ 4 10 13),
   (0x780C2070, .lcpIn ⟨false, false, false, none⟩ 6 8 14),
   (0xF9102878, .lcpOut ⟨true, false, false, none⟩ 8 10 15),
   (0x7A082084, .lcpx ⟨false, true, false, none⟩ 4 8 16),
   (0xFB0C2806, .fquery ⟨true, true, true, none⟩ 6 10),
   (0x7B102008, .xlprobe ⟨false, false, false, none⟩ 8 8),
   (0xFB082810, .xlpurge ⟨true, false, false, none⟩ 4 10),
   (0x7B0C20B4, .fretype ⟨false, true, false, none⟩ 6 8 6),
   (0x7C10281E, .declass ⟨false, true, false, none⟩ 8 10 7)]

theorem test_words8 : (words8.all fun e => decodeTableWord 32 e.1 == some e.2) = true := by decide

/-! ## Fixtures -/

/-- The state with one thread about to execute a unit, changed by `f` in its thread and by `g` as a whole. -/
def unit0 : Issue := ⟨0, 0, [0], 0, 4, 0, 0, 0, 0, false⟩
def placed : State := State.reset.withFetchWord 32 0
def at0 (f : Thread → Thread) (g : State → State) : State :=
  g { placed with threads := [(0, f (placed.thread 0))], cur := some unit0 }

/-- A world with a handler at 64. -/
def handled (s : State) : State := { s with worlds := [(0, { noWorld with handler := 64 })] }

/-- A V register set. -/
def v (r : Nat) (x : Word) (t : Thread) : Thread := t.setReg r (untagged x)

/-- The first line of the team's Bench present. -/
def present (s : State) : State := { s with lines := [(16 * 2 ^ 57, ⟨true, Tag.zero⟩)] }

/-- What `Alone` asks, as a test. -/
def aloneCheck (s : State) (u : Issue) (i : Instr) (tid : Nat) : Bool :=
  decide (s.cur = some u) && decide (u.tids = [tid]) && !s.isKilled tid && decide ((s.thread tid).place = .inBundle u.bundle) &&
    (s.thread tid).guardClean i && decide ((s.thread tid).request = none) && passes s u i tid &&
    match s.bundles.find? u.bundle with
    | some x => decide (x.tids = [tid]) && decide (x.finished = [])
    | none => false

theorem alone_of {s : State} {u : Issue} {i : Instr} {tid : Nat} (h : aloneCheck s u i tid = true) : Alone s u i tid := by
  unfold aloneCheck at h
  simp only [Bool.and_eq_true, decide_eq_true_eq, Bool.not_eq_true'] at h
  obtain ⟨⟨⟨⟨⟨⟨⟨h1, h2⟩, h3⟩, h4⟩, h5⟩, h6⟩, h7⟩, h8⟩ := h
  split at h8
  · rename_i x hx
    simp only [Bool.and_eq_true, decide_eq_true_eq] at h8
    refine ⟨⟨h1, ⟨x, hx, by rw [h2, h8.1], h8.2⟩, by rw [h2]; simp, by rw [h2]; simp, ?_, ?_, ?_, ?_⟩, h2, h7⟩ <;>
      (rw [h2]; intro k hk; rw [List.mem_singleton.mp hk]; assumption)
  · simp at h8

/-- A bundle of one thread, with what a unit's statement over a bundle asks of each of its threads. -/
theorem each_of {P : Nat → Prop} (h : P 0) : ∀ tid ∈ unit0.tids, P tid := by
  intro tid ht
  rw [List.mem_singleton.mp ht]
  exact h

theorem acts_of {s : State} {i : Instr} {P : Nat → Prop} (h : P 0) : ∀ tid, Acts s unit0 i tid → P tid := by
  intro tid ht
  rw [List.mem_singleton.mp ht.1]
  exact h

/-! ## Witnesses: states that meet the hypotheses of the statements about words -/

theorem witness_TwoSourceIntegers : ∃ s u i e, Claims.twoSource i = some e ∧ Issues s u i :=
  ⟨at0 id id, unit0, .addN32 bare 1 2 (.reg 3), _, rfl, (alone_of (tid := 0) (by decide)).issues⟩

theorem witness_UnaryFieldDivideMove : ∃ s u i e, Claims.unaryFieldDivideMove i = some e ∧ Issues s u i :=
  ⟨at0 id id, unit0, .divI32 bare 1 2 (.reg 3), _, rfl, (alone_of (tid := 0) (by decide)).issues⟩

theorem witness_ComparesAndPredicates : ∃ s u i e, Claims.comparesPredicates i = some e ∧ Issues s u i :=
  ⟨at0 id id, unit0, .cmpN32Set1 bare 2 1 4 (.reg 9), _, rfl, (alone_of (tid := 0) (by decide)).issues⟩

theorem witness_FloatArithmetic : ∃ s u i e, Claims.floats i = some e ∧ Issues s u i :=
  ⟨at0 id id, unit0, .fdot2F32Bf16x2 bare 10 4 (.reg 6), _, rfl, (alone_of (tid := 0) (by decide)).issues⟩

theorem witness_ConversionsAndSpecialFunctions : ∃ s u i e, Claims.conversions i = some e ∧ Issues s u i :=
  ⟨at0 id id, unit0, .rcpF32 bare 1 2, _, rfl, (alone_of (tid := 0) (by decide)).issues⟩

theorem witness_GeneratorAndChecksums : ∃ s u i e, Claims.generatorChecksum i = some e ∧ Issues s u i :=
  ⟨at0 id id, unit0, .ckaMod bare 0 50, _, rfl, (alone_of (tid := 0) (by decide)).issues⟩

theorem witness_ReadingsOfTheMachine :
    (∃ s u i f, Claims.readings i = some f ∧ Issues s u i ∧
      ∀ tid, Acts s u i tid → (f s u tid (guardTag s u i tid)).isSome) ∧
    ∃ s u i f, Claims.notTaken i = some f ∧ Issues s u i ∧
      ∀ tid, Acts s u i tid → (f s u tid (guardTag s u i tid)).isSome :=
  ⟨⟨at0 id id, unit0, .mfs bare 24 13, _, rfl, (alone_of (tid := 0) (by decide)).issues, acts_of (by decide)⟩,
   ⟨at0 id id, unit0, .bra bare 2 false 3, _, rfl, (alone_of (tid := 0) (by decide)).issues, acts_of (by decide)⟩⟩

theorem witness_NearLoads : ∃ s u i x, Claims.loadShape i = some x ∧ Issues s u i ∧ u.late = false ∧
    ∀ tid, Acts s u i tid → ∃ key, x.ok s tid key :=
  ⟨at0 id present, unit0, .ldB32 bare 1 2 0, _, rfl, (alone_of (tid := 0) (by decide)).issues, rfl,
    acts_of ⟨16 * 2 ^ 64, ⟨by decide, by decide, by decide, by decide⟩, by decide⟩⟩

/-- At the last word of the Bench. -/
theorem witness_NearStores : ∃ s u i x, Claims.storeShape i = some x ∧ Issues s u i ∧ u.late = false ∧
    ∀ tid, Acts s u i tid → ∃ key, NearOk s tid (x.reg s tid) (nearAddr (x.reg s tid).val x.off x.size) x.size false key :=
  ⟨at0 (v 2 65532) id, unit0, .stB32 bare 1 2 0, _, rfl, (alone_of (tid := 0) (by decide)).issues, rfl,
    acts_of ⟨16 * 2 ^ 64 + 65532, ⟨by decide, by decide, by decide, by decide⟩⟩⟩

/-- The same unit, its access out of its place. -/
def late0 : Issue := { unit0 with late := true }
def atLate (g : State → State) : State := at0 id fun s => g { s with cur := some late0 }

/-- A load with nothing read ahead, and one of two bytes of what has been; a store, and one that becomes visible before another thread's
earlier one. -/
theorem witness_LateAccesses :
    (∀ l ∈ [[], [⟨0, 16 * 2 ^ 64, [1, 2, 3, 4], Tag.zero⟩]], ∃ s x key, Claims.loadShape (.ldN16 bare 1 2 1) = some x ∧
      Alone s late0 (.ldN16 bare 1 2 1) 0 ∧ late0.late = true ∧ NearOk s 0 (x.reg s 0) (x.ea s 0) x.size true key ∧ s.early = l ∧
      (drainLate { s with cur := none } fun e => (neededLate 0 key x.size s.late).contains e).early = l ∧
      ((drainLate { s with cur := none } fun e => (neededLate 0 key x.size s.late).contains e).line (key / 128)).present = true ∧
      ∀ e ∈ l, e.holds 0 key x.size = true) ∧
    (∃ s x key, Claims.storeShape (.stB32 bare 1 2 0) = some x ∧ Alone s late0 (.stB32 bare 1 2 0) 0 ∧
      NearOk s 0 (x.reg s 0) (nearAddr (x.reg s 0).val x.off x.size) x.size false key) ∧
    ∃ (s : State) (a b : LateStore), s.late = [a] ++ b :: [] ∧ a.tid ≠ b.tid := by
  refine ⟨?_, ⟨atLate id, _, 16 * 2 ^ 64, rfl, alone_of (by decide), by decide, by decide, by decide, by decide⟩,
    { State.reset with late := [⟨1, 16 * 2 ^ 64, [1], Tag.zero, false⟩, ⟨0, 16 * 2 ^ 64, [2], Tag.zero, false⟩] }, _, _, rfl, by decide⟩
  intro l hl
  simp only [List.mem_cons, List.not_mem_nil, or_false] at hl
  rcases hl with rfl | rfl <;>
    exact ⟨atLate fun s => present { s with early := _ }, _, 16 * 2 ^ 64 + 2, rfl, alone_of (by decide), rfl,
      ⟨by decide, by decide, by decide, by decide⟩, rfl, by decide, by decide, by decide⟩

/-- A word one byte before the Bench's end, one after it, and one in a range that a copy writes. -/
theorem witness_NearFaults :
    (∃ s x, Claims.nearShape (.stB32 bare 1 2 0) = some x ∧ Alone s unit0 (.stB32 bare 1 2 0) 0 ∧ CanTrap s 0 ∧
      (x.ea ((s.thread 0).reg x.base).val).toNat % x.size ≠ 0) ∧
    (∃ s x, Claims.nearShape (.ldB32 bare 1 2 0) = some x ∧ Alone s unit0 (.ldB32 bare 1 2 0) 0 ∧ CanTrap s 0 ∧
      nearKey s 0 (x.ea ((s.thread 0).reg x.base).val).toNat x.size = none) ∧
    ∃ s x key, Claims.nearShape (.bwait bare 2 4) = some x ∧ Alone s unit0 (.bwait bare 2 4) 0 ∧ CanTrap s 0 ∧
      nearKey s 0 (x.ea ((s.thread 0).reg x.base).val).toNat x.size = some key ∧ locked s key x.size x.load = true :=
  ⟨⟨at0 (v 2 65535) handled, _, rfl, alone_of (by decide), ⟨by decide, by decide, by decide⟩, by decide⟩,
   ⟨at0 (v 2 65536) handled, _, rfl, alone_of (by decide), ⟨by decide, by decide, by decide⟩, by decide⟩,
   ⟨at0 id fun s => handled { s with ranges := [⟨0, true, 16 * 2 ^ 64, 16 * 2 ^ 64 + 8, 0, true⟩] }, _, 16 * 2 ^ 64, rfl,
     alone_of (by decide), ⟨by decide, by decide, by decide⟩, by decide, by decide⟩⟩

theorem witness_PoisonKills : ∃ s i a, Claims.usedReg i = some a ∧ Alone s unit0 i 0 ∧ ((s.thread 0).reg a).tag.poison = true ∧
    (s.threadTeam 0).ended = false :=
  ⟨at0 (fun t => t.setReg 2 ⟨5, ⟨1, true⟩⟩) id, .brx bare 2, 2, rfl, alone_of (by decide), by decide, by decide⟩

theorem witness_StackAndFlags :
    (∃ s i, Issues s unit0 i ∧ i = .push bare 4 3 ∧ ∀ tid ∈ unit0.tids, Claims.ownReady i s tid) ∧
    (∃ s i, Issues s unit0 i ∧ i = .pop bare 4 8 ∧ ∀ tid ∈ unit0.tids, Claims.ownReady i s tid) ∧
    ∃ s i, Issues s unit0 i ∧ i = .mts bare 4 12 ∧ ∀ tid ∈ unit0.tids, Claims.ownReady i s tid :=
  ⟨⟨at0 id id, _, (alone_of (tid := 0) (by decide)).issues, rfl, each_of (by unfold Claims.ownReady; decide)⟩,
   ⟨at0 (fun t => { t with sp := 8 }) id, _, (alone_of (tid := 0) (by decide)).issues, rfl,
     each_of (by unfold Claims.ownReady; decide)⟩,
   ⟨at0 id id, _, (alone_of (tid := 0) (by decide)).issues, rfl, each_of rfl⟩⟩

/-- `trap`, `rte` outside a handler, an underflow, and a division of the accumulator check. -/
theorem witness_OwnTraps : ∀ i ∈ [Instr.trap bare 7, .rte bare, .pop bare 4 1, .svc bare 4 6 128, .ret bare, .declass bare 5 6 0],
    ∃ s c val next, Alone s unit0 i 0 ∧ CanTrap s 0 ∧ Claims.ownTrap i s unit0 0 = some (c, val, next) := by
  intro i hi
  simp only [List.mem_cons, List.not_mem_nil, or_false] at hi
  rcases hi with rfl | rfl | rfl | rfl | rfl | rfl <;>
    exact ⟨at0 id handled, _, _, _, alone_of (by decide), ⟨by decide, by decide, by decide⟩, rfl⟩

theorem witness_BranchesTaken : ∃ s i pc, Issues s unit0 i ∧ ∀ tid ∈ unit0.tids, passes s unit0 i tid = true ∧
    ∃ x, Claims.jumpOf i s unit0 (sourceOf unit0 i tid) = some (pc, x) :=
  ⟨at0 id id, .callAlways bare 0x3FFF0, _, (alone_of (tid := 0) (by decide)).issues, each_of ⟨by decide, _, rfl⟩⟩

theorem witness_ThreadsFiledAgain : ∀ i ∈ [Instr.reform bare, .yield bare, .rte bare],
    ∃ s x, Alone s unit0 i 0 ∧ (s.threadGroup 0).offCore = false ∧ Claims.filedAs i s unit0 0 = some x := by
  intro i hi
  simp only [List.mem_cons, List.not_mem_nil, or_false] at hi
  rcases hi with rfl | rfl | rfl <;> exact ⟨at0 (fun t => { t with hnd := true }) id, _, alone_of (by decide), by decide, rfl⟩

/-- World 0 with a handler and a root whose one leaf maps the address space onto the first frames, for every access: frame 1 CODE, frame 2 the
root, frame 3 a RING, frame 4 data, frame 5 CONTEXT, frame 6 a second-level table. -/
def mapped (s : State) : State :=
  { s with
    worlds := [(0, { noWorld with handler := 64, hasRoot := true, root := 2, srbase := 0x30000, flbase := 0x30000 })]
    frames := [(1, { noFrame with type := 2 }), (2, { noFrame with type := 3, valid := 1 }), (3, { noFrame with type := 8 }),
      (4, { noFrame with type := 1 }), (5, { noFrame with type := 6 }), (6, { noFrame with type := 4 })]
    quads := []
    mem := [(0x20000, 0xFF), (0x20001, 0x03)] }

/-- Its leaf as a walk finds it. -/
def leaf0 : Xlat := ⟨0, 3, 0, 0x3FF, [2]⟩

/-- A `cas` on the last word of the Bench, a signal that comes to the maximum, and a wait with no entry free. -/
theorem witness_NearAtomicsSignalsAndWaits :
    (∃ s key, Alone s unit0 (.natom bare 4 2 0 9) 0 ∧ NearOk s 0 ((s.thread 0).reg 2) ((s.thread 0).reg 2).val 4 false key) ∧
    (∃ s key, Alone s unit0 (.bsig bare 2 (.lit 1)) 0 ∧ NearOk s 0 ((s.thread 0).reg 2) ((s.thread 0).reg 2).val 8 false key ∧
      min (found s key 8 + 1) (2 ^ 64 - 1) ≠ 2 ^ 64 - 1) ∧
    (∃ s key, Alone s unit0 (.bsig bare 2 (.lit 1)) 0 ∧ NearOk s 0 ((s.thread 0).reg 2) ((s.thread 0).reg 2).val 8 false key ∧
      CanTrap s 0 ∧ min (found s key 8 + 1) (2 ^ 64 - 1) = 2 ^ 64 - 1) ∧
    ∃ s key, Alone s unit0 (.bwait bare 2 4) 0 ∧ NearOk s 0 ((s.thread 0).reg 2) ((s.thread 0).reg 2).val 8 true key ∧
      found s key 8 < 1 ∧ ((s.thread 0).reg 4).val = 1 ∧ (waiterKeys s 0).length < 64 ∧ (s.threadGroup 0).offCore = false :=
  ⟨⟨at0 (v 2 65532) id, 16 * 2 ^ 64 + 65532, alone_of (by decide), by decide, by decide, by decide, by decide⟩,
   ⟨at0 id id, 16 * 2 ^ 64, alone_of (by decide), ⟨by decide, by decide, by decide, by decide⟩, by decide⟩,
   ⟨at0 id fun s => handled (present { s with mem := Memory.writeBytes [] (16 * 2 ^ 64) (List.replicate 8 255) }), 16 * 2 ^ 64,
     alone_of (by decide), ⟨by decide, by decide, by decide, by decide⟩, ⟨by decide, by decide, by decide⟩, by decide⟩,
   ⟨at0 (v 4 1) id, 16 * 2 ^ 64, alone_of (by decide), ⟨by decide, by decide, by decide, by decide⟩, by decide, by decide, by decide,
     by decide⟩⟩

/-- A second thread, filed, of the same group; mask M0 has both. -/
def two0 (s : State) : State :=
  { s with
    threads := s.threads ++ [(1, { noThread with place := .filed })]
    groups := [(0, { noGroup with masks := [(0, 3)] })] }

theorem inOrder_of {s : State} {gid m : Nat} (h : (s.group gid).entry = none) : InOrder s gid m := by
  intro k hk
  rw [h] at hk
  cases hk

/-- An event at M5 has reached the group entry in this cc. -/
def after5 (s : State) : State := { s with groups := s.groups.map fun g => (g.1, { g.2 with entry := some (s.time, 5) }) }

theorem witness_RendezvousWaitsAndReleases :
    (∃ s k, Alone s unit0 (.agreeEvery bare 1 false 2 0) 0 ∧ InOrder s 0 0 ∧
      (((entered s 0 0).threadGroup 0).mask 0).getLsbD 0 = true ∧ k ∈ liveMembers (entered s 0 0) 0 0 ∧ k ≠ 0 ∧
      ∀ r ∈ ((entered s 0 0).threadGroup 0).arrivals 0, r.slot ≠ k) ∧
    (∃ s, Alone s unit0 (.waitm bare 0) 0 ∧ ¬ InOrder s 0 0 ∧ ((s.threadGroup 0).mask 0).getLsbD 0 = true) ∧
    ∃ s, Alone s unit0 (.waitm bare 0) 0 ∧ InOrder s 0 0 ∧ ((s.threadGroup 0).mask 0).getLsbD 0 = true ∧
      (∀ r ∈ (s.threadGroup 0).arrivals 0, r.slot < 32 ∧ r.slot ≠ 0 ∧ onlyWaits r.instr = true) ∧
      ((s.threadGroup 0).arrivals 0).Pairwise (fun r r' => r.slot ≠ r'.slot) ∧
      (∀ k ∈ liveMembers s 0 0, k ∈ together s 0 0) ∧ unit0.bundle < s.nextId :=
  ⟨⟨at0 id two0, 1, alone_of (by decide), inOrder_of (by decide), by decide, by decide, by decide, by decide⟩,
   ⟨at0 id fun s => after5 (two0 s), alone_of (by decide), fun h => absurd (h 5 (by decide)) (by decide), by decide⟩,
   ⟨at0 id fun s => { s with groups := [(0, { noGroup with masks := [(0, 1)] })] }, alone_of (by decide), inOrder_of (by decide),
     by decide, by decide, by decide, by decide, by decide⟩⟩

/-- Slot 1 has arrived at a reduction; slot 0 is the last. -/
def joined (i : Instr) (s : State) : State :=
  { s with
    threads := s.threads ++ [(1, { noThread with place := .waiting (.mask 0) })]
    groups := [(0, { noGroup with masks := [(0, 3)], arrived := [(0, [⟨1, 0, 0, 4, 0, 0, i⟩])] })] }

theorem witness_RendezvousCompletes : ∃ s, Alone s unit0 (.sred bare 4 5 0 0) 0 ∧ InOrder s 0 0 ∧
    ((s.threadGroup 0).mask 0).getLsbD 0 = true ∧ (s.threadGroup 0).arrivals 0 ≠ [] ∧
    (∀ r ∈ (s.threadGroup 0).arrivals 0, r.slot < 32 ∧ r.slot ≠ 0 ∧ r.addr = unit0.addr ∧ r.word = unit0.word ∧ r.next = unit0.next ∧
      r.instr = .sred bare 4 5 0 0) ∧
    (∀ k ∈ liveMembers s 0 0, k ∈ together s 0 0) ∧ unit0.bundle < s.nextId ∧ (s.threadGroup 0).seg ≤ 4 :=
  ⟨at0 id (joined (.sred bare 4 5 0 0)), alone_of (by decide), inOrder_of (by decide), by decide, by decide, by decide, by decide, by decide, by decide⟩

/-- A convergence register C1 for slots 0 and 1, with what has been signed. -/
def conv (signed : Word) (op : Option Instr) (latch : Option Nat) (va : Reg) (s : State) : State :=
  handled { s with groups := [(0, { noGroup with masks := [(0, 0)], conv := [(1, ⟨3, signed, op, latch, va, true, none, []⟩)] })] }

def mma0 : Instr := .mma bare 4 32 8 0 2 1 false

theorem witness_RendezvousAndMatrixTraps :
    (∃ s, Alone s unit0 (.sred bare 4 5 0 0) 0 ∧ CanTrap s 0 ∧ ((s.threadGroup 0).mask 0).getLsbD 0 = false) ∧
    (∃ s, Alone s unit0 mma0 0 ∧ CanTrap s 0 ∧ ((s.threadGroup 0).convReg 1).declared.getLsbD 0 = false) ∧
    (∃ s, Alone s unit0 mma0 0 ∧ CanTrap s 0 ∧ ((s.threadGroup 0).convReg 1).declared.getLsbD 0 = true ∧
      ((s.threadGroup 0).convReg 1).signed = 2 ∧ ((s.threadGroup 0).convReg 1).op ≠ some (withoutVa mma0)) ∧
    ∃ s, Alone s unit0 mma0 0 ∧ CanTrap s 0 ∧ ((s.threadGroup 0).convReg 1).declared.getLsbD 0 = true ∧
      ((s.threadGroup 0).convReg 1).signed = 0 ∧ ((s.threadGroup 0).convReg 1).latch.isSome = true ∧
      ((s.threadGroup 0).convReg 1).latchVa ≠ 32 :=
  ⟨⟨at0 id (conv 0 none none 0), alone_of (by decide), ⟨by decide, by decide, by decide⟩, by decide⟩,
   ⟨at0 id handled, alone_of (by decide), ⟨by decide, by decide, by decide⟩, by decide⟩,
   ⟨at0 id (conv 2 (some (.reform bare)) none 0), alone_of (by decide), ⟨by decide, by decide, by decide⟩, by decide, by decide,
     by decide⟩,
   ⟨at0 id (conv 0 none (some 3) 40), alone_of (by decide), ⟨by decide, by decide, by decide⟩, by decide, by decide, by decide,
     by decide⟩⟩

theorem witness_LeaveAndExit :
    (∃ s, Alone s unit0 (.leave bare 0) 0 ∧ ((s.threadGroup 0).mask 0).getLsbD 0 = false) ∧
    (∃ s, Alone s unit0 (.leave bare 0) 0 ∧ ((s.threadGroup 0).mask 0).getLsbD 0 = true ∧ InOrder s 0 0 ∧
      (s.threadGroup 0).arrivals 0 = []) ∧
    (∃ s, Alone s unit0 (.leave bare 0) 0 ∧ ((s.threadGroup 0).mask 0).getLsbD 0 = true ∧ ¬ InOrder s 0 0) ∧
    (∃ s, Alone s unit0 (.exit bare) 0 ∧ ((s.threadGroup 0).mask 0).getLsbD 0 = true ∧ ¬ InOrder s 0 0) ∧
    ∃ s, Alone s unit0 (.exit bare) 0 ∧ (∀ m, m < 12 → ((s.threadGroup 0).mask m).getLsbD 0 = true → InOrder s 0 m) ∧
      (∀ m, m < 12 → (s.threadGroup 0).arrivals m = []) ∧
      ∀ n, n < 4 → ((s.threadGroup 0).convReg n).declared.getLsbD 0 = true → ((s.threadGroup 0).convReg n).signed.getLsbD 0 = true :=
  ⟨⟨at0 id (conv 0 none none 0), alone_of (by decide), by decide⟩,
   ⟨at0 id id, alone_of (by decide), by decide, inOrder_of (by decide), by decide⟩,
   ⟨at0 id fun s => after5 (two0 s), alone_of (by decide), by decide, fun h => absurd (h 5 (by decide)) (by decide)⟩,
   ⟨at0 id fun s => after5 (two0 s), alone_of (by decide), by decide, fun h => absurd (h 5 (by decide)) (by decide)⟩,
   ⟨at0 id (conv 1 none none 0), alone_of (by decide), fun _ _ _ => inOrder_of (by decide), by decide, by decide⟩⟩

/-- A thread whose slot has signed, and one that finds no latch free. -/
theorem witness_MatrixOperationsSigned_holds :
    (∃ s x, matrixShape mma0 = some x ∧ Alone s unit0 mma0 0 ∧ ((s.threadGroup 0).convReg 1).declared.getLsbD 0 = true ∧
      ((s.threadGroup 0).convReg 1).signed.getLsbD 0 = true) ∧
    ∃ s x, matrixShape mma0 = some x ∧ Alone s unit0 mma0 0 ∧ ((s.threadGroup 0).convReg 1).declared.getLsbD 0 = true ∧
      ((s.threadGroup 0).convReg 1).signed = 0 ∧ ((s.threadGroup 0).convReg 1).latch = none ∧
      16 ≤ (s.quad (quadOf (s.threadCore 0))).latches.length :=
  ⟨⟨at0 id (conv 1 (some (withoutVa mma0)) (some 7) 32), _, rfl, alone_of (by decide), by decide, by decide⟩,
   ⟨at0 id fun s => { conv 0 none none 0 s with quads := [(0, { noQuad with latches := (List.range 16).map fun k => (k, []) })] }, _, rfl,
     alone_of (by decide), by decide, by decide, by decide, by decide⟩⟩

theorem witness_MatrixOperationsSigned :
    (∃ s x, matrixShape mma0 = some x ∧ Alone s unit0 mma0 0 ∧ MaySign s mma0 x 0 ∧
      (signedConv s unit0 mma0 x 0).signed ≠ (signedConv s unit0 mma0 x 0).declared) ∧
    ∃ s x, matrixShape mma0 = some x ∧ Alone s unit0 mma0 0 ∧ MaySign s mma0 x 0 ∧ ((s.threadGroup 0).convReg 1).signer = none ∧
      (signedConv s unit0 mma0 x 0).signed = (signedConv s unit0 mma0 x 0).declared ∧ tableRoom s (quadOf (s.threadCore 0)) = true :=
  ⟨⟨at0 id (conv 0 none none 0), _, rfl, alone_of (by decide), ⟨by decide, by decide, .inl (by decide), by decide, by decide⟩,
     by decide⟩,
   ⟨at0 id (conv 2 (some (withoutVa mma0)) (some 7) 32), _, rfl, alone_of (by decide),
     ⟨by decide, by decide, .inr (by decide), by decide, by decide⟩, by decide, by decide, by decide⟩⟩

/-- Every line of the first tile's place in the Bench present. -/
def tileLines (s : State) : State := { s with lines := (List.range 34).map fun k => (16 * 2 ^ 57 + k, ⟨true, Tag.zero⟩) }

theorem witness_TileInstructionsPosted :
    (∃ s op, Alone s unit0 (.tzero bare 3) 0 ∧ tilePost (.tzero bare 3) s unit0 0 = some op ∧ tableRoom s (quadOf unit0.core) = true) ∧
    (∃ s key, Alone s unit0 (.tld bare 3 2) 0 ∧ TileNear s 0 ((s.thread 0).reg 2) true key ∧ absentLine s key 4352 = none ∧
      Settled s key 4352 ∧
      tableRoom s (quadOf unit0.core) = true ∧
      sourceRoom s (quadOf unit0.core) key 4352 (decide (((s.thread 0).reg 2).val.toNat < 0x10000000)) = true) ∧
    (∃ s key, Alone s unit0 (.tst bare 3 2) 0 ∧ TileNear s 0 ((s.thread 0).reg 2) false key ∧ tableRoom s (quadOf unit0.core) = true) ∧
    (∃ s, Alone s unit0 (.trd bare 4 1) 0 ∧ ((s.thread 0).reg 4).val.toNat % 2048 = 1087 ∧ tableRoom s (quadOf unit0.core) = true ∧
      ∀ e ∈ (s.quad (quadOf unit0.core)).table, ¬ JoinedBy s e) ∧
    ∃ s e, Alone s unit0 (.trd bare 4 1) 0 ∧ ((s.thread 0).reg 4).val.toNat % 2048 = 1087 ∧ tableRoom s (quadOf unit0.core) = true ∧
      (s.quad (quadOf unit0.core)).table = [] ++ e :: [] ∧ s.nextId ≤ e.id ∧ ∃ items, e.op = .read 1 4 items :=
  ⟨⟨at0 id id, _, alone_of (by decide), rfl, by decide⟩,
   ⟨at0 id tileLines, 16 * 2 ^ 64, alone_of (by decide), ⟨by decide, by decide, by decide, by decide⟩, by decide, by unfold Settled; decide,
     by decide, by decide⟩,
   ⟨at0 (v 2 61184) id, 16 * 2 ^ 64 + 61184, alone_of (by decide), ⟨by decide, by decide, by decide, by decide⟩, by decide⟩,
   ⟨at0 (v 4 1087) id, alone_of (by decide), by decide, by decide, fun e h => by
     have h0 : ((at0 (v 4 1087) id).quad (quadOf unit0.core)).table = [] := by decide
     rw [h0] at h
     cases h⟩,
   ⟨at0 (v 4 1087) fun s => { s with quads := [(0, { noQuad with table := [⟨99, 0, 0, .read 1 4 [], none⟩] })] }, _,
     alone_of (by decide), by decide, by decide, rfl, by decide, [], rfl⟩⟩

/-- The team's own queue: empty with room, full, and of a team that has ended. -/
def queue (head tail : Word) (s : State) : State :=
  { s with teams := [(0, { placeTeam with head := head, tail := tail, entries := [(0, ⟨5, 0, Tag.zero⟩)] })] }

theorem witness_QueuesSendAndReceive :
    (∃ s x, Alone s unit0 (.qsend bare 4) 0 ∧ ((s.thread 0).reg 4).tag.poison = false ∧
      ((s.thread 0).reg 4).val.toNat % 16 < s.teamCount 0 ∧ teamAt s (s.threadTeam 0).cluster 0 = some x ∧
      (s.team x).ended = false ∧ ((s.team x).tail - (s.team x).head).toNat = 63) ∧
    (∃ s x, Alone s unit0 (.qsend bare 4) 0 ∧ teamAt s (s.threadTeam 0).cluster 0 = some x ∧
      (s.team x).ended = false ∧ ((s.team x).tail - (s.team x).head).toNat = 64) ∧
    (∃ s, Alone s unit0 (.qsend bare 4) 0 ∧ ((s.thread 0).reg 4).val.toNat % 16 < s.teamCount 0 ∧
      ∀ x, teamAt s (s.threadTeam 0).cluster 1 = some x → (s.team x).ended = true) ∧
    (∃ s e, Alone s unit0 (.qrecv bare 4) 0 ∧ (s.threadTeam 0).tail ≠ (s.threadTeam 0).head ∧
      (s.threadTeam 0).entries.find? ((s.threadTeam 0).head.toNat % 64) = some e) ∧
    ∃ s, Alone s unit0 (.qrecv bare 4) 0 ∧ (s.threadTeam 0).tail = (s.threadTeam 0).head :=
  ⟨⟨at0 id (queue 0 63), 0, alone_of (by decide), by decide, by decide, by decide, by decide, by decide⟩,
   ⟨at0 id (queue 0xFFFFFFC0 0), 0, alone_of (by decide), by decide, by decide, by decide⟩,
   ⟨at0 (v 4 1) id, alone_of (by decide), by decide, by
     intro x hx
     have h : teamAt (at0 (v 4 1) id) ((at0 (v 4 1) id).threadTeam 0).cluster 1 = none := by decide
     cases h.symm.trans hx⟩,
   ⟨at0 id (queue 64 65), ⟨5, 0, Tag.zero⟩, alone_of (by decide), by decide, by decide⟩,
   ⟨at0 id (queue 7 7), alone_of (by decide), by decide⟩⟩

/-- A copy of 128 bytes from page 4 into the first line of the Bench, its counter block in the third. -/
def copyRegs (len cb : Word) (t : Thread) : Thread := v 4 0x40000 (v 10 len (v 11 cb t))

/-- The copy that `lcp.in` asks for there. -/
def copy0 (s : State) : Copy :=
  (copyOf (.lcpIn bare 2 4 10) s unit0 0).getD ⟨0, untagged 0, none, none, none, fun _ _ _ _ => [], false, none, 0, 0, 1, none, false⟩

theorem witness_CopiesQueued :
    (∃ s c, Alone s unit0 (.lcpIn bare 2 4 10) 0 ∧ copyOf (.lcpIn bare 2 4 10) s unit0 0 = some c ∧
      CopyReady s 0 0 c (16 * 2 ^ 64 + 256) 0 (16 * 2 ^ 64) 0) ∧
    (∃ s c, Alone s unit0 (.lcpOut bare 2 4 10) 0 ∧ copyOf (.lcpOut bare 2 4 10) s unit0 0 = some c ∧ c.len = 0 ∧
      c.cb.val.toNat % 16 = 0 ∧ nearKey s 0 c.cb.val.toNat 16 = some (16 * 2 ^ 64) ∧ locked s (16 * 2 ^ 64) 16 false = false) ∧
    (∃ s c, Alone s unit0 (.lcpIn bare 2 4 10) 0 ∧ copyOf (.lcpIn bare 2 4 10) s unit0 0 = some c ∧ 0 < c.len ∧
      hullKey s 0 c.dst (16 * 2 ^ 64) ∧
      ∃ r ∈ copyRanges c 0 (16 * 2 ^ 64) 0, r.1 = false ∧ overlaps (16 * 2 ^ 64, 16 * 2 ^ 64 + 16) r.2.2 = true) ∧
    ∃ s, Alone s unit0 (.lcpx bare 12 4 10) 0 ∧ (copyOf (.lcpx bare 12 4 10) s unit0 0).isSome = true :=
  ⟨⟨at0 (copyRegs 128 256) id, copy0 (at0 (copyRegs 128 256) id), alone_of (by decide), rfl,
     { length := by decide
       block := ⟨by decide, by decide, by decide⟩
       hulls := ⟨rfl, by show nearKey _ 0 0 128 = some (16 * 2 ^ 64); decide, rfl⟩
       apart := by
         intro r hr
         have e : copyRanges (copy0 (at0 (copyRegs 128 256) id)) 0 (16 * 2 ^ 64) 0 = [(false, true, 16 * 2 ^ 64, 16 * 2 ^ 64 + 128)] := by
           decide
         rw [show r = (false, true, 16 * 2 ^ 64, 16 * 2 ^ 64 + 128) from List.mem_singleton.mp (e ▸ hr)]
         refine ⟨fun _ => by decide, ?_, ?_⟩
         · intro h hh
           cases hh
         · intro h
           cases h
       rank := fun k hk => by cases hk
       index := fun h hh => by cases hh
       source := by unfold linesReady; decide
       grade := fun h => by cases h
       free := by decide
       settled := by unfold Settled; decide
       table := fun h => by cases h }⟩,
   ⟨at0 (copyRegs 0 0) id, _, alone_of (by decide), rfl, rfl, by decide, by decide, by decide⟩,
   ⟨at0 (copyRegs 128 0) id, _, alone_of (by decide), rfl, by decide,
     by show nearKey _ 0 0 128 = some (16 * 2 ^ 64); decide,
     (false, true, 16 * 2 ^ 64, 16 * 2 ^ 64 + 128), by decide, rfl, by decide⟩,
   ⟨at0 (v 12 32 ∘ copyRegs 16 256) fun s => present { s with
      mem := Memory.writeBytes [] (16 * 2 ^ 64 + 32) (leBytes 4 0 ++ leBytes 4 16 ++ leBytes 4 1 ++ leBytes 20 0) }, alone_of (by decide), by decide⟩⟩

/-- A rank entry valid, or valid and lost. -/
def ranked (e : DWord) (s : State) : State :=
  { s with worlds := [(0, { noWorld with ranks := [(1, e)] })], fabric := { s.fabric with routes := [(5, 1)] } }

/-- A copy whose one range is a destination apart from its counter block. -/
theorem apart_of {c : Copy} {ck sk dk ik : Nat} {b : Bool} {r : Nat × Nat} (hr : copyRanges c sk dk ik = [(false, b, r)]) (hs : c.src = none)
    (ho : overlaps (ck, ck + 16) r = false) : ¬ Overlapping c ck sk dk ik := by
  rintro (⟨x, hx, -, h⟩ | ⟨x, h, -⟩ | ⟨x, hx, -, -, h, -⟩)
  · obtain rfl : x = _ := List.mem_singleton.mp (hr ▸ hx)
    cases ho.symm.trans h
  · cases hs.symm.trans h
  · obtain rfl : x = _ := List.mem_singleton.mp (hr ▸ hx)
    cases h

/-- A descriptor of one row of 16 bytes at address 32 of the Bench. -/
def described0 (ctl aux : Nat) (s : State) : State :=
  present { s with mem := Memory.writeBytes [] (16 * 2 ^ 64 + 32) (leBytes 4 ctl ++ leBytes 4 16 ++ leBytes 4 1 ++ leBytes 4 aux) }

/-- A counter block in the line of a near source; a near source in the line of its destination; and a row of rank 1 that is invalid or lost. -/
theorem witness_CopiesEndAtIssue :
    (∃ s c, Alone s unit0 (.lcpOut bare 2 4 10) 0 ∧ copyOf (.lcpOut bare 2 4 10) s unit0 0 = some c ∧ 0 < c.len ∧
      hullKey s 0 c.src (16 * 2 ^ 64) ∧ Overlapping c (16 * 2 ^ 64 + 64) (16 * 2 ^ 64) 0 0) ∧
    (∃ s c, Alone s unit0 (.lcpx bare 12 4 10) 0 ∧ copyOf (.lcpx bare 12 4 10) s unit0 0 = some c ∧ 0 < c.len ∧
      hullKey s 0 c.src (16 * 2 ^ 64 + 1024) ∧ hullKey s 0 c.dst (16 * 2 ^ 64 + 1088) ∧
      Overlapping c (16 * 2 ^ 64 + 256) (16 * 2 ^ 64 + 1024) (16 * 2 ^ 64 + 1088) 0) ∧
    ∀ st ∈ [Status.rangeFault, .rankLost], ∃ s c, Alone s unit0 (.lcpx bare 12 4 10) 0 ∧
      copyOf (.lcpx bare 12 4 10) s unit0 0 = some c ∧ 0 < c.len ∧ hullKey s 0 c.dst (16 * 2 ^ 64 + 1024) ∧
      ¬ Overlapping c (16 * 2 ^ 64 + 256) 0 (16 * 2 ^ 64 + 1024) 0 ∧ c.rank = some 1 ∧ rankStatus s 0 1 = st := by
  refine ⟨⟨at0 (copyRegs 128 64) id, _, alone_of (by decide), rfl, by decide, by show nearKey _ 0 0 128 = _; decide, .inr (.inl ?_)⟩,
    ⟨at0 (v 12 32 ∘ v 4 1088 ∘ copyRegs 1024 256) (described0 5 16), _, alone_of (by decide), rfl, by decide,
      by show nearKey _ 0 1024 16 = _; decide, by show nearKey _ 0 1088 16 = _; decide, .inr (.inr ?_)⟩, ?_⟩
  · exact ⟨(0, 128), rfl, by decide⟩
  · exact ⟨_, List.mem_cons_self, _, List.mem_cons_of_mem _ List.mem_cons_self, rfl, rfl, by decide⟩
  · intro st h
    simp only [List.mem_cons, List.not_mem_nil, or_false] at h
    rcases h with rfl | rfl
    · exact ⟨at0 (v 12 32 ∘ copyRegs 1024 256) (described0 0x10010000 16), _, alone_of (by decide), rfl, by decide,
        by show nearKey _ 0 1024 16 = _; decide, apart_of rfl rfl (by decide), rfl, by decide⟩
    · exact ⟨at0 (v 12 32 ∘ copyRegs 1024 256) fun s => described0 0x10010000 16 (ranked 0xC000000000000005 s), _, alone_of (by decide), rfl,
        by decide, by show nearKey _ 0 1024 16 = _; decide, apart_of rfl rfl (by decide), rfl, by decide⟩

/-- The same world with page 4 on a frame of the host aperture, as its leaf maps it. -/
def hosted (s : State) : State :=
  { mapped s with
    mem := [(0x20000, 0xFF), (0x20001, 0x03), (0x20005, 0x20)]
    frames := (mapped s).frames ++ [(0x20000004, { noFrame with type := 1 })] }

def hostLeaf : Xlat := ⟨0, 3, 0, 0x2000000003FF, [2]⟩

/-- An atomic on a frame of the package, and of an aperture page one that is posted and one that the host link does not have. -/
theorem witness_AtomicsSent :
    (∃ s, Alone s unit0 (.atom bare 2 4 0 10) 0 ∧ ((s.thread 0).reg 4).tag.poison = false ∧
      Translates s unit0 0 0x40000 .atomic leaf0 ∧ isAperture (leaf0.phys 0x40000 / 2 ^ 16) = false ∧ outstanding s 0 < 4096) ∧
    (∃ s, Alone s unit0 (.atom bare 2 4 0 9) 0 ∧ Translates s unit0 0 0x40000 .atomic hostLeaf ∧
      isAperture (hostLeaf.phys 0x40000 / 2 ^ 16) = true ∧ outstanding s 0 < 4096 ∧
      (freePageGroup s (s.frame (hostLeaf.phys 0x40000 / 2 ^ 16)).owner).isSome = true) ∧
    ∃ s, Alone s unit0 (.atom bare 2 4 0 1) 0 ∧ Translates s unit0 0 0x40000 .atomic hostLeaf ∧
      isAperture (hostLeaf.phys 0x40000 / 2 ^ 16) = true :=
  ⟨⟨at0 (v 4 0x40000) mapped, alone_of (by decide), by decide, by unfold Translates; decide, by decide, by decide⟩,
   ⟨at0 (v 4 0x40000) hosted, alone_of (by decide), by unfold Translates; decide, by decide, by decide, by decide⟩,
   ⟨at0 (v 4 0x40000) hosted, alone_of (by decide), by unfold Translates; decide, by decide⟩⟩

theorem witness_FrameAndProbeRequests :
    (∃ s, Alone s unit0 (.fquery bare 4 2) 0 ∧ ((s.thread 0).reg 2).tag.poison = false) ∧
    (∃ s, Alone s unit0 (.fretype bare 4 2 8) 0 ∧ ((s.thread 0).reg 2).tag.poison = false ∧ ((s.thread 0).reg 3).tag.poison = false) ∧
    (∃ s, Alone s unit0 (.xlpurge bare 4 2) 0 ∧ ((s.thread 0).reg 3).val.getLsbD 31 = true) ∧
    ∃ s, Alone s unit0 (.xlprobe bare 4 2) 0 ∧ (translate s 0 0 0).1 = .leaf leaf0 :=
  ⟨⟨at0 id id, alone_of (by decide), by decide⟩, ⟨at0 id id, alone_of (by decide), by decide, by decide⟩,
   ⟨at0 (v 3 0x80000000) id, alone_of (by decide), by decide⟩, ⟨at0 id mapped, alone_of (by decide), by decide⟩⟩

/-- Generation 0 of a cell in the quad's cache and in the package's. -/
def celled (addr : DWord) (s : State) : State :=
  let e : CellEntry := ⟨0, addr, 0, 7, 3, 1, none, 0⟩
  { s with quads := [(0, { noQuad with cells := [e] })], fabric := { s.fabric with cells := [e] } }

/-- A local cell and a generation of it in the quad's cache; a cell of rank 1, a generation of it in the package's cache, and one of rank 1
that is invalid or lost. -/
theorem witness_CellRequests :
    (∃ s x, cellShape (.cprop bare 60 4 12) = some x ∧ Alone s unit0 (.cprop bare 60 4 12) 0 ∧
      (x.named (s.thread 0)).getLsbD 63 = false ∧ (x.named (s.thread 0)).toNat % 16 = 0 ∧
      Translates s unit0 0 (x.named (s.thread 0)).toNat .cell leaf0 ∧ outstanding s 0 < 4096) ∧
    (∃ s x, cellShape (.cread bare 60 4 12) = some x ∧ Alone s unit0 (.cread bare 60 4 12) 0 ∧
      (x.named (s.thread 0)).getLsbD 63 = false ∧ Translates s unit0 0 (x.named (s.thread 0)).toNat .cell leaf0 ∧
      (cellFind (s.quad 0).cells 0 (x.named (s.thread 0)) ((s.thread 0).reg x.g).val).isSome = true) ∧
    (∃ s x, cellShape (.cread bare 60 4 12) = some x ∧ Alone s unit0 (.cread bare 60 4 12) 0 ∧
      (x.named (s.thread 0)).getLsbD 63 = true ∧ (x.named (s.thread 0)).toNat / 2 ^ 51 % 2 ^ 12 = 1 ∧
      rankStatus s 0 1 = .ok ∧ canSend s (rankNode (s.rankEntry 0 1)) = true ∧ outstanding s 0 < 4096 ∧
      cellFind s.fabric.cells 0 (x.named (s.thread 0)) ((s.thread 0).reg x.g).val = none) ∧
    (∃ s x, cellShape (.cread bare 60 4 12) = some x ∧ Alone s unit0 (.cread bare 60 4 12) 0 ∧
      (x.named (s.thread 0)).getLsbD 63 = true ∧ rankStatus s 0 ((x.named (s.thread 0)).toNat / 2 ^ 51 % 2 ^ 12) = .ok ∧
      (cellFind s.fabric.cells 0 (x.named (s.thread 0)) ((s.thread 0).reg x.g).val).isSome = true) ∧
    ∀ e ∈ [((0x0000000000000005 : DWord), Status.rangeFault), (0xC000000000000005, Status.rankLost)],
      ∃ s x, cellShape (.crecyc bare 60 4 12) = some x ∧ Alone s unit0 (.crecyc bare 60 4 12) 0 ∧
        (x.named (s.thread 0)).getLsbD 63 = true ∧ (x.named (s.thread 0)).toNat / 2 ^ 51 % 2 ^ 12 = 1 ∧ rankStatus s 0 1 = e.2 :=
  ⟨⟨at0 (v 4 0x40000) mapped, _, rfl, alone_of (by decide), by decide, by decide, by unfold Translates; decide, by decide⟩,
   ⟨at0 (v 4 0x40000) fun s => celled 0x40000 (mapped s), _, rfl, alone_of (by decide), by decide, by unfold Translates; decide, by decide⟩,
   ⟨at0 (v 5 0x80080000) (ranked 0x8000000000000005), _, rfl, alone_of (by decide), by decide, by decide, by decide, by decide,
     by decide, by decide⟩,
   ⟨at0 (v 5 0x80080000) fun s => celled 0x8008000000000000 (ranked 0x8000000000000005 s), _, rfl, alone_of (by decide), by decide,
     by decide, by decide⟩,
   fun e he => by
     simp only [List.mem_cons, List.not_mem_nil, or_false] at he
     rcases he with rfl | rfl
     · exact ⟨at0 (v 5 0x80080000) (ranked 5), _, rfl, alone_of (by decide), by decide, by decide, by decide⟩
     · exact ⟨at0 (v 5 0x80080000) (ranked 0xC000000000000005), _, rfl, alone_of (by decide), by decide, by decide, by decide⟩⟩

theorem witness_ServiceCalls :
    (∃ s pa page, Alone s unit0 (.svc bare 4 2 127) 0 ∧ CallReady s 0 2 127 (16 * 2 ^ 64) ∧
      ringPage s 0 (s.world 0).srbase false = some (pa, page) ∧ ringWaiters s 0 = [] ∧
      ((s.world 0).srhead - (s.world 0).srtail).toNat = 511) ∧
    (∃ s, Alone s unit0 (.svc bare 4 2 127) 0 ∧ CallReady s 0 2 127 (16 * 2 ^ 64) ∧ ringPage s 0 (s.world 0).srbase false = none) ∧
    ∃ s, Alone s unit0 (.svc bare 4 2 0) 0 ∧ CallReady s 0 2 0 (16 * 2 ^ 64) ∧
      512 ≤ ((s.world 0).srhead - (s.world 0).srtail).toNat :=
  ⟨⟨at0 id fun s => present ({ mapped s with worlds := (mapped s).worlds.map fun e => (e.1, { e.2 with srhead := 511 }) }), 0x30000, 3,
     alone_of (by decide), ⟨by decide, by decide, by decide, by decide, by decide, by decide, by decide⟩, by decide, by decide, by decide⟩,
   ⟨at0 id present, alone_of (by decide), ⟨by decide, by decide, by decide, by decide, by decide, by decide, by decide⟩, by decide⟩,
   ⟨at0 id fun s => present ({ mapped s with worlds := (mapped s).worlds.map fun e => (e.1, { e.2 with srtail := 0xFFFFFE00 }) }),
     alone_of (by decide), ⟨by decide, by decide, by decide, by decide, by decide, by decide, by decide⟩, by decide⟩⟩

/-! ## Witnesses: decoding and steps -/

theorem witness_EncodingsDecode : ∃ ctx : DecCtx, ∃ i : Instr, i.wellFormed ctx = true ∧ (encode i).length = 3 :=
  ⟨⟨120, 32, [], false⟩, .addI32 (under ⟨3, true, true, 0, true⟩) 119 0 (.lit 0xFFFFFFFF), by decide, by decide⟩

theorem witness_DecodingsEncode : ∃ ctx ws i w len, decodeUnit ctx ws = .unit i w len :=
  ⟨⟨120, 32, [], false⟩, [0x1206_1008, 7], .onesB32 bare 3 4, 0x1206_1008, 1, by decide⟩

/-- A matrix word with K, a prefix with reserved bits, a prefix before a branch, and code 11 of the unary group. -/
theorem witness_ReservedWordsRefused :
    (0xE0440813 : Word).toNat / 2 ^ 27 = 0b11100 ∧ (0x7F000001 : Word).toNat / 2 ^ 24 % 2 ^ 7 = 0x7F ∧ (0x7F000001 : Word).toNat % 2 ^ 13 ≠ 0 ∧
    (0x7F120000 : Word).toNat / 2 ^ 24 = 0x7F ∧ (0x7F120000 : Word).toNat % 2 ^ 13 = 0 ∧ (0x5A100003 : Word).toNat / 2 ^ 24 % 2 ^ 7 = 0x5A ∧
    (0x12061058 : Word).toNat / 2 ^ 24 % 2 ^ 7 = 0x12 ∧ (0x12061058 : Word).toNat / 2 ^ 3 % 2 ^ 7 = 11 := by decide

/-- A chain of one unit that its bundle is ready for, and one that it has begun. -/
def inChain (held : Bool) : Bundle := { noBundle with tids := [0], chain := [⟨.reform bare, 0x68000000, 0, 1, 0⟩], held := held }

/-- `ones.b32 V3, V4` placed and read from memory; the next unit of a chain, ready or begun; an event; a thread with nothing out of its
place. -/
theorem witness_StepsRunUnitsAndEvents :
    (∃ s x i w len t, s.turns = [.issue 0] ∧ Begins s 0 x 0 ∧ i.ctl.c = false ∧ latchesOk i 0 = true ∧
      waitsTurn { s with turns := [] } 0 x i = false ∧
      Reads (s.decCtx 0) (quadOf x.core) (s.threadWorld 0) (s.threadLaunch 0).entry x.pc i w len placeLeaf [] { s with turns := [] } t) ∧
    (∃ (s : State) (x : Bundle) (c : ChainUnit) (rest : List ChainUnit), s.turns = [.issueLate 0] ∧ s.bundles.find? 0 = some x ∧
      x.tids ≠ [] ∧ x.chain = c :: rest ∧ x.ready ≤ s.time ∧ waitsTurn { s with turns := [] } 0 x c.instr = false) ∧
    (∃ (s : State) (x : Bundle) (c : ChainUnit) (rest : List ChainUnit), s.turns = [.issue 0] ∧ s.bundles.find? 0 = some x ∧
      x.tids ≠ [] ∧ x.chain = c :: rest ∧ x.hasWork = false) ∧
    (∃ (s : State) (i : Instr), i.shape = none ∧ s.turns = [.event i]) ∧
    ∃ (s : State) (x : Bundle), x.tids ≠ [] ∧ (∀ e ∈ s.late, e.tid ∉ x.tids) ∧ (∀ e ∈ s.early, e.tid ∉ x.tids) ∧ s.latent = [] :=
  ⟨⟨State.reset.withFetchWord 32 0x1206_1008, { noBundle with tids := [0] }, .onesB32 bare 3 4, 0x1206_1008, 1,
     { State.reset.withFetchWord 32 0x1206_1008 with turns := [] }, rfl,
     ⟨rfl, rfl, rfl, rfl, by decide, .inl (by decide), rfl, by decide, by decide⟩, rfl, by decide, by decide,
     .next [] _ _ _ (0x1206_1008, placeLeaf) (by decide) (by decide) (.done _ _ (by decide) (by decide))⟩,
   ⟨{ placed with turns := [.issueLate 0], bundles := [(0, inChain false)] }, inChain false, _, _, rfl, rfl, by decide, rfl, by decide,
     by decide⟩,
   ⟨{ placed with bundles := [(0, { inChain false with finished := [0] })] }, { inChain false with finished := [0] }, _, _, rfl, rfl, by decide, rfl,
     by decide⟩,
   ⟨{ State.reset with turns := [.event .powerLoss] }, .powerLoss, rfl, rfl⟩,
   ⟨placed, { noBundle with tids := [0] }, by decide, by decide, by decide, rfl⟩⟩

/-- A guard on P1, which reads 0. -/
theorem witness_GuardedOffUnitsPass : ∃ s i, Instr.shape i ≠ none ∧ Issues s unit0 i ∧ ∀ tid ∈ unit0.tids, passes s unit0 i tid = false :=
  ⟨at0 id id, .stB32 (under ⟨1, false, true, 0, false⟩) 11 12 0, by decide,
    ⟨rfl, ⟨_, rfl, rfl, rfl⟩, by decide, by decide, by decide, by decide, by decide, by decide⟩, by decide⟩

theorem witness_StepsKeep : ∃ s t : State, s.memOk = true ∧ BundlesNumbered s ∧ step s = .next t :=
  ⟨{ State.reset with turns := [.tick 5] }, _, by decide, by unfold BundlesNumbered; decide, rfl⟩


/-! ## Witnesses: the events of the cores and of the tables -/

/-- A filed thread in bin 0 of core 0, its world running. -/
def filed0 (s : State) : State :=
  { s with
    threads := [(0, { noThread with place := .filed })], teams := [(0, { noTeam with ended := false })]
    worlds := [(0, { noWorld with stat := 1, handler := 64, wctxn := 2 })], cores := [(0, ⟨[(0, ⟨0, 0, 0, [0], true⟩)], [], []⟩)] }

/-- A cause pending on a filed thread, and on one that waits at M0. -/
theorem witness_CoreEvents_causes : ∀ p ∈ [Place.filed, .waiting (.mask 0)], ∃ s : State, TakesCause s 0 .hostLink 7 ∧
    (s.thread 0).place = p ∧ (p = .filed → resumeOf s 0 = some 0) := by
  intro p hp
  simp only [List.mem_cons, List.not_mem_nil, or_false] at hp
  rcases hp with rfl | rfl <;>
    exact ⟨{ filed0 State.reset with threads := [(0, { noThread with place := _, pending := [(.hostLink, 7)] })] },
      ⟨by decide, by decide, by decide, by decide, by decide⟩, rfl, by decide⟩

/-- A core with a draw to make, and none: with nothing filed, with a filed thread, and with one that is to leave a rendezvous. -/
theorem witness_CoreEvents_clock : (∃ s, drawsLeft s = true) ∧ (∃ s, drawsLeft s = false) ∧
    (∃ s, drawsLeft s = false ∧ ∃ e ∈ s.cores, e.2.bins ≠ []) ∧
    ∃ s, drawsLeft s = false ∧ ∃ e ∈ s.threads, e.2.hnd = false ∧ e.2.pending ≠ [] ∧ atRendezvous e.2.place = true :=
  ⟨⟨{ filed0 State.reset with time := 2 ^ 32 }, by decide⟩, ⟨State.reset, by decide⟩, ⟨filed0 State.reset, by decide, by decide⟩,
   { State.reset with threads := [(0, { noThread with place := .waiting (.mask 0), pending := [(.hostLink, 7)] })] }, by decide, by decide⟩

/-- A bin whose one thread is over age, and one with a thread for every slot. -/
theorem witness_CoreEvents_draws :
    (∃ (s : State) (b : Bin), (0, b) ∈ (s.core 0).bins ∧ isOld s b = true ∧ 0 ∈ ready s b ∧
      (∀ e ∈ (s.core 0).bins, e = (0, b) ∨ (Drawable s e.2 → ∀ k ∈ ready s e.2, (s.thread 0).runnable < (s.thread k).runnable)) ∧
      s.lastDraw = none ∧ (∀ e ∈ s.cores, e.1 < 0 → drawDue s e.1 = false ∧ shoveDue s e.1 = false) ∧ (bundlesOf s 0).length < 64 ∧ (s.world (s.team b.team).world).testArm = false) ∧
    ∃ (s : State) (b : Bin), (0, b) ∈ (s.core 0).bins ∧ (∀ k, k < 32 → ∃ tid ∈ ready s b, tid % 32 = k) ∧ isOld s b = false :=
  ⟨⟨{ filed0 State.reset with time := 2 ^ 32 }, ⟨0, 0, 0, [0], true⟩, by decide, by decide, by decide,
    fun e he => .inl (List.mem_singleton.mp he), rfl, fun _ _ h => absurd h (Nat.not_lt_zero _), by decide, by decide⟩,
   ⟨{ filed0 State.reset with
      threads := (List.range 32).map fun k => (k, { noThread with place := .filed })
      cores := [(0, ⟨[(0, ⟨0, 0, 0, List.range 32, true⟩)], [], []⟩)] }, ⟨0, 0, 0, List.range 32, true⟩, by decide,
    fun k hk => ⟨k, by revert k; decide, Nat.mod_eq_of_lt hk⟩, by decide⟩⟩

theorem witness_CoreEvents_full : ∃ (s : State) (x : Bundle) (e : Nat × Bin), e ∈ (s.core 0).bins ∧ Drawable s e.2 ∧
    64 ≤ (bundlesOf s 0).length ∧ s.lastDraw = none ∧ (∀ e ∈ s.cores, e.1 < 0 → drawDue s e.1 = false ∧ shoveDue s e.1 = false) ∧ 0 < s.nextId ∧ (0, x) ∈ bundlesOf s 0 ∧ x.displaced = false ∧
    hasEntry s 0 x = true ∧ ∀ y ∈ bundlesOf s 0, y.2.displaced = false → hasEntry s y.1 y.2 = true → y = (0, x) ∨ x.drawn < y.2.drawn :=
  ⟨{ filed0 State.reset with
      time := 2 ^ 32, nextId := 64, bundles := (List.range 64).map fun k => (k, { noBundle with tids := [1], drawn := k }) },
    { noBundle with tids := [1] }, (0, ⟨0, 0, 0, [0], true⟩), by decide, .inr (by decide), by decide, rfl, fun _ _ h => absurd h (Nat.not_lt_zero _),
    by decide, by decide, rfl, rfl, by decide⟩

theorem witness_CoreEvents_displaces : ∃ (s : State) (x : Bundle), s.bundles.find? 0 = some x ∧ x.displaced = true ∧ x.chain = [] ∧
    x.tids ≠ [] ∧ x.tids.Nodup ∧
    ∀ tid ∈ x.tids, (s.thread tid).place = .inBundle 0 ∧ s.isKilled tid = false ∧ (s.threadGroup tid).offCore = false :=
  ⟨{ placed with bundles := [(0, { noBundle with tids := [0], displaced := true })] }, _, rfl, rfl, rfl, by decide, by decide, by decide⟩

/-- A thread that has waited for a counter for 2,000 cc. -/
def blocked (off : Bool) (t : Thread) (s : State) : State :=
  { filed0 s with threads := [(0, t)], groups := [(0, { noGroup with offCore := off })], time := 2000 }

theorem witness_CoreEvents_parks : ∃ (s : State) (g : Group), s.groups.find? 0 = some g ∧ g.offCore = false ∧ groupThreads s 0 ≠ [] ∧
    2000 ≤ s.time - g.lastEnd ∧ 2000 ≤ s.time - g.parkFrom ∧
    (∀ tid ∈ groupThreads s 0, blockedThread s tid = true ∧ 2000 ≤ s.time - (s.thread tid).since ∧ (s.thread tid).mayTake = false) ∧
    (s.world (s.team (teamOfGid 0)).world).stat = 1 ∧ (s.world (s.team (teamOfGid 0)).world).wctxn ≠ 0 ∧
    estimate s (s.team (teamOfGid 0)).world ≤ 32768 * (s.world (s.team (teamOfGid 0)).world).wctxn :=
  ⟨blocked false { noThread with place := .waiting (.counter 0 1 0) } State.reset, _, rfl, rfl, by decide, by decide, by decide, by decide,
    by decide, by decide, by decide⟩

/-- A group as blocked whose context area does not hold the estimate. -/
theorem witness_CoreEvents_keeps : ∃ (s : State) (g : Group), s.groups.find? 0 = some g ∧ g.offCore = false ∧ groupThreads s 0 ≠ [] ∧
    2000 ≤ s.time - g.lastEnd ∧ 2000 ≤ s.time - g.parkFrom ∧
    (∀ tid ∈ groupThreads s 0, blockedThread s tid = true ∧ 2000 ≤ s.time - (s.thread tid).since ∧ (s.thread tid).mayTake = false) ∧
    (s.world (s.team (teamOfGid 0)).world).stat = 1 ∧ (s.world (s.team (teamOfGid 0)).world).wctxn ≠ 0 ∧
    32768 * (s.world (s.team (teamOfGid 0)).world).wctxn < estimate s (s.team (teamOfGid 0)).world :=
  ⟨{ blocked false { noThread with place := .waiting (.counter 0 1 0) } State.reset with
      launches := [(0, { noLaunch with bench := 262144 })] }, _, rfl, rfl, by decide, by decide, by decide, by decide, by decide, by decide,
    by decide⟩

/-- A parked group one of whose threads is filed, and one on whose waiting thread a cause has become pending. -/
theorem witness_CoreEvents_reloads : ∀ cause ∈ [false, true], ∃ s : State, (s.group 0).offCore = true ∧ Woke s 0 ∧ (s.group 0).woken = cause ∧
    (s.world (s.team (teamOfGid 0)).world).stat = 1 ∧ groupFits s (s.team (teamOfGid 0)).core 0 = true := by
  intro cause h
  simp only [List.mem_cons, List.not_mem_nil, or_false] at h
  rcases h with rfl | rfl
  · exact ⟨blocked true { noThread with place := .filed } State.reset, by decide, .inr ⟨0, by decide, by decide, by decide⟩, by decide,
      by decide, by decide⟩
  · exact ⟨pendOn (blocked true { noThread with place := .waiting (.service 5 0) } State.reset) 0 .rankLost 3, by decide, .inl (by decide),
      by decide, by decide, by decide⟩

/-- A team on its home core, and one with a group that has reloaded onto another core. -/
theorem witness_CoreEvents_errors : ∀ core ∈ [0, 3], ∃ (s : State) (tm : Team), s.teams.find? 0 = some tm ∧ tm.ended = false ∧
    (s.world tm.world).stat ≠ 4 ∧ (s.world tm.world).stat ≠ 5 ∧ tm.killed = none ∧
    (tm.core = core ∨ ∃ g ∈ s.groups, g.1 / 32 = 0 ∧ g.2.core = core ∧ g.2.offCore = false) := by
  intro core h
  simp only [List.mem_cons, List.not_mem_nil, or_false] at h
  rcases h with rfl | rfl
  · exact ⟨filed0 State.reset, _, rfl, rfl, by decide, by decide, rfl, .inl rfl⟩
  · exact ⟨{ filed0 State.reset with groups := [(0, { noGroup with core := 3 })] }, _, rfl, rfl, by decide, by decide, rfl, .inr (by decide)⟩

/-- A convergence register that all have signed and whose table had no room. -/
theorem witness_MatrixPostsAndTableGrants_posts : ∃ (s : State) (x : MatrixShape), matrixShape mma0 = some x ∧
    (s.world (s.team (teamOfGid 0)).world).stat ≤ 2 ∧
    ((s.group 0).convReg 1).op = some mma0 ∧ ((s.group 0).convReg 1).signed ≠ 0 ∧
    ((s.group 0).convReg 1).signed = ((s.group 0).convReg 1).declared ∧ (s.quad (quadOf (s.group 0).core)).table.length < 32 :=
  ⟨conv 3 (some mma0) none 0 State.reset, _, rfl, by decide, by decide, by decide, by decide, by decide⟩

/-- A table with an entry. -/
def tabled (op : TileOp) (s : State) : State :=
  { s with quads := [(0, { noQuad with table := [⟨9, 0, 0, op, some 0⟩], passes := if op.isPass then [9] else [], ports := if op.isPass then [] else [(8, 7), (9, 6), (7, 6)] })] }

def ungranted (op : TileOp) (s : State) : State := { s with quads := [(0, { noQuad with table := [⟨9, 0, 0, op, some 0⟩] })] }

theorem witness_MatrixPostsAndTableGrants_grants :
    (∃ (s : State) (e : Posted), Waits s 0 e ∧ e.op.isTileIn = false ∧ e.op.isPass = true ∧
      ∀ e', Waits s 0 e' → e'.op.isTileIn = false → e'.op.isPass = e.op.isPass → e' = e ∨ Ranks s.time e e') ∧
    ∀ free ∈ [0, 5], ∃ (s : State) (e : Posted), Waits s 0 e ∧ e.op.isTileIn = false ∧ e.op.isPass = false ∧ (s.quad 0).portFree = free ∧
      s.time = 0 ∧
      ∀ e', Waits s 0 e' → e'.op.isTileIn = false → e'.op.isPass = e.op.isPass → e' = e ∨ Ranks s.time e e' :=
  ⟨⟨ungranted (.pass 0 0 0 1 0 0 [] none) State.reset, _, ⟨List.mem_singleton.mpr rfl, rfl, by decide, by decide⟩, rfl, rfl,
     fun _ h _ _ => .inl (List.mem_singleton.mp h.1)⟩,
   fun free h => ⟨{ State.reset with quads := [(0, { noQuad with table := [⟨9, 0, 0, .zero 0 0, some 0⟩], portFree := free })] }, _,
     ⟨List.mem_singleton.mpr rfl, rfl, by show 9 ∉ []; decide, by show ∀ p ∈ [], _; decide⟩, rfl, rfl, rfl, rfl,
     fun _ h _ _ => .inl (List.mem_singleton.mp h.1)⟩⟩

theorem witness_TilesAndPassesComplete (op : TileOp) : ∃ (s : State) (e : Posted), e.op = op ∧ e ∈ (s.quad 0).table ∧
    (∀ e' ∈ (s.quad 0).table, e'.id = e.id → e' = e) ∧
    (op.isPass = true → (s.quad 0).passes = [e.id]) ∧
    (op.isPass = false → ∃ before after due, (s.quad 0).ports = before ++ (e.id, due) :: after ∧ due ≤ s.time ∧ (∀ p ∈ before, due < p.2) ∧
      ∀ p ∈ after, due ≤ p.2) :=
  ⟨{ tabled op State.reset with time := 6 }, ⟨9, 0, 0, op, some 0⟩, rfl, List.mem_singleton.mpr rfl, fun _ h _ => List.mem_singleton.mp h,
    fun h => by show (if op.isPass then [9] else []) = [9]; rw [if_pos h],
    fun h => ⟨[(8, 7)], [(7, 6)], 6,
      by show (if op.isPass then [] else [(8, 7), (9, 6), (7, 6)]) = _; rw [if_neg (by rw [h]; decide)]; rfl, Nat.le_refl 6, by decide, by decide⟩⟩

/-! ## Witnesses: segments, walks, purges, requests -/

/-- An operation of thread 0, its counter block at the start of the Bench. -/
def ladle0 (rank : Option Nat) (g : Segment) : Ladle :=
  ⟨0, 0, some 0, 0, none, rank, some (16 * 2 ^ 64), 0, 1, none, Tag.zero, [(0, g)], [], 0, 0, 0, []⟩

def seg0 (pieces : List Piece) (st : SegState) : Segment := ⟨pieces, st, 8, Tag.zero, [], [], false, none, false, none⟩

def laden (rank : Option Nat) (g : Segment) (s : State) : State := { mapped s with ladles := [(7, ladle0 rank g)] }

theorem segmentOf0 (s : State) (rank : Option Nat) (g : Segment) (hq : copyQueue (laden rank g s) 0 7 = none)
    (hp : ∀ p ∈ g.pieces, ∀ k, p.dst = .near k → k / 128 ≠ 16 * 2 ^ 64 / 128) :
    SegmentOf (laden rank g s) 7 0 (ladle0 rank g) g (16 * 2 ^ 64) :=
  ⟨⟨rfl, rfl⟩, ⟨rfl, hq⟩, ⟨rfl, by decide⟩, hp, rfl⟩

theorem no_near {va len : Nat} {src : Loc} : ∀ p ∈ [(⟨src, .main va, len⟩ : Piece)], ∀ k, p.dst = .near k → k / 128 ≠ 16 * 2 ^ 64 / 128 := by
  intro p hp k hk
  rw [List.mem_singleton.mp hp] at hk
  cases hk

theorem near_line : ∀ p ∈ [(⟨.main 0x40000, .near (16 * 2 ^ 64 + 256), 8⟩ : Piece)], ∀ k, p.dst = .near k → k / 128 ≠ 16 * 2 ^ 64 / 128 := by
  intro p hp k hk
  rw [List.mem_singleton.mp hp] at hk
  cases hk
  decide

theorem witness_SegmentsStartAndLand_near : ∃ (s : State) (o : Ladle) (g : Segment) (b : List Byte) (ck key : Nat), SegmentOf s 7 0 o g ck ∧
    g.state = .started [(.near key, b)] ∧ b ≠ [] ∧ key % 128 + b.length ≤ 128 ∧ key / 128 ≠ ck / 128 :=
  ⟨_, _, _, leBytes 8 5, _, 16 * 2 ^ 64 + 256, segmentOf0 State.reset none
    (seg0 [⟨.main 0x40000, .near (16 * 2 ^ 64 + 256), 8⟩] (.started [(.near (16 * 2 ^ 64 + 256), leBytes 8 5)])) (by decide) near_line,
    rfl, by decide, by decide, by decide⟩

theorem witness_SegmentsStartAndLand_main : ∃ (s : State) (o : Ladle) (g : Segment) (b : List Byte) (ck key : Nat), SegmentOf s 7 0 o g ck ∧
    g.state = .started [(.main key, b)] ∧ isTableType (s.frame (keyFrame key)).type = false ∧ ck / 128 ∉ linesOf key b.length :=
  ⟨_, _, _, leBytes 8 5, _, 0x40000, segmentOf0 State.reset none
    (seg0 [⟨.near (16 * 2 ^ 64 + 256), .main 0x40000, 8⟩] (.started [(.main 0x40000, leBytes 8 5)])) (by decide) no_near,
    rfl, by decide, by decide⟩

/-- The last segment of a tile load, and one before it. -/
theorem witness_SegmentsStartAndLand_tile : ∀ segs ∈ [[0], [0, 1]], ∃ (s : State) (o : Ladle) (g : Segment) (b : List Byte) (ck off : Nat),
    s.ladles.find? 7 = some o ∧ o.segs.find? 0 = some g ∧ copyQueue s o.world 7 = none ∧ o.counter = some ck ∧ ck % 16 = 0 ∧
      o.team = some 0 ∧ o.tile = some (3, 9) ∧ g.state = .started [(.tile off, b)] ∧ ck / 128 ∉ linesOf (tileAt s 0 3 + off) b.length ∧
      o.segs.keys = segs := by
  intro segs h
  simp only [List.mem_cons, List.not_mem_nil, or_false] at h
  rcases h with rfl | rfl
  · exact ⟨{ mapped State.reset with ladles := [(7, { ladle0 none (seg0 [⟨.main 0x40000, .tile 128, 8⟩] (.started [(.tile 128, leBytes 8 5)])) with
      tile := some (3, 9) })] }, _, _, leBytes 8 5, _, 128, rfl, rfl, by decide, rfl, by decide, rfl, rfl, rfl, by decide, rfl⟩
  · exact ⟨{ mapped State.reset with ladles := [(7, { ladle0 none (seg0 [⟨.main 0x40000, .tile 128, 8⟩] (.started [(.tile 128, leBytes 8 5)])) with
      tile := some (3, 9)
      segs := [0, 1].map fun n => (n, seg0 [⟨.main 0x40000, .tile 128, 8⟩] (.started [(.tile 128, leBytes 8 5)])) })] },
      _, _, leBytes 8 5, _, 128, rfl, rfl, by decide, rfl, by decide, rfl, rfl, rfl, by decide, rfl⟩

theorem witness_SegmentsStartAndLand_starts :
    (∃ (s : State) (o : Ladle) (g : Segment) (k len : Nat), s.ladles.find? 7 = some o ∧
      List.find? (fun e : Nat × Ladle => e.2.isNext s 0) s.ladles = some (7, o) ∧ o.nextSeg s = some (0, g) ∧
      mayStart s o = true ∧ outstanding s 0 < 4096 ∧ o.rank = none ∧ o.team.isSome = true ∧ g.pieces = [⟨.main 0x40000, .near k, len⟩] ∧
      g.state = .queued ∧ inAperture s o.world ⟨.main 0x40000, .near k, len⟩ = false ∧ 0x40000 % o.align = 0 ∧ len % o.align = 0 ∧
      o.counter.isSome = true ∧ (access s (quadOf 0) o.world 0x40000 .read true).1 = .ok leaf0) ∧
    ∃ (s : State) (o : Ladle) (g : Segment) (k len : Nat), s.ladles.find? 7 = some o ∧
      List.find? (fun e : Nat × Ladle => e.2.isNext s 0) s.ladles = some (7, o) ∧ o.nextSeg s = some (0, g) ∧
      mayStart s o = true ∧ outstanding s 0 < 4096 ∧ o.rank = none ∧ o.team.isSome = true ∧ g.pieces = [⟨.near k, .main 0x40000, len⟩] ∧
      g.state = .queued ∧ inAperture s o.world ⟨.near k, .main 0x40000, len⟩ = false ∧ 0x40000 % o.align = 0 ∧ len % o.align = 0 ∧
      (access s (quadOf 0) o.world 0x40000 .write true).1 = .ok leaf0 ∧ (lineTags (senseNear s k len) k len).poison = false ∧ o.counter.isSome = true ∧
      o.grade.toNat ≤ (entGrade leaf0.leaf).toNat :=
  ⟨⟨laden none (seg0 [⟨.main 0x40000, .near (16 * 2 ^ 64 + 256), 8⟩] .queued) State.reset, _, _, _, 8, rfl, rfl, rfl, by decide, by decide,
     rfl, rfl, rfl, rfl, by decide, by decide, by decide, rfl, by decide⟩,
   ⟨laden none (seg0 [⟨.near (16 * 2 ^ 64 + 256), .main 0x40000, 8⟩] .queued) State.reset, _, _, _, 8, rfl, rfl, rfl, by decide, by decide,
     rfl, rfl, rfl, rfl, by decide, by decide, by decide, by decide, by decide, rfl, by decide⟩⟩

/-- An operation to rank 1, whose entry is `e`, with one queued segment. -/
def abroad (e : DWord) (pieces : List Piece) : State :=
  { ranked e State.reset with ladles := [(7, ladle0 (some 1) (seg0 pieces .queued))] }

def inPiece (va off : Nat) : Piece := ⟨.main va, .near (16 * 2 ^ 64 + off), 8⟩
def outPiece (va off : Nat) : Piece := ⟨.near (16 * 2 ^ 64 + off), .main va, 8⟩

/-- Segments in from rank 1 and out to it, of one row, of two that adjoin there and of two that do not, of an entry that is valid, lost or invalid. -/
theorem witness_SegmentsStartAndLand_remote :
    ∀ e ∈ [((0x8000000000000005 : DWord), Status.ok), (0xC000000000000005, Status.rankLost), (0x5, Status.rangeFault)],
    ∀ p ∈ [([inPiece 0x40000 256], [(0x40000, 8)]), ([outPiece 0x40000 256], [(0x40000, 8)]),
      ([outPiece 0x40000 256, outPiece 0x40008 512], [(0x40000, 8), (0x40008, 8)]),
      ([inPiece 0x40000 256, inPiece 0x50000 264], [(0x40000, 8), (0x50000, 8)])],
    ∃ (s : State) (o : Ladle) (g : Segment), s.ladles.find? 7 = some o ∧
      List.find? (fun e : Nat × Ladle => e.2.isNext s 0) s.ladles = some (7, o) ∧ o.nextSeg s = some (0, g) ∧
      mayStart s o = true ∧ outstanding s 0 < 4096 ∧ o.rank = some 1 ∧ g.pieces = p.1 ∧ p.1 ≠ [] ∧ g.state = .queued ∧
      (g.pieces.map fun q => (q.mainVa, q.len)) = p.2.map (fun x => (some x.1, x.2)) ∧
      (∀ x ∈ p.2, x.1 + x.2 ≤ 2 ^ 55 ∧ x.1 % o.align = 0 ∧ x.2 % o.align = 0) ∧
      canSend s (rankNode (s.rankEntry o.world 1)) = true ∧ rankStatus s o.world 1 = e.2 := by
  intro e he p hp
  refine ⟨abroad e.1 p.1, _, seg0 p.1 .queued, rfl, rfl, rfl, ?_⟩
  simp only [List.mem_cons, List.not_mem_nil, or_false] at he hp
  rcases he with rfl | rfl | rfl <;> rcases hp with rfl | rfl | rfl | rfl <;>
    exact ⟨by decide, by decide, rfl, rfl, by decide, rfl, rfl, by decide, by decide, by decide⟩

/-- The packets of those segments either read, from main memory there, or write bytes that carry no poison. -/
theorem witness_SegmentsStartAndLand_remote_ways :
    (∀ p ∈ [inPiece 0x40000 256, inPiece 0x50000 264], ∃ va, p.src = .main va) ∧
    ∀ p ∈ [outPiece 0x40000 256, outPiece 0x40008 512],
      ∃ k, p.src = .near k ∧ (abroad 0x8000000000000005 [outPiece 0x40000 256, outPiece 0x40008 512]).latent = [] ∧
        (lineTags (abroad 0x8000000000000005 [outPiece 0x40000 256, outPiece 0x40008 512]) k p.len).poison = false := by
  constructor <;> intro p hp <;> simp only [List.mem_cons, List.not_mem_nil, or_false] at hp <;> rcases hp with rfl | rfl
  · exact ⟨_, rfl⟩
  · exact ⟨_, rfl⟩
  · exact ⟨_, rfl, rfl, by decide⟩
  · exact ⟨_, rfl, rfl, by decide⟩

/-- A segment that fails; one whose rank's node is not reached; a unit in a table that R258 refuses (an entry with a reserved bit). -/
theorem witness_SegmentsFailAndTablesWritten_fails :
    (∃ (s : State) (o : Ladle) (g : Segment) (ck : Nat) (st : Status), SegmentOf s 7 0 o g ck ∧ g.state = .failing st) ∧
    (∃ (s : State) (o : Ladle) (g : Segment) (ck k : Nat), SegmentOf s 7 0 o g ck ∧ o.rank = some k ∧ g.state = .queued ∧ g.replay = false ∧
      rankNode (s.rankEntry o.world k) ≠ s.fabric.node ∧ s.fabric.routes.getD (rankNode (s.rankEntry o.world k)) 0 = 0) ∧
    ∃ (s : State) (o : Ladle) (g : Segment) (ck f r : Nat) (b : List (Loc × List Byte)), SegmentOf s 7 0 o g ck ∧ g.state = .started b ∧
      tableOf s b = some f ∧ checkWrites s f (unitWrites b) = .error r ∧ g.held = none :=
  ⟨⟨_, _, _, _, .rangeFault, segmentOf0 State.reset none (seg0 [⟨.near (16 * 2 ^ 64 + 256), .main 0x40000, 8⟩] (.failing .rangeFault))
     (by decide) no_near, rfl⟩,
   ⟨_, _, _, _, 1, segmentOf0 { State.reset with fabric := { State.reset.fabric with node := 9 } } (some 1)
     (seg0 [⟨.near (16 * 2 ^ 64 + 256), .main 0x40000, 8⟩] .queued)
     (by decide) no_near, rfl, rfl, rfl, by decide, by decide⟩,
   ⟨_, _, _, _, 2, 2, [(.main 0x20008, leBytes 8 0x8000000000000001)], segmentOf0 State.reset none
     (seg0 [⟨.near (16 * 2 ^ 64 + 256), .main 0x20008, 8⟩] (.started [(.main 0x20008, leBytes 8 0x8000000000000001)])) (by decide) no_near,
     rfl, by decide, by decide, rfl⟩⟩

/-- A thread of a world with a handler, and a bundle that waits before its unit. -/
def waiter (t : Thread) : State := handled { State.reset with threads := [(0, t)], bundles := [(0, inChain true)] }

/-- A segment of a lost rank whose thread stands before its unit, or waits in `bwait`. -/
theorem witness_SegmentsFailAndTablesWritten_taken : ∀ t ∈ [{ noThread with place := .inBundle 0 }, { noThread with place := .waiting (.counter 4096 1 0) }],
    ∃ (s : State) (o : Ladle) (g : Segment) (ck : Nat), SegmentOf s 7 0 o g ck ∧ g.state = .failing .rankLost ∧ o.raised = [] ∧
      CanTrap s o.tid ∧ s.isKilled o.tid = false ∧ (s.thread o.tid).pending = [] ∧ (StillWaits s g ck o.tid ∨ BeforeUnit s o.tid) ∧
      resumeOf s o.tid = some 0 := by
  intro t h
  simp only [List.mem_cons, List.not_mem_nil, or_false] at h
  have hn := no_near (va := 0x40000) (len := 8) (src := .near (16 * 2 ^ 64 + 256))
  rcases h with rfl | rfl
  · exact ⟨_, _, _, _, segmentOf0 (waiter { noThread with place := .inBundle 0 }) (some 1) (seg0 _ (.failing .rankLost)) (by decide) hn, rfl, rfl,
      ⟨by decide, by decide, by decide⟩, by decide, rfl, .inr ⟨0, rfl, by decide, by decide, by decide, rfl⟩, by decide⟩
  · refine ⟨_, _, _, _, segmentOf0 (waiter { noThread with place := .waiting (.counter 4096 1 0) }) (some 1) (seg0 _ (.failing .rankLost))
      (by decide) hn, rfl, rfl, ⟨by decide, by decide, by decide⟩, by decide, rfl, .inl ⟨_, rfl, ?_, ?_⟩, by decide⟩
    · intro key target head h
      cases h
      exact .inl (by decide)
    · intro k sl n c h
      cases h

/-- Entry 1 of the root written from 0, and entry 0 invalidated. -/
theorem witness_SegmentsFailAndTablesWritten_writes :
    (∃ (s : State) (o : Ladle) (g : Segment) (ck : Nat) (b : List (Loc × List Byte)) (new : DWord), SegmentOf s 7 0 o g ck ∧
      g.state = .started b ∧ tableOf s b = some 2 ∧ checkWrites s 2 (unitWrites b) = .ok [(1, 0, new)] ∧ g.held = none ∧
      (2 * 2 ^ 16 + 8 * 1 + 8 ≤ ck ∨ ck + 16 ≤ 2 * 2 ^ 16 + 8 * 1) ∧ isAperture 2 = false ∧ entV new = true) ∧
    ∃ (s : State) (o : Ladle) (g : Segment) (ck : Nat) (b : List (Loc × List Byte)) (old : DWord), SegmentOf s 7 0 o g ck ∧
      g.state = .started b ∧ tableOf s b = some 2 ∧ checkWrites s 2 (unitWrites b) = .ok [(0, old, 0)] ∧ g.held = none ∧ entV old = true :=
  ⟨⟨_, _, _, _, [(.main 0x20008, leBytes 8 0x60001)], 0x60001, segmentOf0 State.reset none
     (seg0 [⟨.near (16 * 2 ^ 64 + 256), .main 0x20008, 8⟩] (.started [(.main 0x20008, leBytes 8 0x60001)])) (by decide) no_near,
     rfl, by decide, by decide, rfl, by decide, by decide, by decide⟩,
   ⟨_, _, _, _, [(.main 0x20000, leBytes 8 0)], 0x3FF, segmentOf0 State.reset none
     (seg0 [⟨.near (16 * 2 ^ 64 + 256), .main 0x20000, 8⟩] (.started [(.main 0x20000, leBytes 8 0)])) (by decide) no_near,
     rfl, by decide, by decide, rfl, by decide⟩⟩

/-- A purge whose last acknowledgement is that of quad 0. -/
def purged (w : PurgeOf) (runs : List (Nat × Nat)) (after : PurgeEnd) (s : State) : State :=
  { s with purges := [(5, ⟨0, w, [.quad 0], [], runs, [2], after⟩)], refs := runs }

/-- A leaf that a walk finds; the last acknowledgement of an `xlpurge`, of the end of a grant, and of the removal of a leaf. -/
theorem witness_WalksAndPurges :
    (∃ (s : State) (x : Xlat), (s.world 0).quads.getLsbD 3 = true ∧ walk s 0 0x40000 = .leaf x ∧ checkLeaf s 0 x 0x40000 .write false = none) ∧
    (∃ (s : State) (p : Purge) (r : Request) (d : Reg), s.purges.find? 5 = some p ∧ .quad 0 ∈ p.caches ∧ (∀ c ∈ p.caches, c = .quad 0) ∧
      p.nodes = [] ∧ p.runs = [] ∧ p.grants = [] ∧ p.after = .request 6 ∧ s.requests.find? 6 = some r ∧ r.asked = .purge d) ∧
    (∃ (s : State) (p : Purge), s.purges.find? 5 = some p ∧ .quad 0 ∈ p.caches ∧ (∀ c ∈ p.caches, c = .quad 0) ∧ p.nodes = [] ∧
      p.after = .management ∧ p.grants = [2]) ∧
    ∃ (s : State) (p : Purge) (ck : Nat) (o : Ladle) (g : Segment) (run : Nat × Nat), s.purges.find? 5 = some p ∧ .quad 0 ∈ p.caches ∧
      (∀ c ∈ p.caches, c = .quad 0) ∧ p.nodes = [] ∧ p.after = .segment 7 0 ∧ SegmentOf s 7 0 o g ck ∧ g.pins = [] ∧ g.held = none ∧
      p.runs = [run] ∧ run ∈ s.refs ∧ p.grants = [2] ∧ s.quads = [] :=
  ⟨⟨{ mapped State.reset with worlds := (mapped State.reset).worlds.map fun e => (e.1, { e.2 with quads := 8 }) }, leaf0, by decide, by decide,
     by decide⟩,
   ⟨{ State.reset with
        purges := [(5, ⟨0, .all, [.quad 0], [], [], [], .request 6⟩)]
        requests := [(6, ⟨0, 0, 0, 0, Tag.zero, .purge 4, none, false, false⟩)] },
     _, _, 4, rfl, List.mem_singleton.mpr rfl, by decide, rfl, rfl, rfl, rfl, rfl, rfl⟩,
   ⟨purged (.grant 2) [] .management State.reset, _, rfl, List.mem_singleton.mpr rfl, by decide, rfl, rfl, rfl⟩,
   ⟨purged (.table 2) [(4, 1)] (.segment 7 0) (laden none (seg0 [⟨.near (16 * 2 ^ 64 + 256), .main 0x20000, 8⟩] (.purging 5)) State.reset),
     _, _, _, _, _, rfl, List.mem_singleton.mpr rfl, by decide, rfl, rfl,
     ⟨⟨rfl, rfl⟩, ⟨rfl, by decide⟩, ⟨rfl, by decide⟩, no_near, rfl⟩, rfl, rfl, rfl, List.mem_singleton.mpr rfl, rfl, rfl⟩⟩

/-- A thread that waits in its unit for request 6. -/
def asks (a : Asked) (s : State) : State :=
  { mapped s with
    threads := [(0, { noThread with place := .inBundle 0, request := some 6 })], requests := [(6, ⟨0, 0, 0, 0, Tag.zero, a, none, false, false⟩)] }

/-- A service call of a world with a STAT, which waits for its completion. -/
def calling (stat : Nat) : State :=
  { State.reset with
    worlds := [(0, { noWorld with stat := stat })]
    threads := [(0, { noThread with place := .waiting (.service 5 0) })]
    services := [(5, ⟨0, 0, 0, 16 * 2 ^ 64, 4, 0, ⟨2, 4, 16 * 2 ^ 64, 0, Tag.zero, false, 0, 0, 0⟩⟩)] }

/-- A retype of a frame to type 15 with its owner kept, and one to a new owner. -/
theorem witness_AtomicsAndMetadataPerformed_worldZero :
    ∀ owner ∈ [none, some 63], 15 < 16 ∧ ∀ o, owner = some o → o < 64 := by
  intro owner h
  simp only [List.mem_cons, List.not_mem_nil, or_false] at h
  rcases h with rfl | rfl
  · exact ⟨by decide, fun o h => by cases h⟩
  · exact ⟨by decide, fun o h => by cases h; decide⟩

theorem witness_AtomicsAndMetadataPerformed :
    (∃ (s : State) (r : Request) (via : Xlat), s.requests.find? 6 = some r ∧ r.asked = .atomic 0x40000 0 10 4 1 2 Tag.zero via) ∧
    (∃ (s : State) (r : Request), s.requests.find? 6 = some r ∧ r.asked = .hostAtomic 0x10000000000000000 0 10 4 1 2 Tag.zero 0 none ∧
      r.replay = false ∧ (s.world r.world).late = []) ∧
    (∀ stat ∈ [2, 3], ∃ (s : State) (v : Service) (head : Word), s.services.find? 5 = some v ∧
      (s.thread v.tid).place = .waiting (.service 5 head) ∧ (∀ e ∈ (s.thread v.tid).pending, e.1 ≠ .hostLink) ∧ (s.world v.world).stat = stat) ∧
    (∃ (s : State) (r : Request), s.services.find? 6 = none ∧ s.requests.find? 6 = some r ∧
      r.asked = .hostAtomic 0x10000000000000000 0 8 4 1 2 Tag.zero 0 none ∧ r.replay = false ∧ (s.thread r.tid).request = some 6 ∧
      (∀ w, (s.thread r.tid).place ≠ .waiting w) ∧ (s.thread r.tid).place ≠ .ended ∧ (∀ c ∈ (s.thread r.tid).pending, c.1 ≠ .hostLink) ∧
      ∀ l ∈ (s.world r.world).late, l.1 ≠ 6) ∧
    (∃ (s : State) (r : Request), s.requests.find? 6 = some r ∧ r.asked = .fquery 4 8) ∧
    ∃ (s : State) (r : Request), s.requests.find? 6 = some r ∧ r.asked = .fretype 4 0 none 8 ∧ retypeWord s r.world 4 0 none = 0 :=
  ⟨⟨asks (.atomic 0x40000 0 10 4 1 2 Tag.zero leaf0) State.reset, _, _, rfl, rfl⟩,
   ⟨asks (.hostAtomic 0x10000000000000000 0 10 4 1 2 Tag.zero 0 none) State.reset, _, rfl, rfl, rfl, by decide⟩,
   (fun stat h => ⟨calling stat, _, 0, rfl, rfl, (fun e he => by cases he), by
     simp only [List.mem_cons, List.not_mem_nil, or_false] at h
     rcases h with rfl | rfl <;> rfl⟩),
   ⟨asks (.hostAtomic 0x10000000000000000 0 8 4 1 2 Tag.zero 0 none) State.reset, _, rfl, rfl, rfl, rfl, by decide,
     (fun w h => by cases h), by decide, by decide, by decide⟩,
   ⟨asks (.fquery 4 8) State.reset, _, rfl, rfl⟩, ⟨asks (.fretype 4 0 none 8) State.reset, _, rfl, rfl, by decide⟩⟩

theorem witness_HostAccessesAndPages_accesses : ∃ s : State, (s.world 0).tdi ≠ .error ∧
    isTableType (s.frame (leaf0.phys 0x40000 / 2 ^ 16)).type = false ∧ (accessIn s (.host 0) 0 0x40000 .write true).1 = .ok leaf0 ∧
    (accessIn s (.host 0) 0 0x40000 .read true).1 = .ok leaf0 ∧ (accessIn s (.host 0) 0 0x40000 .atomic false).1 = .ok leaf0 ∧
    isAperture (leaf0.phys 0x40000 / 2 ^ 16) = false :=
  ⟨mapped State.reset, by decide, by decide, by decide, by decide, by decide, by decide⟩

theorem witness_HostAccessesAndPages_tables : ∃ (s : State) (b : List Byte) (rule : Nat), (s.world 0).tdi ≠ .error ∧ b ≠ [] ∧
    0x20008 % 2 ^ 16 + b.length ≤ 2 ^ 16 ∧ (accessIn s (.host 0) 0 0x20008 .write true).1 = .ok leaf0 ∧
    isTableType (s.frame (leaf0.phys 0x20008 / 2 ^ 16)).type = true ∧
    checkWrites s (leaf0.phys 0x20008 / 2 ^ 16) [(leaf0.phys 0x20008 % 2 ^ 16, b)] = .error rule :=
  ⟨mapped State.reset, leBytes 8 0x8000000000000001, 2, by decide, by decide, by decide, by decide, by decide, by decide⟩

theorem witness_HostAccessesAndPages_errors : ∃ s : State, (s.world 0).tdi = .error :=
  ⟨{ State.reset with worlds := [(0, { noWorld with tdi := .error })] }, rfl⟩

theorem witness_TableWritesAreChecked : ∃ s : State, isTableType (s.frame 2).type = true := ⟨mapped State.reset, by decide⟩

/-- A response of the function's incarnation, for a segment and for an atomic that wait, and one of an old incarnation. -/
theorem witness_HostAccessesAndPages_pages :
    (∃ (s : State) (page : Nat) (inc : BitVec 5) (o : Ladle) (g : Segment) (r : Request),
      (s.world 0).pages.find? (inc.toNat * 16 + 3) = some page ∧ inc = (s.world 0).inc ∧ s.ladles.find? 7 = some o ∧
      o.segs.find? 0 = some g ∧ g.state = .paging 0 3 ∧ s.requests.find? 6 = some r ∧ (∀ y ∈ s.requests, y.1 = 6 → y.2 = r) ∧
      r.asked = .hostAtomic 0 0 8 4 1 2 Tag.zero 0 (some (0, 3)) ∧ r.replay = false) ∧
    ∃ (s : State) (page : Nat) (inc : BitVec 5), (s.world 0).pages.find? (inc.toNat * 16 + 3) = some page ∧ inc ≠ (s.world 0).inc :=
  ⟨⟨{ State.reset with
        worlds := [(0, { noWorld with pages := [(19, 7)], inc := 1 })]
        ladles := [(7, ladle0 none (seg0 [] (.paging 0 3)))]
        requests := [(6, ⟨0, 0, 0, 0, Tag.zero, .hostAtomic 0 0 8 4 1 2 Tag.zero 0 (some (0, 3)), none, false, false⟩)] }, 7, 1, _, _, _,
     by decide, by decide, rfl, rfl, rfl, rfl, by decide, rfl, rfl⟩,
   ⟨{ State.reset with worlds := [(0, { noWorld with pages := [(19, 7)], inc := 2 })] }, 7, 1, by decide, by decide⟩⟩

/-- A call that waits for the completion of entry 2; the entry's STATUS written, or all ones. -/
def served (status : Nat) : State :=
  { mapped State.reset with
    threads := [(0, { noThread with place := .waiting (.service 5 0) })]
    services := [(5, ⟨0, 0, 2, 16 * 2 ^ 64, 4, 0, ⟨2, 4, 16 * 2 ^ 64, 0, Tag.zero, false, 0, 0, 0⟩⟩)]
    mem := Memory.writeBytes (mapped State.reset).mem (0x30000 + 256 + 16) (leBytes 4 status) }

theorem witness_ServiceRings_completions (status : Nat) (h : status = 7 ∨ status = 0xFFFFFFFF) :
    ∃ (s : State) (v : Service) (page : BitVec 2), (s.world 0).tdi ≠ .error ∧ (s.world 0).stat < 3 ∧ s.services.find? 5 = some v ∧
      v.world = 0 ∧ v.index = 2 % 512 ∧ (s.thread v.tid).place = .waiting (.service 5 0) ∧
      (∀ e ∈ s.services, e.2.world = 0 → e.2.index = v.index → isServed s e.1 e.2 = true → e = (5, v)) ∧
      ringPage s 0 (s.world 0).srbase false = some (0x30000, page) ∧ s.mem.readLe (physKey (0x30000 + 128 * v.index) + 16) 4 = status := by
  rcases h with rfl | rfl
  · exact ⟨served 7, _, 3, by decide, by decide, rfl, rfl, rfl, by decide, by decide, by decide, by decide⟩
  · exact ⟨served 0xFFFFFFFF, _, 3, by decide, by decide, rfl, rfl, rfl, by decide, by decide, by decide, by decide⟩

/-- A world that is being saved. -/
theorem witness_ServiceRings_saved : ∃ s : State, (s.world 0).tdi ≠ .error ∧ 3 ≤ (s.world 0).stat :=
  ⟨calling 3, by decide, by decide⟩

/-- A call with a grade that waits for a ring entry, all 512 of which are taken. -/
def ringing (grade : BitVec 2) (s : State) : State :=
  { s with
    threads := [(0, { noThread with place := .waiting (.ring 4 ⟨2, 4, 16 * 2 ^ 64, grade, Tag.zero, false, 0, 0, 0⟩ 0) })]
    worlds := s.worlds.map fun e => (e.1, { e.2 with srhead := 512, handler := 64 }) }

/-- A call that takes the entry that is freed, and one whose data exceed the grade of the ring's page (grade 0 as its leaf says). -/
theorem witness_ServiceRings_waiters :
    ∀ g ∈ [(0 : BitVec 2), 3], ∃ (s : State) (c : Call) (pa : Nat) (page : BitVec 2), (s.world 0).tdi ≠ .error ∧
      ((s.world 0).srhead - 1).toNat ≤ ((s.world 0).srhead - (s.world 0).srtail).toNat ∧ ((s.world 0).srhead - 1).toNat < 512 ∧
      ringWaiters s 0 = [(4, 0, c, 0)] ∧ (s.thread 0).place = .waiting (.ring 4 c 0) ∧ s.threadWorld 0 = 0 ∧
      ringPage s 0 (s.world 0).srbase false = some (pa, page) ∧ c.grade = g ∧ (page.toNat < c.grade.toNat ↔ g = 3) ∧ CanTrap s 0 ∧ s.isKilled 0 = false := by
  intro g h
  simp only [List.mem_cons, List.not_mem_nil, or_false] at h
  rcases h with rfl | rfl
  · exact ⟨ringing 0 (mapped State.reset), _, 0x30000, 3, by decide, by decide, by decide, by decide, rfl, by decide, by decide, rfl, by decide,
      ⟨by decide, by decide, by decide⟩, by decide⟩
  · exact ⟨ringing 3 { mapped State.reset with mem := [(0x20000, 0xFF)] }, _, 0x30000, 0, by decide, by decide, by decide, by decide, rfl, by decide, by decide, rfl, by decide,
      ⟨by decide, by decide, by decide⟩, by decide⟩

theorem witness_ServiceRings_tails :
    (∃ (s : State) (v : Word), (s.world 0).tdi ≠ .error ∧ (v - (s.world 0).srtail).toNat ≤ ((s.world 0).srhead - (s.world 0).srtail).toNat ∧
      ringWaiters s 0 = []) ∧
    (∃ (s : State) (v : Word), (s.world 0).tdi ≠ .error ∧ ((s.world 0).srhead - (s.world 0).srtail).toNat < (v - (s.world 0).srtail).toNat) ∧
    ∃ s : State, (s.world 0).tdi ≠ .error ∧ 3 ≤ (s.world 0).stat :=
  ⟨⟨State.reset, 0, by decide, by decide, by decide⟩, ⟨State.reset, 1, by decide, by decide⟩,
   ⟨{ State.reset with worlds := [(0, { noWorld with stat := 4 })] }, by decide, by decide⟩⟩

/-! ## Witnesses: registers of the windows, pre-emption, commands, launches -/

def world0 (x : World) : State := { State.reset with worlds := [(0, x)] }

theorem witness_RegisterWrites_queues :
    (∃ s : State, (s.world 0).tdi ≠ .error ∧
      ((5 : Word) - (s.cmdQueue 0 2).head).toNat ≤ 1024 ∧ ((s.cmdQueue 0 2).tail - (s.cmdQueue 0 2).head).toNat ≤ ((5 : Word) - (s.cmdQueue 0 2).head).toNat) ∧
    ∃ s : State, (s.world 0).tdi ≠ .error ∧ 1024 < ((1025 : Word) - (s.cmdQueue 0 2).head).toNat :=
  ⟨⟨State.reset, by decide, by decide, by decide⟩, ⟨State.reset, by decide, by decide⟩⟩

/-- A root of type TABLE3, or not; the context area in frame 5, or not. -/
theorem witness_RegisterWrites_worlds :
    (∃ (s : State) (v : Word), (s.world 0).tdi ≠ .locked ∧ (s.world 0).tdi ≠ .run ∧ frameThere s v.toNat = true ∧ (s.frame v.toNat).type = 3 ∧
      (s.frame v.toNat).owner = 0 ∧ ∀ e ∈ s.teams, e.2.world = 0 → teamResident s e.1 e.2 = false) ∧
    (∃ (s : State) (v : Word), (s.world 0).tdi ≠ .locked ∧ (s.world 0).tdi ≠ .run ∧ (s.frame v.toNat).type ≠ 3) ∧
    (∃ (s : State) (v : Word), (s.world 0).stat ≤ 1 ∧ contextRun s 0 v.toNat (max 1 (s.world 0).wctxn) = true) ∧
    ∃ (s : State) (v : Word), (s.world 0).stat ≤ 1 ∧ contextRun s 0 v.toNat (max 1 (s.world 0).wctxn) = false :=
  ⟨⟨mapped State.reset, 2, by decide, by decide, by decide, by decide, by decide, by decide⟩,
   ⟨mapped State.reset, 4, by decide, by decide, by decide⟩,
   ⟨mapped State.reset, 5, by decide, by decide⟩, ⟨mapped State.reset, 4, by decide, by decide⟩⟩

theorem witness_RegisterWrites_frozen : ∃ (s : State) (v : Word) (q : BitVec 256), (s.world 0).tdi = .run ∧ v.toNat ≠ (s.world 0).root ∧
    (s.world 0).quads &&& ~~~q ≠ 0 ∧ (0x10000000 : DWord) ≠ (s.world 0).bar0 :=
  ⟨world0 { noWorld with tdi := .run, quads := 1 }, 2, 0, by decide, by decide, by decide, by decide⟩

/-- Registers of world 0 read while its window is open, and of a window that is closed. -/
theorem witness_RegistersRead : (∃ s : State, (s.world 0).tdi ≠ .error) ∧ ∃ s : State, (s.world 0).tdi = .error :=
  ⟨⟨State.reset, by decide⟩, ⟨world0 { noWorld with tdi := .error }, rfl⟩⟩

theorem witness_RegisterWrites_fabric :
    (∃ s : State, ∀ e ∈ s.worlds, e.2.stat ≠ 1) ∧ (∃ s : State, ∃ e ∈ s.worlds, e.2.stat = 1) ∧
    ∃ v : DWord, v.toNat / 2 ^ 56 % 64 = 0 ∧ v.toNat / 2 ^ 12 % 2 ^ 20 = 0 ∧ v.toNat / 2 ^ 40 % 2 ^ 16 ≠ 0xFFFF ∧ v.toNat / 2 ^ 38 % 4 ≠ 3 :=
  ⟨⟨State.reset, by decide⟩, ⟨world0 { noWorld with stat := 1 }, _, List.mem_singleton.mpr rfl, rfl⟩, ⟨0x8000000000000005, by decide, by decide, by decide, by decide⟩⟩

/-- A thread of a world in a state, at a place. -/
def worldThread (stat : Nat) (t : Thread) : State :=
  { State.reset with
    threads := [(0, t)], teams := [(0, { noTeam with ended := false })], worlds := [(0, { noWorld with stat := stat, wctxn := 2, handler := 64 })] }

theorem witness_WorldsHalted :
    (∃ (s : State) (tm : Team), s.teams.find? 0 = some tm ∧ tm.world = 0 ∧ tm.ended = false ∧ tm.killed = none) ∧
    (∃ s : State, (s.world 0).stat = 1 ∧ estimate s 0 ≤ 32768 * (s.world 0).wctxn) ∧
    (∃ s : State, (s.world 0).stat = 1 ∧ 32768 * (s.world 0).wctxn < estimate s 0) ∧
    ∃ s : State, (s.threads.find? 0).isSome = true ∧ (s.world (s.threadWorld 0)).stat = 2 ∧ s.isKilled 0 = false ∧ resumeOf s 0 = some 12 ∧
      (s.thread 0).enters = false ∧ ∀ b, (s.thread 0).place ≠ .inBundle b :=
  ⟨⟨worldThread 1 noThread, _, rfl, rfl, rfl, rfl⟩, ⟨worldThread 1 noThread, by decide, by decide⟩,
   ⟨world0 { noWorld with stat := 1 }, by decide, by decide⟩,
   ⟨worldThread 2 { noThread with pc := 12, place := .filed }, by decide, by decide, by decide, by decide, rfl, fun b h => by cases h⟩⟩

theorem witness_WorldsSaved :
    (∃ s : State, (s.world 0).stat = 2 ∧ s.threads ≠ [] ∧ (∀ e ∈ s.threads, s.threadWorld e.1 = 0 → isHalted e.2 = true) ∧
      (∀ e ∈ s.requests, e.2.world = 0 → e.2.replay = true) ∧
      (∀ e ∈ s.ladles, e.2.world = 0 → ∀ g ∈ e.2.segs, replays s e.2 g.2 = true ∨ waitsForTile s e.2 g.2 = true) ∧
      (∀ e ∈ s.quads, tableQuiet s 0 e.2 = true) ∧ (∀ e ∈ s.late, s.threadWorld e.tid ≠ 0) ∧ ∀ e ∈ s.groups, postsLater s 0 e = false) ∧
    (∃ (s : State) (r : Request) (c : ChainUnit) (rest : List ChainUnit), s.requests.find? 6 = some r ∧ r.replay = false ∧
      (s.world r.world).stat = 2 ∧ mayReplay r.asked = true ∧ (s.thread 0).request = some 6 ∧ (s.thread 0).place = .inBundle 0 ∧
      (s.bundle 0).chain = c :: rest ∧ ∀ k, k ≠ 0 → (s.thread k).request ≠ some 6) ∧
    ∃ s : State, (s.world 0).stat = 3 :=
  ⟨⟨worldThread 2 { noThread with place := .waiting .halted }, by decide, by decide, by decide, by decide, by decide, by decide, by decide, by decide⟩,
   ⟨{ worldThread 2 { noThread with place := .inBundle 0, request := some 6 } with
        requests := [(6, ⟨0, 0, 0, 0, Tag.zero, .hostAtomic 0x10000000000000000 0 0 4 1 2 Tag.zero 0 none, none, false, false⟩)]
        bundles := [(0, { noBundle with tids := [0], chain := [⟨.atom bare 2 4 0 10, 0, 0, 1, 0⟩] })] },
     _, ⟨.atom bare 2 4 0 10, 0, 0, 1, 0⟩, [], rfl, rfl, by decide, rfl, rfl, rfl, rfl, by
       intro k hk h
       have e : ∀ (l : SMap Thread), l = [(0, { noThread with place := .inBundle 0, request := some 6 })] → (l.getD k noThread).request = some 6 → False := by
         rintro _ rfl hh
         simp [SMap.getD, SMap.find?, Ne.symm hk] at hh
         exact absurd hh (by decide)
       exact e _ rfl h⟩,
   ⟨world0 { noWorld with stat := 3, estimate := 1000, wctxn := 2 }, by decide⟩⟩

/-- A world whose tile load has a row that waits for its entry, and one whose segment to a rank is a replay entry. -/
theorem witness_WorldsSaved_rows : ∃ s : State, (s.world 0).stat = 2 ∧ (∀ e ∈ s.threads, s.threadWorld e.1 = 0 → isHalted e.2 = true) ∧
    (∃ e ∈ s.ladles, ∃ g ∈ e.2.segs, waitsForTile s e.2 g.2 = true) ∧ (∃ e ∈ s.ladles, ∃ g ∈ e.2.segs, replays s e.2 g.2 = true) ∧
    (∀ e ∈ s.ladles, e.2.world = 0 → ∀ g ∈ e.2.segs, replays s e.2 g.2 = true ∨ waitsForTile s e.2 g.2 = true) ∧
    (∀ e ∈ s.quads, tableQuiet s 0 e.2 = true) ∧ (∀ e ∈ s.late, s.threadWorld e.tid ≠ 0) ∧ ∀ e ∈ s.groups, postsLater s 0 e = false :=
  ⟨{ worldThread 2 { noThread with place := .waiting .halted } with
      ladles := [(7, { ladle0 none (seg0 [⟨.main 0x40000, .tile 128, 8⟩] .queued) with tile := some (3, 9) }),
        (8, ladle0 (some 1) (seg0 [⟨.main 0x40000, .near (16 * 2 ^ 64 + 256), 8⟩] .remote))]
      quads := [(0, { noQuad with table := [⟨9, 0, 0, .tilein 3 7, none⟩] })] },
    by decide, by decide, by decide, by decide, by decide, by decide, by decide, by decide⟩

/-- Threads of a halting world: one that has entered its handler, filed and at a chain boundary of a bundle without a cause; one at such a
boundary whose HND is 1 with a cause pending; one at it that takes its cause first; one that waits at a rendezvous. -/
theorem witness_WorldsHalted_boundary :
    let halting := fun (s : State) => (s.threads.find? 0).isSome = true ∧ (s.world (s.threadWorld 0)).stat = 2 ∧ s.isKilled 0 = false
    (∀ p ∈ [Place.filed, .inBundle 0], ∃ s : State, halting s ∧ (s.thread 0).enters = true ∧ (s.thread 0).place = p ∧
      (s.bundle 0).chain = [] ∧ (s.thread 0).pending = []) ∧
    (∃ s : State, halting s ∧ (s.thread 0).place = .inBundle 0 ∧ (s.bundle 0).chain = [] ∧ (s.thread 0).hnd = true ∧
      (s.thread 0).pending ≠ [] ∧ (s.thread 0).enters = false ∧ (resumeOf s 0).isSome = true) ∧
    (∃ s : State, halting s ∧ (s.thread 0).place = .inBundle 0 ∧ (s.bundle 0).chain = [] ∧ TakesCause s 0 .hostLink 5) ∧
    ∃ s : State, halting s ∧ (s.thread 0).place = .waiting (.mask 3) := by
  refine ⟨?_, ?_, ?_, ?_⟩
  · intro p h
    simp only [List.mem_cons, List.not_mem_nil, or_false] at h
    rcases h with rfl | rfl
    · exact ⟨worldThread 2 { noThread with place := .filed, enters := true }, ⟨by decide, by decide, by decide⟩, rfl, rfl, by decide, rfl⟩
    · exact ⟨worldThread 2 { noThread with place := .inBundle 0, enters := true }, ⟨by decide, by decide, by decide⟩, rfl, rfl, by decide, rfl⟩
  · exact ⟨worldThread 2 { noThread with place := .inBundle 0, hnd := true, pending := [(.hostLink, 5)] }, ⟨by decide, by decide, by decide⟩,
      rfl, by decide, rfl, by decide, rfl, by decide⟩
  · exact ⟨worldThread 2 { noThread with place := .inBundle 0, pending := [(.hostLink, 5)] }, ⟨by decide, by decide, by decide⟩,
      rfl, by decide, by constructor <;> decide⟩
  · exact ⟨worldThread 2 { noThread with place := .waiting (.mask 3) }, ⟨by decide, by decide, by decide⟩, rfl⟩

/-- A saved world of counter 1 whose image of one body byte lies in frame 5. -/
def header0 : List Byte :=
  leBytes 4 0x415A4358 ++ leBytes 2 1 ++ leBytes 1 0 ++ leBytes 1 1 ++ leBytes 8 1 ++ leBytes 8 1 ++ leBytes 8 1 ++ leBytes 4 0 ++
    List.replicate 220 0

def parked0 (saves : Nat) (img : Image) : State :=
  { world0 { noWorld with stat := 4, saves := saves, wctx := 5, wctxn := 2, image := some img } with
    mem := Memory.writeBytes [] 0x50000 (header0 ++ [7]) }

def image0 : Image := ⟨0, header0, [7], [], []⟩

/-- What RESTORE asks of a header (R353), as a test. -/
def goodHeader (s : State) : Bool :=
  let h := s.mem.readBytes (physKey (5 * 2 ^ 16)) 256
  let num := fun (a n : Nat) => leValue ((h.drop a).take n)
  num 0 4 = 0x415A4358 && num 4 2 = 1 && num 6 1 = 0 && (num 7 1 = 1 || num 7 1 = 3) && num 24 8 = num 8 8 && num 32 4 = 0 &&
    ((h.drop 36).take 28).all (· = 0) && (h.drop 80).all (· = 0) && num 8 8 = (s.world 0).saves

/-- An image as it was sealed; one of another save counter; and one whose header, body or epoch is not the one that it was sealed under. -/
theorem witness_WorldsRestored_checks :
    (goodHeader (parked0 1 image0) = true ∧ (parked0 1 image0).mem.readBytes (physKey (5 * 2 ^ 16)) 256 = header0 ∧
      (parked0 1 image0).mem.readBytes (physKey (5 * 2 ^ 16 + 256)) 1 = [7] ∧ (parked0 1 image0).mgmt.go = false) ∧
    goodHeader (parked0 2 image0) = false ∧
    (goodHeader (parked0 1 { image0 with header := [] }) = true ∧
      (parked0 1 { image0 with header := [] }).mem.readBytes (physKey (5 * 2 ^ 16)) 256 ≠ []) ∧
    (goodHeader (parked0 1 { image0 with body := [8] }) = true ∧
      (parked0 1 { image0 with body := [8] }).mem.readBytes (physKey (5 * 2 ^ 16 + 256)) 1 ≠ [8]) ∧
    (goodHeader (parked0 1 { image0 with epoch := 1 }) = true ∧ ((parked0 1 { image0 with epoch := 1 }).world 0).epoch ≠ 1) := by
  refine ⟨⟨?_, ?_, ?_, ?_⟩, ?_, ⟨?_, ?_⟩, ⟨?_, ?_⟩, ?_, ?_⟩ <;> decide +kernel

theorem witness_WorldsRestored_flips : ∃ s : State, (s.world 0).stat = 4 ∧ s.mgmt.go = true ∧ s.mgmtWord 0 % 256 = 0x31 ∧ mgmtWaits s = false :=
  ⟨{ parked0 1 image0 with mgmt := { State.reset.mgmt with go := true, words := [0x31, 0, 0, 0] } }, by decide, by decide, by decide, by decide⟩

def cellAsked : Asked := .cell 0 none 0 0 0 0 0 ⟨0, by decide⟩ Tag.zero none

/-- 4,096 outstanding requests of core 0, and one that is to be replayed there. -/
def full0 : SMap Request :=
  (4096, ⟨0, 0, 0, 1, Tag.zero, cellAsked, none, true, false⟩) :: (List.range 4096).map fun k => (k, ⟨0, 0, 0, 0, Tag.zero, cellAsked, none, false, false⟩)

theorem witness_WorldsRestored_completes :
    (∃ s s' : State, (s.world 0).stat = 5 ∧ loadWorld s 0 = some s' ∧ replayOrder (reissue s' 0) 0 = []) ∧
    (∃ s s' : State, (s.world 0).stat = 5 ∧ loadWorld s 0 = some s' ∧ replayOrder (reissue s' 0) 0 ≠ []) ∧
    (∃ s : State, (s.world 0).stat = 5 ∧ (s.world 0).placed = false ∧ placeAll s 0 = none) ∧
    (∃ (s : State) (full : List Nat), ∀ r ∈ [Replay.seg 7 0], r.core s ∈ full) ∧
    (∃ s : State, (s.world 0).rekey = none) ∧ (∃ s : State, (s.world 0).rekey ≠ none ∧ ∀ r ∈ sealedRuns s 0, r.1 + r.2 ≤ 3) :=
  ⟨⟨world0 { noWorld with stat := 5, placed := true }, _, by decide, rfl, by decide⟩,
   ⟨{ world0 { noWorld with stat := 5, placed := true } with requests := full0 }, _, by decide, rfl, by decide +kernel⟩,
   ⟨{ world0 { noWorld with stat := 5 } with
        clusters := [(0, { noCluster with cores := [0] })], teams := [(0, { noTeam with ended := false })] }, by decide, by decide, by decide⟩,
   ⟨State.reset, [65536], by decide⟩, ⟨State.reset, by decide⟩,
   ⟨world0 { noWorld with rekey := some 3 }, by decide, by decide⟩⟩

/-- A queue of world 0 whose first entry, in the ring of frame 3, is a command with an operation and operands. -/
def command (op : Nat) (a b c : Nat) (s : State) : State :=
  let m := mapped s
  { m with
    worlds := m.worlds.map fun e => (e.1, { e.2 with queues := [(0, { en := true, tail := 1, base := 0x30000 })] })
    mem := Memory.writeBytes m.mem 0x30000 (leBytes 8 op ++ leBytes 8 a ++ leBytes 8 b ++ leBytes 8 c) }

theorem operand0 (op b c : Nat) (h : walk (command op 0x40000 b c State.reset) 0 0x40000 = .leaf leaf0)
    (k : checkLeaf (command op 0x40000 b c State.reset) 0 leaf0 0x40000 .atomic false = none) :
    OperandAt (command op 0x40000 b c State.reset) 0 0x40000 0x40000 := ⟨leaf0, h, k, by decide⟩

theorem witness_CommandsRun :
    (∃ s c, OperandAt s 0 c.a 0x40000 ∧ Due s 0 0 2 0x30000 c ∧ c.b.toNat ≤ s.mem.readLe 0x40000 8) ∧
    (∃ s c, OperandAt s 0 c.a 0x40000 ∧ Due s 0 0 2 0x30000 c ∧ s.mem.readLe 0x40000 8 < c.b.toNat) ∧
    (∃ s c, OperandAt s 0 c.a 0x40000 ∧ Due s 0 0 3 0x30000 c) ∧ (∃ s c, OperandAt s 0 c.a 0x40000 ∧ Due s 0 0 5 0x30000 c) ∧
    (∃ s c, (∃ key, nextCommand s 0 0 = .entry 0x30000 key c) ∧ s.assayer.entered = false ∧ c.bad = true ∧ (s.cmdQueue 0 0).flushed = 0) ∧ (∃ s, nextCommand s 0 0 = .noRing ∧ s.assayer.entered = false) ∧
    (∃ s c, Due s 0 0 4 0x30000 c ∧ 0 < c.c.toNat ∧ (s.world 0).quads = 0) ∧
    ∃ s c, Due s 0 0 2 0x30000 c ∧ ∀ key, ¬ OperandAt s 0 c.a key :=
  ⟨⟨command 2 0x40000 0 0 State.reset, ⟨2, 0x40000, 0, 0, false⟩, operand0 2 0 0 (by decide) (by decide), ⟨rfl, ⟨0x30000, by decide +kernel⟩, rfl, rfl, rfl⟩,
     by decide⟩,
   ⟨command 2 0x40000 1 0 State.reset, ⟨2, 0x40000, 1, 0, false⟩, operand0 2 1 0 (by decide) (by decide), ⟨rfl, ⟨0x30000, by decide +kernel⟩, rfl, rfl, rfl⟩,
     by decide⟩,
   ⟨command 3 0x40000 1 0 State.reset, ⟨3, 0x40000, 1, 0, false⟩, operand0 3 1 0 (by decide) (by decide), ⟨rfl, ⟨0x30000, by decide +kernel⟩, rfl, rfl, rfl⟩⟩,
   ⟨command 5 0x40000 1 0 State.reset, ⟨5, 0x40000, 1, 0, false⟩, operand0 5 1 0 (by decide) (by decide), ⟨rfl, ⟨0x30000, by decide +kernel⟩, rfl, rfl, rfl⟩⟩,
   ⟨command 6 0 0 0 State.reset, ⟨6, 0, 0, 0, false⟩, ⟨0x30000, by decide +kernel⟩, rfl, rfl, rfl⟩,
   ⟨world0 { noWorld with queues := [(0, { en := true, tail := 1 })] }, by decide, rfl⟩,
   ⟨command 4 0x40000 0x40100 16 State.reset, ⟨4, 0x40000, 0x40100, 16, false⟩, ⟨rfl, ⟨0x30000, by decide +kernel⟩, rfl, rfl, rfl⟩, by decide, by decide⟩,
   ⟨command 2 0x40000000000000 0 0 State.reset, ⟨2, 0x40000000000000, 0, 0, false⟩, ⟨rfl, ⟨0x30000, by decide +kernel⟩, rfl, rfl, rfl⟩, by
     rintro key ⟨x, hx, -⟩
     have e : walk (command 2 0x40000000000000 0 0 State.reset) 0 0x40000000000000 = .notMapped := by decide
     exact absurd (e.symm.trans hx) (by intro h; cases h)⟩⟩

def granted0 (n : Nat) : State :=
  let s := command 4 0x40000 0x40100 n State.reset
  { s with worlds := s.worlds.map fun e => (e.1, { e.2 with quads := 1 }) }

/-- A launch of one group of eight registers on one quad, its record at 40000H, its entry at 10000H in frame 1. -/
def record0 (ctl : Nat) : List Byte :=
  leBytes 8 0x10000 ++ leBytes 2 1 ++ leBytes 2 1 ++ leBytes 2 1 ++ leBytes 2 0 ++ leBytes 16 0 ++ leBytes 4 ctl ++ leBytes 4 0 ++
    leBytes 8 0 ++ leBytes 4 (1 + 2 ^ 20) ++ leBytes 12 0 ++ leBytes 64 0

def launch0 (ctl : Nat) : State :=
  let s := command 1 0x40000 0 0 State.reset
  { s with worlds := s.worlds.map fun e => (e.1, { e.2 with quads := 1 }), mem := Memory.writeBytes s.mem 0x40000 (record0 ctl) }

/-- A copy, of no byte or of sixteen, of a world that has the first quad; and a reset that has been entered. -/
theorem witness_CommandsRun_more :
    (∀ n ∈ [0, 16], ∃ s c, Due s 0 0 4 0x30000 c ∧ c.c.toNat = n ∧ ((s.world 0).quads.getLsbD 0 && dieRuns s (0 / 64)) = true) ∧
    ∃ s : State, s.assayer.entered = true := by
  refine ⟨?_, ⟨{ State.reset with assayer := { State.reset.assayer with entered := true } }, rfl⟩⟩
  intro n h
  simp only [List.mem_cons, List.not_mem_nil, or_false] at h
  rcases h with rfl | rfl
  · exact ⟨granted0 0, ⟨4, 0x40000, 0x40100, 0, false⟩, ⟨rfl, ⟨0x30000, by decide +kernel⟩, rfl, rfl, rfl⟩, rfl, rfl⟩
  · exact ⟨granted0 16, ⟨4, 0x40000, 0x40100, 16, false⟩, ⟨rfl, ⟨0x30000, by decide +kernel⟩, rfl, rfl, rfl⟩, rfl, rfl⟩

theorem witness_LaunchesDistributed_launches :
    (∃ s c x, Due s 0 0 1 0x30000 c ∧ c.a.toNat % 128 = 0 ∧ translates s 0 c.a.toNat .read = some x ∧
      recordRefusal s 0 (readRecord s.mem (physKey (x.phys c.a.toNat))) = none) ∧
    (∃ s c x, Due s 0 0 1 0x30000 c ∧ c.a.toNat % 128 = 0 ∧ translates s 0 c.a.toNat .read = some x ∧
      recordRefusal s 0 (readRecord s.mem (physKey (x.phys c.a.toNat))) = some 3) ∧
    ∃ s c, Due s 0 0 1 0x30000 c ∧ c.a.toNat % 128 ≠ 0 :=
  ⟨⟨launch0 (64 * 2 ^ 16), ⟨1, 0x40000, 0, 0, false⟩, leaf0, ⟨rfl, ⟨0x30000, by decide +kernel⟩, rfl, rfl, rfl⟩, by decide, by decide, by decide +kernel⟩,
   ⟨launch0 0, ⟨1, 0x40000, 0, 0, false⟩, leaf0, ⟨rfl, ⟨0x30000, by decide +kernel⟩, rfl, rfl, rfl⟩, by decide, by decide, by decide +kernel⟩,
   ⟨command 1 0x40008 0 0 State.reset, ⟨1, 0x40008, 0, 0, false⟩, ⟨rfl, ⟨0x30000, by decide +kernel⟩, rfl, rfl, rfl⟩, by decide⟩⟩

/-- A running launch of one cluster of one quad. -/
def running0 (n : Nat) : State :=
  { world0 { noWorld with quads := 1, queues := [(0, { en := true, tail := 1, running := some (.launch 3) })] } with
    launches := [(3, { noLaunch with gdx := 1, gdy := 1, gdz := 1, nextIndex := n, roles := [⟨8, 0, 0, 1⟩, noRole, noRole, noRole] })], time := 3600000, span := 2450448000000 }

/-- A launch of one cluster all of whose teams have ended: with ABORT or without, with how many killed, and stopped before its cluster (n = 0)
or after it. -/
def ends0 (abort : Bool) (killed n : Nat) : State :=
  { running0 n with launches := [(3, { noLaunch with
      gdx := 1, gdy := 1, gdz := 1, nextIndex := n, stopped := n = 0, abortOnFail := abort, killed := killed })] }

/-- A cluster that is distributed, one that has waited for 1 ms, and launches that complete: OK, with a team killed, with ABORT and a team killed,
and stopped before their cluster. -/
theorem witness_LaunchesDistributed_clusters :
    (∃ (s : State) (l : Launch) (r : Nat × Nat × Nat), let a := s.launches.foldl (fun s e => returnChunks s e.1 (s.launch e.1)) s
      winner a (candidates a) = some (3, l, r) ∧ a.launches.find? 3 = some l ∧ 0 < l.gdx ∧ 0 < l.gdy ∧ (s.world l.world).stat ≤ 1) ∧
    (∃ s : State, (s.cmdQueue 0 0).running = some (.launch 3) ∧ wantsCluster s (s.launch 3) = true ∧ 2450448000000 ≤ s.span - (s.launch 3).since) ∧
    ∀ l ∈ [(false, 0, 1), (false, 1, 1), (true, 1, 1), (false, 0, 0)],
      let s := ends0 l.1 l.2.1 l.2.2
      (s.cmdQueue 0 0).running = some (.launch 3) ∧ (s.cmdQueue 0 0).flushed = 0 ∧ (s.launch 3).complete = false ∧
      ((s.launch 3).stopped = true ∨ (s.launch 3).gdx * (s.launch 3).gdy * (s.launch 3).gdz ≤ (s.launch 3).nextIndex) ∧
      (∀ e ∈ s.teams, e.2.launch = 3 → e.2.ended = true ∧ e.2.endedAt < s.time) ∧
      (∀ e ∈ s.ladles, e.2.launch ≠ some 3) ∧ (∀ e ∈ s.quads, ∀ p ∈ e.2.table, (s.team p.team).launch ≠ 3) ∧
      ∀ e ∈ s.groups, (s.team (teamOfGid e.1)).launch = 3 → ∀ c ∈ e.2.conv, c.2.signed = 0 ∨ c.2.signed ≠ c.2.declared :=
  ⟨⟨running0 0, _, (0, 0, 0), by decide +kernel, rfl, by decide, by decide, by decide⟩,
   ⟨running0 0, by decide, by decide, by decide⟩, by decide⟩

/-! ## Witnesses: the Assayer, resets, interfaces, the fabric, cells -/

/-- The management window started with words. -/
def asked0 (w0 w1 w2 w3 : Word) (s : State) : State := { s with mgmt := { s.mgmt with go := true, words := [w0, w1, w2, w3] } }

theorem started0 (w0 w1 w2 w3 : Word) (cmd : Nat) (h : w0.toNat % 256 = cmd) : Started (asked0 w0 w1 w2 w3 State.reset) cmd :=
  ⟨rfl, h, fun _ he => by cases he⟩

theorem witness_AssayerCommands :
    (∃ s : State, Started s 0x10 ∧ s.assayer.entered = false) ∧ (∃ s : State, Started s 0x10 ∧ s.assayer.entered = true) ∧
    (∃ s : State, Started s 0x11) ∧ (∃ s : State, (s.world 3).spdm = .secure ∧ s.assayer.entered = false) ∧ (∃ s : State, Started s 0x20) ∧
    (∃ s : State, Started s 0x40 ∧ 1000 ≤ s.mgmtWord 1 ∧ s.mgmtWord 1 ≤ 3200) ∧
    (∃ s : State, Started s 0x30 ∧ s.mgmtWord 1 < 4 ∧ 1 ≤ s.mgmtWord 3 ∧ s.mgmtWord 3 ≤ 128) ∧
    (∃ s : State, Started s 0x51 ∧ s.mgmtWord 1 / 2 ^ 24 % 256 ≠ 0) ∧
    (∃ s : State, Started s 0x50 ∧ s.mgmtWord 1 / 2 ^ 24 % 256 = 2 ∧ (s.grant 0 2).uses = 0 ∧ s.mgmtWord 3 = 16) ∧
    ∃ s : State, Started s 0x31 ∧ s.mgmtWord 0 / 2 ^ 8 % 64 = 1 ∧ (s.world 1).tdi = .unlocked ∧ (s.world 1).stat = 4 ∧
      s.mgmtWord 1 < (s.world 1).wctxn / 2 * 2 ^ 16 :=
  ⟨⟨asked0 0x10 0 0 0 State.reset, started0 _ _ _ _ _ (by decide), rfl⟩,
   ⟨{ asked0 0x10 0 0 0 State.reset with assayer := { State.reset.assayer with entered := true } }, ⟨rfl, by decide, fun _ he => by cases he⟩, rfl⟩,
   ⟨asked0 0x11 0 0 0 State.reset, started0 _ _ _ _ _ (by decide)⟩,
   ⟨{ State.reset with worlds := [(3, { noWorld with spdm := .secure })] }, by decide, by decide⟩,
   ⟨asked0 0x20 0 0 0 State.reset, started0 _ _ _ _ _ (by decide)⟩,
   ⟨asked0 0x40 1000 0 0 State.reset, started0 _ _ _ _ _ (by decide), by decide, by decide⟩,
   ⟨asked0 0x30 3 0 128 State.reset, started0 _ _ _ _ _ (by decide), by decide, by decide, by decide⟩,
   ⟨asked0 0x51 0x2000000 0 0 State.reset, started0 _ _ _ _ _ (by decide), by decide⟩,
   ⟨asked0 0x50 0x2000031 4 16 State.reset, started0 _ _ _ _ _ (by decide), by decide, by decide, by decide⟩,
   ⟨{ asked0 0x131 5 1 0 State.reset with worlds := [(1, { noWorld with stat := 4, wctxn := 2 })] },
     ⟨rfl, by decide, fun _ he => by cases he⟩, by decide, by decide, by decide, by decide⟩⟩

/-- The refusals of BBOX_READ in minimal mode, of GRANT_WRITE and of CTX_FLIP, each alone, and a grant that ends. -/
theorem witness_AssayerCommands_refusals :
    (∃ s : State, Started s 0x30 ∧ s.mgmtWord 1 < 4 ∧ 1 ≤ s.mgmtWord 3 ∧ s.mgmtWord 3 ≤ 128 ∧ s.assayer.minimal = true ∧
      s.mgmtWord 1 ≠ s.assayer.minDie) ∧
    (∃ s : State, Started s 0x50 ∧ s.mgmtWord 1 / 2 ^ 24 % 256 = 2 ∧ (s.grant 0 2).uses = 1 ∧ s.mgmtWord 1 / 2 ^ 16 % 256 = 0 ∧
      s.mgmtWord 1 / 2 % 8 = 0 ∧ s.mgmtWord 3 = 16 ∧ (s.grant 0 2).nframes ≠ 16) ∧
    (∃ s : State, Started s 0x50 ∧ s.mgmtWord 0 / 2 ^ 8 % 64 = 1 ∧ s.mgmtWord 1 / 2 ^ 24 % 256 = 2 ∧ (s.grant 1 2).uses = 0 ∧
      s.mgmtWord 3 = 16 ∧ (s.world 1).tdi = .run) ∧
    (∃ s : State, Started s 0x50 ∧ s.mgmtWord 1 = 0x2000101 ∧ (s.grant 0 2).uses = 0 ∧ s.mgmtWord 3 = 16 ∧ (s.world 0).tdi = .unlocked) ∧
    (∃ s : State, Started s 0x31 ∧ s.mgmtWord 0 / 2 ^ 8 % 64 = 1 ∧ s.mgmtWord 2 < 256 ∧ (s.world 1).tdi = .locked) ∧
    (∃ s : State, Started s 0x31 ∧ s.mgmtWord 0 / 2 ^ 8 % 64 = 1 ∧ s.mgmtWord 2 < 256 ∧ (s.world 1).tdi = .unlocked ∧ (s.world 1).stat = 1) ∧
    ∃ s : State, Started s 0x31 ∧ s.mgmtWord 0 / 2 ^ 8 % 64 = 1 ∧ s.mgmtWord 2 < 256 ∧ (s.world 1).tdi = .unlocked ∧ (s.world 1).stat = 4 ∧
      (s.world 1).wctxn / 2 * 2 ^ 16 ≤ s.mgmtWord 1 :=
  ⟨⟨{ asked0 0x30 3 0 128 State.reset with assayer := { State.reset.assayer with minimal := true } }, ⟨rfl, by decide, fun _ he => by cases he⟩,
     by decide, by decide, by decide, rfl, by decide⟩,
   ⟨{ asked0 0x50 0x2000001 4 16 State.reset with worlds := [(0, { noWorld with grants := [(2, { noGrant with uses := 1 })] })] },
     ⟨rfl, by decide, fun _ he => by cases he⟩, by decide, by decide, by decide, by decide, by decide, by decide⟩,
   ⟨{ asked0 0x150 0x2000001 4 16 State.reset with worlds := [(1, { noWorld with tdi := .run })] },
     ⟨rfl, by decide, fun _ he => by cases he⟩, by decide, by decide, by decide, by decide, by decide⟩,
   ⟨asked0 0x50 0x2000101 4 16 State.reset, started0 _ _ _ _ _ (by decide), by decide, by decide, by decide, by decide⟩,
   ⟨{ asked0 0x131 5 1 0 State.reset with worlds := [(1, { noWorld with tdi := .locked })] },
     ⟨rfl, by decide, fun _ he => by cases he⟩, by decide, by decide, by decide⟩,
   ⟨{ asked0 0x131 5 1 0 State.reset with worlds := [(1, { noWorld with stat := 1 })] },
     ⟨rfl, by decide, fun _ he => by cases he⟩, by decide, by decide, by decide, by decide⟩,
   ⟨{ asked0 0x131 0x10000 1 0 State.reset with worlds := [(1, { noWorld with stat := 4, wctxn := 2 })] },
     ⟨rfl, by decide, fun _ he => by cases he⟩, by decide, by decide, by decide, by decide, by decide⟩⟩

/-- An interval of 1 ms that has passed, and one that has not. -/
theorem witness_EnergyIsConserved :
    (∃ (s : State) (m : Measure), 2450448000000 ≤ s.span - s.assayer.intervalSpan ∧ (∀ e ∈ m.quads, e.1 < 256) ∧
      (∀ w, w < 64 → (s.world w).energy.counter + m.total < 2 ^ 64) ∧ m.total = 2800000) ∧
    ∃ s : State, ¬ 2450448000000 ≤ s.span - s.assayer.intervalSpan :=
  ⟨⟨{ State.reset with span := 2450448000000 }, ⟨2800000, [(0, 600000), (1, 300000)], 5, 7⟩, by decide, by decide, fun _ _ => by
    show 0 + 2800000 < 2 ^ 64
    decide, rfl⟩, ⟨State.reset, by decide⟩⟩

/-- A clock over its cap, a checkpoint due, and one that is not. -/
theorem witness_AssayerCommands_throttle : (∃ s : State, s.assayer.cap < 3300 ∧ 2 ≤ s.assayer.clock) ∧
    (∃ s : State, s.assayer.entered = false ∧ 60000 * 2450448000000 ≤ s.span - s.assayer.checkpoint) ∧
    ∃ s : State, ¬ 60000 * 2450448000000 ≤ s.span - s.assayer.checkpoint :=
  ⟨⟨State.reset, by decide, by decide⟩, ⟨{ State.reset with span := 60000 * 2450448000000 }, rfl, by decide⟩, ⟨State.reset, by decide⟩⟩

theorem witness_ResetsOfPackageAndFunctions :
    (∃ (s : State) (r : List Byte), (s.world 5).energy.last = some r) ∧ (∃ s : State, Started s 0x21) ∧
    (∃ s : State, SMap.wf s.mem = true ∧ s.mem.read (2 ^ 64 + 5) = 9) ∧
    ∃ (s : State) (tm : Team), (s.world 5).stat = 3 ∧ s.teams.find? 2 = some tm ∧ tm.world = 5 ∧ tm.ended = false :=
  ⟨⟨{ State.reset with worlds := [(5, { noWorld with energy := { last := some [1] } })] }, [1], by decide⟩,
   ⟨asked0 0x21 0 0 0 State.reset, started0 _ _ _ _ _ (by decide)⟩, ⟨{ State.reset with mem := [(2 ^ 64 + 5, 9)] }, by decide, by decide⟩,
   ⟨{ State.reset with
        worlds := [(5, { noWorld with stat := 3 })], teams := [(2, { noTeam with world := 5, ended := false })] }, _, by decide, rfl, rfl, rfl⟩⟩

/-- A function with a secure session whose interface is in a state. -/
def secured (x : Tdi) : State := { State.reset with worlds := [(5, { noWorld with spdm := .secure, tdi := x })] }

theorem witness_SessionsAndInterfaces (x : Tdi) : ∃ s : State, (s.world 5).spdm = .secure ∧ (s.world 5).tdi = x ∧
    spdmWorld (.endSession 5) = some 5 ∧ (spdmNext (.endSession 5) (s.world 5).spdm).isSome = true ∧
    spdmNext (.getCapabilities 5) (s.world 5).spdm = none :=
  ⟨secured x, rfl, rfl, rfl, rfl, rfl⟩

/-- Node 9, whose world 0 has key 4 and a rank entry for world 2 of node 5; node 6 is reached through port 1. -/
def fabric0 (e : DWord) (s : State) : State :=
  let m := mapped s
  { m with
    worlds := m.worlds.map fun x => (x.1, { x.2 with wfab := 4, ranks := [(1, e)] })
    fabric := { m.fabric with node := 9, routes := [(6, 1), (5, 1)] } }

def valid0 : DWord := BitVec.ofNat 64 (2 ^ 63 + 4 * 2 ^ 40 + 2 * 2 ^ 32 + 5)
def lost0 : DWord := BitVec.ofNat 64 (2 ^ 63 + 2 ^ 62 + 4 * 2 ^ 40 + 2 * 2 ^ 32 + 5)

def packet0 (pkey : BitVec 16) (dst : Nat) (op : BitVec 8) (len : Nat) (payload : List Byte) : Packet :=
  { pkey := pkey, dst := BitVec.ofNat _ dst, vf := 0, src := 5, dworld := 0, sworld := 2, op := op, inc := 0, srank := 0, len := len, reqid := 1
    addr := 0x40000, seq := 0, payload := payload, grade := 0, poison := false }

/-- What a receiving port asks of a packet. -/
def entersPort (s : State) (p : Packet) : Prop := (p.pkey = 0xFFFF ∧ p.vf = 3) ∨ (∃ w, w < 64 ∧ (s.world w).wfab.toNat % 2 ^ 16 = p.pkey.toNat) ∨
  ∃ w, w < 64 ∧ ∃ e ∈ (s.world w).ranks, e.2.getLsbD 63 = true ∧ e.2.toNat / 2 ^ 40 % 2 ^ 16 = p.pkey.toNat

def rankedPort (s : State) (p : Packet) (lost : Bool) : Prop := ∃ e ∈ (s.world p.dworld.toNat).ranks,
  (e.2.getLsbD 63 = true ∧ e.2.toNat % 2 ^ 12 = p.src.toNat ∧ e.2.toNat / 2 ^ 32 % 64 = p.sworld.toNat) ∧ e.2.getLsbD 62 = lost

theorem witness_NetworkAndFabricPackets_ports :
    (∃ (s : State) (p : Packet), 3 ∉ s.fabric.dead ∧ entersPort s p ∧ p.dst.toNat ≠ s.fabric.node ∧ p.dst.toNat ∈ reachedNodes s) ∧
    (∃ (s : State) (p : Packet), entersPort s p ∧ p.dst.toNat = s.fabric.node ∧ p.op.toNat < 7 ∧ p.src.toNat ≠ s.fabric.node ∧
      (s.world p.dworld.toNat).wfab.toNat % 2 ^ 16 = p.pkey.toNat ∧ ¬ rankedPort s p false ∧ rankedPort s p true) ∧
    (∃ (s : State) (p : Packet), p.dst.toNat = s.fabric.node ∧ p.op = 3 ∧ (s.world p.dworld.toNat).wfab.toNat % 2 ^ 16 = p.pkey.toNat ∧
      p.dworld.toNat < 64 ∧ rankedPort s p false ∧ s.fabric.downs.find? (p.src.toNat * 64 + p.sworld.toNat) = none) ∧
    ∃ (s : State) (p : Packet), ¬ entersPort s p ∧ p.op ≠ 7 ∧ p.src.toNat ≠ s.fabric.node :=
  ⟨⟨fabric0 valid0 State.reset, packet0 4 6 3 0 [7], by decide, .inr (.inl ⟨0, by decide, by decide⟩), by decide, by decide⟩,
   ⟨fabric0 lost0 State.reset, packet0 4 9 3 0 [7], .inr (.inl ⟨0, by decide, by decide⟩), by decide, by decide, by decide, by decide,
     by unfold rankedPort; decide, by unfold rankedPort; decide⟩,
   ⟨fabric0 valid0 State.reset, packet0 4 9 3 0 [7], by decide, rfl, by decide, by decide, by unfold rankedPort; decide, by decide⟩,
   ⟨{ State.reset with fabric := { State.reset.fabric with node := 9 } }, packet0 8 9 3 0 [7], by
      rintro (h | ⟨w, -, h⟩ | ⟨w, -, e, he, -⟩)
      · exact absurd h.1 (by decide)
      · exact absurd (show (0 : Nat) = 8 from h) (by decide)
      · exact absurd he (by show e ∉ []; simp), by decide, by decide⟩⟩

/-- A packet of an open flow whose tag has failed three times before, and of a new flow whose number the port's key has carried. -/
theorem witness_NetworkAndFabricPackets_network :
    (∃ s : State, ∃ f ∈ s.flows, (f.world = 1 ∧ f.src = 4 ∧ f.dst = 2 ∧ f.number = 4) ∧ f.retries.getD 6 0 = 3) ∧
    ∃ s : State, s.flows = [] ∧ (2 * 64 + 1) * 2 ^ 48 + 4 ∈ (s.portKeys.getD 4 {}).used :=
  ⟨⟨{ State.reset with flows := [⟨1, 4, 2, 4, 0, [(6, 3)]⟩] }, by decide⟩,
   ⟨{ State.reset with portKeys := [(4, ⟨0, [(2 * 64 + 1) * 2 ^ 48 + 4]⟩)] }, rfl, by decide⟩⟩

/-- A packet of an announced incarnation that is older than the announced one. -/
def isOlder (s : State) (p : Packet) : Prop :=
  ∃ i, s.fabric.downs.find? (p.src.toNat * 64 + p.sworld.toNat) = some i ∧ p.inc ≠ i ∧ (i - p.inc).toNat < 16

/-- A stale packet; a reject that is dropped; a bad tag that has failed three times before; and the packets on VF3 that are taken in. -/
theorem witness_NetworkAndFabricPackets_more :
    (∃ (s : State) (p : Packet), 3 ∉ s.fabric.dead ∧ isOlder s p ∧ p.op ≠ 7 ∧ p.src.toNat ∈ reachedNodes s ∧ p.dst.toNat = s.fabric.node) ∧
    (∃ (s : State) (p : Packet), isOlder s p ∧ p.op = 7 ∧ p.dst.toNat = s.fabric.node) ∧
    (∃ (s : State) (p : Packet), entersPort s p ∧ p.dst.toNat = s.fabric.node ∧ tagFailures s.fabric p = 3) ∧
    (∀ op ∈ [(7 : BitVec 8), 8, 9], ∃ (s : State) (p : Packet), p.op = op ∧ p.dst.toNat = s.fabric.node ∧ (p.pkey = 0xFFFF ∧ p.vf = 3) ∧
      s.fabric.downs = []) ∧
    ∃ (s : State) (p : Packet), 3 ∉ s.fabric.dead ∧ isOlder s p ∧ p.op = 2 ∧ p.dst.toNat = s.fabric.node :=
  ⟨⟨{ fabric0 valid0 State.reset with fabric := { (fabric0 valid0 State.reset).fabric with downs := [(5 * 64 + 2, 3)] } },
     packet0 4 9 3 0 [7], by decide, ⟨3, by decide, by decide, by decide⟩, by decide, by decide, by decide⟩,
   ⟨{ fabric0 valid0 State.reset with fabric := { (fabric0 valid0 State.reset).fabric with downs := [(5 * 64 + 2, 3)] } },
     packet0 4 9 7 0 [7], ⟨3, by decide, by decide, by decide⟩, rfl, by decide⟩,
   ⟨{ fabric0 valid0 State.reset with fabric := { (fabric0 valid0 State.reset).fabric with retries := [((5 * 64 + 2, 0), 3)] } },
     packet0 4 9 3 0 [7], .inr (.inl ⟨0, by decide, by decide⟩), by decide, by decide⟩,
   (fun op _ => ⟨fabric0 valid0 State.reset, { packet0 0xFFFF 9 op 0 [] with vf := 3 }, rfl, rfl, ⟨rfl, rfl⟩, rfl⟩),
   ⟨{ fabric0 valid0 State.reset with fabric := { (fabric0 valid0 State.reset).fabric with downs := [(5 * 64 + 2, 3)] } },
     packet0 4 9 2 1 [7], by decide, ⟨3, by decide, by decide, by decide⟩, rfl, by decide⟩⟩

/-- A segment out to rank 1 whose request, REQID 1, is under way, and one that reads from it. -/
def away0 : State :=
  laden (some 1) { seg0 [⟨.near (16 * 2 ^ 64 + 256), .main 0x40000, 8⟩] .remote with reqid := some 1 } State.reset

def reading0 : State :=
  { fabric0 valid0 State.reset with ladles := [(7, ladle0 (some 1) { seg0 [⟨.main 0x40000, .near (16 * 2 ^ 64 + 256), 8⟩] .remote with reqid := some 1 })] }

/-- The answer to a segment's read. -/
theorem witness_NetworkAndFabricPackets_answer : ∃ (s : State) (p : Packet) (o : Ladle) (g : Segment), 3 ∉ s.fabric.dead ∧
    p.dst.toNat = s.fabric.node ∧ entersPort s p ∧ (s.world p.dworld.toNat).wfab.toNat % 2 ^ 16 = p.pkey.toNat ∧ rankedPort s p false ∧
    s.fabric.downs = [] ∧ p.op = 2 ∧ segmentOf s p.reqid = some (7, 0) ∧ s.ladles.find? 7 = some o ∧ o.segs.find? 0 = some g ∧
    g.state = .remote ∧ readsRemotely g = true :=
  ⟨reading0, packet0 4 9 2 8 (leBytes 8 5), _, _, by decide, by decide, .inr (.inl ⟨0, by decide, by decide⟩), by decide,
    by unfold rankedPort; decide, rfl, rfl, by decide, rfl, rfl, rfl, by decide⟩

/-- A page of scope GPU. -/
def local0 (s : State) : State := { s with mem := [(0x20000, 0x3F), (0x20001, 3)] }

theorem witness_RemoteAccessesAndRanks :
    (∃ (s : State) (m : Incoming), s.fabric.inbox.find? 8 = some m ∧ m.packet.src.toNat ∈ reachedNodes s ∧ m.packet.rows = [] ∧ m.loop = false ∧ recorded s m.packet = none ∧
      writePending s m.packet = false ∧ m.packet.op = 1 ∧ (accessIn s (.fab 0) 0 m.packet.addr.toNat .read true).1 = .ok leaf0 ∧
      2 ≤ entScope leaf0.leaf ∧ m.packet.addr.toNat % 2 ^ 16 + m.packet.len ≤ 2 ^ 16) ∧
    (∃ (s : State) (m : Incoming), s.fabric.inbox.find? 8 = some m ∧ m.packet.src.toNat ∈ reachedNodes s ∧ m.packet.rows = [] ∧ m.packet.len = m.packet.payload.length ∧ m.loop = false ∧
      recorded s m.packet = none ∧ writePending s m.packet = false ∧ m.packet.op = 3 ∧ (accessIn s (.fab 0) 0 m.packet.addr.toNat .write true).1 = .ok leaf0 ∧
      m.packet.grade.toNat ≤ (entGrade leaf0.leaf).toNat ∧ isTableType (s.frame (leaf0.phys m.packet.addr.toNat / 2 ^ 16)).type = false) ∧
    (∃ (s : State) (m : Incoming) (x : Xlat), s.fabric.inbox.find? 8 = some m ∧ m.packet.src.toNat ∈ reachedNodes s ∧ m.packet.rows = [] ∧ m.loop = false ∧ recorded s m.packet = none ∧
      writePending s m.packet = false ∧ m.packet.op = 1 ∧ (accessIn s (.fab 0) 0 m.packet.addr.toNat .read true).1 = .ok x ∧
      entScope x.leaf < 2) ∧
    (∀ b ∈ [(5 : Byte), 4, 2, 1], ∃ (s : State) (p : Packet) (o : Ladle) (g : Segment), s.ladles.find? 7 = some o ∧ o.segs.find? 0 = some g ∧
      g.state = .remote ∧ segmentOf s p.reqid = some (7, 0) ∧ (∀ e ∈ s.requests, e.2.reqid ≠ p.reqid) ∧ p.payload = [b]) ∧
    ∃ s : State, s.purges = [] ∧ 4 ∉ s.fabric.dead ∧ s.fabric.unsent = [] ∧ s.assayer.minimal = false ∧ s.assayer.reason ≠ 1 :=
  ⟨⟨{ fabric0 valid0 State.reset with fabric := { (fabric0 valid0 State.reset).fabric with inbox := [(8, ⟨packet0 4 9 1 16 [], false⟩)] } }, _,
     rfl, by decide, rfl, rfl, by decide, by decide, rfl, by decide, by decide, by decide⟩,
   ⟨{ fabric0 valid0 State.reset with fabric := { (fabric0 valid0 State.reset).fabric with inbox := [(8, ⟨packet0 4 9 3 1 [7], false⟩)] } }, _,
     rfl, by decide, rfl, rfl, rfl, by decide, by decide, rfl, by decide, by decide, by decide⟩,
   ⟨local0 { fabric0 valid0 State.reset with fabric := { (fabric0 valid0 State.reset).fabric with inbox := [(8, ⟨packet0 4 9 1 16 [], false⟩)] } }, _,
     ⟨0, 3, 0, 0x33F, [2]⟩, rfl, by decide, rfl, rfl, by decide, by decide, rfl, by decide, by decide⟩,
   (fun b _ => ⟨away0, packet0 4 9 7 0 [b], _, _, rfl, rfl, rfl,
     (by decide : segmentOf away0 1 = some (7, 0)), (fun e he => by cases he), rfl⟩),
   ⟨State.reset, by decide, by decide, by decide, by decide, by decide⟩⟩

/-- A request that has been performed before; a write whose grade its page may not take, from this node itself. -/
theorem witness_RemoteAccessesAndRanks_more :
    (∃ (s : State) (m : Incoming) (a : Packet), s.fabric.inbox.find? 8 = some m ∧ m.packet.op = 1 ∧ recorded s m.packet = some a ∧
      a.dst.toNat ∈ reachedNodes s) ∧
    ∃ (s : State) (m : Incoming) (x : Xlat), s.fabric.inbox.find? 8 = some m ∧ recorded s m.packet = none ∧ m.loop = false ∧
      writePending s m.packet = false ∧ m.packet.op = 3 ∧ m.packet.src.toNat ∈ reachedNodes s ∧
      (accessIn s (.fab 0) 0 m.packet.addr.toNat .write true).1 = .ok x ∧ 2 ≤ entScope x.leaf ∧
      (entGrade x.leaf).toNat < m.packet.grade.toNat :=
  ⟨⟨{ fabric0 valid0 State.reset with fabric := { (fabric0 valid0 State.reset).fabric with
        inbox := [(8, ⟨packet0 4 9 1 16 [], false⟩)], window := [(5, packet0 0xFFFF 5 2 0 [7])] } }, _, packet0 0xFFFF 5 2 0 [7],
     rfl, rfl, by decide, by decide⟩,
   ⟨{ fabric0 valid0 State.reset with
        mem := [(0x20000, 0xFF)]
        fabric := { (fabric0 valid0 State.reset).fabric with inbox := [(8, ⟨{ packet0 4 9 3 0 [7] with grade := 2 }, false⟩)] } }, _,
     ⟨0, 3, 0, 0xFF, [2]⟩, rfl, by decide, rfl, by decide, rfl, by decide, by decide, by decide, by decide⟩⟩

/-- An operation on world 2 of node 5 with two segments that wait; a port that has carried a packet without an answer; a port that a start
in minimal mode does not bring up. -/
theorem witness_RemoteAccessesAndRanks_events :
    (∃ (s : State) (o : Ladle), s.ladles.find? 7 = some o ∧ o.rank = some 1 ∧ rankNames (s.rankEntry o.world 1) 5 2 = true ∧
      s.requests = [] ∧ (∀ e ∈ s.ladles, ∀ x, e.2.rank = some x → rankNames (s.rankEntry e.2.world x) 5 2 = true → e.1 = 7) ∧
      SMap.wf o.segs = true ∧ o.segs.length = 2 ∧ o.team.isSome = true ∧ copyQueue s o.world 7 = none ∧
      o.counter = some (16 * 2 ^ 64) ∧ o.tile = none ∧
      (∀ g ∈ o.segs, ∀ p ∈ g.2.pieces, ∀ k, p.dst = .near k → k / 128 ≠ 16 * 2 ^ 64 / 128) ∧ (o.segs.filter fun g => !g.2.replay) ≠ []) ∧
    (∃ (s : State) (q : Packet), s.purges = [] ∧ 0 ∉ s.fabric.dead ∧
      s.fabric.sent.filter (fun e => e.1 = 0 && unanswered s e.2) = [(0, q)] ∧ q.dst.toNat ≠ s.fabric.node ∧
      livePorts { s with fabric := { s.fabric with dead := 0 :: s.fabric.dead } } q.dst.toNat ≠ []) ∧
    (∃ s : State, s.assayer.minimal = true) ∧
    (∃ s : State, (∃ i, s.fabric.downs.find? (5 * 64 + 2) = some i ∧ (1 : BitVec 5) ≠ i ∧ (i - 1).toNat < 16) ∧ 5 ∈ reachedNodes s) ∧
    (∃ (s : State) (q : Packet), s.purges = [] ∧ s.assayer.minimal = false ∧ s.assayer.reason ≠ 1 ∧ s.fabric.unsent = [q] ∧
      stillDue s q = true ∧ q.dst.toNat ≠ s.fabric.node ∧
      livePorts { s with fabric := { s.fabric with dead := s.fabric.dead.filter (· ≠ 3) } } q.dst.toNat ≠ []) ∧
    (∀ n ∈ [1, 4], ∃ (s : State) (q : Packet), s.fabric.sent[0]? = some (3, q) ∧ q.src.toNat = s.fabric.node ∧ 3 ∉ s.fabric.dead ∧
      stillDue s q = true ∧ (s.fabric.sent.filter fun e => e.2 = q).length = n) ∧
    ∃ (s : State) (q : Packet), s.purges = [] ∧ s.fabric.unsent = [q] ∧ s.fabric.sent[0]? = some (3, q) ∧ q.src.toNat = s.fabric.node ∧
      3 ∉ s.fabric.dead ∧ stillDue s q = false :=
  ⟨⟨{ ranked valid0 State.reset with ladles := [(7, { ladle0 (some 1) (seg0 [] .queued) with
        segs := [0, 1].map fun n => (n, seg0 [⟨.near (16 * 2 ^ 64 + 256), .main 0x40000, 8⟩] .queued) })] }, _, rfl, rfl, by decide, rfl,
      fun e he _ _ _ => by rw [List.mem_singleton.mp he], by decide, by decide, rfl, by decide, rfl, rfl,
      (by
        intro g hg p hp k hk
        obtain ⟨n, -, rfl⟩ := List.mem_map.mp hg
        rw [List.mem_singleton.mp hp] at hk
        cases hk), by decide⟩,
   ⟨{ laden (some 1) { seg0 [⟨.near (16 * 2 ^ 64 + 256), .main 0x40000, 8⟩] .remote with reqid := some 1 } State.reset with
        fabric := { State.reset.fabric with node := 9, routes := [(5, 3)], sent := [(0, packet0 4 5 3 8 [])] } }, packet0 4 5 3 8 [],
     by decide, by decide, by decide, by decide, by decide⟩,
   ⟨{ State.reset with assayer := { State.reset.assayer with minimal := true } }, rfl⟩,
   ⟨{ fabric0 valid0 State.reset with fabric := { (fabric0 valid0 State.reset).fabric with downs := [(5 * 64 + 2, 3)] } },
     ⟨3, by decide, by decide, by decide⟩, by decide⟩,
   ⟨{ State.reset with fabric := { State.reset.fabric with node := 9, routes := [(5, 8)], dead := [3], unsent := [packet0 4 5 2 8 []] } },
     packet0 4 5 2 8 [], by decide, by decide, by decide, rfl, by decide, by decide, by decide⟩,
   (fun n h => by
     simp only [List.mem_cons, List.not_mem_nil, or_false] at h
     rcases h with rfl | rfl
     · exact ⟨{ State.reset with fabric := { State.reset.fabric with node := 5, sent := [(3, packet0 4 9 4 0 [])] } }, _, rfl, by decide,
         by decide, by decide, by decide⟩
     · exact ⟨{ State.reset with fabric := { State.reset.fabric with node := 5, sent := List.replicate 4 (3, packet0 4 9 4 0 []) } }, _, rfl,
         by decide, by decide, by decide, by decide⟩),
   ⟨{ State.reset with fabric := { State.reset.fabric with
        node := 5, sent := [(3, packet0 4 9 3 0 [7])], unsent := [packet0 4 9 3 0 [7]] } }, _, by decide, rfl, rfl, by decide, by decide,
     by decide⟩⟩

/-- A request of thread 0 for a local cell of frame 4. -/
theorem witness_CellsAtTheirHome : ∃ (s : State) (r : Request) (c : Machine.Cell), s.requests.find? 6 = some r ∧
    r.asked = .cell 0 none 0x40000 0x40000 5 0 0 60 Tag.zero (some leaf0) ∧ r.replay = false ∧ arrivedAnswer s r.reqid = none ∧
    CellIs s.mem 0x40000 c ∧ s.fabric.node < 2 ^ 12 ∧ r.world < 64 ∧ s.cellTimes = [] ∧ ∀ e ∈ s.fabric.inbox, e.1 < s.nextId :=
  ⟨asks (.cell 0 none 0x40000 0x40000 5 0 0 60 Tag.zero (some leaf0)) State.reset, _, ⟨0, 0, 0, 0⟩, rfl, rfl, rfl, by decide,
    ⟨by decide, by decide, by decide, by decide⟩, by decide, by decide, rfl, by decide⟩

/-! ## WellFormed: an ill-formed term for each check, which the check refuses -/

def ctx0 : DecCtx := ⟨16, 4, [0, 0, 0x80000000, 0x80010000, 0, 0x80000000, 0, 0], false⟩

/-- A matrix word in the uniform class; a guard without G; a rounding override of an integer; W with a destination that is no Z; a
register past the role's 16; a tile past the launch's 4; a format slot without V; a queue word in pool mode. -/
theorem test_ill_formed :
    (Instr.mma uniform 0 4 1 0 2 1 false).encodable = false ∧
    (Instr.onesB32 (under ⟨1, false, false, 0, false⟩) 3 4).prefixOwnOk = false ∧
    (Instr.onesB32 (under ⟨0, false, false, 1, false⟩) 3 4).prefixPairOk = false ∧
    (Instr.onesB32 ⟨false, false, true, none⟩ 3 4).wOk = false ∧
    (Instr.addN32 bare 16 1 (.reg 2)).operandsOk ctx0 = false ∧
    (Instr.tzero bare 4).tilesOk ctx0 = false ∧
    (Instr.mma bare 0 4 1 0 0 1 false).slotsOk ctx0 = false ∧
    (Instr.qrecv bare 4).modeOk { ctx0 with pool := true } = false := by decide

/-- Each makes its instruction ill formed, and the good ones beside them are well formed. -/
theorem test_well_formed :
    (Instr.onesB32 (under ⟨1, false, false, 0, false⟩) 3 4).wellFormed ctx0 = false ∧
    (Instr.onesB32 (under ⟨1, false, true, 0, false⟩) 3 4).wellFormed ctx0 = true ∧
    (Instr.onesB32 ⟨false, false, true, none⟩ 120 4).wellFormed ctx0 = true ∧
    (Instr.addN32 bare 15 1 (.reg 2)).wellFormed ctx0 = true ∧ (Instr.tzero bare 3).wellFormed ctx0 = true ∧
    (Instr.mma bare 0 4 1 0 2 1 false).wellFormed ctx0 = true ∧ (Instr.qrecv bare 4).wellFormed ctx0 = true := by decide

/-! ## Words written out from the spec's encodings -/

/-- The words of R96 to R104, R112 and R140 with their fields: op7, then d, a, E, n or sub, b. -/
theorem test_spec_words :
    decodeTableWord 32 0x3C141030 = some (.fdot2F32Bf16x2 bare 10 4 (.reg 6)) ∧
    decodeTableWord 32 0x5200C800 = some (.ckaMod bare 0 50) ∧
    decodeTableWord 32 0x68000000 = some (.reform bare) ∧
    decodeTableWord 32 0x69000408 = some (.leave bare 1) := by decide

/-- What the spec reserves: the all-zero-but-op7 holes, a prefix alone, and code 11 of the unary group. -/
theorem test_reserved_words : decodeTableWord 32 0x12061058 = none ∧ decodeTableWord 32 0xE0440813 = none ∧ decodeTableWord 32 0x7F000001 = none := by
  decide

/-! ## One unit -/

/-- What a thread holds after the unit of the placed bundle. -/
def after (s : State) (i : Instr) : Option State := match exec i s with
  | .next t => some t
  | _ => none

def result (s : State) (i : Instr) (tid r : Nat) : Option (Tagged Word) := (after s i).map fun t => (t.thread tid).v.getD r (untagged 0)

/-- R94's worked example: a load past the Bench traps with NEAR_RANGE; the address with its grade in TRAPVAL, TRAPINFO A000_0020. -/
theorem test_trap_example :
    let s := handled { at0 (fun t => t.setReg 7 ⟨0x90000, ⟨1, false⟩⟩) id with launches := [(0, { placeLaunch 0 with bench := 0x40000 })] }
    (after s (.ldB32 uniform 20 7 0)).map (fun t => ((t.thread 0).trapinfo, (t.thread 0).trappc, (t.thread 0).trapval, (t.thread 0).resume,
      (t.thread 0).hnd, (t.thread 0).pc)) = some (0xA0000020, 0, ⟨0x90000, ⟨1, false⟩⟩, 0, true, 64) := by decide

/-- R170's worked example: four members, 1.0 and three times 2^−24; slots 1 to 3 have arrived. -/
def folded (i : Instr) : State :=
  { at0 (v 5 0x3F800000) id with
    threads := (0, (v 5 0x3F800000) { noThread with place := .inBundle 0 }) ::
      ([1, 2, 3].map fun k => (k, (v 5 0x33800000) { noThread with place := .waiting (.mask 0) }))
    groups := [(0, { noGroup with masks := [(0, 15)], seg := 2, arrived := [(0, [1, 2, 3].map fun k => ⟨k, 0, 0, 4, 0, 0, i⟩)] })] }

theorem test_sred_example : (List.range 4).map (fun k => (result (folded (.sred bare 4 5 5 0)) (.sred bare 4 5 5 0) k 4).map (·.val)) =
    [some 0x3F800001, some 0x3F800001, some 0x3F800001, some 0x3F800001] := by decide +kernel

theorem test_sscan_example : (List.range 4).map (fun k => (result (folded (.sscan bare 4 5 5 0)) (.sscan bare 4 5 5 0) k 4).map (·.val)) =
    [some 0x3F800000, some 0x3F800000, some 0x3F800000, some 0x3F800000] := by decide +kernel

/-- Sums wrap; a signed minimum; a quotient by 0 is all ones and the remainder path is R99's. -/
theorem test_integers :
    result (at0 (v 2 0xFFFFFFFF ∘ v 3 2) id) (.addN32 bare 1 2 (.reg 3)) 0 1 = some (untagged 1) ∧
    result (at0 (v 2 0xFFFFFFFF ∘ v 3 2) id) (.minI32 bare 1 2 (.reg 3)) 0 1 = some (untagged 0xFFFFFFFF) ∧
    result (at0 (v 2 0xFFFFFFFF ∘ v 3 2) id) (.minN32 bare 1 2 (.reg 3)) 0 1 = some (untagged 2) := by decide

/-- The guard holds a unit back: the register is as it was. -/
theorem test_guard : result (at0 (v 2 5) id) (.addN32 (under ⟨1, false, true, 0, false⟩) 1 2 (.lit 1)) 0 1 = some (untagged 0) := by decide

/-- R99's fields: a sign extended from bit 3; a field cut at the word's end. -/
theorem test_fields :
    result (at0 (v 2 0xF0 ∘ v 3 0x404) id) (.fgetI32 bare 1 2 (.reg 3)) 0 1 = some (untagged 0xFFFFFFFF) ∧
    result (at0 (v 1 0xFFFFFFFF ∘ v 3 0x81C) id) (.fputB32 bare 1 2 (.reg 3)) 0 1 = some (untagged 0x0FFFFFFF) := by decide

/-- A store lays its word down low byte first, and its line becomes present. -/
theorem test_store :
    let t := after (at0 (v 2 0x11223344 ∘ v 4 8) id) (.stB32 bare 2 4 0)
    (t.map fun t => (List.range 4).map fun k => t.mem.read (16 * 2 ^ 64 + 8 + k)) = some [0x44, 0x33, 0x22, 0x11] ∧
    (t.map fun t => (t.line (16 * 2 ^ 57)).present) = some true := by decide

/-- One step from reset with a program placed: `mov.b32 V5, −1`. -/
theorem test_step :
    (match step (State.reset.withFetchWord 32 0x210A03FC) with
      | .next t => some ((t.thread 0).v.getD 5 (untagged 0))
      | _ => none) = some (untagged 0xFFFFFFFF) := by decide

/-- 1.0 + 1.0, and the sum of two infinities of unlike sign, which is the canonical NaN (R80). -/
theorem test_floats :
    result (at0 (v 2 0x3F800000 ∘ v 3 0x3F800000) id) (.faddF32 bare 1 2 (.reg 3)) 0 1 = some (untagged 0x40000000) ∧
    result (at0 (v 2 0x7F800000 ∘ v 3 0xFF800000) id) (.faddF32 bare 1 2 (.reg 3)) 0 1 = some (untagged 0x7FC00000) := by decide +kernel


/-- R64: a `cas.b32` writes Vd alone, an `add.n64` the pair. -/
theorem test_atomic_writes : (Instr.atom bare 2 4 0 9).writes.length = 1 ∧ (Instr.atom bare 2 4 0 10).writes.length = 2 := by decide

/-- R227: integers have no −0. -/
theorem test_integer_zero : integerProduct ((FVal.fin true 3 0).mul (.fin false 0 0)) = (.fin false 0 0, false) := by decide

/-- A cause that becomes pending on a thread whose bundle waits before the issue of its unit: the wait is abandoned, at the head of the
chain (R91). -/
theorem test_wait_before_issue :
    let s := handled { at0 id id with bundles := [(0, { inChain true with head := 12 })] }
    let t := (pendOn s 0 .rankLost 3).thread 0
    (t.resume, t.hnd, t.place, t.pending) = (12, true, .filed, []) := by decide

/-- A thread woken from a `bwait` keeps nothing that was read ahead for it (R173); another thread does. -/
theorem test_woken_acquires :
    let s := { placed with
      threads := [(0, { noThread with place := .waiting (.counter (16 * 2 ^ 64) 1 0) }), (1, { noThread with place := .inBundle 0 })]
      early := [⟨0, 16 * 2 ^ 64 + 256, [0], Tag.zero⟩, ⟨1, 16 * 2 ^ 64 + 256, [0], Tag.zero⟩] }
    let t := writeNear s (16 * 2 ^ 64) (leBytes 8 1) Tag.zero
    (t.early.map (·.tid), (t.thread 0).place) = ([1], .filed) := by decide

/-- A poisoned guard kills the team with the predicate as it is, not negated (R84, R196). -/
theorem test_guard_poison :
    ((after (at0 (fun t => t.setPred 1 ⟨false, ⟨0, true⟩⟩) id) (.addN32 (under ⟨1, true, true, 0, false⟩) 1 2 (.lit 1))).map fun t =>
      (t.threadTeam 0).killed.map (·.value)) = some (some 0) := by decide

/-- A cause that becomes pending on a thread of a parked group, here in a service call, wakes the group (R155). -/
theorem test_cause_wakes_group :
    let s := handled { placed with
      threads := [(0, { noThread with place := .waiting (.service 5 0) })], groups := [(0, { noGroup with offCore := true })] }
    groupWoken s 0 = false ∧ groupWoken (pendOn s 0 .rankLost 3) 0 = true := by decide

/-- The latch row of a guarded signature takes the guard's grade (R83, R216). -/
theorem test_row_under_guard :
    let s := at0 (fun t => t.setPred 1 ⟨true, ⟨2, false⟩⟩) (fun s => { s with
      groups := [(0, { noGroup with conv := [(1, { noConv with declared := 3 })] })] })
    ((after s (.mma (under ⟨1, false, true, 0, false⟩) 4 32 8 0 2 1 true)).map fun t =>
      (t.quad 0).latches.map fun l => l.2.map fun r => r.2.tag.grade) = some [[2]] := by decide

/-- A segment whose route's ports are only dead is not failed after 100 µs; one whose route has no port is (R398). -/
theorem test_route_timeout :
    let s := fun (routes : SMap Nat) => { abroad 0x8000000000000005 [inPiece 0x40000 256] with
      fabric := { State.reset.fabric with routes := routes, dead := List.range 36 } }
    ((after (s [(5, 1)]) (.routeTimeout 7 0)).map fun t => t.ladles.keys) = some [7] ∧
    ((after (s []) (.routeTimeout 7 0)).map fun t => t.ladles.keys) = some [] := by decide

/-- A segment into a host page raises a page request as one out of it does (R318). -/
theorem test_host_page_ends :
    let x := { mapped State.reset with mem := Memory.writeBytes [] 0x20000 (leBytes 8 0x200000000CF3) }
    (inAperture x 0 ⟨.near (16 * 2 ^ 64), .main 0x40, 8⟩, inAperture x 0 ⟨.main 0x40, .near (16 * 2 ^ 64), 8⟩) = (true, true) := by decide

/-! ## Witnesses and tests: the order of near accesses, errors, reservations -/

/-- Thread 0 has stored late in its Bench and in space 20, and bytes of both have been read ahead for it. -/
def out0 (f : Thread → Thread) (g : State → State) : State := at0 f fun s => g (present { s with
  late := [⟨0, 20 * 2 ^ 64, [1], Tag.zero, false⟩, ⟨0, 16 * 2 ^ 64 + 64, [2], Tag.zero, false⟩]
  early := [⟨0, 16 * 2 ^ 64 + 32, [3], Tag.zero⟩, ⟨0, 20 * 2 ^ 64 + 64, [4], Tag.zero⟩] })

def alone0 : Bundle := { noBundle with tids := [0] }

/-- A guarded-off fence; a unit of each kind that the statement names, with the thread's accesses apart from its own. -/
theorem witness_NearAtomicsSignalsAndWaits_order :
    (∃ s : State, s.latent = [] ∧ s.late ≠ [] ∧ Machine.actsIn s 0 (.fenceAr (under ⟨1, false, true, 0, false⟩)) = false) ∧
    (∀ i ∈ [Instr.fenceAr bare, .bsig bare 2 (.reg 4), .natom bare 1 2 2 0], ∃ s : State, s.latent = [] ∧ s.late ≠ [] ∧
      Machine.actsIn s 0 i = true ∧ Claims.releases i = true) ∧
    (∀ i ∈ [Instr.fenceAcq bare, .fenceRel bare, .waitm bare 0, .qrecv bare 4], ∃ s : State, s.latent = [] ∧ s.late ≠ [] ∧
      Machine.actsIn s 0 i = true) ∧
    (∀ i ∈ [Instr.ldB32 bare 1 2 0, .stB32 bare 1 2 0, .natom bare 1 2 0 0, .natom bare 1 2 1 0, .bwait bare 2 4],
      ∃ (s : State) (y : Claims.NearShape) (key : Nat), s.latent = [] ∧ s.late ≠ [] ∧ Machine.actsIn s 0 i = true ∧
        Claims.nearShape i = some y ∧ Claims.releases i = false ∧
        NearOk s 0 ((s.thread 0).reg y.base) (y.ea ((s.thread 0).reg y.base).val) y.size y.load key ∧
        ∀ e ∈ s.late, e.tid = 0 → e.fenced = false ∧ e.meets key y.size = false) ∧
    (Claims.loadShape (.ldB32 bare 1 2 0)).isSome = true ∧ (Claims.storeShape (.stB32 bare 1 2 0)).isSome = true := by
  refine ⟨⟨out0 id id, rfl, by decide, by decide⟩, ?_, ?_, ?_, rfl, rfl⟩ <;> intro i hi <;>
    simp only [List.mem_cons, List.not_mem_nil, or_false] at hi
  · rcases hi with rfl | rfl | rfl <;> exact ⟨out0 id id, rfl, by decide, by decide, by decide⟩
  · rcases hi with rfl | rfl | rfl | rfl <;> exact ⟨out0 id id, rfl, by decide, by decide⟩
  · rcases hi with rfl | rfl | rfl | rfl | rfl <;>
      exact ⟨out0 id id, _, 16 * 2 ^ 64, rfl, by decide, by decide, rfl, by decide, ⟨by decide, by decide, by decide, by decide⟩, by decide⟩

/-- What each unit leaves out of place of the two stores and the two reads ahead, and how many stores a later store waits for (R165, R171,
R175, R290): a plain natom nothing less, one with `.acq` in the Bench only what was read ahead there. -/
theorem test_order_of_units :
    ([(Instr.fenceAcq bare), .fenceAcq (under ⟨1, false, true, 0, false⟩), .fenceRel bare, .fenceAr bare, .natom bare 1 2 0 0,
      .natom bare 1 2 1 0, .natom bare 1 2 3 0, .waitm bare 0].map fun i =>
      let s := orderBefore (out0 id id) alone0 i false
      (s.late.length, s.early.length, (s.late.filter fun e => e.fenced).length)) =
    [(2, 0, 0), (2, 2, 0), (1, 2, 1), (0, 0, 0), (2, 2, 0), (2, 1, 0), (0, 1, 0), (2, 2, 0)] := by decide

/-- A line with an error in its data and one in its tag bits, in a Bench; a load of it, and a store of 8 bytes. -/
def hurt0 : State := at0 id fun s => present { s with latent := [.data (2 * 2 ^ 64), .tags (16 * 2 ^ 57)] }

theorem witness_CoreEvents_upsets :
    (∃ s : State, s.latent.filter (Latent.foundIn (16 * 2 ^ 57) (s.line (16 * 2 ^ 57)).present) ≠ [] ∧
      (lineOwner s (16 * 2 ^ 57)).isSome = true) ∧
    (∃ (s : State) (y : Claims.LoadShape), Claims.loadShape (.ldB32 bare 1 2 0) = some y ∧ Machine.actsIn s 0 (.ldB32 bare 1 2 0) = true ∧
      s.latent ≠ [] ∧ NearOk s 0 (y.reg s 0) (y.ea s 0) y.size true (16 * 2 ^ 64)) ∧
    ∃ (s : State) (y : Claims.StoreShape), Claims.storeShape (.stB64 bare 4 2 0) = some y ∧ y.size = 8 ∧
      Machine.actsIn s 0 (.stB64 bare 4 2 0) = true ∧ s.latent ≠ [] ∧
      NearOk s 0 (y.reg s 0) (nearAddr (y.reg s 0).val y.off 8) 8 false (16 * 2 ^ 64) :=
  ⟨⟨hurt0, by decide, by decide⟩,
   ⟨hurt0, _, rfl, by decide, by decide, ⟨by decide, by decide, by decide, by decide⟩⟩,
   ⟨hurt0, _, rfl, rfl, by decide, by decide, ⟨by decide, by decide, by decide, by decide⟩⟩⟩

/-- A load finds both errors: G3 and poison, two events; a store of the 8 bytes ends the one in the data unfound (R180). -/
theorem test_errors_found :
    let s := orderBefore hurt0 alone0 (.ldB32 bare 1 2 0) false
    let t := orderBefore hurt0 alone0 (.stB64 bare 4 2 0) false
    (s.line (16 * 2 ^ 57), s.latent, (s.assayer.boxes.getD 0 {}).next) = (⟨true, ⟨3, true⟩⟩, [], 2) ∧
    (t.latent, (t.line (16 * 2 ^ 57)).tag.poison) = ([.tags (16 * 2 ^ 57)], false) := by decide

/-- A segment that writes entry 1 of the root; its leaf of frame 6 asks for a write, of frame 4 with grant 2 and without. -/
def unitOf (new : Nat) (held : Option Held) : State := laden none
  { seg0 [⟨.near (16 * 2 ^ 64 + 256), .main 0x20008, 8⟩] (.started [(.main 0x20008, leBytes 8 new)]) with held := held } State.reset

theorem witness_SegmentsFailAndTablesWritten_reserves :
    (∀ new ∈ [0x60001, 0x8000000000000001], ∃ (s : State) (o : Ladle) (g : Segment) (b : List (Loc × List Byte)) (x : DWord),
      s.ladles.find? 7 = some o ∧ o.segs.find? 0 = some g ∧ g.state = .started b ∧ g.held = none ∧ tableOf s b = some 2 ∧
      unitChanges s 2 (unitWrites b) = some [(1, 0, x)] ∧ entV x = true ∧
      ((badRule s (s.frame 2).owner (tableLevel (s.frame 2).type) x).isNone = true ↔ new = 0x60001)) ∧
    ∃ (s : State) (o : Ladle) (g : Segment) (ck : Nat) (b : List (Loc × List Byte)) (h : Held), SegmentOf s 7 0 o g ck ∧
      g.state = .started b ∧ tableOf s b = some 2 ∧ g.held = some h ∧ unitChanges s 2 (unitWrites b) = some h.changes ∧ h.refused = true := by
  refine ⟨?_, unitOf 0x8000000000000001 (some ⟨0, [(1, 0, 0x8000000000000001)], [], [], true⟩), _, _, _, _, _,
    segmentOf0 State.reset none _ (by decide) no_near, rfl, by decide, rfl, by decide, rfl⟩
  intro new hn
  simp only [List.mem_cons, List.not_mem_nil, or_false] at hn
  rcases hn with rfl | rfl
  · exact ⟨unitOf 0x60001 none, _, _, _, 0x60001, rfl, rfl, rfl, rfl, by decide, by decide, by decide, by decide⟩
  · exact ⟨unitOf 0x8000000000000001 none, _, _, _, 0x8000000000000001, rfl, rfl, rfl, rfl, by decide, by decide, by decide, by decide⟩

/-- A reservation of a unit that is refused later counts for a retype until the verdict (R267). -/
theorem test_reserved_counts :
    let s := reserveUnit 7 0 (unitOf 0x60001 none)
    (s.count 6, (retype s 0 6 0 none).1) = (1, 1) := by decide

/-- The bytes of one element in one line are one segment, across a page of its source (R302). -/
theorem test_element_segment :
    (makeSegments true [(0, ⟨.main 0xFFFE, .near 256, 2⟩), (0, ⟨.main 0x10000, .near 258, 2⟩), (1, ⟨.main 8, .near 260, 4⟩)]).map
      (fun e => (e.2.pieces.length, e.2.bytes)) = [(2, 4), (1, 4)] := by decide

/-- A guarded unit's d is taken where its guard is false, so that no later unit of the chain may write it (R36, R47, R56). -/
theorem test_chain_writes_taken :
    (chainLegal [.movB32 (under ⟨0, false, true, 0, false⟩) 1 (.reg 2), .addN32 bare 1 5 (.lit 1)],
      chainLegal [.movB32 bare 1 (.reg 2), .addN32 bare 1 5 (.lit 1)]) = (false, true) := by decide

end Sys2Proof.Tests
end

section
/-! SUPPORT. What a read of the state returns after a write to the same table, at the same and at another number. -/

namespace Sys2Proof.Machine

open Sys2Proof

theorem SMap.getD_insert {α : Type} (m : SMap α) (x y : Nat) (v d : α) :
    (m.insert x v).getD y d = if y = x then v else m.getD y d := by
  by_cases h : y = x
  · subst h; simp
  · rw [if_neg h, SMap.getD_insert_ne m v d h]

theorem State.world_setWorld (s : State) (w k : Nat) (x : World) :
    (s.setWorld w x).world k = if k = w then x else s.world k := SMap.getD_insert ..

theorem State.launch_setLaunch (s : State) (l k : Nat) (x : Launch) :
    (s.setLaunch l x).launch k = if k = l then x else s.launch k := SMap.getD_insert ..

theorem State.group_setGroup (s : State) (gid k : Nat) (x : Group) :
    (s.setGroup gid x).group k = if k = gid then x else s.group k := SMap.getD_insert ..

theorem State.cmdQueue_setCmdQueue_self (s : State) (w q : Nat) (x : CmdQueue) : (s.setCmdQueue w q x).cmdQueue w q = x := by
  simp [State.cmdQueue, State.setCmdQueue, State.world_setWorld]

end Sys2Proof.Machine
end

section
/-! PROOF. The shares of a metering interval sum to its energy (R377 to R379): O55. The shares come first, then what closing an interval does
to the state. -/

namespace Sys2Proof.Machine

open Sys2Proof

/-! ## Sums over the worlds and the quads -/

theorem sum_map_range (n : Nat) (f : Nat → Nat) : ((List.range n).map f).sum = ∑ k ∈ Finset.range n, f k := rfl

theorem getD_map_range (n : Nat) {k : Nat} (f : Nat → Nat) (d : Nat) (h : k < n) : ((List.range n).map f).getD k d = f k := by
  simp [List.getD, h]

/-- The worlds from 1 on divide no more than the interval among them. -/
theorem heldCc_sum (held : SMap Nat) (len q n : Nat) :
    ∑ x ∈ Finset.range n, heldCc held len (x + 1) q = min (∑ x ∈ Finset.range n, held.getD (q * 64 + x + 1) 0) len := by
  induction n with
  | zero => simp
  | succ n ih =>
    rw [Finset.sum_range_succ, Finset.sum_range_succ, ih, heldCc, sum_map_range]
    simp only [Nat.add_sub_cancel, ← Nat.add_assoc]
    omega

/-- A quad counts every cc of an interval to some world (R378). -/
theorem quadCc_sum (held : SMap Nat) (len q : Nat) : ∑ w ∈ Finset.range 64, quadCc held len w q = len := by
  have h := heldCc_sum held len q 63
  rw [Finset.sum_range_succ' _ 63]
  simp only [quadCc, Nat.add_eq_zero_iff, Nat.one_ne_zero, and_false, if_true, if_false, sum_map_range]
  omega

theorem worldCc_sum (held : SMap Nat) (len : Nat) : ∑ w ∈ Finset.range 64, worldCc held len w = 256 * len := by
  simp only [worldCc, sum_map_range]
  rw [Finset.sum_comm]
  simp [quadCc_sum]

/-- Every figure of a list is listed for one key below the bound of its keys. -/
theorem listed_sum (l : List (Nat × Nat)) (n : Nat) (h : ∀ e ∈ l, e.1 < n) :
    ∑ q ∈ Finset.range n, listed l q = (l.map (·.2)).sum := by
  induction l with
  | nil => simp [listed]
  | cons e l ih =>
    have hstep : ∀ q, listed (e :: l) q = (if e.1 = q then e.2 else 0) + listed l q := by
      intro q
      by_cases hq : e.1 = q <;> simp [listed, hq]
    have he : e.1 < n := h e (List.mem_cons_self ..)
    simp only [hstep, Finset.sum_add_distrib, ih fun e he => h e (List.mem_cons_of_mem _ he)]
    simp [he]

/-! ## The shares (R379) -/

/-- The direct terms of the worlds are those of the package, times the interval's length. -/
theorem directTerm_sum (m : Measure) (s : State) (len : Nat) (h : ∀ e ∈ m.quads, e.1 < 256) :
    ∑ w ∈ Finset.range 64, directTerm m s len w = len * directSum m s := by
  have hq : ∑ w ∈ Finset.range 64, ∑ q ∈ Finset.range 256, listed m.quads q * quadCc s.assayer.held len w q =
      (m.quads.map (·.2)).sum * len := by
    rw [Finset.sum_comm, ← listed_sum m.quads 256 h, Finset.sum_mul]
    exact Finset.sum_congr rfl fun q _ => by rw [← Finset.mul_sum, quadCc_sum]
  simp only [directTerm, directSum, sum_map_range, Finset.sum_add_distrib, ← Finset.mul_sum, ← Finset.sum_mul, hq]
  ring

/-- The denominator of the exact shares. -/
def shareUnit (m : Measure) (s : State) (len : Nat) : Nat :=
  if isScaled m s then len * directSum m s else 256 * len * 10 ^ 6

theorem exactShare_snd (m : Measure) (s : State) (len w : Nat) : (exactShare m s len w).2 = shareUnit m s len := by
  unfold exactShare shareUnit; split <;> rfl

theorem shareUnit_pos (m : Measure) (s : State) {len : Nat} (h : 0 < len) : 0 < shareUnit m s len := by
  unfold shareUnit
  split
  · rename_i hs
    have : 10 ^ 6 * m.total < directSum m s := by simpa [isScaled] using hs
    exact Nat.mul_pos h (by omega)
  · omega

/-- The exact shares of the worlds make up the energy of the interval. -/
theorem exactShare_sum (m : Measure) (s : State) (len : Nat) (h : ∀ e ∈ m.quads, e.1 < 256) :
    ∑ w ∈ Finset.range 64, (exactShare m s len w).1 = m.total * shareUnit m s len := by
  unfold exactShare shareUnit
  by_cases hs : isScaled m s = true
  · simp only [hs, if_true, ← Finset.sum_mul, directTerm_sum m s len h]
    ring
  · have hle : directSum m s ≤ 10 ^ 6 * m.total := by simpa [isScaled] using hs
    obtain ⟨rest, hrest⟩ := Nat.exists_eq_add_of_le hle
    simp only [hs, Bool.false_eq_true, if_false, Finset.sum_add_distrib, ← Finset.sum_mul, ← Finset.mul_sum, directTerm_sum m s len h,
      worldCc_sum]
    rw [hrest, Nat.add_sub_cancel_left]
    calc len * directSum m s * 256 + rest * (256 * len) = 256 * len * (directSum m s + rest) := by ring
      _ = m.total * (256 * len * 10 ^ 6) := by rw [← hrest]; ring

/-- An insertion at a key that is not listed adds one entry. -/
theorem SMap.perm_insert {α : Type} (m : SMap α) (k : Nat) (v : α) (h : k ∉ m.keys) : (m.insert k v).Perm ((k, v) :: m) := by
  induction m with
  | nil => exact .refl _
  | cons e m ih =>
    obtain ⟨j, w⟩ := e
    simp only [SMap.keys, List.map_cons, List.mem_cons, not_or] at h
    simp only [SMap.insert, if_neg h.1]
    split
    · exact .refl _
    · exact ((ih h.2).cons _).trans (.swap ..)

/-- Entries inserted at distinct keys are all listed, each once. -/
theorem SMap.perm_foldl_insert {α : Type} (f : Nat → Nat) (g : Nat → α) (n : Nat) (hf : ∀ a < n, ∀ b < n, f a = f b → a = b) :
    ((List.range n).foldl (fun m k => SMap.insert m (f k) (g k)) []).Perm ((List.range n).map fun k => (f k, g k)) := by
  induction n with
  | zero => exact .refl _
  | succ n ih =>
    have ih := ih fun a ha b hb => hf a (by omega) b (by omega)
    rw [List.range_succ, List.foldl_append, List.map_append]
    refine (SMap.perm_insert _ _ _ fun hk => ?_).trans ((ih.cons _).trans (List.perm_append_singleton ..).symm)
    rw [SMap.keys, (ih.map _).mem_iff] at hk
    simp only [List.map_map, List.mem_map, List.mem_range, Function.comp] at hk
    obtain ⟨a, ha, hfa⟩ := hk
    have := hf a (by omega) n (by omega) hfa
    omega

/-- Shares floored sum to no more than the whole, and to less by no more than one for each. -/
theorem floors_sum {n total unit : Nat} (x : Nat → Nat) (hu : 0 < unit) (hx : ∑ w ∈ Finset.range n, x w = total * unit) :
    ∑ w ∈ Finset.range n, x w / unit ≤ total ∧ total ≤ ∑ w ∈ Finset.range n, x w / unit + n := by
  constructor
  · refine Nat.le_of_mul_le_mul_right ?_ hu
    rw [← hx, Finset.sum_mul]
    exact Finset.sum_le_sum fun w _ => Nat.div_mul_le_self ..
  · refine Nat.le_of_mul_le_mul_right ?_ hu
    have : ∑ w ∈ Finset.range n, x w ≤ ∑ w ∈ Finset.range n, (x w / unit + 1) * unit :=
      Finset.sum_le_sum fun w _ => by
        have := Nat.div_add_mod (x w) unit
        have := Nat.mod_lt (x w) hu
        nlinarith
    rw [← hx]
    simpa [← Finset.sum_mul, Finset.sum_add_distrib] using this

/-- One each to distinct worlds adds up to their number. -/
theorem sum_ones {n : Nat} (l : List Nat) (hd : l.Nodup) (hl : ∀ k ∈ l, k < n) :
    (∑ w ∈ Finset.range n, if l.contains w then 1 else 0) = l.length := by
  rw [Finset.sum_ite, Finset.sum_const_zero, add_zero, Finset.sum_const, smul_eq_mul, mul_one, ← List.toFinset_card_of_nodup hd]
  congr 1
  ext w
  simpa using hl w

/-- Keys that end in the world's number list every world once, in the order of the keys. -/
theorem keyed_worlds_perm (f : Nat → Nat) :
    (((List.range 64).foldl (fun o w => SMap.insert o (f w * 64 + w) w) []).map (·.2)).Perm (List.range 64) := by
  have h := (SMap.perm_foldl_insert (fun w => f w * 64 + w) id 64 fun a ha b hb hab => by omega).map (·.2)
  simpa [Function.comp_def] using h

/-- What the floors leave, given one each to the first worlds of an order of all, makes up the whole. -/
theorem rounded_sum {order : List Nat} {total : Nat} (floor : Nat → Nat) (ho : order.Perm (List.range 64))
    (hle : ∑ w ∈ Finset.range 64, floor w ≤ total) (hge : total ≤ ∑ w ∈ Finset.range 64, floor w + 64) :
    ∑ w ∈ Finset.range 64,
      (floor w + if (order.take (total - ∑ w ∈ Finset.range 64, floor w)).contains w then 1 else 0) = total := by
  have hlen : order.length = 64 := by simpa using ho.length_eq
  have hd : order.Nodup := ho.nodup_iff.mpr List.nodup_range
  rw [Finset.sum_add_distrib, sum_ones _ (hd.sublist (List.take_sublist ..)) fun k hk => by
    simpa using ho.mem_iff.mp (List.mem_of_mem_take hk), List.length_take, hlen]
  omega

/-- The shares of an interval sum to its energy (R379). -/
theorem shares_sum (m : Measure) (s : State) {len : Nat} (hlen : 0 < len) (h : ∀ e ∈ m.quads, e.1 < 256) :
    (shares m s len).sum = m.total := by
  obtain ⟨hle, hge⟩ := floors_sum _ (shareUnit_pos m s hlen) (exactShare_sum m s len h)
  have hfloors : ∀ w < 64, (((List.range 64).map (exactShare m s len)).map fun x => x.1 / x.2).getD w 0 =
      (exactShare m s len w).1 / shareUnit m s len := by
    intro w hw
    rw [List.map_map, getD_map_range _ _ _ hw, Function.comp, exactShare_snd]
  have hsum : (((List.range 64).map (exactShare m s len)).map fun x => x.1 / x.2).sum =
      ∑ w ∈ Finset.range 64, (exactShare m s len w).1 / shareUnit m s len := by
    rw [List.map_map, sum_map_range]
    exact Finset.sum_congr rfl fun w _ => by rw [Function.comp, exactShare_snd]
  unfold shares
  simp only [sum_map_range, hsum]
  rw [Finset.sum_congr rfl fun w hw => by rw [hfloors w (Finset.mem_range.mp hw)]]
  exact rounded_sum _ (keyed_worlds_perm _) hle hge

/-- No share is more than the energy of the interval. -/
theorem shares_getD_le (m : Measure) (s : State) {len : Nat} (hlen : 0 < len) (h : ∀ e ∈ m.quads, e.1 < 256) (w : Nat) :
    (shares m s len).getD w 0 ≤ m.total := by
  rw [← shares_sum m s hlen h, List.getD_eq_getElem?_getD]
  by_cases hw : w < (shares m s len).length
  · rw [List.getElem?_eq_getElem hw]
    exact List.single_le_sum (fun _ _ => Nat.zero_le _) _ (List.getElem_mem hw)
  · rw [List.getElem?_eq_none (by omega)]
    exact Nat.zero_le _

theorem shares_length (m : Measure) (s : State) (len : Nat) : (shares m s len).length = 64 := by simp [shares]

theorem shares_getD_sum (m : Measure) (s : State) (len : Nat) :
    ∑ w ∈ Finset.range 64, (shares m s len).getD w 0 = (shares m s len).sum := by
  rw [Finset.sum_range, ← shares_length m s len]
  simp

/-! ## The end of an interval -/

/-- A world whose counter has taken its share of an interval. -/
def World.metered (x : World) (share : Nat) (scaled : Bool) : World :=
  { x with energy := { x.energy with
      counter := min (x.energy.counter + share) (2 ^ 64 - 1), scaled := x.energy.scaled || scaled } }

/-- The counters of the first n worlds after an interval with given shares. -/
def meterWorlds (s : State) (xs : List Nat) (scaled : Bool) (n : Nat) : State :=
  (List.range n).foldl (fun s w => s.setWorld w ((s.world w).metered (xs.getD w 0) scaled)) s

/-- The running interval ended, its cc, bytes and flits counted no longer. -/
def beginInterval (s : State) : State :=
  { s with
    assayer := { s.assayer with held := [], hbm := [], intervalStart := s.time, intervalSpan := s.span }
    fabric := { s.fabric with flits := [] } }

theorem beginInterval_world (s : State) (w : Nat) : (beginInterval s).world w = s.world w := rfl

theorem State.world_boxEvent (s : State) (die code w unit : Nat) (data : List Byte) (k : Nat) :
    (boxEvent s die code w unit data).world k = s.world k := rfl

theorem meterWorlds_spec (s : State) (xs : List Nat) (scaled : Bool) (n : Nat) :
    (∃ ws, meterWorlds s xs scaled n = { s with worlds := ws }) ∧
    ∀ w, (meterWorlds s xs scaled n).world w = if w < n then (s.world w).metered (xs.getD w 0) scaled else s.world w := by
  induction n with
  | zero => exact ⟨⟨s.worlds, rfl⟩, fun w => by simp [meterWorlds]⟩
  | succ n ih =>
    obtain ⟨⟨ws, hrest⟩, hworld⟩ := ih
    have hstep : meterWorlds s xs scaled (n + 1) = (meterWorlds s xs scaled n).setWorld n
        (((meterWorlds s xs scaled n).world n).metered (xs.getD n 0) scaled) := by
      simp [meterWorlds, List.range_succ]
    refine ⟨⟨_, by rw [hstep, hrest]; rfl⟩, fun w => ?_⟩
    rw [hstep, State.world_setWorld, hworld n, hworld w, if_neg (Nat.lt_irrefl n)]
    by_cases hw : w = n
    · subst hw; simp
    · have : w < n + 1 ↔ w < n := by omega
      simp [hw, this]

/-- The figures by which an interval is divided: its last cc may still have to be counted. -/
def countedUp (s : State) : State := if s.time = s.assayer.intervalStart then tallyQuads s 1 else s

theorem countedUp_eq (s : State) : ∃ held, countedUp s = { s with assayer := { s.assayer with held := held } } := by
  unfold countedUp
  split
  · exact ⟨_, rfl⟩
  · exact ⟨s.assayer.held, rfl⟩

theorem closeInterval_eq (m : Measure) (s : State) : ∃ len > 0, closeInterval m s =
    let b := beginInterval (meterWorlds (countedUp s) (shares m (countedUp s) len) (isScaled m (countedUp s)) 64)
    if isScaled m (countedUp s) then boxEvent b b.assayer.minDie 7 0 0 (List.replicate 16 0) else b :=
  ⟨max 1 ((countedUp s).time - (countedUp s).assayer.intervalStart), by omega, by unfold closeInterval; rfl⟩

/-- What closing an interval does: each world takes its share, the next interval begins, and nothing else but the black boxes changes. -/
theorem closeInterval_spec (m : Measure) (s : State) : ∃ a scaled, ∃ len > 0,
    (∀ w, (closeInterval m s).world w = if w < 64 then (s.world w).metered ((shares m a len).getD w 0) scaled else s.world w) ∧
    ∃ ws boxes, closeInterval m s = beginInterval { s with worlds := ws, assayer := { s.assayer with boxes := boxes } } := by
  obtain ⟨held, ha⟩ := countedUp_eq s
  obtain ⟨len, hlen, hclose⟩ := closeInterval_eq m s
  obtain ⟨⟨ws, hrest⟩, hworld⟩ := meterWorlds_spec (countedUp s) (shares m (countedUp s) len) (isScaled m (countedUp s)) 64
  dsimp only at hclose
  refine ⟨countedUp s, isScaled m (countedUp s), len, hlen, fun w => ?_, ?_⟩
  · have hsame : (countedUp s).world w = s.world w := by rw [ha]; rfl
    rw [← hsame, ← hworld w, hclose]
    split
    · rw [State.world_boxEvent, beginInterval_world]
    · rw [beginInterval_world]
  · rw [hclose, hrest, ha]
    split
    · exact ⟨ws, _, rfl⟩
    · exact ⟨ws, s.assayer.boxes, rfl⟩

theorem exec_meteringInterval (m : Measure) (s : State) : exec (.meteringInterval m) s =
    .next (if oneMs ≤ s.span - s.assayer.intervalSpan then closeInterval m s else s) := rfl

end Sys2Proof.Machine

namespace Sys2Proof

open Machine

/-- Settles O55: the cc of each quad are counted out to the worlds exactly, so the exact shares make up the interval's energy, and the units
that flooring leaves, no more than the worlds, are dealt out one to a world. -/
theorem energyIsConserved : Obligations.EnergyIsConserved := by
  unfold Obligations.EnergyIsConserved Claims.EnergyIsConserved
  intro s m
  refine ⟨fun hpassed hquads hroom => ?_, fun hpassed => ⟨s, by rw [exec_meteringInterval, if_neg (show ¬ oneMs ≤ _ from hpassed)], rfl⟩⟩
  obtain ⟨a, scaled, len, hlen, hworld, ws, boxes, hrest⟩ := closeInterval_spec m s
  have hcounter : ∀ w < 64, ((closeInterval m s).world w).energy.counter =
      (s.world w).energy.counter + (shares m a len).getD w 0 := by
    intro w hw
    have hle := shares_getD_le m a hlen hquads w
    have := hroom w hw
    rw [hworld w, if_pos hw]
    show min _ _ = _
    omega
  refine ⟨closeInterval m s, by rw [exec_meteringInterval, if_pos (show oneMs ≤ _ from hpassed)], ?_, fun w hw => ?_, fun w => ?_, ?_⟩
  · rw [sum_map_range, sum_map_range, ← shares_sum m a hlen hquads, ← shares_getD_sum, ← Finset.sum_add_distrib]
    exact Finset.sum_congr rfl fun w hw => hcounter w (Finset.mem_range.mp hw)
  · rw [hcounter w hw]; omega
  · rw [hworld w]; split <;> rfl
  · rw [hrest]
    exact ⟨rfl, rfl, rfl, rfl, rfl, rfl, rfl⟩

end Sys2Proof
end

section
/-! PROOF. The completion of a launch (R329, R335, R336): the third part of O53. -/

namespace Sys2Proof.Machine

open Sys2Proof

/-! ## What leaves threads, launches and queues as they are -/

/-- A step of the memory side of a command: no thread, no launch and no queue changes. -/
structure KeepsQueues (s t : State) : Prop where
  threads  : t.threads = s.threads
  launches : t.launches = s.launches
  queues   : ∀ w, (t.world w).queues = (s.world w).queues

namespace KeepsQueues

theorem refl (s : State) : KeepsQueues s s := ⟨rfl, rfl, fun _ => rfl⟩

theorem trans {a b c : State} (h : KeepsQueues a b) (h' : KeepsQueues b c) : KeepsQueues a c :=
  ⟨h'.threads.trans h.threads, h'.launches.trans h.launches, fun w => (h'.queues w).trans (h.queues w)⟩

theorem foldl {α : Type} {f : State → α → State} (hf : ∀ s x, KeepsQueues s (f s x)) (l : List α) (s : State) :
    KeepsQueues s (l.foldl f s) := by
  induction l generalizing s with
  | nil => exact refl s
  | cons x l ih => exact (hf s x).trans (ih _)

theorem cmdQueue {s t : State} (h : KeepsQueues s t) (w q : Nat) : t.cmdQueue w q = s.cmdQueue w q := by
  simp [State.cmdQueue, h.queues]

theorem writeMain (s : State) (key : Nat) (b : List Byte) : KeepsQueues s (writeMain s key b) := ⟨rfl, rfl, fun _ => rfl⟩

theorem countHbm (s : State) (w key n : Nat) : KeepsQueues s (countHbm s w key n) := by
  unfold Machine.countHbm
  split
  · exact ⟨rfl, rfl, fun _ => rfl⟩
  · exact refl s

theorem recallFrom (s : State) (q k : Nat) : KeepsQueues s (recallFrom s q k) := by
  unfold Machine.recallFrom
  split
  · exact KeepsQueues.trans (b := s.setQuad _ _) ⟨rfl, rfl, fun _ => rfl⟩ ((countHbm ..).trans ⟨rfl, rfl, fun _ => rfl⟩)
  · exact refl s

theorem recallRange (s : State) (key n : Nat) : KeepsQueues s (recallRange s key n) :=
  foldl (fun s k => foldl (fun s q => recallFrom s q k) (owners s k) s) _ s

theorem setGrant (s : State) (w g : Nat) (x : Grant) : KeepsQueues s (s.setGrant w g x) := by
  refine ⟨rfl, rfl, fun k => ?_⟩
  rw [State.setGrant, State.world_setWorld]
  split
  · rename_i h; subst h; rfl
  · rfl

theorem addUse (s : State) (w g : Nat) : KeepsQueues s (addUse s w g) := setGrant ..

theorem addRef (s : State) (r : Nat × Nat) : KeepsQueues s (addRef s r) := ⟨rfl, rfl, fun _ => rfl⟩

theorem sendPacket (s : State) (p : Packet) : KeepsQueues s (sendPacket s p) := by
  unfold Machine.sendPacket
  split
  · exact ⟨rfl, rfl, fun _ => rfl⟩
  · simp only [pickPort]
    split
    case h_1 h =>
      obtain ⟨-, rfl⟩ := Prod.mk.inj h
      exact ⟨rfl, rfl, fun _ => rfl⟩
    case h_2 h =>
      obtain ⟨-, rfl⟩ := Prod.mk.inj h
      exact ⟨rfl, rfl, fun _ => rfl⟩

theorem startPurge (s : State) (w : Nat) (what : PurgeOf) (nodes : List Nat) (runs : List (Nat × Nat)) (grants : List Nat)
    (after : PurgeEnd) : KeepsQueues s (startPurge s w what nodes runs grants after).2 := by
  have h : KeepsQueues _ (Machine.startPurge s w what nodes runs grants after).2 := foldl (fun s n => sendPacket s _) nodes _
  exact ⟨h.threads, h.launches, h.queues⟩

theorem ite {s a b : State} {c : Prop} [Decidable c] (ha : KeepsQueues s a) (hb : KeepsQueues s b) :
    KeepsQueues s (if c then a else b) := by
  split
  · exact ha
  · exact hb

theorem applyUnit (s : State) (f : Nat) (ch : List (Nat × DWord × DWord)) : KeepsQueues s (applyUnit s f ch).1 := by
  unfold Machine.applyUnit
  refine KeepsQueues.trans (foldl (fun s e => ?_) ch s) ⟨rfl, rfl, fun _ => rfl⟩
  dsimp only
  exact ((ite (addRef ..) (refl s)).trans (ite (addUse ..) (refl _))).trans (writeMain ..)

theorem acceptUnit (s : State) (f : Nat) (ch : List (Nat × DWord × DWord)) (after : PurgeEnd) :
    KeepsQueues s (acceptUnit s f ch after).2 := by
  unfold Machine.acceptUnit
  have happly := applyUnit s f ch
  dsimp only
  split
  · refine happly.trans (KeepsQueues.trans ?_ (startPurge ..))
    split
    · exact ⟨rfl, rfl, fun _ => rfl⟩
    · exact refl _
  · exact happly

theorem writeDone (s : State) (l : Launch) : KeepsQueues s (writeDone s l) := by
  unfold Machine.writeDone
  split
  · exact refl s
  split
  · exact refl s
  dsimp only
  split
  · split
    · exact (countHbm ..).trans (acceptUnit ..)
    · exact refl s
  · exact (recallRange ..).trans ((writeMain ..).trans (countHbm ..))

theorem writeStatus (s : State) (w va word : Nat) : KeepsQueues s (writeStatus s w va word) := by
  rw [Machine.writeStatus]
  cases ringPage s w (BitVec.ofNat 64 va) false with
  | none => exact refl s
  | some p => exact (writeMain ..).trans (countHbm ..)

end KeepsQueues

/-! ## Chunks returned -/

/-- What returning chunks leaves of a launch as it was. -/
def Launch.sameButChunks (l l' : Launch) : Prop :=
  { l' with crucSpace := l.crucSpace, crucChunks := l.crucChunks, ownChunks := l.ownChunks } = l

/-- Returning chunks changes the entry of its launch alone, and in it the chunks alone. -/
theorem returnChunks_spec (s : State) (lid : Nat) (l : Launch) :
    (l.hasMore = true ∧ returnChunks s lid l = s) ∨ ∃ l', l.sameButChunks l' ∧ returnChunks s lid l = s.setLaunch lid l' := by
  have hfold : ∀ (dies : List Nat) (x : Launch), l.sameButChunks x → l.sameButChunks (dies.foldl (fun (x : Launch) die =>
      { x with crucSpace := x.crucSpace.erase die, crucChunks := x.crucChunks.erase die }) x) := by
    intro dies
    induction dies with
    | nil => exact fun _ h => h
    | cons d dies ih => exact fun x h => ih _ h
  unfold returnChunks
  split
  · exact .inl ⟨‹_›, rfl⟩
  · dsimp only
    refine .inr ⟨_, ?_, rfl⟩
    exact hfold _ _ rfl

/-! ## Status and flush -/

theorem walkFrom_setLaunch (s : State) (lid : Nat) (x : Launch) (w va : Nat) : ∀ (level f : Nat) (seen : List Nat),
    walkFrom (s.setLaunch lid x) w va f seen level = walkFrom s w va f seen level := by
  intro level
  induction level with
  | zero => exact fun _ _ => rfl
  | succ level ih => intro f seen; simp only [walkFrom, ih, State.setLaunch_mem]

theorem ringPage_setLaunch (s : State) (lid : Nat) (x : Launch) (w : Nat) (base : DWord) (read : Bool) :
    ringPage (s.setLaunch lid x) w base read = ringPage s w base read := by
  have hwalk : walk (s.setLaunch lid x) w (base.toNat / 2 ^ 16 * 2 ^ 16) = walk s w (base.toNat / 2 ^ 16 * 2 ^ 16) := by
    rw [walk, walk, walkFrom_setLaunch]; rfl
  rw [ringPage, ringPage, hwalk]
  cases walk s w (base.toNat / 2 ^ 16 * 2 ^ 16) <;> rfl

/-- Where a status is written does not depend on the launches. -/
theorem writeStatus_setLaunch_mem (s : State) (lid : Nat) (x : Launch) (w va word : Nat) :
    (writeStatus (s.setLaunch lid x) w va word).mem = (writeStatus s w va word).mem := by
  have hcount : ∀ (a : State) (w key n : Nat), (countHbm a w key n).mem = a.mem := by
    intro a w key n; unfold countHbm; split <;> rfl
  rw [writeStatus, writeStatus, ringPage_setLaunch]
  cases ringPage s w (BitVec.ofNat 64 va) false with
  | none => rfl
  | some p => simp only [hcount]; rfl

/-- A command that completes (R335, R336). -/
theorem finishCommand_spec (s : State) (w q : Nat) (o : Outcome) (reason estat : Nat) :
    let t := finishCommand s w q o reason estat
    t.threads = s.threads ∧ t.launches = s.launches ∧
    t.mem = (writeStatus s w (s.cmdQueue w q).runVa (statusWord o reason estat)).mem ∧
    t.cmdQueue w q = { s.cmdQueue w q with
      head := (s.cmdQueue w q).head + 1 + BitVec.ofNat 32 (s.cmdQueue w q).flushed, running := none, runVa := 0, flushed := 0 } := by
  have hk := KeepsQueues.writeStatus s w (s.cmdQueue w q).runVa (statusWord o reason estat)
  dsimp only
  rw [finishCommand, State.setCmdQueue_threads, State.setCmdQueue_launches, State.setCmdQueue_mem,
    State.cmdQueue_setCmdQueue_self]
  exact ⟨hk.threads, hk.launches, rfl, rfl⟩

/-- A flush of a queue that runs nothing (R336). -/
theorem flushQueue_idle (s : State) (w q estat : Nat) (h : (s.cmdQueue w q).running = none) :
    let t := flushQueue s w q estat
    t.threads = s.threads ∧ t.launches = s.launches ∧ (w, 3) ∈ t.msix ∧ (t.cmdQueue w q).stopped = true ∧
    (t.cmdQueue w q).head = (s.cmdQueue w q).tail ∧ (t.cmdQueue w q).running = none := by
  obtain ⟨a, ha, hflush⟩ : ∃ a, KeepsQueues s a ∧ flushQueue s w q estat = raiseMsix (a.setCmdQueue w q
      { s.cmdQueue w q with stopped := true, head := (s.cmdQueue w q).tail, flushed := 0, running := none }) w 3 := by
    rw [flushQueue]
    simp only [h, Bool.false_eq_true, if_false]
    refine ⟨_, ?_, rfl⟩
    exact KeepsQueues.foldl (fun a k => KeepsQueues.writeStatus a w _ _) _ s
  have hq : (raiseMsix (a.setCmdQueue w q
      { s.cmdQueue w q with stopped := true, head := (s.cmdQueue w q).tail, flushed := 0, running := none }) w 3).cmdQueue w q = _ :=
    State.cmdQueue_setCmdQueue_self ..
  dsimp only
  rw [hflush, hq]
  exact ⟨ha.threads, ha.launches, List.mem_cons_self .., rfl, rfl, rfl⟩

/-! ## Completion -/

theorem launchDone_of (s : State) (lid : Nat) (l : Launch) (hmore : l.stopped = true ∨ l.gdx * l.gdy * l.gdz ≤ l.nextIndex)
    (hteams : ∀ e ∈ s.teams, e.2.launch = lid → e.2.ended = true ∧ e.2.endedAt < s.time)
    (hladles : ∀ e ∈ s.ladles, e.2.launch ≠ some lid)
    (hposted : ∀ e ∈ s.quads, ∀ p ∈ e.2.table, (s.team p.team).launch ≠ lid)
    (hsigned : ∀ e ∈ s.groups, (s.team (teamOfGid e.1)).launch = lid → ∀ c ∈ e.2.conv, c.2.signed = 0 ∨ c.2.signed ≠ c.2.declared) :
    launchDone s lid l = true := by
  simp only [launchDone, Conv.complete, Bool.and_eq_true, Bool.or_eq_true, List.all_eq_true,
    decide_eq_true_eq, Bool.not_eq_true', List.any_eq_false]
  refine ⟨⟨⟨⟨by simpa [Launch.total] using hmore, fun e he => ?_⟩, hladles⟩, fun e he => ?_⟩, fun e he p hp => hposted e he p hp⟩
  · by_cases hl : e.2.launch = lid
    · exact .inr (hteams e he hl)
    · exact .inl hl
  · by_cases hl : (s.team (teamOfGid e.1)).launch = lid
    · refine .inr fun c hc hcon => ?_
      obtain h | h := hsigned e he hl c hc
      · exact hcon.1 h
      · exact h hcon.2
    · exact .inl hl

/-- The status of a launch (R335): FAILED or OK. -/
theorem status_of_failed (l : Launch) : statusWord (if l.failed then .failed else .ok) 0 0 =
    2 ^ 31 + (if l.killed ≠ 0 ∨ (l.stopped = true ∧ l.nextIndex < l.gdx * l.gdy * l.gdz) then 2 ^ 29 else 0) := by
  have hfailed : l.failed = true ↔ l.killed ≠ 0 ∨ (l.stopped = true ∧ l.nextIndex < l.gdx * l.gdy * l.gdz) := by
    simp only [Launch.failed, Bool.or_eq_true, Bool.and_eq_true, decide_eq_true_eq]
    exact Iff.rfl
  by_cases h : l.failed = true
  · rw [if_pos h, if_pos (hfailed.mp h)]; rfl
  · rw [if_neg h, if_neg fun h' => h (hfailed.mpr h')]; rfl

theorem exec_launchComplete (lid : Nat) (s : State) : exec (.launchComplete lid) s = execLaunchComplete lid s := rfl

theorem launchesComplete : Claims.LaunchesComplete := by
  intro s lid l hrun hflushed hopen hmore hteams hladles hposted hsigned
  have hdone := launchDone_of s lid l hmore hteams hladles hposted hsigned
  have hd := KeepsQueues.writeDone s l
  have hx : { l with complete := true, stopped := true }.hasMore = false := by simp [Launch.hasMore]
  obtain ⟨hx', -⟩ | ⟨l', hsame, hret⟩ := returnChunks_spec (writeDone s l) lid { l with complete := true, stopped := true }
  · rw [hx] at hx'; cases hx'
  have hcq : ((writeDone s l).setLaunch lid l').cmdQueue l.world l.queue = s.cmdQueue l.world l.queue := hd.cmdQueue ..
  obtain ⟨hft, hfl, hfm, hfq⟩ := finishCommand_spec ((writeDone s l).setLaunch lid l') l.world l.queue
    (if l.failed then .failed else .ok) 0 0
  rw [hcq, writeStatus_setLaunch_mem] at hfm
  rw [hcq] at hfq
  have hexec : exec (.launchComplete lid) s = .next (
      let t := finishCommand ((writeDone s l).setLaunch lid l') l.world l.queue (if l.failed then .failed else .ok) 0 0
      if l.abortOnFail && l.killed ≠ 0 then flushQueue t l.world l.queue 0 else t) := by
    rw [exec_launchComplete, execLaunchComplete, ← hret]
    exact if_neg (by simp [hrun, hopen, hdone, l])
  dsimp only at hexec hft hfl hfm hfq
  generalize finishCommand ((writeDone s l).setLaunch lid l') l.world l.queue (if l.failed then .failed else .ok) 0 0 = t at *
  have hthreads : t.threads = s.threads := hft.trans hd.threads
  have hlaunch : t.launch lid = l' := by simp [State.launch, hfl, State.setLaunch]
  have hcomplete : (t.launch lid).complete = true := by rw [hlaunch]; exact congrArg Launch.complete hsame
  have hstopped : (t.launch lid).stopped = true := by rw [hlaunch]; exact congrArg Launch.stopped hsame
  by_cases habort : l.abortOnFail = true ∧ l.killed ≠ 0
  · obtain ⟨hut, hul, hum, hus, huh, hur⟩ := flushQueue_idle t l.world l.queue 0 (by rw [hfq])
    have hlaunch' : (flushQueue t l.world l.queue 0).launch lid = t.launch lid := by simp only [State.launch, hul]
    refine ⟨flushQueue t l.world l.queue 0, by rw [hexec, if_pos (by simpa using habort)], hlaunch' ▸ hcomplete, hlaunch' ▸ hstopped,
      hut.trans hthreads, fun h => ?_, fun _ _ => ⟨hus, by rw [huh, hfq], hur, hum⟩⟩
    obtain h | h := h
    · rw [habort.1] at h; cases h
    · exact absurd h habort.2
  · refine ⟨t, by rw [hexec, if_neg (by simpa using habort)], hcomplete, hstopped, hthreads, fun _ => ⟨?_, ?_⟩,
      fun h1 h2 => absurd ⟨h1, h2⟩ habort⟩
    · rw [hfq, hflushed]; simp
    · rw [hfm, status_of_failed]

end Sys2Proof.Machine
end

section
/-! PROOF. The distribution of clusters and their reserving (R203, R204, R269, R326, R330 to R332): the first two parts of O53, which is
settled here. A cluster is placed piece by piece: threads, a group, the groups of a team, a team, the teams of the cluster. Each piece says
what it places and that the pieces of lower numbers stay. -/

namespace Sys2Proof.Machine

open Sys2Proof

/-! ## Groups and their threads placed -/

/-- A thread at its start (R72, R129): every register zero, filed at its launch's entry. -/
def startedThread (pc : Word) (time : Nat) : Thread := { noThread with pc := pc, place := .filed, runnable := time }

theorem fileStarted_spec (s : State) (tid : Nat) (pc : Word) :
    let t := fileThread (s.setThread tid { noThread with pc := pc }) tid s.time
    (∃ ths cs, t = { s with threads := ths, cores := cs }) ∧
    ∀ k, t.thread k = if k = tid then startedThread pc s.time else s.thread k := by
  obtain ⟨cs, hw⟩ := wake_spec (s.setThread tid { noThread with pc := pc }) tid
  have ht : fileThread (s.setThread tid { noThread with pc := pc }) tid s.time = _ := hw
  dsimp only
  rw [ht]
  refine ⟨⟨_, cs, rfl⟩, fun k => ?_⟩
  rw [State.thread_cores]
  by_cases hk : k = tid
  · subst hk; simp [startedThread]
  · rw [if_neg hk, State.thread_modThread_ne _ _ hk, State.thread_setThread_ne _ _ hk]

theorem startThreads_spec (pc : Word) (l : List Nat) (s : State) :
    let t := l.foldl (fun s tid => fileThread (s.setThread tid { noThread with pc := pc }) tid s.time) s
    (∃ ths cs, t = { s with threads := ths, cores := cs }) ∧
    ∀ k, t.thread k = if k ∈ l then startedThread pc s.time else s.thread k := by
  induction l generalizing s with
  | nil => exact ⟨⟨s.threads, s.cores, rfl⟩, fun k => by simp⟩
  | cons tid l ih =>
    obtain ⟨⟨ths, cs, hone⟩, hthread⟩ := fileStarted_spec s tid pc
    obtain ⟨⟨ths', cs', hrest⟩, hrest'⟩ := ih (fileThread (s.setThread tid { noThread with pc := pc }) tid s.time)
    have htime : (fileThread (s.setThread tid { noThread with pc := pc }) tid s.time).time = s.time := by rw [hone]
    rw [List.foldl_cons]
    refine ⟨⟨ths', cs', by rw [hrest, hone]⟩, fun k => ?_⟩
    rw [hrest' k, hthread k, htime]
    by_cases hk : k = tid <;> by_cases hl : k ∈ l <;> simp [hk, hl]

theorem fillGranules_spec (s : State) (gid : Nat) : (∃ gs, fillGranules s gid = { s with groups := gs }) ∧
    ((fillGranules s gid).group gid).role = (s.group gid).role ∧ ((fillGranules s gid).group gid).core = (s.group gid).core ∧
    ∀ k, k ≠ gid → (fillGranules s gid).group k = s.group k := by
  refine ⟨⟨_, rfl⟩, ?_, ?_, fun k hk => ?_⟩
  · rw [fillGranules, State.group_setGroup, if_pos rfl]
  · rw [fillGranules, State.group_setGroup, if_pos rfl]
  · rw [fillGranules, State.group_setGroup, if_neg hk, State.group_setGroup, if_neg hk]

theorem mem_groupTids (gid tid : Nat) : tid ∈ (List.range 32).map (tidOf gid) ↔ tid / 32 = gid := by
  simp only [List.mem_map, List.mem_range, tidOf]
  constructor
  · rintro ⟨slot, hslot, rfl⟩; omega
  · rintro rfl; exact ⟨tid % 32, by omega, by omega⟩

/-- A group placed with its 32 threads (R72, R129, R146). -/
structure GroupPlaced (t : State) (gid role core : Nat) (pc : Word) (time : Nat) : Prop where
  role    : (t.group gid).role = role
  core    : (t.group gid).core = core
  threads : ∀ slot, slot < 32 → t.thread (gid * 32 + slot) = startedThread pc time

theorem startGroup_spec (s : State) (gid role core : Nat) (pc : Word) :
    (∃ gs ths cs, startGroup s gid role core pc = { s with groups := gs, threads := ths, cores := cs }) ∧
    GroupPlaced (startGroup s gid role core pc) gid role core pc s.time ∧
    (∀ k, k ≠ gid → (startGroup s gid role core pc).group k = s.group k) ∧
    ∀ tid, tid / 32 ≠ gid → (startGroup s gid role core pc).thread tid = s.thread tid := by
  have hstart := startThreads_spec pc ((List.range 32).map (tidOf gid)) (s.setGroup gid { noGroup with role := role, core := core })
  dsimp only at hstart
  rw [startGroup]
  dsimp only
  generalize List.foldl _ _ _ = a at hstart ⊢
  obtain ⟨⟨ths, cs, ha⟩, hthread⟩ := hstart
  obtain ⟨⟨gs, hfill⟩, hrole, hcore, hgroup⟩ := fillGranules_spec a gid
  have hagroup : ∀ k, a.group k = if k = gid then { noGroup with role := role, core := core } else s.group k := fun k => by
    rw [← State.group_setGroup, ha]; rfl
  have hathread : ∀ k, (fillGranules a gid).thread k = a.thread k := fun k => by rw [hfill]; rfl
  refine ⟨⟨gs, ths, cs, by rw [hfill, ha]; rfl⟩, ⟨?_, ?_, fun slot hslot => ?_⟩, fun k hk => ?_, fun tid htid => ?_⟩
  · rw [hrole, hagroup, if_pos rfl]
  · rw [hcore, hagroup, if_pos rfl]
  · rw [hathread, hthread, if_pos ((mem_groupTids ..).mpr (by omega))]; rfl
  · rw [hgroup k hk, hagroup, if_neg hk]
  · rw [hathread, hthread, if_neg fun h => htid ((mem_groupTids ..).mp h)]; rfl

/-! ## Teams placed -/

/-- The groups of a team, in role order. -/
def startGroups (s : State) (team : Nat) (roles : List Nat) (core : Nat) (pc : Word) (n : Nat) : State :=
  (List.range n).foldl (fun s g => startGroup s (team * 32 + g) (roles.getD g 0) core pc) s

theorem startGroups_spec (s : State) (team : Nat) (roles : List Nat) (core : Nat) (pc : Word) (n : Nat) :
    (∃ gs ths cs, startGroups s team roles core pc n = { s with groups := gs, threads := ths, cores := cs }) ∧
    (∀ g, g < n → GroupPlaced (startGroups s team roles core pc n) (team * 32 + g) (roles.getD g 0) core pc s.time) ∧
    (∀ k, k < team * 32 → (startGroups s team roles core pc n).group k = s.group k) ∧
    ∀ tid, tid < team * 1024 → (startGroups s team roles core pc n).thread tid = s.thread tid := by
  induction n with
  | zero => exact ⟨⟨s.groups, s.threads, s.cores, rfl⟩, by simp, fun _ _ => rfl, fun _ _ => rfl⟩
  | succ n ih =>
    obtain ⟨⟨gs, ths, cs, hrest⟩, hplaced, hgroup, hthread⟩ := ih
    have hstep : startGroups s team roles core pc (n + 1) =
        startGroup (startGroups s team roles core pc n) (team * 32 + n) (roles.getD n 0) core pc := by
      simp [startGroups, List.range_succ]
    obtain ⟨⟨gs', ths', cs', hone⟩, hnew, hgroup', hthread'⟩ :=
      startGroup_spec (startGroups s team roles core pc n) (team * 32 + n) (roles.getD n 0) core pc
    have htime : (startGroups s team roles core pc n).time = s.time := by rw [hrest]
    rw [hstep]
    refine ⟨⟨gs', ths', cs', by rw [hone, hrest]⟩, fun g hg => ?_, fun k hk => ?_, fun tid htid => ?_⟩
    · by_cases hgn : g = n
      · subst hgn; rw [← htime]; exact hnew
      · obtain ⟨hr, hc, ht⟩ := hplaced g (by omega)
        have hne : team * 32 + g ≠ team * 32 + n := by omega
        exact ⟨by rw [hgroup' _ hne, hr], by rw [hgroup' _ hne, hc], fun slot hslot => by rw [hthread' _ (by omega), ht slot hslot]⟩
    · rw [hgroup' k (by omega), hgroup k hk]
    · rw [hthread' tid (by omega), hthread tid htid]

/-- A team placed on a core with its groups, as long as their numbers are its own (R203, R204, R326). -/
structure TeamPlaced (t : State) (lid : Nat) (l : Launch) (cid index core prio time team : Nat) : Prop where
  found  : ∃ tm, t.teams.find? team = some tm ∧ tm.cluster = cid ∧ tm.index = index ∧ tm.core = core ∧
    tm.world = l.world ∧ tm.launch = lid ∧ tm.prio = prio ∧ tm.ended = false
  groups : ∀ g role, (groupRoles l.roles)[g]? = some role → g < 32 →
    GroupPlaced t (team * 32 + g) role core (l.entry.setWidth 32) time

/-- What starts no team of its own keeps the teams that are placed. -/
theorem TeamPlaced.keep {s t : State} {lid : Nat} {l : Launch} {cid index core prio time team : Nat}
    (h : TeamPlaced s lid l cid index core prio time team) (hteam : t.teams.find? team = s.teams.find? team)
    (hgroup : ∀ k, k < (team + 1) * 32 → t.group k = s.group k) (hthread : ∀ k, k < (team + 1) * 1024 → t.thread k = s.thread k) :
    TeamPlaced t lid l cid index core prio time team := by
  refine ⟨by rw [hteam]; exact h.found, fun g role hr hg => ?_⟩
  obtain ⟨hrole, hcore, hthreads⟩ := h.groups g role hr hg
  have hk := hgroup (team * 32 + g) (by omega)
  exact ⟨by rw [hk, hrole], by rw [hk, hcore], fun slot hslot => by rw [hthread _ (by omega), hthreads slot hslot]⟩

/-- A team with its Bench and its tile registers, as it becomes resident. -/
def freshTeam (s : State) (lid : Nat) (l : Launch) (cid index core prio : Nat) : Team :=
  { noTeam with world := l.world, launch := lid, cluster := cid, index := index, core := core, bench := (newSpace s.newId.2).1
                tileSpace := (newSpace (newSpace s.newId.2).2).1, prio := prio, ended := false }

/-- The team registered on its core, before its groups start. -/
def registerTeam (s : State) (lid : Nat) (l : Launch) (cid index core prio : Nat) : State :=
  (newSpace (newSpace s.newId.2).2).2.setTeam s.nextId (freshTeam s lid l cid index core prio)

theorem startTeam_eq (s : State) (lid : Nat) (l : Launch) (cid index core prio : Nat) : startTeam s lid l cid index core prio =
    startGroups (registerTeam s lid l cid index core prio) s.nextId (groupRoles l.roles) core (l.entry.setWidth 32)
      (groupRoles l.roles).length := rfl

theorem newSpace_eq (s : State) : ∃ ls, (newSpace s).2 = { s with lines := ls, nextId := s.nextId + 1 } := ⟨_, rfl⟩

theorem registerTeam_eq (s : State) (lid : Nat) (l : Launch) (cid index core prio : Nat) :
    ∃ ls, registerTeam s lid l cid index core prio = { s with
      teams := s.teams.insert s.nextId (freshTeam s lid l cid index core prio), lines := ls, nextId := s.nextId + 3 } := by
  obtain ⟨ls, hbench⟩ := newSpace_eq s.newId.2
  obtain ⟨ls', htiles⟩ := newSpace_eq (newSpace s.newId.2).2
  refine ⟨ls', ?_⟩
  rw [registerTeam, htiles, hbench]
  rfl

theorem startTeam_spec (s : State) (lid : Nat) (l : Launch) (cid index core prio : Nat) :
    let t := startTeam s lid l cid index core prio
    (∃ ts gs ths cs ls, t = { s with
      teams := ts, groups := gs, threads := ths, cores := cs, lines := ls, nextId := s.nextId + 3 }) ∧
    TeamPlaced t lid l cid index core prio s.time s.nextId ∧
    (∀ k, k ≠ s.nextId → t.teams.find? k = s.teams.find? k) ∧
    (∀ k, k < s.nextId * 32 → t.group k = s.group k) ∧ ∀ tid, tid < s.nextId * 1024 → t.thread tid = s.thread tid := by
  obtain ⟨ls, hreg⟩ := registerTeam_eq s lid l cid index core prio
  obtain ⟨⟨gs, ths, cs, hrest⟩, hplaced, hgroup, hthread⟩ := startGroups_spec (registerTeam s lid l cid index core prio)
    s.nextId (groupRoles l.roles) core (l.entry.setWidth 32) (groupRoles l.roles).length
  dsimp only
  rw [startTeam_eq]
  generalize startGroups _ _ _ _ _ _ = t at *
  have hteams : t.teams = s.teams.insert s.nextId (freshTeam s lid l cid index core prio) := by
    rw [hrest, hreg]
  refine ⟨⟨_, gs, ths, cs, _, by rw [hrest, hreg]⟩,
    ⟨⟨freshTeam s lid l cid index core prio, ?_, rfl, rfl, rfl, rfl, rfl, rfl, rfl⟩, fun g role hr _ => ?_⟩, fun k hk => ?_, fun k hk => ?_,
    fun tid htid => ?_⟩
  · rw [hteams, SMap.find?_insert_self]
  · obtain ⟨hlt, hget⟩ := List.getElem?_eq_some_iff.mp hr
    have htime : (registerTeam s lid l cid index core prio).time = s.time := by rw [hreg]
    have := hplaced g hlt
    rwa [htime, List.getD_eq_getElem?_getD, hr] at this
  · rw [hteams, SMap.find?_insert_ne _ _ hk]
  · rw [hgroup k hk, hreg]; rfl
  · rw [hthread tid htid, hreg]; rfl

/-- The teams of a cluster, one on each of its cores. -/
def startTeams (s : State) (lid : Nat) (l : Launch) (cid prio : Nat) (cores : List Nat) (n : Nat) : State :=
  (List.range n).foldl (fun s k => startTeam s lid l cid k (cores.getD k 0) prio) s

theorem startTeams_spec (s : State) (lid : Nat) (l : Launch) (cid prio : Nat) (cores : List Nat) (n : Nat) :
    let t := startTeams s lid l cid prio cores n
    (∃ ts gs ths cs ls id, t = { s with teams := ts, groups := gs, threads := ths, cores := cs, lines := ls, nextId := id }) ∧
    ∀ k, k < n → ∃ team, team < t.nextId ∧ TeamPlaced t lid l cid k (cores.getD k 0) prio s.time team := by
  induction n with
  | zero => exact ⟨⟨s.teams, s.groups, s.threads, s.cores, s.lines, s.nextId, rfl⟩, by simp⟩
  | succ n ih =>
    obtain ⟨⟨ts, gs, ths, cs, ls, id, hrest⟩, hplaced⟩ := ih
    have hstep : startTeams s lid l cid prio cores (n + 1) =
        startTeam (startTeams s lid l cid prio cores n) lid l cid n (cores.getD n 0) prio := by
      simp [startTeams, List.range_succ]
    dsimp only at *
    rw [hstep]
    generalize startTeams s lid l cid prio cores n = a at *
    obtain ⟨⟨ts', gs', ths', cs', ls', hone⟩, hnew, hteam, hgroup, hthread⟩ := startTeam_spec a lid l cid n (cores.getD n 0) prio
    generalize startTeam a lid l cid n (cores.getD n 0) prio = t at *
    have hid : t.nextId = a.nextId + 3 := by rw [hone]
    refine ⟨⟨ts', gs', ths', cs', ls', a.nextId + 3, by rw [hone, hrest]⟩, fun k hk => ?_⟩
    by_cases hkn : k = n
    · subst hkn
      exact ⟨a.nextId, by omega, by rw [← show a.time = s.time by rw [hrest]]; exact hnew⟩
    · obtain ⟨team, hlt, hp⟩ := hplaced k (by omega)
      exact ⟨team, by omega, hp.keep (hteam team (by omega)) (fun j hj => hgroup j (hj.trans_le (Nat.mul_le_mul_right _ hlt)))
        fun j hj => hthread j (hj.trans_le (Nat.mul_le_mul_right _ hlt))⟩

/-! ## A cluster placed -/

/-- Taking the launch's chunks on a die changes its entry alone, and in it the chunks alone. -/
theorem takeCrucible_spec (s : State) (lid die : Nat) (reserve : List Nat) :
    (s.launch lid).sameButChunks ((takeCrucible s lid (s.launch lid) die reserve).launch lid) ∧
    ∃ la ls id, takeCrucible s lid (s.launch lid) die reserve = { s with launches := la, lines := ls, nextId := id } := by
  rw [takeCrucible]
  split
  · exact ⟨rfl, s.launches, s.lines, s.nextId, rfl⟩
  · dsimp only
    refine ⟨?_, _, _, _, rfl⟩
    rw [State.launch_setLaunch, if_pos rfl]
    rfl

/-- The cluster of a launch's next index on a rectangle (R203), in the order of R331. -/
def nextCluster (s : State) (lid : Nat) (l : Launch) (r : Nat × Nat × Nat) : Cluster :=
  ⟨lid, l.nextIndex % l.gdx, l.nextIndex / l.gdx % l.gdy, l.nextIndex / (l.gdx * l.gdy), rectCores l.shape r, (newSpace s).1,
    l.crucSpace.find? r.1⟩

/-- The cluster registered with its pool, before its teams start. -/
def registerCluster (s : State) (lid : Nat) (l : Launch) (r : Nat × Nat × Nat) : State :=
  { (newSpace s).2.newId.2 with clusters := s.clusters.insert (s.nextId + 1) (nextCluster s lid l r) }

/-- A world that was IDLE runs (R338). -/
def runWorld (s : State) (w : Nat) : State :=
  if (s.world w).stat = 0 then s.setWorld w { s.world w with stat := 1 } else s

theorem placeCluster_eq (s : State) (lid : Nat) (l : Launch) (r : Nat × Nat × Nat) : placeCluster s lid l r =
    let a := takeCrucible s lid l r.1 (if l.poolMode then rectQuads l.shape r else [])
    let l := a.launch lid
    let b := registerCluster a lid l r
    let c := startTeams b lid l (a.nextId + 1) (queuePrio b l) (rectCores l.shape r) (rectCores l.shape r).length
    runWorld (c.setLaunch lid { c.launch lid with nextIndex := l.nextIndex + 1, since := c.span, reserving := false }) l.world := rfl

theorem runWorld_spec (s : State) (w : Nat) (h : (s.world w).stat ≤ 1) :
    ((runWorld s w).world w).stat = 1 ∧ ∃ ws, runWorld s w = { s with worlds := ws } := by
  unfold runWorld
  split
  · exact ⟨by rw [State.world_setWorld, if_pos rfl], _, rfl⟩
  · exact ⟨by omega, s.worlds, rfl⟩

theorem Launch.sameButChunks.fields {l l' : Launch} (h : l.sameButChunks l') : l'.world = l.world ∧ l'.shape = l.shape ∧
    l'.gdx = l.gdx ∧ l'.gdy = l.gdy ∧ l'.nextIndex = l.nextIndex := by
  rw [← h]
  exact ⟨rfl, rfl, rfl, rfl, rfl⟩

theorem queuePrio_congr {s t : State} {l l' : Launch} (hw : t.worlds = s.worlds) (ht : t.time = s.time) (hl : l.sameButChunks l') :
    queuePrio t l' = queuePrio s l := by
  rw [← hl]
  unfold queuePrio State.cmdQueue State.world
  rw [hw, ht]

/-- A cluster's place in its grid from its index (R203). -/
theorem grid_index (n x y : Nat) : n % x + x * (n / x % y + y * (n / (x * y))) = n := by
  rw [← Nat.div_div_eq_div_mul, Nat.mod_add_div, Nat.mod_add_div]

/-- What placing a launch's next cluster does (R203, R204, R326, R331). -/
structure ClusterPlaced (s t : State) (lid : Nat) (l : Launch) (r : Nat × Nat × Nat) (prio : Nat) : Prop where
  stat   : (t.world l.world).stat = 1
  mem    : t.mem = s.mem
  next   : (t.launch lid).nextIndex = l.nextIndex + 1
  placed : ∃ cid c, t.clusters.find? cid = some c ∧ c.launch = lid ∧ c.cores = rectCores l.shape r ∧
    c.cruc = (t.launch lid).crucSpace.find? r.1 ∧ c.x + l.gdx * (c.y + l.gdy * c.z) = l.nextIndex ∧
    c.x = l.nextIndex % l.gdx ∧ c.y = l.nextIndex / l.gdx % l.gdy ∧
    ∀ k core, c.cores[k]? = some core → ∃ team, TeamPlaced t lid l cid k core prio s.time team

theorem TeamPlaced.congr {t : State} {lid : Nat} {l l' : Launch} {cid index core prio time team : Nat} (hl : l.sameButChunks l')
    (h : TeamPlaced t lid l' cid index core prio time team) : TeamPlaced t lid l cid index core prio time team := by
  rw [← hl]
  exact ⟨h.found, h.groups⟩

theorem registerCluster_spec (s : State) (lid : Nat) (l : Launch) (r : Nat × Nat × Nat) :
    (registerCluster s lid l r).clusters.find? (s.nextId + 1) = some (nextCluster s lid l r) ∧
    ∃ cl ls id, registerCluster s lid l r = { s with clusters := cl, lines := ls, nextId := id } := by
  obtain ⟨ls, hpool⟩ := newSpace_eq s
  exact ⟨SMap.find?_insert_self .., _, ls, s.nextId + 2, by rw [registerCluster, hpool]; rfl⟩

theorem placeCluster_spec (s : State) (lid : Nat) (r : Nat × Nat × Nat) (h : (s.world (s.launch lid).world).stat ≤ 1) :
    ClusterPlaced s (placeCluster s lid (s.launch lid) r) lid (s.launch lid) r (queuePrio s (s.launch lid)) := by
  rw [placeCluster_eq]
  obtain ⟨hl, la, ls, id, hcruc⟩ :=
    takeCrucible_spec s lid r.1 (if (s.launch lid).poolMode then rectQuads (s.launch lid).shape r else [])
  dsimp only
  generalize takeCrucible s lid (s.launch lid) r.1 _ = a at *
  generalize hlaunch : a.launch lid = l at *
  obtain ⟨hcluster, cl, ls', id', hreg⟩ := registerCluster_spec a lid l r
  generalize registerCluster a lid l r = b at *
  obtain ⟨⟨ts, gs, ths, cs, ls'', id'', hteams⟩, hplaced⟩ :=
    startTeams_spec b lid l (a.nextId + 1) (queuePrio b l) (rectCores l.shape r) (rectCores l.shape r).length
  generalize startTeams b lid l (a.nextId + 1) (queuePrio b l) (rectCores l.shape r) (rectCores l.shape r).length = c at *
  have hworlds : c.worlds = s.worlds := by rw [hteams, hreg, hcruc]
  obtain ⟨hworld, hshape, hx, hy, hnext⟩ := hl.fields
  have hprio : queuePrio b l = queuePrio s (s.launch lid) :=
    queuePrio_congr (by rw [hreg, hcruc]) (by rw [hreg, hcruc]) hl
  have htime : b.time = s.time := by rw [hreg, hcruc]
  have hc : c.launch lid = l := by rw [← hlaunch, hteams, hreg]; rfl
  obtain ⟨hstat, ws, hrun⟩ := runWorld_spec
    (c.setLaunch lid { c.launch lid with nextIndex := l.nextIndex + 1, since := c.span, reserving := false }) l.world
    (by rw [hworld]; show ((c.worlds.getD _ noWorld).stat) ≤ 1; rw [hworlds]; exact h)
  generalize hd : c.setLaunch lid { c.launch lid with nextIndex := l.nextIndex + 1, since := c.span, reserving := false } = d at *
  have hdl : d.launch lid = { l with nextIndex := l.nextIndex + 1, since := c.span, reserving := false } := by
    rw [← hd, State.launch_setLaunch, if_pos rfl, hc]
  have htl : (runWorld d l.world).launch lid = { l with nextIndex := l.nextIndex + 1, since := c.span, reserving := false } := by
    rw [← hdl, hrun]; rfl
  have hrest : ∃ ws la, runWorld d l.world = { c with worlds := ws, launches := la } := ⟨ws, _, by rw [hrun, ← hd]; rfl⟩
  obtain ⟨ws', la', hrest⟩ := hrest
  generalize runWorld d l.world = t at *
  refine ⟨hworld ▸ hstat, ?_, ?_, a.nextId + 1, nextCluster a lid l r, ?_, rfl, ?_, ?_, ?_, ?_, ?_, fun k core hk => ?_⟩
  · rw [hrest, hteams, hreg, hcruc]
  · rw [htl, ← hnext]
  · rw [hrest, hteams]; exact hcluster
  · rw [← hshape]; rfl
  · rw [htl]; rfl
  · rw [← hx, ← hy, ← hnext]; exact grid_index ..
  · rw [← hx, ← hnext]; rfl
  · rw [← hx, ← hy, ← hnext]; rfl
  · obtain ⟨hlt, hget⟩ := List.getElem?_eq_some_iff.mp hk
    obtain ⟨team, -, hp⟩ := hplaced k hlt
    rw [hprio, htime, List.getD_eq_getElem?_getD, show (rectCores l.shape r)[k]? = some core from hk] at hp
    exact ⟨team, (hp.congr hl).keep (by rw [hrest]) (fun j _ => by rw [hrest]; rfl) fun j _ => by rw [hrest]; rfl⟩

/-! ## The arbitration -/

/-- The chunks of every launch returned where they may be. -/
theorem returnAll_keeps (l : List (Nat × Launch)) (s : State) :
    let t := l.foldl (fun s e => returnChunks s e.1 (s.launch e.1)) s
    t.worlds = s.worlds ∧ t.time = s.time ∧ t.mem = s.mem := by
  induction l generalizing s with
  | nil => exact ⟨rfl, rfl, rfl⟩
  | cons e l ih =>
    obtain ⟨hworlds, htime, hmem⟩ := ih (returnChunks s e.1 (s.launch e.1))
    obtain ⟨-, h⟩ | ⟨l', -, h⟩ := returnChunks_spec s e.1 (s.launch e.1)
    · rw [h] at hworlds htime hmem
      exact ⟨by rw [List.foldl_cons, h, hworlds], by rw [List.foldl_cons, h, htime], by rw [List.foldl_cons, h, hmem]⟩
    · rw [h] at hworlds htime hmem
      exact ⟨by rw [List.foldl_cons, h, hworlds]; rfl, by rw [List.foldl_cons, h, htime]; rfl, by rw [List.foldl_cons, h, hmem]; rfl⟩

theorem exec_schedulerArbitration (s : State) : exec .schedulerArbitration s = execSchedulerArbitration s := rfl

theorem clustersAreDistributed : Claims.ClustersAreDistributed := by
  intro s lid l r a hwin hfind hx hy hstat
  have hexec : exec .schedulerArbitration s = .next { placeCluster a lid l r with lastWinner := (l.world, l.queue) } := by
    rw [exec_schedulerArbitration, execSchedulerArbitration]
    dsimp only
    rw [show winner _ _ = some (lid, l, r) from hwin]
  obtain ⟨hworlds, htime, hmem⟩ : a.worlds = s.worlds ∧ a.time = s.time ∧ a.mem = s.mem := returnAll_keeps s.launches s
  clear_value a
  have hl : a.launch lid = l := by simp [State.launch, SMap.getD, hfind]
  subst hl
  have hstat' : (a.world (a.launch lid).world).stat ≤ 1 := by rw [State.world, hworlds]; exact hstat
  have hprio : queuePrio a (a.launch lid) = queuePrio s (a.launch lid) := queuePrio_congr hworlds htime rfl
  obtain ⟨hrun, htmem, hnext, cid, c, hfound, hlaunch, hcores, hcruc, hindex, hcx, hcy, hteams⟩ := placeCluster_spec a lid r hstat'
  generalize placeCluster a lid (a.launch lid) r = t at *
  refine ⟨{ t with lastWinner := ((a.launch lid).world, (a.launch lid).queue) }, hexec, rfl, hrun, htmem.trans hmem, hnext, cid, c, hfound,
    hlaunch, hcores, hcruc, hindex, hcx ▸ Nat.mod_lt _ hx, hcy ▸ Nat.mod_lt _ hy, fun k core hk => ?_⟩
  obtain ⟨team, ⟨tm, htm, hcid, hindex, hcore, hw, hlid, htp, hended⟩, hgroups⟩ := hteams k core hk
  refine ⟨team, tm, htm, hcid, hindex, hcore, hw, hlid, htp.trans hprio, hended, fun g role hr hg => ?_⟩
  obtain ⟨hrole, hgcore, hthreads⟩ := hgroups g role hr hg
  rw [htime] at hthreads
  exact ⟨hrole, hgcore, hthreads⟩

theorem exec_clusterReserving (w q : Nat) (s : State) : exec (.clusterReserving w q) s = execClusterReserving w q s := rfl

theorem clustersReserve : Claims.ClustersReserve := by
  intro s w q lid hrun hwants hms
  refine ⟨s.setLaunch lid { s.launch lid with reserving := true }, ?_, rfl, ?_, fun k hk => ?_⟩
  · rw [exec_clusterReserving, execClusterReserving, hrun]
    exact if_pos (by simpa [hwants] using show oneMs ≤ _ from hms)
  · rw [State.launch_setLaunch, if_pos rfl]
  · rw [State.launch_setLaunch, if_neg hk]

end Sys2Proof.Machine

namespace Sys2Proof

open Machine

/-- Settles O53: a cluster is placed piece by piece, each piece keeping those of lower numbers; reserving and completion follow the model's
tests. -/
theorem launchesDistributed : Obligations.LaunchesDistributed :=
  ⟨clustersAreDistributed, clustersReserve, launchesComplete⟩

end Sys2Proof
end

section
/-! PROOF. Posting an operation of a convergence register that does not exist (R157, R216): O40 fails. -/

namespace Sys2Proof.Machine

open Sys2Proof

theorem exec_matrixPost (gid n : Nat) (s : State) : exec (.matrixPost gid n) s = execMatrixPost gid n s := rfl

/-- A group whose threads have all ended, with a complete operation listed as C4, beside the group's registers C0 to C3, that keeps latch 0
by its reuse bit. -/
def fifthConv : State := { State.reset with
  groups := [(0, { noGroup with
    conv := [(4, ⟨1, 1, some (.mma ⟨false, false, false, none⟩ 0 0 0 0 0 0 true), some 0, 0, true, none, []⟩)] })] }

theorem fifthConv_ended : endedMask fifthConv 0 = 0xFFFFFFFF := by decide

/-- The group's end gives back the latches of C0 to C3 (`releaseGroup`), so that latch 0 stays with C4. -/
theorem fifthConv_posted : ((tryPost fifthConv 0 4).group 0).convReg 4 = ⟨0, 0, none, some 0, 0, true, none, []⟩ := by decide

end Sys2Proof.Machine

namespace Sys2Proof

open Machine

/-- Refutes O40: the statement speaks of every register number, and in C4 of `fifthConv`, a group all of whose threads have ended, the posted
operation keeps its latch, where the statement asks for none. A group has C0 to C3 alone (R157). -/
theorem not_matrixPostsAndTableGrants : ¬ Obligations.MatrixPostsAndTableGrants := by
  unfold Obligations.MatrixPostsAndTableGrants
  rintro ⟨hposts, -⟩
  obtain ⟨t, hexec, -, hconv, -⟩ := hposts fifthConv 0 4 _ _ rfl (by decide) rfl (by decide) rfl (by decide)
  have ht : exec (.matrixPost 0 4) fifthConv = .next (tryPost fifthConv 0 4) := by
    rw [exec_matrixPost, execMatrixPost, if_pos (by decide)]
  obtain rfl : tryPost fifthConv 0 4 = t := Host.Outcome.next.inj (ht.symm.trans hexec)
  rw [fifthConv_posted, fifthConv_ended] at hconv
  exact absurd (congrArg Conv.latch hconv) (by decide)

end Sys2Proof
end

section
/-! PROOF. The words of the formats: fields put together and cut apart (R40, R49, R59). -/

namespace Sys2Proof

/-! Fields put together and cut apart again, bit by bit. -/

theorem FieldsA.of_word (f : FieldsA) : FieldsA.of f.word = f := by
  obtain ⟨k, op, d, a, b, c, w, e⟩ := f
  simp only [FieldsA.of, FieldsA.word, FieldsA.mk.injEq, BitVec.eq_of_getLsbD_eq_iff, BitVec.getLsbD_append,
    BitVec.getLsbD_extractLsb', BitVec.getLsbD_ofBool]
  grind

theorem FieldsI.of_word (f : FieldsI) : FieldsI.of f.word = f := by
  obtain ⟨k, op, d, a, imm, c, w⟩ := f
  simp only [FieldsI.of, FieldsI.word, FieldsI.mk.injEq, BitVec.eq_of_getLsbD_eq_iff, BitVec.getLsbD_append,
    BitVec.getLsbD_extractLsb', BitVec.getLsbD_ofBool]
  grind

theorem FieldsB.of_word (f : FieldsB) : FieldsB.of f.word = f := by
  obtain ⟨k, op, g, n, off⟩ := f
  simp only [FieldsB.of, FieldsB.word, FieldsB.mk.injEq, BitVec.eq_of_getLsbD_eq_iff, BitVec.getLsbD_append,
    BitVec.getLsbD_extractLsb', BitVec.getLsbD_ofBool]
  grind

theorem FieldsX.of_word (f : FieldsX) : FieldsX.of f.word = f := by
  obtain ⟨sub, t, a, b, q, s, n, r⟩ := f
  simp only [FieldsX.of, FieldsX.word, FieldsX.mk.injEq, BitVec.eq_of_getLsbD_eq_iff, BitVec.getLsbD_append,
    BitVec.getLsbD_extractLsb', BitVec.getLsbD_ofBool]
  grind

theorem Pre.of_word (p : Pre) : Pre.of p.word = p := by
  obtain ⟨guard, neg, g, rnd, sat⟩ := p
  simp only [Pre.of, Pre.word, Pre.mk.injEq, BitVec.eq_of_getLsbD_eq_iff, BitVec.getLsbD_append,
    BitVec.getLsbD_extractLsb', BitVec.getLsbD_ofBool]
  grind

theorem FieldsA.word_of (x : Word) : (FieldsA.of x).word = x := by
  refine BitVec.eq_of_getLsbD_eq fun n hn => ?_
  simp only [FieldsA.of, FieldsA.word, BitVec.getLsbD_append, BitVec.getLsbD_extractLsb', BitVec.getLsbD_ofBool]
  interval_cases n <;> rfl

theorem FieldsI.word_of (x : Word) : (FieldsI.of x).word = x := by
  refine BitVec.eq_of_getLsbD_eq fun n hn => ?_
  simp only [FieldsI.of, FieldsI.word, BitVec.getLsbD_append, BitVec.getLsbD_extractLsb', BitVec.getLsbD_ofBool]
  interval_cases n <;> rfl

theorem FieldsB.word_of (x : Word) : (FieldsB.of x).word = x := by
  refine BitVec.eq_of_getLsbD_eq fun n hn => ?_
  simp only [FieldsB.of, FieldsB.word, BitVec.getLsbD_append, BitVec.getLsbD_extractLsb', BitVec.getLsbD_ofBool]
  interval_cases n <;> rfl

theorem FieldsX.word_of (x : Word) (h : x.extractLsb' 27 5 = 0b01100#5) : (FieldsX.of x).word = x := by
  refine BitVec.eq_of_getLsbD_eq fun n hn => ?_
  simp only [FieldsX.of, FieldsX.word, ← h, BitVec.getLsbD_append, BitVec.getLsbD_extractLsb', BitVec.getLsbD_ofBool]
  interval_cases n <;> rfl

theorem Pre.word_of (x : Word) (hop : x.extractLsb' 24 7 = 0x7F#7) (hk : x.getLsbD 31 = false) (hz : x.extractLsb' 0 13 = 0#13) :
    (Pre.of x).word = x := by
  have h8 : 0b01111111#8 = BitVec.ofBool (x.getLsbD 31) ++ x.extractLsb' 24 7 := by rw [hk, hop]; rfl
  refine BitVec.eq_of_getLsbD_eq fun n hn => ?_
  simp only [Pre.of, Pre.word, h8, ← hz, BitVec.getLsbD_append, BitVec.getLsbD_extractLsb', BitVec.getLsbD_ofBool]
  interval_cases n <;> rfl

theorem FieldsA.word_op (f : FieldsA) : f.word.extractLsb' 24 7 = f.op := congrArg FieldsA.op f.of_word
theorem FieldsI.word_op (f : FieldsI) : f.word.extractLsb' 24 7 = f.op := congrArg FieldsI.op f.of_word
theorem FieldsB.word_op (f : FieldsB) : f.word.extractLsb' 24 7 = f.op := congrArg FieldsB.op f.of_word

/-- The five high bits of a word are K and the four high bits of the opcode. -/
theorem high5_eq (x : Word) : x.extractLsb' 27 5 = BitVec.ofBool (x.getLsbD 31) ++ (x.extractLsb' 24 7).extractLsb' 3 4 := by
  simp only [BitVec.eq_of_getLsbD_eq_iff, BitVec.getLsbD_append, BitVec.getLsbD_extractLsb', BitVec.getLsbD_ofBool]
  grind

theorem FieldsX.word_high5 (f : FieldsX) : f.word.extractLsb' 27 5 = 0b01100#5 := by
  refine BitVec.eq_of_getLsbD_eq fun n hn => ?_
  simp only [FieldsX.word, BitVec.getLsbD_append, BitVec.getLsbD_extractLsb', BitVec.getLsbD_ofBool]
  interval_cases n <;> rfl

theorem isFormatX_iff (op : BitVec 7) : isFormatX op = true ↔ op.extractLsb' 3 4 = 0b1100#4 := by
  revert op; decide

/-- Whether the opcode of a word's fields is one of its format, and none of a `Pre` (R49, R59). -/
def Shape.opOk : Shape → Bool
  | .a f => !isFormatX f.op && !isFormatB f.op && !isFormatI f.op && f.op ≠ 0x7F
  | .i f => isFormatI f.op
  | .b f => isFormatB f.op
  | .x _ => true

theorem formats_apart (op : BitVec 7) : (isFormatI op = true → isFormatX op = false ∧ isFormatB op = false ∧ op ≠ 0x7F) ∧
    (isFormatB op = true → isFormatX op = false ∧ op ≠ 0x7F) ∧ (isFormatX op = true → op ≠ 0x7F) := by
  revert op; decide

/-- K and the opcode of matrix words make up the first five bits of one; with K they would be those of a uniform one (R40). -/
theorem high5_of_isFormatX {x : Word} : isFormatX (x.extractLsb' 24 7) = true ↔
    x.extractLsb' 27 5 = BitVec.ofBool (x.getLsbD 31) ++ 0b1100#4 := by
  rw [isFormatX_iff, high5_eq]
  generalize (x.extractLsb' 24 7).extractLsb' 3 4 = y
  generalize x.getLsbD 31 = k
  revert y k; decide

theorem high5_ne_of_not_formatX {x : Word} (h : isFormatX (x.extractLsb' 24 7) = false) : x.extractLsb' 27 5 ≠ 0b11100#5 := by
  rw [← Bool.not_eq_true, isFormatX_iff] at h
  rw [high5_eq]
  generalize (x.extractLsb' 24 7).extractLsb' 3 4 = y at *
  generalize x.getLsbD 31 = k
  revert y k; decide

/-- The word of fields in their format is no `Pre`'s and no uniform matrix word, and is cut into these fields again. -/
theorem Shape.word_spec {s : Shape} (h : s.opOk = true) :
    isPrefix s.word = false ∧ s.word.extractLsb' 27 5 ≠ 0b11100#5 ∧ shapeOf s.word = s := by
  cases s with
  | a f =>
    simp only [Shape.opOk, Bool.and_eq_true, Bool.not_eq_true', decide_eq_true_eq] at h
    obtain ⟨⟨⟨hx, hb⟩, hi⟩, hp⟩ := h
    simp only [Shape.word, isPrefix, shapeOf, f.word_op, f.of_word, hx, hb, hi]
    exact ⟨by simpa using hp, high5_ne_of_not_formatX (by rw [f.word_op, hx]), rfl⟩
  | i f =>
    obtain ⟨hx, hb, hp⟩ := (formats_apart f.op).1 h
    simp only [Shape.word, isPrefix, shapeOf, f.word_op, f.of_word, hx, hb, show isFormatI f.op = true from h]
    exact ⟨by simpa using hp, high5_ne_of_not_formatX (by rw [f.word_op, hx]), rfl⟩
  | b f =>
    obtain ⟨hx, hp⟩ := (formats_apart f.op).2.1 h
    simp only [Shape.word, isPrefix, shapeOf, f.word_op, f.of_word, hx, show isFormatB f.op = true from h]
    exact ⟨by simpa using hp, high5_ne_of_not_formatX (by rw [f.word_op, hx]), rfl⟩
  | x f =>
    have hx : isFormatX (f.word.extractLsb' 24 7) = true := by
      have h5 := f.word_high5
      rw [high5_eq] at h5
      rw [isFormatX_iff]
      revert h5
      generalize (f.word.extractLsb' 24 7).extractLsb' 3 4 = y
      generalize f.word.getLsbD 31 = k
      revert y k; decide
    simp only [Shape.word, isPrefix, shapeOf, hx, f.of_word, f.word_high5]
    exact ⟨decide_eq_false ((formats_apart _).2.2 hx), by decide, rfl⟩

theorem shapeOf_word {w : Word} (h : w.extractLsb' 27 5 ≠ 0b11100#5) : (shapeOf w).word = w := by
  unfold shapeOf
  dsimp only
  split
  · rename_i hx
    have h5 := high5_of_isFormatX.mp hx
    refine FieldsX.word_of w ?_
    cases hk : w.getLsbD 31 with
    | false => rw [h5, hk]; rfl
    | true => rw [h5, hk] at h; exact absurd rfl h
  · split
    · exact FieldsB.word_of w
    · split
      · exact FieldsI.word_of w
      · exact FieldsA.word_of w

theorem Instr.shape_opOk {i : Instr} {s : Shape} (h : i.shape = some s) : s.opOk = true := by
  cases i <;> cases h <;> rfl

theorem OpB.isLit_eq (b : OpB) : b.isLit = b.lit?.isSome := by cases b <;> rfl

theorem Instr.takesLiteral_shape {i : Instr} {s : Shape} (h : i.shape = some s) : s.takesLiteral = i.literal.isSome := by
  cases i <;> cases h <;> simp only [Shape.takesLiteral, sA, sI, Instr.literal, OpB.isLit_eq, Option.isSome_none]

end Sys2Proof
end

section
/-! PROOF. What the decoder identifies says what the word's fields say (R57, R60). -/

namespace Sys2Proof

/-- What an instruction says that the decoder identifies in a word's fields. -/
structure Instr.Says (i : Instr) (s : Shape) (c : Ctl) (lit : Option Word) (pool : Bool) : Prop where
  shape   : i.shape = some s
  ctl     : i.ctl = c
  literal : i.literal = lit
  code    : i.codeOk = true
  mode    : i.isQueue = false ∨ pool = false

/-- The literal of a word of format A, where `lit` follows it. -/
def FieldsA.lit? (f : FieldsA) (lit : Word) : Option Word := if f.e then some lit else none

/-- Whatever instruction the fields are identified as says them. -/
def Identifies (s : Shape) (c : Ctl) (lit : Option Word) (pool : Bool) (r : Except Cause Instr) : Prop :=
  ∀ i, r = .ok i → i.Says s c lit pool

namespace Identifies

variable {s : Shape} {c : Ctl} {lit : Option Word} {pool b : Bool} {r : Except Cause Instr} {i : Instr}

theorem error (x : Cause) : Identifies s c lit pool (.error x) := by
  intro i h; cases h

theorem ok (h : i.Says s c lit pool) : Identifies s c lit pool (.ok i) := by rintro _ ⟨⟩; exact h

theorem need (h : b = true → Identifies s c lit pool r) : Identifies s c lit pool (need b r) := by
  unfold Sys2Proof.need
  split
  · exact h ‹_›
  · exact error _

/-- An instruction without a literal, whose fields are checked to be its own. -/
theorem fields {k c w e : Bool} {op : BitVec 7} {d a b d' a' b' : Reg} {pre : Option Pre} {lit : Word} {cond : Bool}
    (hfields : cond = true → d' = d ∧ a' = a ∧ b' = b ∧ e = false) (hshape : i.shape = some (sA ⟨k, c, w, pre⟩ op d' a' b' false))
    (hctl : i.ctl = ⟨k, c, w, pre⟩) (hlit : i.literal = none) (hcode : i.codeOk = true) (hmode : i.isQueue = false ∨ pool = false) :
    Identifies (.a ⟨k, op, d, a, b, c, w, e⟩) ⟨k, c, w, pre⟩ (FieldsA.lit? ⟨k, op, d, a, b, c, w, e⟩ lit) pool
      (Sys2Proof.need cond (.ok i)) := by
  refine need fun h => ok ?_
  obtain ⟨rfl, rfl, rfl, rfl⟩ := hfields h
  exact ⟨hshape, hctl, hlit, hcode, hmode⟩

/-- An instruction with an operand b, register or literal (R43). -/
theorem withB {k c w e : Bool} {op : BitVec 7} {d a b : Reg} {ctl : Ctl} {lit : Word} {g : OpB → Instr}
    (hg : ∀ x : OpB, (g x).Says (.a ⟨k, op, d, a, x.field, c, w, x.isLit⟩) ctl x.lit? pool) :
    Identifies (.a ⟨k, op, d, a, b, c, w, e⟩) ctl (FieldsA.lit? ⟨k, op, d, a, b, c, w, e⟩ lit) pool (withB ⟨k, op, d, a, b, c, w, e⟩ lit g) := by
  unfold Sys2Proof.withB
  cases e with
  | true =>
    refine need fun hb => ok ?_
    obtain rfl : b = 0 := of_decide_eq_true hb
    exact hg (.lit lit)
  | false => exact ok (hg (.reg b))

end Identifies

theorem eq_ofNat_of_toNat {n m : Nat} {x : BitVec n} (h : x.toNat = m) : x = BitVec.ofNat n m := by subst h; simp

/-! Register fields put together again from the parts that the formats of R60 cut them into. -/

theorem join_pred (d : Reg) : d.extractLsb' 5 2 ++ d.extractLsb' 0 5 = d := by revert d; decide
theorem join_mask (b : Reg) : b.extractLsb' 4 3 ++ b.extractLsb' 0 4 = b := by revert b; decide
theorem join_slot (b : Reg) : b.extractLsb' 3 4 ++ b.extractLsb' 0 3 = b := by revert b; decide

theorem join_zero_pred {d : Reg} (h : d.extractLsb' 5 2 = 0#2) : 0#2 ++ d.extractLsb' 0 5 = d := by rw [← h, join_pred]

theorem join_neg_pred {a : Reg} (h : a[6] = false) : 0#1 ++ BitVec.ofBool a[5] ++ a.extractLsb' 0 5 = a := by
  revert a; decide

theorem join_code_mask {b : Reg} {x : BitVec 3} (h : b.extractLsb' 4 3 = x) : x ++ b.extractLsb' 0 4 = b := by
  rw [← h, join_mask]

theorem join_code_slot {b : Reg} {x : BitVec 4} (h : b.extractLsb' 3 4 = x) : x ++ b.extractLsb' 0 3 = b := by
  rw [← h, join_slot]

theorem join_order {m : BitVec 8} (h : m.extractLsb' 0 2 = 0#2) : m.extractLsb' 6 2 ++ m.extractLsb' 2 4 ++ 0#2 = m := by
  revert m; decide

/-! The identification of each format. -/

theorem identifyAgree_says (pool : Bool) (f : FieldsA) (pre : Option Pre) (lit : Word) (h : f.op = 0x6c#7) :
    Identifies (.a f) ⟨f.k, f.c, f.w, pre⟩ (f.lit? lit) pool (identifyAgree f ⟨f.k, f.c, f.w, pre⟩) := by
  obtain ⟨k, op, d, a, b, c, w, e⟩ := f
  obtain rfl : op = 0x6c#7 := h
  unfold identifyAgree
  dsimp only
  split
  case h_5 => exact .error _
  all_goals have hb := join_code_mask (eq_ofNat_of_toNat ‹(b.extractLsb' 4 3).toNat = _›)
  all_goals
    exact .fields (by simp +contextual [hb, join_zero_pred, join_neg_pred]) rfl rfl rfl rfl (.inl rfl)

theorem identifyTile_says (pool : Bool) (f : FieldsA) (pre : Option Pre) (lit : Word) (h : f.op = 0x73#7) :
    Identifies (.a f) ⟨f.k, f.c, f.w, pre⟩ (f.lit? lit) pool (identifyTile f ⟨f.k, f.c, f.w, pre⟩) := by
  obtain ⟨k, op, d, a, b, c, w, e⟩ := f
  obtain rfl : op = 0x73#7 := h
  unfold identifyTile
  dsimp only
  split
  case h_6 =>
    split
    · have hb := join_code_slot (x := 1#4) ‹b.extractLsb' 3 4 = 1›
      exact .fields (by simp +contextual [hb]) rfl rfl rfl rfl (.inl rfl)
    · exact .error _
  all_goals obtain rfl := eq_ofNat_of_toNat ‹b.toNat = _›
  all_goals exact .fields (by simp +contextual) rfl rfl rfl rfl (.inl rfl)

theorem identifyFrame_says (pool : Bool) (f : FieldsA) (pre : Option Pre) (lit : Word) (h : f.op = 0x7b#7) :
    Identifies (.a f) ⟨f.k, f.c, f.w, pre⟩ (f.lit? lit) pool (identifyFrame f ⟨f.k, f.c, f.w, pre⟩) := by
  obtain ⟨k, op, d, a, b, c, w, e⟩ := f
  obtain rfl : op = 0x7b#7 := h
  unfold identifyFrame
  dsimp only
  split
  case h_4 =>
    split
    · rename_i hcode
      obtain ⟨hb, ht⟩ := Bool.and_eq_true_iff.mp hcode
      have hb := join_code_mask (x := 1#3) (of_decide_eq_true hb)
      exact .fields (by simp +contextual [hb]) rfl rfl rfl ht (.inl rfl)
    · exact .error _
  all_goals obtain rfl := eq_ofNat_of_toNat ‹b.toNat = _›
  all_goals exact .fields (by simp +contextual) rfl rfl rfl rfl (.inl rfl)

theorem identifyA_says (pool : Bool) (f : FieldsA) (pre : Option Pre) (lit : Word) :
    Identifies (.a f) ⟨f.k, f.c, f.w, pre⟩ (f.lit? lit) pool (identifyA pool f ⟨f.k, f.c, f.w, pre⟩ lit) := by
  obtain ⟨k, op, d, a, b, c, w, e⟩ := f
  unfold identifyA
  dsimp only
  split
  case h_86 => exact .error _
  all_goals obtain rfl := eq_ofNat_of_toNat ‹op.toNat = _›
  case h_29 | h_30 | h_31 | h_32 | h_33 | h_34 =>
    exact .withB fun x => ⟨congrArg (fun y => some (Shape.a ⟨k, _, y, a, _, c, w, _⟩)) (join_pred d), rfl, rfl, rfl, .inl rfl⟩
  case h_27 | h_74 =>
    refine .need fun h => ?_
    obtain rfl := of_decide_eq_true h
    exact .withB fun x => ⟨rfl, rfl, rfl, rfl, .inl rfl⟩
  case h_19 | h_38 | h_45 | h_54 | h_55 | h_68 | h_76 =>
    split
    any_goals exact .error _
    all_goals obtain rfl := eq_ofNat_of_toNat ‹b.toNat = _›
    all_goals exact .fields (by simp +contextual [join_zero_pred, join_neg_pred]) rfl rfl rfl rfl (.inl rfl)
  case h_35 | h_36 | h_37 | h_72 | h_73 =>
    exact .fields (by simp +contextual [join_mask, join_zero_pred, join_neg_pred]) rfl rfl rfl rfl (.inl rfl)
  case h_56 | h_57 | h_58 | h_59 | h_60 | h_61 | h_62 | h_63 | h_64 | h_65 | h_66 | h_67 | h_69 | h_75 | h_79 | h_80 | h_81 |
    h_82 | h_83 | h_84 =>
    exact .fields (by simp +contextual) rfl rfl rfl rfl (.inl rfl)
  case h_70 => exact identifyAgree_says pool _ pre lit rfl
  case h_71 =>
    split
    · exact .error _
    · rename_i hcode
      have hcode : decide ((b.extractLsb' 4 3).toNat < 4) = true := decide_eq_true (Nat.lt_of_not_le hcode)
      exact .fields (by simp +contextual [join_mask]) rfl rfl rfl hcode (.inl rfl)
  case h_77 => exact identifyTile_says pool _ pre lit rfl
  case h_78 =>
    split
    · exact .error _
    · rename_i hpool
      split
      case h_4 => exact .error _
      all_goals obtain rfl := eq_ofNat_of_toNat ‹b.toNat = _›
      all_goals exact .fields (by simp +contextual) rfl rfl rfl rfl (.inr (Bool.not_eq_true _ ▸ hpool))
  case h_85 => exact identifyFrame_says pool _ pre lit rfl
  all_goals exact .withB fun x => ⟨rfl, rfl, rfl, rfl, .inl rfl⟩

theorem identifyI_says (pool : Bool) (f : FieldsI) (pre : Option Pre) :
    Identifies (.i f) ⟨f.k, f.c, f.w, pre⟩ none pool (identifyI f ⟨f.k, f.c, f.w, pre⟩) := by
  obtain ⟨k, op, d, a, imm, c, w⟩ := f
  unfold identifyI
  dsimp only
  split
  any_goals exact .error _
  all_goals obtain rfl := eq_ofNat_of_toNat ‹op.toNat = _›
  case h_8 | h_22 | h_23 =>
    refine .need fun h => .ok ?_
    obtain rfl : a = 0 := of_decide_eq_true h
    exact ⟨rfl, rfl, rfl, rfl, .inl rfl⟩
  case h_21 | h_24 | h_27 =>
    refine .need fun h => .ok ?_
    obtain rfl : d = 0 := of_decide_eq_true h
    exact ⟨rfl, rfl, rfl, rfl, .inl rfl⟩
  case h_26 =>
    refine .need fun h => .ok ?_
    obtain ⟨rfl, rfl⟩ : d = 0 ∧ a = 0 := by simpa using h
    exact ⟨rfl, rfl, rfl, rfl, .inl rfl⟩
  case h_19 | h_20 =>
    split
    · exact .error _
    · rename_i hcode
      have hcode : decide ((imm.extractLsb' 2 4).toNat < 12) = true := decide_eq_true (Nat.lt_of_not_le hcode)
      refine .need fun h => .ok ?_
      have hm := join_order (of_decide_eq_true h)
      exact ⟨congrArg (fun y => some (Shape.i ⟨k, _, d, a, y, c, w⟩)) hm, rfl, rfl, hcode, .inl rfl⟩
  all_goals exact .ok ⟨rfl, rfl, rfl, rfl, .inl rfl⟩

theorem identifyB_says (pool : Bool) (f : FieldsB) (pre : Option Pre) :
    Identifies (.b f) ⟨f.k, false, false, pre⟩ none pool (identifyB f ⟨f.k, false, false, pre⟩) := by
  obtain ⟨k, op, g, n, off⟩ := f
  unfold identifyB
  dsimp only
  split
  case h_5 => exact .error _
  all_goals obtain rfl := eq_ofNat_of_toNat ‹op.toNat = _›
  case h_2 | h_4 =>
    refine .need fun h => .ok ?_
    obtain ⟨rfl, rfl⟩ : g = 0 ∧ n = false := by simpa using h
    exact ⟨rfl, rfl, rfl, rfl, .inl rfl⟩
  all_goals exact .ok ⟨rfl, rfl, rfl, rfl, .inl rfl⟩

theorem identifyX_says (pool : Bool) (f : FieldsX) (pre : Option Pre) :
    Identifies (.x f) ⟨false, false, false, pre⟩ none pool (identifyX f ⟨false, false, false, pre⟩) := by
  obtain ⟨sub, t, a, b, q, s, n, r⟩ := f
  unfold identifyX
  dsimp only
  split
  case h_4 => exact .error _
  all_goals obtain rfl := eq_ofNat_of_toNat ‹sub.toNat = _›
  all_goals exact .ok ⟨rfl, rfl, rfl, rfl, .inl rfl⟩

/-- The literal of a word, where `lit` follows it. -/
def Shape.lit? (s : Shape) (lit : Word) : Option Word := if s.takesLiteral then some lit else none

/-- An identified instruction is the one whose fields, `Pre` and literal were read, and one that can be encoded. -/
theorem identify_says {pool : Bool} {pre : Option Pre} {lit : Word} {s : Shape} {i : Instr} (hop : s.isB = true → pre = none)
    (h : identify pool pre lit s = .ok i) :
    i.shape = some s ∧ i.ctl.pre = pre ∧ i.literal = s.lit? lit ∧ i.encodable = true ∧ (pool && i.isQueue) = false := by
  have hk : ∀ {k : Bool} {op : BitVec 7} {r : Except Cause Instr},
      (if k && !hasUniform op then .error .illegalOp else r) = .ok i → (!k || hasUniform op) = true ∧ r = .ok i := by
    intro k op r h
    split at h
    · cases h
    · rename_i hn
      exact ⟨by cases k <;> simp_all, h⟩
  have hmode : i.isQueue = false ∨ pool = false → (pool && i.isQueue) = false := by rintro (h | h) <;> simp [h]
  cases s with
  | a f =>
    obtain ⟨hc, h⟩ := hk h
    obtain ⟨hs, hctl, hl, hcode, hq⟩ := identifyA_says pool f pre lit i h
    exact ⟨hs, by rw [hctl], hl, by simp only [Instr.encodable, Instr.classOk, hs, hc, hcode, Bool.and_self], hmode hq⟩
  | i f =>
    obtain ⟨hc, h⟩ := hk h
    obtain ⟨hs, hctl, hl, hcode, hq⟩ := identifyI_says pool f pre i h
    exact ⟨hs, by rw [hctl], hl, by simp only [Instr.encodable, Instr.classOk, hs, hc, hcode, Bool.and_self], hmode hq⟩
  | b f =>
    obtain rfl := hop rfl
    obtain ⟨hc, h⟩ := hk h
    obtain ⟨hs, hctl, hl, hcode, hq⟩ := identifyB_says pool f none i h
    exact ⟨hs, by rw [hctl], hl, by simp [Instr.encodable, Instr.classOk, hs, hctl, hc, hcode], hmode hq⟩
  | x f =>
    obtain ⟨hs, hctl, hl, hcode, hq⟩ := identifyX_says pool f pre i h
    exact ⟨hs, by rw [hctl], hl, by simp [Instr.encodable, Instr.classOk, hs, hctl, hcode], hmode hq⟩

end Sys2Proof
end

section
/-! PROOF. The decoder and the encoder invert each other (R38, R40, R57): O28 and O29 hold. -/

namespace Sys2Proof

/-- The outcomes of identification with two literals: alike for every check of R57, which reads no literal, and the same where the
word takes none. -/
def SameChecks (r r' : Except Cause Instr) : Prop :=
  ∀ i, r = .ok i → ∃ i', r' = .ok i' ∧ (∀ ctx, i'.check ctx = i.check ctx) ∧ (i.literal = none → i' = i)

namespace SameChecks

theorem refl (r : Except Cause Instr) : SameChecks r r := fun i h => ⟨i, h, fun _ => rfl, fun _ => rfl⟩

theorem need {b : Bool} {r r' : Except Cause Instr} (h : SameChecks r r') : SameChecks (need b r) (need b r') := by
  cases b
  · exact refl _
  · exact h

theorem withB {f : FieldsA} {v v' : Word} {g : OpB → Instr} (h : ∀ ctx, (g (.lit v')).check ctx = (g (.lit v)).check ctx)
    (hl : (g (.lit v)).literal = some v) : SameChecks (withB f v g) (withB f v' g) := by
  unfold Sys2Proof.withB
  split
  · refine need ?_
    rintro _ ⟨⟩
    exact ⟨_, rfl, h, fun hn => absurd (hl.symm.trans hn) nofun⟩
  · exact refl _

end SameChecks

theorem identifyA_sameChecks (pool : Bool) (f : FieldsA) (c : Ctl) (v v' : Word) :
    SameChecks (identifyA pool f c v) (identifyA pool f c v') := by
  unfold identifyA
  generalize f.op.toNat = n
  split
  case h_27 | h_74 => exact .need (.withB (fun _ => rfl) rfl)
  case h_19 | h_35 | h_36 | h_37 | h_38 | h_45 | h_54 | h_55 => exact .refl _
  case h_56 | h_57 | h_58 | h_59 | h_60 | h_61 | h_62 | h_63 | h_64 | h_65 | h_66 | h_67 | h_68 | h_69 | h_70 => exact .refl _
  case h_71 | h_72 | h_73 | h_75 | h_76 | h_77 | h_78 | h_79 | h_80 | h_81 | h_82 | h_83 | h_84 | h_85 | h_86 => exact .refl _
  all_goals exact .withB (fun _ => rfl) rfl

theorem identify_sameChecks (pool : Bool) (pre : Option Pre) (s : Shape) (v v' : Word) :
    SameChecks (identify pool pre v s) (identify pool pre v' s) := by
  cases s with
  | a f =>
    unfold identify
    dsimp only
    split
    · exact .refl _
    · exact identifyA_sameChecks _ _ _ _ _
  | _ => exact .refl _

/-- The fields of every instruction's word are identified as the instruction. -/
theorem fields_statement (i : Instr) : Laws.Fields.Statement i := by
  by_cases hs : i.shape = none
  · intro _ _ _ s h
    rw [hs] at h
    cases h
  cases i with
  | addN32 => apply Laws.Fields.addN32 | addI32 => apply Laws.Fields.addI32 | subN32 => apply Laws.Fields.subN32
  | subI32 => apply Laws.Fields.subI32 | mulB32 => apply Laws.Fields.mulB32 | mulwN32 => apply Laws.Fields.mulwN32
  | mulwI32 => apply Laws.Fields.mulwI32 | macB32 => apply Laws.Fields.macB32 | minN32 => apply Laws.Fields.minN32
  | minI32 => apply Laws.Fields.minI32 | maxN32 => apply Laws.Fields.maxN32 | maxI32 => apply Laws.Fields.maxI32
  | andB32 => apply Laws.Fields.andB32 | orB32 => apply Laws.Fields.orB32 | xorB32 => apply Laws.Fields.xorB32
  | shlB32 => apply Laws.Fields.shlB32 | shrN32 => apply Laws.Fields.shrN32 | shrI32 => apply Laws.Fields.shrI32
  | notB32 => apply Laws.Fields.notB32 | onesB32 => apply Laws.Fields.onesB32 | lzcB32 => apply Laws.Fields.lzcB32
  | tzcB32 => apply Laws.Fields.tzcB32 | revB32 => apply Laws.Fields.revB32 | absI32 => apply Laws.Fields.absI32
  | negI32 => apply Laws.Fields.negI32 | sxtB8 => apply Laws.Fields.sxtB8 | sxtB16 => apply Laws.Fields.sxtB16
  | zxtB8 => apply Laws.Fields.zxtB8 | zxtB16 => apply Laws.Fields.zxtB16 | fgetN32 => apply Laws.Fields.fgetN32
  | fgetI32 => apply Laws.Fields.fgetI32 | fputB32 => apply Laws.Fields.fputB32 | divN32 => apply Laws.Fields.divN32
  | divI32 => apply Laws.Fields.divI32 | remN32 => apply Laws.Fields.remN32 | remI32 => apply Laws.Fields.remI32
  | addN32Imm => apply Laws.Fields.addN32Imm | andB32Imm => apply Laws.Fields.andB32Imm
  | orB32Imm => apply Laws.Fields.orB32Imm | xorB32Imm => apply Laws.Fields.xorB32Imm
  | shlB32Imm => apply Laws.Fields.shlB32Imm | shrN32Imm => apply Laws.Fields.shrN32Imm
  | shrI32Imm => apply Laws.Fields.shrI32Imm | movB32Imm => apply Laws.Fields.movB32Imm
  | movB32 => apply Laws.Fields.movB32 | selB32 => apply Laws.Fields.selB32
  | cmpN32Set1 => apply Laws.Fields.cmpN32Set1 | cmpN32Set2 => apply Laws.Fields.cmpN32Set2
  | cmpI32Set1 => apply Laws.Fields.cmpI32Set1 | cmpI32Set2 => apply Laws.Fields.cmpI32Set2
  | cmpF32Set1 => apply Laws.Fields.cmpF32Set1 | cmpF32Set2 => apply Laws.Fields.cmpF32Set2
  | pand => apply Laws.Fields.pand | por => apply Laws.Fields.por | pxor => apply Laws.Fields.pxor
  | vtp => apply Laws.Fields.vtp | ptv => apply Laws.Fields.ptv | faddF32 => apply Laws.Fields.faddF32
  | fsubF32 => apply Laws.Fields.fsubF32 | fmulF32 => apply Laws.Fields.fmulF32
  | ffmaF32 => apply Laws.Fields.ffmaF32 | fminF32 => apply Laws.Fields.fminF32
  | fmaxF32 => apply Laws.Fields.fmaxF32 | fabsF32 => apply Laws.Fields.fabsF32
  | fnegF32 => apply Laws.Fields.fnegF32 | frintF32 => apply Laws.Fields.frintF32
  | fabsF16x2 => apply Laws.Fields.fabsF16x2 | fnegF16x2 => apply Laws.Fields.fnegF16x2
  | fabsBf16x2 => apply Laws.Fields.fabsBf16x2 | fnegBf16x2 => apply Laws.Fields.fnegBf16x2
  | faddF16x2 => apply Laws.Fields.faddF16x2 | fmulF16x2 => apply Laws.Fields.fmulF16x2
  | ffmaF16x2 => apply Laws.Fields.ffmaF16x2 | faddBf16x2 => apply Laws.Fields.faddBf16x2
  | fmulBf16x2 => apply Laws.Fields.fmulBf16x2 | ffmaBf16x2 => apply Laws.Fields.ffmaBf16x2
  | fdot2F32F16x2 => apply Laws.Fields.fdot2F32F16x2 | fdot2F32Bf16x2 => apply Laws.Fields.fdot2F32Bf16x2
  | cvtF32I32 => apply Laws.Fields.cvtF32I32 | cvtF32N32 => apply Laws.Fields.cvtF32N32
  | cvtI32F32 => apply Laws.Fields.cvtI32F32 | cvtN32F32 => apply Laws.Fields.cvtN32F32
  | cvtF32F16 => apply Laws.Fields.cvtF32F16 | cvtF32Bf16 => apply Laws.Fields.cvtF32Bf16
  | cvtF16F32 => apply Laws.Fields.cvtF16F32 | cvtBf16F32 => apply Laws.Fields.cvtBf16F32
  | cvtF32E4m3 => apply Laws.Fields.cvtF32E4m3 | cvtF32E5m2 => apply Laws.Fields.cvtF32E5m2
  | cvtF32E2m1 => apply Laws.Fields.cvtF32E2m1 | cvtE4m3F32 => apply Laws.Fields.cvtE4m3F32
  | cvtE5m2F32 => apply Laws.Fields.cvtE5m2F32 | cvtE2m1F32 => apply Laws.Fields.cvtE2m1F32
  | cvtF32Ue4m3 => apply Laws.Fields.cvtF32Ue4m3 | cvtI32Rns24 => apply Laws.Fields.cvtI32Rns24
  | cvtN32Rns24 => apply Laws.Fields.cvtN32Rns24 | cvtRns24I32 => apply Laws.Fields.cvtRns24I32
  | cvtRns24N32 => apply Laws.Fields.cvtRns24N32 | rcpF32 => apply Laws.Fields.rcpF32
  | rsqrtF32 => apply Laws.Fields.rsqrtF32 | sqrtF32 => apply Laws.Fields.sqrtF32
  | exp2F32 => apply Laws.Fields.exp2F32 | log2F32 => apply Laws.Fields.log2F32 | sinF32 => apply Laws.Fields.sinF32
  | cosF32 => apply Laws.Fields.cosF32 | tanhF32 => apply Laws.Fields.tanhF32
  | gnextB32 => apply Laws.Fields.gnextB32 | gseed => apply Laws.Fields.gseed | ldN8 => apply Laws.Fields.ldN8
  | ldI8 => apply Laws.Fields.ldI8 | ldN16 => apply Laws.Fields.ldN16 | ldI16 => apply Laws.Fields.ldI16
  | ldB32 => apply Laws.Fields.ldB32 | ldB64 => apply Laws.Fields.ldB64 | stB8 => apply Laws.Fields.stB8
  | stB16 => apply Laws.Fields.stB16 | stB32 => apply Laws.Fields.stB32 | stB64 => apply Laws.Fields.stB64
  | natom => apply Laws.Fields.natom | atom => apply Laws.Fields.atom | push => apply Laws.Fields.push
  | pop => apply Laws.Fields.pop | mfs => apply Laws.Fields.mfs | mts => apply Laws.Fields.mts
  | ckz => apply Laws.Fields.ckz | ckaMod => apply Laws.Fields.ckaMod | ckaF => apply Laws.Fields.ckaF
  | ckvMod => apply Laws.Fields.ckvMod | ckvF => apply Laws.Fields.ckvF | svc => apply Laws.Fields.svc
  | trap => apply Laws.Fields.trap | rte => apply Laws.Fields.rte | exit => apply Laws.Fields.exit
  | bra => apply Laws.Fields.bra | braAlways => apply Laws.Fields.braAlways | call => apply Laws.Fields.call
  | callAlways => apply Laws.Fields.callAlways | ret => apply Laws.Fields.ret | brx => apply Laws.Fields.brx
  | mma => apply Laws.Fields.mma | mmaSc => apply Laws.Fields.mmaSc | mmaSet => apply Laws.Fields.mmaSet
  | reform => apply Laws.Fields.reform | waitm => apply Laws.Fields.waitm | leave => apply Laws.Fields.leave
  | join => apply Laws.Fields.join | pseg => apply Laws.Fields.pseg | cvset => apply Laws.Fields.cvset
  | agreeEvery => apply Laws.Fields.agreeEvery | agreeSome => apply Laws.Fields.agreeSome
  | agreeMask => apply Laws.Fields.agreeMask | agreeSame => apply Laws.Fields.agreeSame
  | xlane => apply Laws.Fields.xlane | sred => apply Laws.Fields.sred | sscan => apply Laws.Fields.sscan
  | bsig => apply Laws.Fields.bsig | bwait => apply Laws.Fields.bwait | fenceAr => apply Laws.Fields.fenceAr
  | fenceAcq => apply Laws.Fields.fenceAcq | fenceRel => apply Laws.Fields.fenceRel
  | yield => apply Laws.Fields.yield | tzero => apply Laws.Fields.tzero | tld => apply Laws.Fields.tld
  | tst => apply Laws.Fields.tst | tstat => apply Laws.Fields.tstat | trd => apply Laws.Fields.trd
  | tcvt => apply Laws.Fields.tcvt | qsend => apply Laws.Fields.qsend | qrecv => apply Laws.Fields.qrecv
  | qcred => apply Laws.Fields.qcred | cprop => apply Laws.Fields.cprop | cread => apply Laws.Fields.cread
  | crecyc => apply Laws.Fields.crecyc | lcpIn => apply Laws.Fields.lcpIn | lcpOut => apply Laws.Fields.lcpOut
  | lcpx => apply Laws.Fields.lcpx | fquery => apply Laws.Fields.fquery | xlprobe => apply Laws.Fields.xlprobe
  | xlpurge => apply Laws.Fields.xlpurge | fretype => apply Laws.Fields.fretype
  | declass => apply Laws.Fields.declass
  | _ => exact absurd rfl hs

/-! ## A unit decoded (R57) -/

/-- The checks of R57 on an instruction whose word has been identified. -/
theorem Instr.check_eq_none_iff (ctx : DecCtx) (i : Instr) : i.check ctx = none ↔
    i.prefixPairOk = true ∧ i.wOk = true ∧ i.operandsOk ctx = true ∧ i.tilesOk ctx = true ∧ i.slotsOk ctx = true := by
  unfold Instr.check Instr.prefixPairOk Instr.operandsOk Instr.tilesOk Instr.slotsOk
  cases i.form.pairOk i.ctl.pre <;> cases i.wOk <;> cases i.operands.all (Operand.legal ctx) <;>
    cases i.operands.findSome? (Operand.overTiles ctx) <;> cases i.operands.findSome? (Operand.badSlot ctx) <;> simp

/-- The `Pre` of a unit, where it has one, has no reserved bit or code (R49). -/
theorem Instr.prefixOwnOk_iff (i : Instr) : i.prefixOwnOk = true ↔ ∀ p ∈ i.ctl.pre, p.ownOk = true := by
  unfold Instr.prefixOwnOk
  cases i.ctl.pre <;> simp

/-- The index in a unit of the word after its instruction word. -/
def afterWord (pre : Option Pre) : Nat := if pre.isSome then 2 else 1

/-- What becomes of an instruction word that is identified and passes its checks: a literal that it takes has to be there. -/
theorem decodeGoverned_ok {ctx : DecCtx} {pre : Option Pre} {w : Word} {rest : List Word} {i : Instr}
    (hclass : w.extractLsb' 27 5 ≠ 0b11100#5) (hid : identify ctx.pool pre (rest.headD 0) (shapeOf w) = .ok i)
    (hpre : ∀ p ∈ pre, p.ownOk = true) (hchk : i.check ctx = none) :
    decodeGoverned ctx pre w rest = if (shapeOf w).takesLiteral then
      (if rest.isEmpty then .fetch (afterWord pre) else .unit i w (afterWord pre + 1)) else .unit i w (afterWord pre) := by
  unfold decodeGoverned
  dsimp only
  rw [if_neg (c := w.extractLsb' 27 5 = 0b11100) hclass, hid]
  cases pre with
  | none => simp only [decodeGoverned.finish, hchk]; rfl
  | some p => simp only [hpre p rfl, decodeGoverned.finish, hchk]; rfl

theorem of_finish {ctx : DecCtx} {w w' : Word} {rest : List Word} {n len : Nat} {uni : Bool} {r : Except Cause Instr} {i : Instr}
    (h : decodeGoverned.finish ctx w rest n uni r = .unit i w' len) : r = .ok i ∧ i.check ctx = none := by
  unfold decodeGoverned.finish at h
  split at h
  · cases h
  · split at h
    · cases h
    · split at h
      · split at h <;> cases h
        exact ⟨rfl, ‹_›⟩
      · cases h
        exact ⟨rfl, ‹_›⟩

/-- A unit that is decoded has an instruction word that is identified and passes its checks. -/
theorem of_decodeGoverned {ctx : DecCtx} {pre : Option Pre} {w w' : Word} {rest : List Word} {i : Instr} {len : Nat}
    (h : decodeGoverned ctx pre w rest = .unit i w' len) :
    w.extractLsb' 27 5 ≠ 0b11100#5 ∧ identify ctx.pool pre (rest.headD 0) (shapeOf w) = .ok i ∧
      (∀ p ∈ pre, p.ownOk = true) ∧ i.check ctx = none := by
  unfold decodeGoverned at h
  dsimp only at h
  generalize (if pre.isSome = true then 2 else 1) = n at h
  split at h
  · cases h
  · rename_i hclass
    split at h
    · cases h
    · split at h
      · split at h
        · cases h
        · rename_i hown
          obtain ⟨hid, hchk⟩ := of_finish h
          exact ⟨hclass, hid, by rintro _ ⟨⟩; simpa using hown, hchk⟩
      · obtain ⟨hid, hchk⟩ := of_finish h
        exact ⟨hclass, hid, by simp, hchk⟩

/-- The words of a unit's `Pre`, if any. -/
def prefixWords (pre : Option Pre) : List Word := (pre.map Pre.word).toList

theorem Pre.word_spec (p : Pre) : isPrefix p.word = true ∧ p.word.getLsbD 31 = false ∧ p.word.extractLsb' 0 13 = 0#13 := by
  refine ⟨decide_eq_true (BitVec.eq_of_getLsbD_eq fun n hn => ?_), ?_, BitVec.eq_of_getLsbD_eq fun n hn => ?_⟩
  · simp only [Pre.word, BitVec.getLsbD_append, BitVec.getLsbD_extractLsb']
    interval_cases n <;> rfl
  · simp only [Pre.word, BitVec.getLsbD_append]
    rfl
  · simp only [Pre.word, BitVec.getLsbD_append, BitVec.getLsbD_extractLsb']
    interval_cases n <;> rfl

/-- A `Pre`, if any, and the word of fields in their format are decoded as a governed word (R49, R57). -/
theorem decodeUnit_words (ctx : DecCtx) {pre : Option Pre} {s : Shape} (rest : List Word) (hop : s.opOk = true)
    (hb : s.isB = true → pre = none) :
    decodeUnit ctx (prefixWords pre ++ s.word :: rest) = decodeGoverned ctx pre s.word rest := by
  obtain ⟨hp, hclass, hshape⟩ := Shape.word_spec hop
  cases pre with
  | none => simp [prefixWords, decodeUnit, hp]
  | some p =>
    have hb : s.isB = false := by
      cases h : s.isB with
      | false => rfl
      | true => exact nomatch hb h
    obtain ⟨hpp, hk, hz⟩ := p.word_spec
    simp [prefixWords, decodeUnit, hpp, hk, hz, hp, hshape, hb, p.of_word, - BitVec.getLsbD_eq_getElem]

/-- What has been decoded began with a `Pre`, if any, and a governed word. -/
theorem of_decodeUnit {ctx : DecCtx} {ws : List Word} {i : Instr} {w : Word} {len : Nat} (h : decodeUnit ctx ws = .unit i w len) :
    ∃ pre v rest, ws = prefixWords pre ++ v :: rest ∧ ((shapeOf v).isB = true → pre = none) ∧
      decodeGoverned ctx pre v rest = .unit i w len := by
  unfold decodeUnit at h
  split at h
  · cases h
  · rename_i w0 ws
    split at h
    · rename_i hp
      split at h
      · cases h
      · rename_i hbits
        split at h
        · cases h
        · rename_i v rest
          split at h
          · cases h
          · rename_i hgov
            obtain ⟨hclass, -⟩ := of_decodeGoverned h
            simp only [Bool.or_eq_true, not_or, decide_eq_true_eq, ne_eq, Decidable.not_not, Bool.not_eq_true] at hbits
            refine ⟨some (Pre.of w0), v, rest, ?_, fun hb => absurd ?_ hgov, h⟩
            · rw [prefixWords, Option.map_some, Pre.word_of w0 (of_decide_eq_true hp) hbits.1 hbits.2]
              rfl
            · simp [hclass, hb]
    · exact ⟨none, w0, ws, rfl, fun _ => rfl, h⟩

theorem Instr.encode_eq {i : Instr} {s : Shape} (h : i.shape = some s) :
    encode i = prefixWords i.ctl.pre ++ s.word :: i.literal.toList := by
  unfold encode
  rw [h]
  simp [prefixWords]

/-- The class bit of fields (R40): matrix words have none. -/
def Shape.k : Shape → Bool
  | .a f => f.k
  | .i f => f.k
  | .b f => f.k
  | .x _ => false

theorem Shape.word_k (s : Shape) : s.word.getLsbD 31 = s.k := by
  cases s with
  | a f => exact congrArg FieldsA.k f.of_word
  | i f => exact congrArg FieldsI.k f.of_word
  | b f => exact congrArg FieldsB.k f.of_word
  | x f =>
    simp only [Shape.word, FieldsX.word, BitVec.getLsbD_append]
    rfl

theorem Instr.shape_k {i : Instr} {s : Shape} (hs : i.shape = some s) (h : i.encodable = true) : s.k = i.ctl.k := by
  cases s with
  | x f => exact (Laws.encodable_x hs h).1.symm
  | _ => cases i <;> cases hs <;> rfl

theorem prefixWords_length (pre : Option Pre) : (prefixWords pre).length + 1 = afterWord pre := by cases pre <;> rfl

/-- A well-formed instruction is encodable and passes every check of its unit. -/
theorem Instr.wellFormed_iff (ctx : DecCtx) (i : Instr) : i.wellFormed ctx = true ↔
    i.encodable = true ∧ (∀ p ∈ i.ctl.pre, p.ownOk = true) ∧ i.check ctx = none ∧ (ctx.pool && i.isQueue) = false := by
  rw [Instr.check_eq_none_iff, ← Instr.prefixOwnOk_iff]
  simp only [Instr.wellFormed, Instr.modeOk, Bool.and_eq_true, Bool.not_eq_true']
  tauto

theorem Instr.exists_shape {i : Instr} (h : i.encodable = true) : ∃ s, i.shape = some s := by
  cases hs : i.shape with
  | none => simp [Instr.encodable, Instr.classOk, hs] at h
  | some s => exact ⟨s, rfl⟩

/-- A branch has no `Pre` (R49). -/
theorem Instr.pre_eq_none_of_isB {i : Instr} (h : i.encodable = true) {s : Shape} (hs : i.shape = some s) (hb : s.isB = true) :
    i.ctl.pre = none := by
  cases s with
  | b f => exact (Laws.encodable_b hs h).2.2.1
  | _ => cases hb

/-- The words of a well-formed instruction, up to its literal, are decoded as the instruction where the words that follow have its
literal, or ask for the literal where none follows. -/
theorem decodeUnit_encode {ctx : DecCtx} {i : Instr} (hwf : i.wellFormed ctx = true) {s : Shape} (hs : i.shape = some s)
    (rest : List Word) (hlit : i.literal = none ∨ i.literal = rest.head?) :
    decodeUnit ctx (prefixWords i.ctl.pre ++ s.word :: rest) = .unit i s.word (encode i).length := by
  obtain ⟨henc, hown, hchk, hmode⟩ := (i.wellFormed_iff ctx).mp hwf
  have hop := Instr.shape_opOk hs
  obtain ⟨-, hclass, hshape⟩ := Shape.word_spec hop
  have hid : identify ctx.pool i.ctl.pre (rest.headD 0) s = .ok i := by
    have hid := fields_statement i henc ctx.pool hmode s hs
    obtain hn | hh := hlit
    · obtain ⟨j, hj, -, hji⟩ := identify_sameChecks ctx.pool i.ctl.pre s _ (rest.headD 0) i hid
      rw [hj, hji hn]
    · rwa [hh, ← List.headD_eq_head?_getD] at hid
  rw [decodeUnit_words ctx _ hop (Instr.pre_eq_none_of_isB henc hs),
    decodeGoverned_ok hclass (by rw [hshape]; exact hid) hown hchk, hshape, Instr.takesLiteral_shape hs, Instr.encode_eq hs,
    List.length_append, List.length_cons]
  have := prefixWords_length i.ctl.pre
  cases hl : i.literal with
  | none => simp; omega
  | some v =>
    obtain ⟨v', rest, rfl⟩ : ∃ v' r, rest = v' :: r := by
      cases rest with
      | nil => simp [hl] at hlit
      | cons v' r => exact ⟨v', r, rfl⟩
    simp; omega

/-- A word that takes a literal asks for it where none follows (R57). -/
theorem decodeUnit_word_alone {ctx : DecCtx} {i : Instr} (hwf : i.wellFormed ctx = true) {s : Shape} (hs : i.shape = some s)
    (hlit : i.literal.isSome = true) :
    decodeUnit ctx (prefixWords i.ctl.pre ++ [s.word]) = .fetch (afterWord i.ctl.pre) := by
  obtain ⟨henc, hown, hchk, hmode⟩ := (i.wellFormed_iff ctx).mp hwf
  have hop := Instr.shape_opOk hs
  obtain ⟨-, hclass, hshape⟩ := Shape.word_spec hop
  obtain ⟨j, hj, hjc, -⟩ := identify_sameChecks ctx.pool i.ctl.pre s _ 0 i (fields_statement i henc ctx.pool hmode s hs)
  rw [decodeUnit_words ctx _ hop (Instr.pre_eq_none_of_isB henc hs),
    decodeGoverned_ok (rest := []) hclass (by rw [hshape]; exact hj) hown ((hjc ctx).trans hchk), hshape,
    Instr.takesLiteral_shape hs, hlit]
  rfl

/-- The word of a `Pre` alone asks for the word that it governs (R49). -/
theorem decodeUnit_prefix_alone (ctx : DecCtx) (pre : Option Pre) :
    decodeUnit ctx (prefixWords pre) = .fetch (prefixWords pre).length := by
  cases pre with
  | none => rfl
  | some p =>
    obtain ⟨hpp, hk, hz⟩ := p.word_spec
    simp [prefixWords, decodeUnit, hpp, hk, hz, - BitVec.getLsbD_eq_getElem]

/-- Settles O28: the fields of a word are cut apart as the encoder put them together, each instruction's fields are identified as it, and
the checks of R57 are those of a well-formed word; no check reads the literal, so that a unit without it asks for it. -/
theorem encodingsDecode : Obligations.EncodingsDecode := by
  unfold Obligations.EncodingsDecode Claims.DecodesItsEncoding
  intro ctx i hwf
  have henc := ((i.wellFormed_iff ctx).mp hwf).1
  obtain ⟨s, hs⟩ := Instr.exists_shape henc
  have hwords := Instr.encode_eq hs
  refine ⟨fun rest => ⟨s.word, ?_, by rw [Shape.word_k, Instr.shape_k hs henc]⟩, fun n hn => ?_⟩
  · have hlit : i.literal = none ∨ i.literal = (i.literal.toList ++ rest).head? := by cases i.literal <;> simp
    have h := decodeUnit_encode hwf hs (i.literal.toList ++ rest) hlit
    rwa [← List.cons_append, ← List.append_assoc, ← hwords] at h
  · rw [hwords, List.length_append, List.length_cons] at hn
    rw [hwords]
    have hp : (prefixWords i.ctl.pre).length ≤ 1 := by cases i.ctl.pre <;> simp [prefixWords]
    obtain rfl | rfl | rfl : n = (prefixWords i.ctl.pre).length ∨ n = (prefixWords i.ctl.pre).length + 1 ∨ n = 0 := by
      have : i.literal.toList.length ≤ 1 := by cases i.literal <;> simp
      omega
    · rw [List.take_left, decodeUnit_prefix_alone]
    · have hlit : i.literal.isSome = true := by
        cases hl : i.literal with
        | none => simp [hl] at hn
        | some v => rfl
      rw [prefixWords_length, ← decodeUnit_word_alone hwf hs hlit, ← prefixWords_length, List.take_length_add_append]
      rfl
    · rfl

/-- Settles O29: what the decoder accepts in a word's fields it identifies as the instruction that has these fields, in every arm of the
opcode map, and the fields put together are the word again. -/
theorem decodingsEncode : Obligations.DecodingsEncode := by
  unfold Obligations.DecodingsEncode Claims.EncodesItsDecoding
  intro ctx ws i w len h
  obtain ⟨pre, v, rest, rfl, hb, hgov⟩ := of_decodeUnit h
  obtain ⟨hclass, hid, hown, hchk⟩ := of_decodeGoverned hgov
  obtain ⟨hs, rfl, hlit, henc, hmode⟩ := identify_says hb hid
  have hwf : i.wellFormed ctx = true := (i.wellFormed_iff ctx).mpr ⟨henc, hown, hchk, hmode⟩
  have hv := shapeOf_word hclass
  have hl : i.literal = none ∨ i.literal = rest.head? := by
    unfold Shape.lit? at hlit
    split at hlit
    · cases rest with
      | nil =>
        have hf := decodeUnit_word_alone hwf hs (by rw [hlit]; rfl)
        rw [hv, h] at hf
        cases hf
      | cons x rest => exact .inr hlit
    · exact .inl hlit
  have hdec := decodeUnit_encode hwf hs rest hl
  rw [hv, h] at hdec
  obtain rfl : len = (encode i).length := by injection hdec
  have hpre : encode i <+: prefixWords i.ctl.pre ++ v :: rest := by
    rw [Instr.encode_eq hs, hv]
    refine List.prefix_append_right_inj _ |>.mpr (List.cons_prefix_cons.mpr ⟨rfl, ?_⟩)
    obtain hl | hl := hl <;> rw [hl]
    · exact List.nil_prefix
    · cases rest with
      | nil => exact List.nil_prefix
      | cons x rest => exact ⟨rest, rfl⟩
  exact ⟨hwf, List.prefix_iff_eq_take.mp hpre, rfl⟩

end Sys2Proof
end

section
/-! PROOF. Reserved encodings (R40, R49, R52, R57, R98): O31 holds. -/

namespace Sys2Proof

/-- Bits of a word as a number. -/
theorem extractLsb'_eq_iff {n : Nat} (w : Word) (lo : Nat) (v : BitVec n) :
    w.extractLsb' lo n = v ↔ w.toNat / 2 ^ lo % 2 ^ n = v.toNat := by
  rw [← BitVec.toNat_inj, BitVec.extractLsb'_toNat, Nat.shiftRight_eq_div_pow]

theorem isPrefix_iff (w : Word) : isPrefix w = true ↔ w.toNat / 2 ^ 24 % 2 ^ 7 = 0x7F := by
  unfold isPrefix
  rw [decide_eq_true_iff]
  exact extractLsb'_eq_iff w 24 0x7F#7

/-- The bits of a `Pre` that have to be zero (R49). -/
theorem prefixZeros_iff (w : Word) : w.extractLsb' 0 13 = 0#13 ↔ w.toNat % 2 ^ 13 = 0 := by
  rw [extractLsb'_eq_iff]
  simp

theorem isFormatB_iff (op : BitVec 7) : isFormatB op = true ↔ 0x5A ≤ op.toNat ∧ op.toNat ≤ 0x5D := by
  revert op; decide

/-- A word whose opcode is one of format B is cut into that format's fields. -/
theorem shapeOf_isB {w : Word} (h : isFormatB (w.extractLsb' 24 7) = true) : (shapeOf w).isB = true := by
  simp [shapeOf, ((formats_apart _).2.1 h).1, h, Shape.isB]

/-! The refusals of a unit's first words, in the order of R57. -/

theorem decodeUnit_of_not_prefix {ctx : DecCtx} {w : Word} (ws : List Word) (h : isPrefix w = false) :
    decodeUnit ctx (w :: ws) = decodeGoverned ctx none w ws := by
  unfold decodeUnit
  exact if_neg (by simp [h])

theorem decodeUnit_prefix_reserved {ctx : DecCtx} {w : Word} (ws : List Word) (h : isPrefix w = true)
    (hbits : w.getLsbD 31 = true ∨ w.extractLsb' 0 13 ≠ 0#13) : decodeUnit ctx (w :: ws) = .bad .illegalOp w (w.getLsbD 31) := by
  unfold decodeUnit
  refine (if_pos h).trans (if_pos ?_)
  rw [Bool.or_eq_true, decide_eq_true_iff]
  exact hbits

theorem decodeUnit_prefix_ungoverning {ctx : DecCtx} {w x : Word} (ws : List Word) (h : isPrefix w = true) (hk : w.getLsbD 31 = false)
    (hz : w.extractLsb' 0 13 = 0#13) (hx : isPrefix x = true ∨ isFormatB (x.extractLsb' 24 7) = true) :
    decodeUnit ctx (w :: x :: ws) = .bad .illegalOp w (x.getLsbD 31) := by
  have hgov : (isPrefix x || (decide (x.extractLsb' 27 5 ≠ 0b11100#5) && (shapeOf x).isB)) = true := by
    obtain hp | hb := hx
    · rw [hp, Bool.true_or]
    · have hclass := high5_ne_of_not_formatX ((formats_apart _).2.1 hb).1
      rw [shapeOf_isB hb, decide_eq_true hclass, Bool.and_true, Bool.or_true]
  rw [decodeUnit, if_pos h, if_neg (c := (w.getLsbD 31 || decide (w.extractLsb' 0 13 ≠ 0)) = true) (by rw [hk, hz]; decide)]
  exact if_pos hgov

theorem decodeGoverned_uniform_matrix {ctx : DecCtx} {pre : Option Pre} {w : Word} (rest : List Word)
    (h : w.extractLsb' 27 5 = 0b11100#5) : decodeGoverned ctx pre w rest = .bad .illegalOp w true := by
  unfold decodeGoverned
  exact if_pos h

theorem decodeGoverned_illegalOp {ctx : DecCtx} {pre : Option Pre} {w : Word} {rest : List Word}
    (hclass : w.extractLsb' 27 5 ≠ 0b11100#5) (hid : identify ctx.pool pre (rest.headD 0) (shapeOf w) = .error .illegalOp) :
    decodeGoverned ctx pre w rest = .bad .illegalOp w (w.getLsbD 31) := by
  unfold decodeGoverned
  dsimp only
  rw [if_neg (c := w.extractLsb' 27 5 = 0b11100) hclass, hid]

/-- The integer unary group has eleven codes (R60, R98). -/
theorem identifyA_unary_unassigned (pool : Bool) (f : FieldsA) (c : Ctl) (lit : Word) (hop : f.op = 0x12#7) (hb : 11 ≤ f.b.toNat) :
    identifyA pool f c lit = .error .illegalOp := by
  obtain ⟨k, op, d, a, b, cc, w, e⟩ := f
  obtain rfl : op = 0x12#7 := hop
  simp only [identifyA, BitVec.reduceToNat]
  split
  case h_12 => rfl
  all_goals
    have hcode := ‹b.toNat = _›
    simp only [hcode] at hb
    contradiction

/-- A word of the integer unary group with an unassigned code is refused whatever else it holds. -/
theorem identify_unary_unassigned {w : Word} (pool : Bool) (pre : Option Pre) (lit : Word) (hop : w.extractLsb' 24 7 = 0x12#7)
    (hb : 11 ≤ (w.extractLsb' 3 7).toNat) : identify pool pre lit (shapeOf w) = .error .illegalOp := by
  have hshape : shapeOf w = .a (.of w) := by
    unfold shapeOf
    rw [hop]
    rfl
  rw [hshape]
  unfold identify
  dsimp only
  split
  · rfl
  · exact identifyA_unary_unassigned _ _ _ _ hop hb

/-- Settles O31: each of these words meets its refusal before any other check of R57. -/
theorem reservedWordsRefused : Obligations.ReservedWordsRefused := by
  unfold Obligations.ReservedWordsRefused Claims.ReservedWordsRefused
  intro ctx w x ws
  refine ⟨fun h => ?_, fun hop hbits => ?_, fun hop hz hx => ?_, fun hop hb => ?_⟩
  · have hp : isPrefix w = false := Bool.eq_false_iff.mpr fun hp => by rw [isPrefix_iff] at hp; omega
    rw [decodeUnit_of_not_prefix ws hp, decodeGoverned_uniform_matrix ws ((extractLsb'_eq_iff w 27 0b11100#5).mpr (by simp; omega))]
  · exact decodeUnit_prefix_reserved ws ((isPrefix_iff w).mpr hop) (hbits.imp id (mt (prefixZeros_iff w).mp))
  · have hk : w.getLsbD 31 = false := by
      rw [BitVec.getLsbD, Nat.testBit_eq_decide_div_mod_eq, decide_eq_false_iff_not]
      omega
    have hx : isPrefix x = true ∨ isFormatB (x.extractLsb' 24 7) = true := by
      rw [isPrefix_iff, isFormatB_iff, BitVec.extractLsb'_toNat, Nat.shiftRight_eq_div_pow]
      exact hx
    exact decodeUnit_prefix_ungoverning ws ((isPrefix_iff w).mpr (by omega)) hk ((prefixZeros_iff w).mpr hz) hx
  · have hp : isPrefix w = false := Bool.eq_false_iff.mpr fun hp => by rw [isPrefix_iff] at hp; omega
    have hop' : w.extractLsb' 24 7 = 0x12#7 := (extractLsb'_eq_iff w 24 _).mpr hop
    have hb' : 11 ≤ (w.extractLsb' 3 7).toNat := by
      rw [BitVec.extractLsb'_toNat, Nat.shiftRight_eq_div_pow]
      exact hb
    rw [decodeUnit_of_not_prefix ws hp, decodeGoverned_illegalOp (high5_ne_of_not_formatX (by rw [hop']; rfl))
      (identify_unary_unassigned _ _ _ hop' hb')]

end Sys2Proof
end

section
/-! PROOF. Registers, latches and TRAPINFO (R41, R47, R89): O38 holds. -/

namespace Sys2Proof.Machine

open Sys2Proof

/-! ## Registers (R41, R47) -/

theorem Thread.reg_of_lt (t : Thread) {n : Nat} (h : n < 120) : t.reg (BitVec.ofNat 7 n) = t.v.getD n (untagged 0) := by
  have hn : (BitVec.ofNat 7 n).toNat = n := Nat.mod_eq_of_lt (a := n) (b := 2 ^ 7) (by omega)
  unfold Thread.reg
  rw [hn, if_pos h]

theorem Thread.setReg_of_lt (t : Thread) {n : Nat} (x : Tagged Word) (h : n < 120) :
    t.setReg n x = { t with v := SMap.set (untagged 0) t.v n x } := if_pos h

theorem Thread.setReg_of_ge (t : Thread) {n : Nat} (x : Tagged Word) (h : 120 ≤ n) : t.setReg n x = t := if_neg (by omega)

theorem Thread.reg_setReg_self (t : Thread) {n : Nat} (x : Tagged Word) (h : n < 120) :
    (t.setReg n x).reg (BitVec.ofNat 7 n) = x := by
  rw [t.setReg_of_lt x h, Thread.reg_of_lt _ h, SMap.getD_set_self]

theorem Thread.reg_setReg_ne (t : Thread) {n k : Nat} (x : Tagged Word) (hk : k < 120) (hne : k ≠ n) :
    (t.setReg n x).reg (BitVec.ofNat 7 k) = t.reg (BitVec.ofNat 7 k) := by
  by_cases h : n < 120
  · rw [t.setReg_of_lt x h, Thread.reg_of_lt _ hk, Thread.reg_of_lt _ hk, SMap.getD_set_ne _ _ _ hne]
  · rw [t.setReg_of_ge x (by omega)]

/-! ## TRAPINFO (R89) -/

theorem causeCode_lt (c : Cause) : causeCode c < 2 ^ 8 := by cases c <;> decide

/-- The bits and the fields of TRAPINFO as a sum of the parts that it is made of. -/
theorem trapInfoWord_toNat (a : TrapArgs) : (trapInfoWord a).toNat = 2 ^ 31 + a.async.toNat * 2 ^ 30 + a.uni.toNat * 2 ^ 29 +
    a.pend.toNat * 2 ^ 28 + a.pos % 8 * 2 ^ 24 + a.vahi % 128 * 2 ^ 17 + causeCode a.cause := by
  have hc := causeCode_lt a.cause
  have hbit : ∀ (b : Bool) (n : Nat), (if b = true then n else 0) = b.toNat * n := by rintro (_ | _) n <;> simp
  have hle := a.async.toNat_le
  have hle' := a.uni.toNat_le
  have hle'' := a.pend.toNat_le
  rw [trapInfoWord, BitVec.toNat_ofNat, hbit, hbit, hbit, Nat.mod_eq_of_lt (by omega)]

theorem Word.getLsbD_eq_of_div {w : Word} {n : Nat} {b : Bool} (h : w.toNat / 2 ^ n % 2 = b.toNat) : w.getLsbD n = b := by
  rw [BitVec.getLsbD, Nat.testBit_eq_decide_div_mod_eq, h]
  cases b <;> rfl

end Sys2Proof.Machine

namespace Sys2Proof

open Machine

/-- Settles O38: a register is read as it was written last, and the parts of TRAPINFO do not overlap. -/
theorem registersAndTrapinfo : Obligations.RegistersAndTrapinfo := by
  unfold Obligations.RegistersAndTrapinfo Claims.RegistersAndTrapinfo
  refine ⟨fun t r x y => ⟨rfl, t.setReg_of_ge x, fun n hn => ⟨t.reg_setReg_self x hn, fun k hk hne => t.reg_setReg_ne x hk hne⟩,
    rfl, rfl, rfl, rfl⟩, fun a => ?_⟩
  have hw := trapInfoWord_toNat a
  have hc := causeCode_lt a.cause
  have hasync := a.async.toNat_le
  have huni := a.uni.toNat_le
  have hpend := a.pend.toNat_le
  have htrue : (1 : Nat) = true.toNat := rfl
  have hfalse : (0 : Nat) = false.toNat := rfl
  refine ⟨Word.getLsbD_eq_of_div ?_, Word.getLsbD_eq_of_div ?_, Word.getLsbD_eq_of_div ?_, Word.getLsbD_eq_of_div ?_,
    Word.getLsbD_eq_of_div ?_, ?_, ?_, ?_, ?_⟩ <;> omega

end Sys2Proof
end

section
/-! PROOF. Units that their guard holds back for all their threads (R51): O33 holds. -/

namespace Sys2Proof.Machine

open Sys2Proof

/-! ## How the words of instructions run -/

/-- How the unit of an instruction word runs in a state: over its threads in slot order, over them in an unstated order, or as the end of
its threads (R128). -/
inductive RunsAs (i : Instr) (s : State) : Prop
  | inOrder (f : Issue → Compute) (h : exec i s = issueUnit i f s)
  | unordered (f : Issue → Compute) (h : exec i s = issueUnordered i f s)
  | ends (c : Ctl) (h : i = .exit c)

/-- Only near atomics and signals act in an unstated order (R171, R172), and only `exit` ends its threads. -/
theorem runsAs_of_shape {i : Instr} {x : Shape} (h : i.shape = some x) (s : State) : RunsAs i s := by
  cases i <;> cases h
  case exit c => exact .ends c rfl
  case natom => exact .unordered _ rfl
  case bsig => exact .unordered _ rfl
  all_goals exact .inOrder _ rfl

/-! ## Units of which no thread takes part (R51) -/

/-- What a unit leaves that its guard holds back for all its threads. The count of free values is the model's own. -/
structure PassedOver (s t : State) (u : Issue) (i : Instr) : Prop where
  only     : OnlyThreads { s with freeCount := t.freeCount } t u
  advanced : Advanced s t u
  pos      : (s.bundle u.bundle).chain.tail ≠ [] → (t.bundle u.bundle).pos = (s.bundle u.bundle).pos + 1
  latches  : ∀ tid ∈ u.tids, t.thread tid = (s.thread tid).pushLatch (guardedOffLatch (s.thread tid) i)

theorem Bundle.after_pos {x : Bundle} (next : Word) (h : x.chain.tail ≠ []) : (x.after next none).pos = x.pos + 1 := by
  simp [Bundle.after, h]

variable {s : State} {u : Issue} {i : Instr}

/-- The state in which a unit's threads run: no unit is being issued, and the model's own count of free values may have advanced. -/
def runState (s : State) (n : Nat) : State := { s with freeCount := n, cur := none }

/-- What becomes of the threads of a unit in which they take no part. -/
def passedThread (s : State) (u : Issue) (i : Instr) : Nat → Thread := unitThread s u i s.thread fun _ => .none

theorem passedThread_eq (n : Nat) {tid : Nat} (h : passes s u i tid = false) :
    passedThread (runState s n) u i tid = (s.thread tid).pushLatch (guardedOffLatch (s.thread tid) i) := by
  have h' : passes (runState s n) u i tid = false := h
  rw [passedThread, unitThread, h']
  rfl

/-- The bundle moved on after a unit of which no thread takes part, whatever the order of the threads. -/
theorem finish_passedOver (h : Issues s u i) (hoff : ∀ tid ∈ u.tids, passes s u i tid = false) {x : Bundle} {n : Nat} {p : Progress}
    {done : List Nat} (hx : s.bundles.find? u.bundle = some x)
    (hp : Prog (runState s n) u x (passedThread (runState s n) u i) p done) (hdone : ∀ tid, tid ∈ done ↔ tid ∈ u.tids) :
    PassedOver s (finish u p) u i := by
  obtain ⟨b, hb, htids, -⟩ := h.bundle
  obtain rfl : x = b := Option.some.inj (hx.symm.trans hb)
  have hlatch := fun tid (ht : tid ∈ u.tids) => passedThread_eq n (hoff tid ht)
  obtain ⟨honly, hfin, hbun, hcur⟩ := finish_advances hp htids (fun tid => (hdone tid).mpr) (fun tid => (hdone tid).mp)
    (fun tid ht => by rw [hlatch tid ht]; exact h.free tid ht) h.alive
  have hsx : s.bundle u.bundle = x := by simp [State.bundle, SMap.getD, hx]
  have hrest : SameBut { s with freeCount := n } (finish u p) := SameBut.of_clear (s := { s with freeCount := n }) honly.rest
  have hn : n = (finish u p).freeCount := (congrArg State.freeCount hrest).symm
  refine ⟨⟨hn ▸ hrest, honly.threads, honly.bundles⟩, ?_, ?_, fun tid ht => (hfin tid ht).trans (hlatch tid ht)⟩
  · unfold Advanced
    rw [hbun, hsx]
    exact ⟨htids, rfl, rfl, rfl, hcur⟩
  · rw [hbun, hsx]
    exact Bundle.after_pos u.next

/-- In slot order, or for a uniform unit, of which only its source is asked. -/
theorem runAll_passedOver (h : Issues s u i) (hoff : ∀ tid ∈ u.tids, passes s u i tid = false) (f : Compute) (n : Nat) {x : Bundle}
    (hx : s.bundles.find? u.bundle = some x) :
    Prog (runState s n) u x (passedThread (runState s n) u i) (runAll u i f (runState s n) id) u.tids := by
  obtain ⟨b, hb, -, hfin⟩ := h.bundle
  obtain rfl : x = b := Option.some.inj (hx.symm.trans hb)
  exact runAll_completes (s := runState s n) hx hfin h.distinct h.someone h.clean fun tid ht _ hp => absurd (hp.symm.trans (hoff tid ht)) nofun

/-- A unit none of whose threads has been run. -/
theorem Prog.start {x : Bundle} {fin : Nat → Thread} (hx : s.bundles.find? u.bundle = some x) :
    Prog s u x fin ⟨s, [], false⟩ [] :=
  ⟨rfl, rfl, rfl, by rw [hx, List.append_nil], fun _ _ => rfl, rfl, fun _ h => absurd h List.not_mem_nil, fun _ _ => rfl⟩

/-- The order that a number chooses holds the same threads. -/
theorem pickOrder_perm (n : Nat) (l : List Nat) : (pickOrder l.length n l).Perm l := by
  suffices ∀ fuel n l, l.length = fuel → (pickOrder fuel n l).Perm l from this _ n l rfl
  intro fuel
  induction fuel with
  | zero =>
    intro n l hl
    rw [List.length_eq_zero_iff.mp hl]
    exact .refl _
  | succ fuel ih =>
    intro n l hl
    match l with
    | [] => exact .refl _
    | [x] => exact .refl _
    | x :: y :: r =>
      have hk : n % (x :: y :: r).length < (x :: y :: r).length := Nat.mod_lt _ (Nat.zero_lt_succ _)
      have hrest := ih (n / (x :: y :: r).length) ((x :: y :: r).eraseIdx (n % (x :: y :: r).length))
        (by rw [List.length_eraseIdx_of_lt hk, hl]; rfl)
      rw [pickOrder, List.getD_eq_getElem _ _ hk]
      exact (hrest.cons _).trans (List.getElem_cons_eraseIdx_perm hk)

/-- A thread that its guard holds back neither traps nor kills. -/
theorem stopsUnit_of_not_passes (hk : i.ctl.k = false) (f : Compute) {tid : Nat} (hclean : (s.thread tid).guardClean i = true)
    (hoff : passes s u i tid = false) : stopsUnit i f s tid = false := by
  have hsrc : sourceOf u i tid = tid := by simp [sourceOf, hk]
  unfold passes at hoff
  rw [hsrc] at hoff
  unfold stopsUnit
  cases hg : (s.thread tid).guard i with
  | none => simp [hg] at hoff
  | some g =>
    simp only [hg] at hoff
    simp only [Thread.guardClean, hg] at hclean
    simpa [hoff] using hclean

/-- Of threads that are all held back none is put first, and all stay in the order. -/
theorem unstatedOrder_perm (hk : i.ctl.k = false) (hclean : ∀ tid ∈ u.tids, (s.thread tid).guardClean i = true)
    (hoff : ∀ tid ∈ u.tids, passes s u i tid = false) (f : Compute) (n : Nat) : (unstatedOrder i f s n u.tids).Perm u.tids := by
  have hgo : ∀ tid ∈ u.tids, stopsUnit i f s tid = false := fun tid ht => stopsUnit_of_not_passes hk f (hclean tid ht) (hoff tid ht)
  have hstop : u.tids.filter (stopsUnit i f s) = [] := List.filter_eq_nil_iff.mpr fun tid ht => by simp [hgo tid ht]
  have hrest : (u.tids.filter fun tid => !stopsUnit i f s tid) = u.tids := List.filter_eq_self.mpr fun tid ht => by simp [hgo tid ht]
  unfold unstatedOrder
  rw [hstop, hrest]
  exact pickOrder_perm n u.tids

theorem issueUnit_passedOver (h : Issues s u i) (hoff : ∀ tid ∈ u.tids, passes s u i tid = false) (f : Issue → Compute) :
    ∃ t, issueUnit i f s = .next t ∧ PassedOver s t u i := by
  obtain ⟨x, hx, -, -⟩ := h.bundle
  refine ⟨runUnit u i (f u) { s with cur := none }, by rw [issueUnit, h.cur], ?_⟩
  exact finish_passedOver h hoff hx (runAll_passedOver h hoff (f u) s.freeCount hx) fun _ => .rfl

theorem runAll_lane (hk : i.ctl.k = false) (f : Compute) (order : List Nat → List Nat) (hfin : (s.bundle u.bundle).finished = []) :
    runAll u i f s order = (order u.tids).foldl (fun p tid => runThread u i f p tid [tid]) ⟨s, [], false⟩ := by
  simp [runAll, hk, hfin]

/-- In an unstated order. -/
theorem runAll_unstated_passedOver (h : Issues s u i) (hoff : ∀ tid ∈ u.tids, passes s u i tid = false) (hk : i.ctl.k = false)
    (f : Compute) (k n : Nat) {x : Bundle} (hx : s.bundles.find? u.bundle = some x) :
    Prog (runState s n) u x (passedThread (runState s n) u i) (runAll u i f (runState s n) (unstatedOrder i f (runState s n) k))
      (unstatedOrder i f (runState s n) k u.tids) := by
  obtain ⟨b, hb, -, hfin⟩ := h.bundle
  obtain rfl : x = b := Option.some.inj (hx.symm.trans hb)
  have hnone : ((runState s n).bundle u.bundle).finished = [] := by
    rw [show (runState s n).bundle u.bundle = x by simp [runState, State.bundle, SMap.getD, hx], hfin]
  have hperm := unstatedOrder_perm (s := runState s n) hk h.clean hoff f k
  rw [runAll_lane hk f _ hnone]
  exact foldThreads_completes (s := runState s n) hk _ (hperm.nodup_iff.mpr h.distinct)
    (fun tid ht => h.clean tid (hperm.mem_iff.mp ht))
    (fun tid ht hpass => absurd (hpass.symm.trans (hoff tid (hperm.mem_iff.mp ht))) nofun) _ [] (Prog.start hx) fun _ _ => List.not_mem_nil

theorem issueUnordered_passedOver (h : Issues s u i) (hoff : ∀ tid ∈ u.tids, passes s u i tid = false) (f : Issue → Compute) :
    ∃ t, issueUnordered i f s = .next t ∧ PassedOver s t u i := by
  obtain ⟨x, hx, -, -⟩ := h.bundle
  refine ⟨runUnordered u i (f u) { s with cur := none }, by rw [issueUnordered, h.cur], ?_⟩
  unfold runUnordered
  split
  · exact finish_passedOver h hoff hx (runAll_passedOver h hoff (f u) s.freeCount hx) fun _ => .rfl
  · rename_i hlane
    have hk : i.ctl.k = false := by
      cases hk : i.ctl.k with
      | false => rfl
      | true => simp [hk] at hlane
    exact finish_passedOver h hoff hx (runAll_unstated_passedOver h hoff hk (f u) _ (s.freeCount + 1) hx) fun _ =>
      (unstatedOrder_perm (s := runState s (s.freeCount + 1)) hk h.clean hoff (f u) _).mem_iff

theorem leaveAll_nil (s : State) : leaveAll s [] = s := by
  simp [leaveAll]

/-- `exit` of threads that all stay: none of them has ended, so that no mask is left and no convergence set. -/
theorem execExit_passedOver {c : Ctl} (h : Issues s u (.exit c)) (hoff : ∀ tid ∈ u.tids, passes s u (.exit c) tid = false) :
    ∃ t, execExit c s = .next t ∧ PassedOver s t u (.exit c) := by
  obtain ⟨x, hx, -, -⟩ := h.bundle
  have hp := runAll_passedOver h hoff (fun s tid _ => if mayExit s tid then (.moved, endNow s tid) else (.hold, s)) s.freeCount hx
  unfold execExit
  rw [h.cur]
  refine ⟨_, rfl, ?_⟩
  change Prog _ _ _ _ (runAll u (.exit c) _ { s with cur := none } id) _ at hp
  generalize runAll u (.exit c) _ { s with cur := none } id = p at hp ⊢
  have hgone : (u.tids.filter fun tid => (p.st.thread tid).place == .ended) = [] := by
    refine List.filter_eq_nil_iff.mpr fun tid ht => ?_
    rw [hp.after tid ht, passedThread_eq _ (hoff tid ht), show ((s.thread tid).pushLatch _).place = _ from h.placed tid ht]
    nofun
  rw [hgone, leaveAll_nil]
  exact finish_passedOver h hoff hx hp fun _ => .rfl

/-- A unit of any instruction word of which no thread takes part. -/
theorem exec_passedOver {x : Shape} (hi : i.shape = some x) (h : Issues s u i) (hoff : ∀ tid ∈ u.tids, passes s u i tid = false) :
    ∃ t, exec i s = .next t ∧ PassedOver s t u i := by
  cases runsAs_of_shape hi s with
  | inOrder f e => rw [e]; exact issueUnit_passedOver h hoff f
  | unordered f e => rw [e]; exact issueUnordered_passedOver h hoff f
  | ends c e =>
    subst e
    exact execExit_passedOver h hoff

end Sys2Proof.Machine

namespace Sys2Proof

open Machine

/-- Settles O33: every instruction word runs its unit over its threads, in slot order, in an unstated one or as their end, and in each of
these a thread that its guard holds back takes its latch and nothing else. -/
theorem guardedOffUnitsPass : Obligations.GuardedOffUnitsPass := by
  unfold Obligations.GuardedOffUnitsPass Claims.GuardedOff
  intro s u i hi h hoff
  obtain ⟨x, hx⟩ := Option.isSome_iff_exists.mp hi
  obtain ⟨t, hexec, honly, hadv, hpos, hlatch⟩ := exec_passedOver hx h hoff
  exact ⟨t, hexec, honly, hadv, hpos, hlatch⟩

end Sys2Proof
end

section
/-! PROOF. Branches, calls and returns with which a bundle goes whole to one address (R46, R119, R120, R159): O13 holds. -/

namespace Sys2Proof.Machine

open Sys2Proof

/-! ## Targets and return addresses (R46, R120) -/

theorem branchTarget_eq (u : Issue) (off : BitVec 18) : branchTarget u off = Claims.target u off := by
  have hoff : BitVec.ofInt 32 (4 * off.toInt) = off.signExtend 32 * 4 := by
    rw [BitVec.ofInt_mul, BitVec.mul_comm, BitVec.signExtend]
    rfl
  rw [branchTarget, Claims.target, BitVec.ofInt_add, hoff, BitVec.ofInt_natCast, BitVec.ofNat_toNat, BitVec.setWidth_eq]

theorem returnAddress_eq (x : Word) : x + 4 = BitVec.ofNat 32 (x.toNat + 4) := by
  rw [BitVec.ofNat_add, BitVec.ofNat_toNat, BitVec.setWidth_eq]
  rfl

theorem spillDepth_same {s t : State} (h : SameBut s t) (tid : Nat) : t.spillDepth tid = s.spillDepth tid := by
  unfold SameBut at h
  rw [← h]
  rfl

/-! ## Units that jump (R119, R120) -/

/-- A unit's computation for a thread jumps, and changes nothing but the thread, which is then `x`. -/
def Jumps (s : State) (f : Compute) (src : Nat) (pc : Word) (x : Thread) : Prop :=
  ∀ g s', SameBut s s' → s'.thread src = s.thread src →
    f s' src g = (.jump pc, s') ∧ x = s.thread src ∨ f s' src g = (.jump pc, s'.setThread src x)

variable {s : State} {u : Issue} {i : Instr} {tid : Nat} {pc : Word} {x : Thread}

theorem goBranch_jumps (s : State) (u : Issue) (off : BitVec 18) (tid : Nat) :
    Jumps s (fun s tid _ => goBranch off u s tid) tid (Claims.target u off) (s.thread tid) := by
  intro g s' _ _
  exact .inl ⟨congrArg (fun a => (UnitResult.jump a, s')) (branchTarget_eq u off), rfl⟩

/-- A thread with a return address pushed. -/
def pushed (t : Thread) (u : Issue) : Thread := { t with
  sp := t.sp + 1, spill := SMap.set (untagged 0) t.spill t.sp (untagged (BitVec.ofNat 32 (u.addr.toNat + 4))) }

theorem goCall_jumps (u : Issue) (off : BitVec 18) (h : (s.thread tid).sp + 1 ≤ s.spillDepth tid) :
    Jumps s (fun s tid _ => goCall off u s tid) tid (Claims.target u off) (pushed (s.thread tid) u) := by
  intro g s' hs ht
  refine .inr ?_
  dsimp only [goCall]
  rw [ht, spillDepth_same hs, if_neg (by omega), branchTarget_eq, returnAddress_eq]
  rfl

/-- A tested branch jumps where its predicate is clean and not N. -/
theorem tested_jumps {g : BitVec 5} {n : Bool} {go : State → Nat → UnitResult × State}
    (h : (!((s.thread tid).pred g).tag.poison && xor ((s.thread tid).pred g).val n) = true)
    (hgo : Jumps s (fun s tid _ => go s tid) tid pc x) :
    Jumps s (fun s tid _ =>
      let p := (s.thread tid).pred g
      if p.tag.poison then (.kill (if p.val then 1 else 0), s)
      else if p.val != n then go s tid
      else (.done .none, s)) tid pc x := by
  obtain ⟨hp, hv⟩ := Bool.and_eq_true_iff.mp h
  intro tag s' hs ht
  have := hgo tag s' hs ht
  rw [← ht] at hp hv
  dsimp only
  rwa [if_neg (by simpa using hp), if_pos hv]

/-- Where an instruction jumps (`Claims.jumpOf`), its unit's computation does. -/
theorem exec_jumps (h : ∃ tid, (Claims.jumpOf i s u tid).isSome = true) : ∃ f, (∀ s', exec i s' = issueUnit i f s') ∧
    ∀ tid pc x, Claims.jumpOf i s u tid = some (pc, x) → Jumps s (f u) tid pc x ∧ x.request = (s.thread tid).request := by
  cases i with
  | bra c g n off =>
    refine ⟨_, fun _ => rfl, fun tid pc x hx => ?_⟩
    simp only [Claims.jumpOf] at hx
    split at hx <;> cases hx
    exact ⟨tested_jumps ‹_› (goBranch_jumps s u off tid), rfl⟩
  | braAlways c off =>
    refine ⟨_, fun _ => rfl, fun tid pc x hx => ?_⟩
    cases hx
    exact ⟨goBranch_jumps s u off tid, rfl⟩
  | call c g n off =>
    refine ⟨_, fun _ => rfl, fun tid pc x hx => ?_⟩
    simp only [Claims.jumpOf] at hx
    split at hx <;> cases hx
    rename_i hc
    obtain ⟨htest, hdepth⟩ := Bool.and_eq_true_iff.mp hc
    exact ⟨tested_jumps htest (goCall_jumps u off (of_decide_eq_true hdepth)), rfl⟩
  | callAlways c off =>
    refine ⟨_, fun _ => rfl, fun tid pc x hx => ?_⟩
    simp only [Claims.jumpOf] at hx
    split at hx <;> cases hx
    exact ⟨goCall_jumps u off ‹_›, rfl⟩
  | ret c =>
    refine ⟨_, fun _ => rfl, fun tid pc x hx => ?_⟩
    simp only [Claims.jumpOf] at hx
    split at hx <;> cases hx
    rename_i hc
    obtain ⟨hsp, hp, ha⟩ := hc
    refine ⟨fun g s' _ ht => .inr ?_, rfl⟩
    rw [← ht] at hsp hp ha ⊢
    dsimp only
    rw [if_neg (by omega), if_neg (by simp [hp]), if_neg (by simp [ha])]
  | brx c a =>
    refine ⟨_, fun _ => rfl, fun tid pc x hx => ?_⟩
    simp only [Claims.jumpOf] at hx
    split at hx <;> cases hx
    rename_i hc
    obtain ⟨hp, ha⟩ := hc
    refine ⟨fun g s' _ ht => .inl ⟨?_, rfl⟩, rfl⟩
    rw [← ht] at hp ha ⊢
    dsimp only
    rw [if_neg (by simp [hp]), if_neg (by simp [ha])]
  | _ =>
    obtain ⟨_, h⟩ := h
    cases h

/-- The computation of a unit with its jumps as completions, whose effect on the thread they have. -/
def staying (f : Compute) : Compute := fun s tid g =>
  match f s tid g with
  | (.jump _, s') => (.done .none, s')
  | r => r

theorem Jumps.staying_completes {f : Compute} (h : Jumps s f tid pc x) (g : Tag) : Completes s (staying f) tid g x .none := by
  intro s' hs ht
  unfold staying
  obtain ⟨e, rfl⟩ | e := h g s' hs ht <;> rw [e]
  · exact ⟨s', rfl, rfl, rfl, rfl, ht, fun _ _ => rfl⟩
  · exact ⟨_, rfl, rfl, rfl, rfl, State.thread_setThread_self s' tid x, fun k hk => State.thread_setThread_ne s' x hk⟩

/-- The threads done that jump, and the unit but for that. -/
structure Jumping (s : State) (u : Issue) (b : Bundle) (fin : Nat → Thread) (pc : Word) (p : Progress) (done : List Nat) : Prop where
  jumps : p.jumps = done.map fun tid => (tid, pc)
  prog  : Prog s u b fin { p with jumps := [] } done

/-- The delivery of a jump is that of an empty result, with the targets noted. -/
theorem deliver_jump (u : Issue) (i : Instr) (p : Progress) (src : Nat) (targets : List Nat) (pc : Word) (s : State) :
    deliver u i p src targets (.jump pc, s) =
      { deliver u i { p with jumps := [] } src targets (.done .none, s) with jumps := p.jumps ++ targets.map fun tid => (tid, pc) } := by
  rfl

/-- What a unit with which all threads jump leaves of each: `x` is the source thread after the unit's own effect on it. -/
def jumpThread (s : State) (u : Issue) (i : Instr) (x : Nat → Thread) : Nat → Thread := unitThread s u i x fun _ => .none

theorem jumpThread_eq {x : Nat → Thread} (h : passes s u i tid = true) :
    jumpThread s u i x tid = (if tid = sourceOf u i tid then x tid else s.thread tid).pushLatch (untagged 0) := by
  rw [jumpThread, unitThread, if_pos h]
  rfl

/-- A thread that takes part has the unit's computation delivered. -/
theorem runThread_passes (f : Compute) {p : Progress} {src : Nat} (hheld : p.held = false) (hsrc : sourceOf u i src = src)
    (ht : p.st.thread src = s.thread src) (hpass : passes s u i src = true) (hclean : (s.thread src).guardClean i = true)
    (targets : List Nat) : runThread u i f p src targets = deliver u i p src targets (f p.st src (guardTag s u i src)) := by
  unfold runThread
  rw [hheld, ht, if_neg Bool.false_ne_true]
  dsimp only
  cases hg : (s.thread src).guard i with
  | none => simp only [(passes_none (u := u) (tid := src) (by rw [hsrc]; exact hg)).2]
  | some g =>
    obtain ⟨hval, htag⟩ := passes_some (u := u) (tid := src) (by rw [hsrc]; exact hg)
    have hv : g.val = true := hval.symm.trans hpass
    have hp : g.tag.poison = false := by simpa [Thread.guardClean, hg] using hclean
    simp only [hv, hp, htag, Bool.false_eq_true, if_false, if_true]

/-- A jump is delivered as a completion is, and the target noted. -/
theorem runThread_staying {f : Compute} {p : Progress} {src : Nat} (hheld : p.held = false) (hsrc : sourceOf u i src = src)
    (hs : SameBut s p.st) (ht : p.st.thread src = s.thread src) (hpass : passes s u i src = true)
    (hclean : (s.thread src).guardClean i = true) (hf : Jumps s f src pc x) (targets : List Nat) :
    runThread u i f p src targets = { runThread u i (staying f) { p with jumps := [] } src targets with
      jumps := p.jumps ++ targets.map fun tid => (tid, pc) } := by
  rw [runThread_passes f hheld hsrc ht hpass hclean targets,
    runThread_passes (staying f) (p := { p with jumps := [] }) hheld hsrc ht hpass hclean targets]
  unfold staying
  obtain ⟨e, -⟩ | e := hf (guardTag s u i src) p.st hs ht <;> rw [e] <;> exact deliver_jump u i p src targets pc _

/-- The threads `targets` of a unit whose source is `src` jump after the others. -/
theorem runThread_jumps {f : Compute} {b : Bundle} {xs : Nat → Thread} {p : Progress} {done targets : List Nat} {src : Nat}
    (hp : Jumping s u b (jumpThread s u i xs) pc p done) (hmem : src ∈ targets) (hall : ∀ tid ∈ targets, sourceOf u i tid = src)
    (hnd : targets.Nodup) (hdis : ∀ tid ∈ targets, tid ∉ done) (hclean : (s.thread src).guardClean i = true)
    (hpass : passes s u i src = true) (hf : Jumps s f src pc (xs src)) :
    Jumping s u b (jumpThread s u i xs) pc (runThread u i f p src targets) (done ++ targets) := by
  obtain ⟨hjumps, hprog⟩ := hp
  have hsrc := hdis src hmem
  rw [runThread_staying (p := p) hprog.held (hall src hmem) hprog.same (hprog.before src hsrc) hpass hclean hf]
  refine ⟨by rw [hjumps, List.map_append], ?_⟩
  have hnext := runThread_completes hprog hsrc hmem hall hnd hdis hclean fun _ => hf.staying_completes _
  generalize runThread u i (staying f) { p with jumps := [] } src targets = q at hnext
  obtain ⟨st, jumps, held⟩ := q
  obtain rfl : jumps = [] := hnext.jumps
  exact hnext

/-- The threads of a lane unit jump one after another. -/
theorem foldThreads_jumps {f : Compute} {b : Bundle} {xs : Nat → Thread} (hk : i.ctl.k = false) (l : List Nat) (hl : l.Nodup)
    (hclean : ∀ tid ∈ l, (s.thread tid).guardClean i = true) (hpass : ∀ tid ∈ l, passes s u i tid = true)
    (hf : ∀ tid ∈ l, Jumps s f tid pc (xs tid)) (p : Progress) (done : List Nat)
    (hp : Jumping s u b (jumpThread s u i xs) pc p done) (hdis : ∀ tid ∈ l, tid ∉ done) :
    Jumping s u b (jumpThread s u i xs) pc (l.foldl (fun p tid => runThread u i f p tid [tid]) p) (done ++ l) := by
  induction l generalizing p done with
  | nil => simpa using hp
  | cons a l ih =>
    obtain ⟨hal, hl⟩ := List.nodup_cons.mp hl
    obtain ⟨hca, hcl⟩ := List.forall_mem_cons.mp hclean
    obtain ⟨hpa, hpl⟩ := List.forall_mem_cons.mp hpass
    obtain ⟨hfa, hfl⟩ := List.forall_mem_cons.mp hf
    obtain ⟨hda, hdl⟩ := List.forall_mem_cons.mp hdis
    have hstep := runThread_jumps (targets := [a]) hp List.mem_cons_self (by simp [sourceOf, hk]) (List.nodup_singleton a) (by simpa using hda)
      hca hpa hfa
    have hrest := ih hl hcl hpl hfl _ _ hstep fun tid ht => by
      rw [List.mem_append, List.mem_singleton, not_or]
      exact ⟨hdl tid ht, fun e => hal (e ▸ ht)⟩
    rwa [List.append_assoc] at hrest

/-- All threads of a unit jump. -/
theorem runAll_jumps {f : Compute} {b : Bundle} {xs : Nat → Thread} (hb : s.bundles.find? u.bundle = some b) (hfin : b.finished = [])
    (hnd : u.tids.Nodup) (hne : u.tids ≠ []) (hclean : ∀ tid ∈ u.tids, (s.thread tid).guardClean i = true)
    (hpass : ∀ tid ∈ u.tids, passes s u i tid = true) (hf : ∀ tid ∈ u.tids, sourceOf u i tid = tid → Jumps s f tid pc (xs tid)) :
    Jumping s u b (jumpThread s u i xs) pc (runAll u i f s id) u.tids := by
  have hstart : Jumping s u b (jumpThread s u i xs) pc ⟨s, [], false⟩ [] :=
    ⟨rfl, Prog.start hb⟩
  have hnone : (s.bundle u.bundle).finished = [] := by simp [State.bundle, SMap.getD, hb, hfin]
  unfold runAll
  cases hk : i.ctl.k with
  | false =>
    simpa [hnone] using foldThreads_jumps hk u.tids hnd hclean hpass (fun tid ht => hf tid ht (by simp [sourceOf, hk])) _ [] hstart
      fun _ _ => List.not_mem_nil
  | true =>
    cases ht : u.tids with
    | nil => exact absurd ht hne
    | cons src rest =>
      have hsrc : src ∈ u.tids := ht ▸ List.mem_cons_self
      have hself : ∀ tid, sourceOf u i tid = src := fun tid => by simp [sourceOf, hk, ht]
      simpa [hnone] using runThread_jumps (targets := src :: rest) hstart List.mem_cons_self (fun tid _ => hself tid) (ht ▸ hnd)
        (fun _ _ => List.not_mem_nil) (hclean src hsrc) (hpass src hsrc) (hf src hsrc (hself src))

/-- The bundle goes whole to the target that all its threads have. -/
theorem settleJumps_whole {p : Progress} {tids : List Nat} (hjumps : p.jumps = tids.map fun tid => (tid, pc)) (htids : u.tids = tids)
    (hne : tids ≠ []) : settleJumps u p = (p.st, some pc) := by
  subst htids
  unfold settleJumps
  rw [hjumps]
  cases ht : u.tids with
  | nil => exact absurd ht hne
  | cons a l => simp

/-- The bundle after a unit with which all its threads jump to one address. -/
theorem finish_jumps {b : Bundle} {fin : Nat → Thread} {p : Progress} (hp : Jumping s u b fin pc p u.tids) (htids : b.tids = u.tids)
    (hne : u.tids ≠ []) (hfree : ∀ tid ∈ u.tids, (fin tid).request = none) (halive : ∀ tid ∈ u.tids, s.isKilled tid = false) :
    finish u p = putBundle p.st u.bundle (b.after u.next (some pc)) := by
  obtain ⟨hjumps, hprog⟩ := hp
  unfold finish
  rw [show p.held = false from hprog.held, if_neg Bool.false_ne_true, settleJumps_whole hjumps rfl hne]
  have hclose := closeUnit_open p.st u (some pc) _ hprog.bundle (fun tid ht => by
      rw [show p.st.thread tid = fin tid from hprog.after tid (htids ▸ ht)]
      exact hfree tid (htids ▸ ht)) fun tid ht => by
      rw [isKilled_same hprog.same tid]
      exact halive tid (htids ▸ ht)
  exact hclose

/-- A unit with which all threads of its bundle jump to one address. -/
theorem issueUnit_jumps {f : Issue → Compute} {xs : Nat → Thread} (h : Issues s u i) (hpass : ∀ tid ∈ u.tids, passes s u i tid = true)
    (hx : ∀ tid ∈ u.tids, (xs tid).request = none) (hf : ∀ tid ∈ u.tids, sourceOf u i tid = tid → Jumps s (f u) tid pc (xs tid)) :
    ∃ t, issueUnit i f s = .next t ∧ OnlyThreads s t u ∧ t.cur = none ∧
      t.bundles.find? u.bundle = some ((s.bundle u.bundle).after u.next (some pc)) ∧
      ∀ tid ∈ u.tids, t.thread tid = (if tid = sourceOf u i tid then xs tid else s.thread tid).pushLatch (untagged 0) := by
  obtain ⟨b, hb, htids, hfin⟩ := h.bundle
  have hrun := runAll_jumps (s := { s with cur := none }) (f := f u) (xs := xs) (pc := pc) hb hfin h.distinct h.someone h.clean hpass
    fun tid ht hs g s' h1 h2 => hf tid ht hs g s' (SameBut.of_clear h1) h2
  have hthread : ∀ tid ∈ u.tids, jumpThread { s with cur := none } u i xs tid =
      (if tid = sourceOf u i tid then xs tid else s.thread tid).pushLatch (untagged 0) := fun tid ht => jumpThread_eq (hpass tid ht)
  have hend := finish_jumps hrun htids h.someone (fun tid ht => by
    rw [hthread tid ht]
    split
    · exact hx tid ht
    · exact h.free tid ht) h.alive
  obtain ⟨-, hprog⟩ := hrun
  refine ⟨_, by rw [issueUnit, h.cur], ?_⟩
  rw [runUnit, hend]
  refine ⟨⟨SameBut.bundles (SameBut.of_clear hprog.same) _, hprog.before, fun c hc => ?_⟩, hprog.cur, ?_, fun tid ht =>
    (hprog.after tid ht).trans (hthread tid ht)⟩
  · exact (SMap.find?_insert_ne _ _ hc).trans (hprog.others c hc)
  · simp [putBundle, State.bundle, SMap.getD, hb]

/-- The thread that jumps, as it leaves the unit. -/
def jumper (s : State) (u : Issue) (i : Instr) (tid : Nat) : Thread := ((Claims.jumpOf i s u tid).map (·.2)).getD (s.thread tid)

theorem jumper_eq (h : Claims.jumpOf i s u tid = some (pc, x)) : jumper s u i tid = x := by
  rw [jumper, h]
  rfl

end Sys2Proof.Machine

namespace Sys2Proof

open Machine

/-- Settles O13: each of these units only jumps, so that the threads of a bundle that go to one address leave it together there. -/
theorem branchesTaken : Obligations.BranchesTaken := by
  unfold Obligations.BranchesTaken Claims.BranchTaken
  intro s u i pc h hall
  obtain ⟨src, hsrc⟩ := List.exists_mem_of_ne_nil _ h.someone
  obtain ⟨-, x0, hx0⟩ := hall src hsrc
  obtain ⟨f, hexec, hjumps⟩ := exec_jumps (s := s) (u := u) (i := i) ⟨_, by rw [hx0]; rfl⟩
  have hfree : ∀ tid ∈ u.tids, (jumper s u i tid).request = none := fun tid ht => by
    unfold jumper
    cases hx : Claims.jumpOf i s u tid with
    | none => exact h.free tid ht
    | some y => exact (hjumps tid y.1 y.2 hx).2.trans (h.free tid ht)
  have hf : ∀ tid ∈ u.tids, sourceOf u i tid = tid → Jumps s (f u) tid pc (jumper s u i tid) := fun tid ht hs => by
    obtain ⟨-, x, hx⟩ := hall tid ht
    rw [hs] at hx
    exact jumper_eq hx ▸ (hjumps tid pc x hx).1
  obtain ⟨t, ht, honly, hcur, hbundle, hthread⟩ := issueUnit_jumps h (fun tid ht => (hall tid ht).1) hfree hf
  refine ⟨t, (hexec s).trans ht, honly, hcur, hbundle, fun tid ht x hx hs => ?_⟩
  rw [hthread tid ht, if_pos hs.symm, jumper_eq hx]

end Sys2Proof
end

section
/-! PROOF. A step runs the decoded instruction (R38, R53, R54, R135, R190): O32 holds. -/

namespace Sys2Proof.Machine

open Sys2Proof

/-! ## A unit whose threads have nothing out of its place (R175, R180, R190) -/

theorem foldl_fixed_of_mem {α β : Type} {f : α → β → α} {a : α} {l : List β} (h : ∀ b ∈ l, f a b = a) : l.foldl f a = a := by
  induction l with
  | nil => rfl
  | cons b l ih =>
    obtain ⟨hb, hl⟩ := List.forall_mem_cons.mp h
    rw [List.foldl_cons, hb, ih hl]

theorem drainLate_eq_self {s : State} {p : LateStore → Bool} (h : ∀ e ∈ s.late, p e = false) : drainLate s p = s := by
  have hnone : s.late.filter p = [] := List.filter_eq_nil_iff.mpr fun e he => by simp [h e he]
  have hall : (s.late.filter fun e => !p e) = s.late := List.filter_eq_self.mpr fun e he => by simp [h e he]
  rw [drainLate, hnone, hall]
  rfl

theorem dropEarly_eq_self {s : State} {p : EarlyLoad → Bool} (h : ∀ e ∈ s.early, p e = false) : dropEarly s p = s := by
  have hall : (s.early.filter fun e => !p e) = s.early := List.filter_eq_self.mpr fun e he => by simp [h e he]
  rw [dropEarly, hall]

/-- Only a thread's own late stores are needed by its access. -/
theorem neededLate_tid {tid key n : Nat} {l : List LateStore} {e : LateStore} (h : e ∈ neededLate tid key n l) : e ∈ l ∧ e.tid = tid := by
  induction l with
  | nil => cases h
  | cons a l ih =>
    rw [neededLate] at h
    split at h
    · rename_i hc
      obtain rfl | h := List.mem_cons.mp h
      · exact ⟨List.mem_cons_self, of_decide_eq_true (Bool.and_eq_true_iff.mp hc).1⟩
      · exact ⟨List.mem_cons_of_mem _ (ih h).1, (ih h).2⟩
    · exact ⟨List.mem_cons_of_mem _ (ih h).1, (ih h).2⟩

/-- No access of a thread is out of its place. -/
structure InPlace (s : State) (tid : Nat) : Prop where
  late  : ∀ e ∈ s.late, e.tid ≠ tid
  early : ∀ e ∈ s.early, e.tid ≠ tid

namespace InPlace

variable {s : State} {tid : Nat}

theorem drainLate (h : InPlace s tid) (p : LateStore → Bool) : drainLate s (fun e => decide (e.tid = tid) && p e) = s :=
  drainLate_eq_self fun e he => by simp [h.late e he]

theorem dropEarly (h : InPlace s tid) (p : EarlyLoad → Bool) : dropEarly s (fun e => decide (e.tid = tid) && p e) = s :=
  dropEarly_eq_self fun e he => by simp [h.early e he]

theorem releaseNear (h : InPlace s tid) : releaseNear s tid = s := drainLate_eq_self fun e he => by simp [h.late e he]

theorem acquireAll (h : InPlace s tid) : acquireAll s tid = s := dropEarly_eq_self fun e he => by simp [h.early e he]

theorem acquireUpTo (h : InPlace s tid) (r : Nat) : acquireUpTo s tid r = s := h.dropEarly _

theorem passFence (h : InPlace s tid) : passFence s tid = s := h.drainLate _

theorem fenceNear (h : InPlace s tid) : fenceNear s tid = s := by
  have hmap : (s.late.map fun e => if e.tid = tid then { e with fenced := true } else e) = s.late := by
    refine (List.map_congr_left fun e he => ?_).trans (List.map_id _)
    rw [if_neg (h.late e he)]
    rfl
  rw [Machine.fenceNear, h.drainLate, hmap]

theorem settleBytes (h : InPlace s tid) (key n : Nat) : settleBytes s tid key n = s := by
  rw [Machine.settleBytes, drainLate_eq_self, h.dropEarly]
  intro e he
  rw [Bool.eq_false_iff, ne_eq, List.contains_iff_mem]
  exact fun hn => h.late e he (neededLate_tid hn).2

theorem releaseFor (h : InPlace s tid) (i : Instr) : releaseFor s tid i = s := by
  unfold Machine.releaseFor
  split
  · exact h.releaseNear
  · split
    · exact h.fenceNear
    · split
      · exact h.passFence
      · rfl

theorem acquireBy (h : InPlace s tid) (i : Instr) (l : List Touch) : acquireBy s tid i l = s := by
  have hat : ∀ p : Touch → Bool, l.foldl (fun s x => if p x then Machine.acquireUpTo s tid (nearRank s tid x.key) else s) s = s :=
    fun p => List.foldl_fixed' (fun x => by
      split
      · exact h.acquireUpTo _
      · rfl) l
  unfold Machine.acquireBy
  split
  · exact h.acquireAll
  · exact h.acquireAll
  · split
    · exact hat _
    · rfl
  · exact hat _
  · split
    · rfl
    · exact h.acquireUpTo _
  · rfl

theorem orderThread (h : InPlace s tid) (i : Instr) (late : Bool) (l : List Touch) : orderThread i late l s tid = s := by
  unfold Machine.orderThread
  rw [h.releaseFor]
  dsimp only
  split
  · rfl
  · rw [List.foldl_fixed' fun x => h.settleBytes x.key x.size, h.acquireBy]

end InPlace

theorem detectLine_eq_self {s : State} (h : s.latent = []) (k : Nat) : detectLine s k = s := by
  unfold detectLine
  rw [h]
  rfl

theorem senseTouch_eq_self {s : State} (h : s.latent = []) (late : Bool) (tid : Nat) (x : Touch) : senseTouch late tid s x = s := by
  have hsense : senseNear s x.key x.size = s := List.foldl_fixed' (detectLine_eq_self h) _
  have hmend : mendWords s x.key x.size = s := by
    unfold mendWords
    rw [h, List.filter_nil, ← h]
  unfold senseTouch
  rw [hsense, hmend]
  simp only [ite_self]

theorem senseRegisters_eq_self {s : State} (h : s.latent = []) (tid : Nat) (i : Instr) : senseRegisters s tid i = s := by
  unfold senseRegisters
  rw [h, List.foldl_nil]

theorem orderFor_eq_self {s : State} (h : s.latent = []) {targets : List Nat} (hin : ∀ tid ∈ targets, InPlace s tid) (i : Instr)
    (late : Bool) (src : Nat) : orderFor i late s src targets = s := by
  unfold orderFor
  rw [senseRegisters_eq_self h]
  dsimp only
  split
  · rw [foldl_fixed_of_mem fun tid ht => (hin tid ht).orderThread i late _, List.foldl_fixed' (senseTouch_eq_self h late src)]
  · rfl

/-- Nothing is performed or found before a unit whose threads have nothing out of its place, where no error is undetected. -/
theorem orderBefore_eq_self {s : State} {x : Bundle} (hin : ∀ tid ∈ x.tids, InPlace s tid) (h : s.latent = []) (i : Instr) (late : Bool) :
    orderBefore s x i late = s := by
  have hwait : ∀ tid ∈ x.tids.filter (fun tid => !x.finished.contains tid), InPlace s tid := fun tid ht => hin tid (List.mem_filter.mp ht).1
  unfold orderBefore
  dsimp only
  split
  · split
    · rfl
    · exact orderFor_eq_self h (fun tid ht => hwait tid (by simp_all)) i _ _
  · refine foldl_fixed_of_mem fun tid ht => orderFor_eq_self h ?_ i _ tid
    exact List.forall_mem_singleton.mpr (hwait tid ht)

/-! ## The unit of a bundle entered (R135, R137) -/

theorem setBundle_of_ne_nil (s : State) (b : Nat) {x : Bundle} (h : x.tids ≠ []) :
    s.setBundle b x = { s with bundles := s.bundles.insert b x } := by
  rw [State.setBundle, if_neg (by simpa using h)]

/-- A unit entered is the state in which the claims have it issue. -/
theorem enterUnit_eq_issuing (s : State) (b : Nat) {x : Bundle} (h : x.tids ≠ []) (v : ChainUnit) (late : Bool) :
    enterUnit s b x v late = Claims.issuing s b x v late := by
  unfold enterUnit Claims.issuing startUnit
  dsimp only
  generalize orderBefore s x v.instr late = m
  cases x.hasWork with
  | false => rfl
  | true =>
    rw [setBundle_of_ne_nil]
    · cases pipeOf v.instr x.pipeB <;> rfl
    · exact h

/-- The next unit of a bundle inside its chain, where no other bundle goes before it or only its answers are awaited. -/
theorem prepare_inside {s : State} {b : Nat} {x : Bundle} {v : ChainUnit} {rest : List ChainUnit} (hx : s.bundles.find? b = some x)
    (hne : x.tids ≠ []) (hchain : x.chain = v :: rest) (late : Bool)
    (hgo : x.hasWork = false ∨ (x.ready ≤ s.time ∧ waitsTurn s b x v.instr = false)) :
    prepare s b late = .run v.instr (Claims.issuing s b x v late) := by
  have hturn : (x.hasWork && (s.time < x.ready || waitsTurn s b x v.instr)) = false := by
    obtain h | ⟨hready, hwait⟩ := hgo
    · rw [h, Bool.false_and]
    · simp [hwait, hready]
  obtain ⟨tid, tids, htids⟩ := List.exists_cons_of_ne_nil hne
  unfold prepare
  rw [hx]
  dsimp only
  rw [htids, hchain]
  dsimp only
  rw [if_neg (by simpa using hturn), enterUnit_eq_issuing s b hne]

/-! ## The chain at an address (R38, R53, R54) -/

/-- The word that decoding asks for after the instruction word is the next one, its literal. -/
theorem fetch_of_finish {ctx : DecCtx} {w : Word} {rest : List Word} {at_ n : Nat} {uni : Bool} {r : Except Cause Instr}
    (h : decodeGoverned.finish ctx w rest at_ uni r = .fetch n) : n = at_ := by
  unfold decodeGoverned.finish at h
  split at h
  · cases h
  · split at h
    · cases h
    · split at h
      · split at h <;> cases h
        rfl
      · cases h

theorem fetch_of_decodeGoverned {ctx : DecCtx} {pre : Option Pre} {w : Word} {rest : List Word} {n : Nat}
    (h : decodeGoverned ctx pre w rest = .fetch n) : n ≤ 2 := by
  have hat : (if pre.isSome = true then 2 else 1) ≤ 2 := by split <;> decide
  unfold decodeGoverned at h
  dsimp only at h
  generalize (if pre.isSome = true then 2 else 1) = at_ at h hat
  split at h
  · cases h
  · split at h
    · cases h
    · split at h
      · split at h
        · cases h
        · exact fetch_of_finish h ▸ hat
      · exact fetch_of_finish h ▸ hat

/-- A unit has at most three words: a `Pre`, the word that it governs and a literal. -/
theorem fetch_of_decodeUnit {ctx : DecCtx} {ws : List Word} {n : Nat} (h : decodeUnit ctx ws = .fetch n) : n ≤ 2 := by
  unfold decodeUnit at h
  split at h
  · cases h
    decide
  · split at h
    · split at h
      · cases h
      · split at h
        · cases h
          decide
        · split at h
          · cases h
          · exact fetch_of_decodeGoverned h
    · exact fetch_of_decodeGoverned h

/-- A structural recursion on a number at a successor, with its results below as a value of their own. The equations that Lean makes of
`fetchUnit` and `readChain` cannot be checked, since the kernel then evaluates the translation of a fetch: the two are unfolded by this, and
what they read is kept opaque while they are. -/
theorem exists_below_brecOn_succ {α : Nat → Type} (F : (n : Nat) → Nat.below (motive := α) n → α n) (n : Nat) :
    ∃ r : Nat.below (motive := α) (n + 1), r.1 = Nat.brecOn (motive := α) n F ∧ Nat.brecOn (motive := α) (n + 1) F = F (n + 1) r :=
  ⟨⟨Nat.brecOn (motive := α) n F, (Nat.brecOn.go (motive := α) n F).2⟩, rfl, rfl⟩

section Fetch

variable {ctx : DecCtx} {q w : Nat} {entry : DWord} {pc : Word} {i : Instr} {word : Word} {len : Nat} {leaf : DWord}
  {ws : List (Word × DWord)} {s m t : State}

theorem fetchUnit_of_unit (fuel : Nat) (h : decodeUnit ctx (ws.map (·.1)) = .unit i word len) :
    fetchUnit ctx q w entry pc (fuel + 1) ws s = (.unit i word len (unitLeaf ws), s) := by
  obtain ⟨r, -, e⟩ := exists_below_brecOn_succ (fetchUnit._f ctx q w entry pc) fuel
  delta fetchUnit
  rw [e]
  delta fetchUnit._f
  dsimp -zeta only
  rw [h]

/-- A word that decoding asks for is fetched and read with the others. -/
theorem fetchUnit_of_fetch (fuel : Nat) {n : Nat} {x : Word × DWord} (h : decodeUnit ctx (ws.map (·.1)) = .fetch n)
    (hw : fetchWord s q w entry (pc + BitVec.ofNat 32 (4 * n)) = (.ok x, m)) :
    fetchUnit ctx q w entry pc (fuel + 1) ws s = fetchUnit ctx q w entry pc fuel (ws ++ [x]) m := by
  obtain ⟨r, hr, e⟩ := exists_below_brecOn_succ (fetchUnit._f ctx q w entry pc) fuel
  delta fetchUnit
  rw [e, ← hr]
  delta fetchUnit._f
  dsimp -zeta only
  obtain ⟨fetched, hfetched⟩ : ∃ fetched, fetched = fetchWord s q w entry := ⟨_, rfl⟩
  rw [← hfetched] at hw ⊢
  rw [h]
  dsimp only
  rw [hw]

/-- A unit without C ends its chain (R53). -/
theorem readChain_single (fuel : Nat) (h : fetchUnit ctx q w entry pc 4 [] s = (.unit i word len leaf, t)) (hlast : i.ctl.c = false) :
    readChain ctx q w entry (fuel + 1) pc s = ([⟨i, word, pc, len, leaf⟩], none, t) := by
  obtain ⟨read, hread⟩ : ∃ read, read = @readChain := ⟨_, rfl⟩
  obtain ⟨F, hF⟩ : ∃ F, F = readChain._f ctx q w entry := ⟨_, rfl⟩
  obtain ⟨fetched, hfetched⟩ : ∃ fetched, fetched = fetchUnit ctx q w entry := ⟨_, rfl⟩
  obtain ⟨r, -, e⟩ := exists_below_brecOn_succ F fuel
  rw [← hread]
  delta readChain at hread
  rw [hread]
  beta_reduce
  rw [← hF, e]
  delta readChain._f at hF
  rw [← hfetched] at h hF
  rw [hF]
  dsimp only
  rw [h]
  dsimp only
  rw [hlast]
  rfl

/-- What decoding reads is what the fetch of a unit gives: three words are as many as it asks for. -/
theorem fetchUnit_of_reads (h : Claims.Reads ctx q w entry pc i word len leaf ws s t) (fuel : Nat) (hfuel : fuel + ws.length = 3) :
    fetchUnit ctx q w entry pc (fuel + 1) ws s = (.unit i word len leaf, t) := by
  induction h generalizing fuel with
  | done ws s hdec hleaf => rw [fetchUnit_of_unit fuel hdec, hleaf]
  | next ws s m t x hdec hword _ ih =>
    have hlen := fetch_of_decodeUnit hdec
    obtain ⟨fuel, rfl⟩ : ∃ k, fuel = k + 1 := ⟨fuel - 1, by omega⟩
    rw [fetchUnit_of_fetch _ hdec hword]
    exact ih fuel (by rw [List.length_append, List.length_singleton]; omega)

end Fetch

theorem chainLegal_single {i : Instr} (h : latchesOk i 0 = true) : chainLegal [i] = true := by
  simp [chainLegal, chainRest, h]

/-- A chain of one unit. -/
theorem fetchChain_of_reads {s t : State} {core tid : Nat} {pc : Word} {i : Instr} {word : Word} {len : Nat} {leaf : DWord}
    (h : Claims.Reads (s.decCtx tid) (quadOf core) (s.threadWorld tid) (s.threadLaunch tid).entry pc i word len leaf [] s t)
    (hlast : i.ctl.c = false) (hlatch : latchesOk i 0 = true) :
    fetchChain s core tid pc = (.ok [⟨i, word, pc, len, leaf⟩], t) := by
  have hchain : readChain (s.decCtx tid) (quadOf core) (s.threadWorld tid) (s.threadLaunch tid).entry 9 pc s =
      ([⟨i, word, pc, len, leaf⟩], none, t) :=
    readChain_single 8 (fetchUnit_of_reads h 3 rfl) hlast
  obtain ⟨chainAt, hfetch⟩ : ∃ chainAt, chainAt = @fetchChain := ⟨_, rfl⟩
  obtain ⟨read, hread⟩ : ∃ read, read = @readChain := ⟨_, rfl⟩
  obtain ⟨wordAt, hword⟩ : ∃ wordAt, wordAt = @fetchWord := ⟨_, rfl⟩
  rw [← hfetch]
  delta fetchChain at hfetch
  rw [← hread] at hchain hfetch
  rw [← hword] at hfetch
  rw [hfetch]
  dsimp only
  rw [hchain]
  dsimp only
  rw [List.map_singleton, if_pos (chainLegal_single hlatch)]

/-- The first unit of a chain of one. -/
theorem prepare_begins {s t : State} {b : Nat} {x : Bundle} {tid : Nat} {v : ChainUnit} (h : Claims.Begins s b x tid)
    (hfetch : fetchChain s x.core tid x.pc = (.ok [v], t)) (hturn : waitsTurn s b x v.instr = false) (late : Bool) :
    prepare s b late = .run v.instr
      (Claims.issuing (Claims.beginning t x tid) b { x with chain := [v], head := x.pc, pos := 0, finished := [] } v late) := by
  obtain ⟨hx, hfirst, hchain, halive, hcalm, hworld, hstays, hready, hentry⟩ := h
  obtain ⟨tids, htids⟩ : ∃ l, x.tids = tid :: l := by
    cases hl : x.tids with
    | nil => simp [hl] at hfirst
    | cons a l => exact ⟨l, by rw [hl] at hfirst; simp_all⟩
  have hcalm' : (x.tids.any fun k => (s.thread k).mayTake) = false := List.any_eq_false.mpr fun k hk => by simp [hcalm k hk]
  have hruns : ((s.world (s.threadWorld tid)).stat = 2 && !(s.thread tid).enters) = false := by
    obtain h | h := hworld <;> simp [h]
  have hready' : (decide (s.time < x.ready) || !hasEntry s b x) = false := by simp [hready, hentry]
  have hchain' : prepareChain s b x tid late = .run v.instr
      (enterUnit (Claims.beginning t x tid) b { x with chain := [v], head := x.pc, pos := 0, finished := [] } v late) := by
    unfold prepareChain
    rw [if_neg (by simp [halive]), if_neg (by simp [hcalm']), if_neg (by simp [hruns]), if_neg (by simp [hstays]),
      if_neg (by simp [hready']), hfetch]
    dsimp only
    rw [if_neg (by simp [hturn])]
    rfl
  unfold prepare
  rw [hx]
  dsimp only
  split
  · rename_i hnil
    cases hnil.symm.trans htids
  · rename_i htids'
    cases htids'.symm.trans htids
    rw [hchain]
    dsimp only
    rw [hchain', enterUnit_eq_issuing]
    rw [htids]
    nofun

/-! ## The next turn (R135) -/

theorem step_of_turns {s : State} {t : Turn} {more : List Turn} (h : s.turns = t :: more) : step s = runTurn t { s with turns := more } := by
  unfold step
  rw [h]

theorem runTurn_event {i : Instr} (h : i.shape = none) (s : State) : runTurn (.event i) s = exec i s := by
  have hword : isWordInstr i = false := by rw [isWordInstr, h]; rfl
  unfold runTurn
  dsimp only
  rw [hword]
  rfl

/-- The turn of a bundle executes the unit that is prepared, in its place or late. -/
theorem runTurn_issue {s t : State} {b : Nat} {late : Bool} {i : Instr} (h : prepare s b late = .run i t) :
    runTurn (if late then .issueLate b else .issue b) s = exec i t := by
  unfold runTurn
  cases late
  · rw [if_neg Bool.false_ne_true]
    dsimp only
    rw [h]
  · rw [if_pos rfl]
    dsimp only
    rw [h]

end Sys2Proof.Machine

namespace Sys2Proof

open Machine

/-- Settles O32: the move of the turn is the preparation of its bundle's unit, whose chain is read as decoding asks for its words. -/
theorem stepsRunUnitsAndEvents : Obligations.StepsRunUnitsAndEvents := by
  unfold Obligations.StepsRunUnitsAndEvents Claims.StepsRunUnitsAndEvents
  intro s more late
  dsimp only
  refine ⟨fun i hi hturns => ?_, fun b x v rest hturns hx hne hchain hgo => ?_,
    fun b x tid i w len leaf t hturns hbegins hlast hlatch hturn hreads => ?_, fun x i hlate hearly hlatent => ?_⟩
  · rw [step_of_turns hturns, runTurn_event hi]
  · rw [step_of_turns hturns]
    exact runTurn_issue (prepare_inside (s := { s with turns := more }) hx hne hchain late hgo)
  · rw [step_of_turns hturns]
    have hfetch := fetchChain_of_reads (s := { s with turns := more }) hreads hlast hlatch
    exact runTurn_issue (prepare_begins (s := { s with turns := more })
      ⟨hbegins.bundle, hbegins.first, hbegins.chain, hbegins.alive, hbegins.calm, hbegins.world, hbegins.stays, hbegins.ready, hbegins.entry⟩
      hfetch hturn late)
  · have hin : ∀ tid ∈ x.tids, InPlace s tid := fun tid ht =>
      ⟨fun e he h => hlate e he (h ▸ ht), fun e he h => hearly e he (h ▸ ht)⟩
    exact orderBefore_eq_self hin hlatent i late

end Sys2Proof
end

section
/-! PROOF. Compares and predicate logic (R60, R79, R81, R104, R105): O3 holds. -/

namespace Sys2Proof

/-! ## The order of the FP32 patterns (R79, R104) -/

/-- The sign, the exponent and the fraction of an FP32 pattern (R79). -/
theorem f32_eq (x : Word) : f32 x =
    if x.toNat / 2 ^ 23 % 2 ^ 8 = 255 then (if x.toNat % 2 ^ 23 = 0 then .inf (x.toNat.testBit 31) else .nan)
    else if x.toNat / 2 ^ 23 % 2 ^ 8 = 0 then .fin (x.toNat.testBit 31) (x.toNat % 2 ^ 23) (-149)
    else .fin (x.toNat.testBit 31) (2 ^ 23 + x.toNat % 2 ^ 23) (-149 + (x.toNat / 2 ^ 23 % 2 ^ 8 - 1 : Nat)) := by
  simp [f32, Fmt.decode, Fmt.fp32, Fmt.maxExp, Fmt.qmin, -Nat.reducePow, show 2 ^ 8 - 1 = 255 from rfl]
  congr

theorem f32_eq_nan_iff (x : Word) : f32 x = .nan ↔ Claims.isNaN x = true := by
  have hx := x.isLt
  rw [f32_eq, Claims.isNaN, decide_eq_true_iff]
  by_cases he : x.toNat / 2 ^ 23 % 2 ^ 8 = 255
  · by_cases hm : x.toNat % 2 ^ 23 = 0
    · rw [if_pos he, if_pos hm]
      simp only [reduceCtorEq, false_iff]
      omega
    · rw [if_pos he, if_neg hm]
      simp only [true_iff]
      omega
  · rw [if_neg he]
    split <;> (simp only [reduceCtorEq, false_iff]; omega)

theorem f32_isNan (x : Word) : (f32 x).isNan = Claims.isNaN x := by
  rw [Bool.eq_iff_iff, ← f32_eq_nan_iff]
  cases f32 x <;> simp [FVal.isNan]

theorem rank32_eq_zero_iff (x : Word) : Claims.rank32 x = 0 ↔ x.toNat % 2 ^ 31 = 0 := by
  have hx := x.isLt
  unfold Claims.rank32
  split <;> omega

theorem f32_isZero (x : Word) : (f32 x).isZero = decide (Claims.rank32 x = 0) := by
  have hx := x.isLt
  rw [Bool.eq_iff_iff, decide_eq_true_iff, rank32_eq_zero_iff, f32_eq]
  by_cases he : x.toNat / 2 ^ 23 % 2 ^ 8 = 255
  · rw [if_pos he]
    split <;> (simp only [FVal.isZero, Bool.false_eq_true, false_iff]; omega)
  · rw [if_neg he]
    split <;> (simp only [FVal.isZero, decide_eq_true_iff]; omega)

/-- The model's key differs from the rank in that it puts −0 below +0, and with it every negative pattern one lower. -/
theorem f32Key_eq (x : Word) : f32Key x = Claims.rank32 x - if x.toNat < 2 ^ 31 then 0 else 1 := by
  have hx := x.isLt
  have hmsb : x.getLsbD 31 = true ↔ 2 ^ 31 ≤ x.toNat := by
    rw [← BitVec.msb_eq_getLsbD_last (x := x), BitVec.msb_eq_decide, decide_eq_true_iff]
  unfold f32Key Claims.rank32
  by_cases hs : x.toNat < 2 ^ 31
  · rw [if_neg (by rw [hmsb]; omega), if_pos hs, if_pos hs, sub_zero]
  · rw [if_pos (by rw [hmsb]; omega), if_neg hs, if_neg hs]
    omega

theorem rank32_eq_iff {x y : Word} :
    Claims.rank32 x = Claims.rank32 y ↔ x = y ∨ (Claims.rank32 x = 0 ∧ Claims.rank32 y = 0) := by
  have hx := x.isLt
  have hy := y.isLt
  rw [BitVec.toNat_eq]
  unfold Claims.rank32
  split <;> split <;> omega

theorem rank32_lt_iff {x y : Word} :
    Claims.rank32 x < Claims.rank32 y ↔ f32Key x < f32Key y ∧ ¬(Claims.rank32 x = 0 ∧ Claims.rank32 y = 0) := by
  have hx := x.isLt
  have hy := y.isLt
  rw [f32Key_eq, f32Key_eq]
  unfold Claims.rank32
  split <;> split <;> omega

theorem fless_eq (x y : Word) : fless x y = (!(Claims.isNaN x || Claims.isNaN y) && decide (Claims.rank32 x < Claims.rank32 y)) := by
  unfold fless
  split
  case h_1 h => simp [(f32_eq_nan_iff x).mp h]
  case h_2 h _ => simp [(f32_eq_nan_iff y).mp h]
  case h_3 hx hy =>
    have hx : Claims.isNaN x = false := by rwa [f32_eq_nan_iff, imp_false, Bool.not_eq_true] at hx
    have hy : Claims.isNaN y = false := by rwa [f32_eq_nan_iff, imp_false, Bool.not_eq_true] at hy
    rw [hx, hy, Bool.eq_iff_iff]
    simp only [f32_isZero, rank32_lt_iff]
    simp [and_comm]

theorem feq_eq (x y : Word) : feq x y = (!(Claims.isNaN x || Claims.isNaN y) && decide (Claims.rank32 x = Claims.rank32 y)) := by
  unfold feq
  split
  case h_1 h => simp [(f32_eq_nan_iff x).mp h]
  case h_2 h _ => simp [(f32_eq_nan_iff y).mp h]
  case h_3 hx hy =>
    have hx : Claims.isNaN x = false := by rwa [f32_eq_nan_iff, imp_false, Bool.not_eq_true] at hx
    have hy : Claims.isNaN y = false := by rwa [f32_eq_nan_iff, imp_false, Bool.not_eq_true] at hy
    rw [hx, hy, Bool.eq_iff_iff]
    simp [f32_isZero, rank32_eq_iff (x := x), or_comm]

/-- A word read as signed or as unsigned. -/
def intOf (signed : Bool) (x : Word) : Int := if signed then x.toInt else x.toNat

theorem eq_iff_intOf_eq (signed : Bool) (x y : Word) : x = y ↔ intOf signed x = intOf signed y := by
  cases signed
  · exact BitVec.toNat_eq.trans Int.natCast_inj.symm
  · exact BitVec.toInt_inj.symm

theorem intOf_lt_iff (signed : Bool) (x y : Word) :
    (if signed then decide (x.toInt < y.toInt) else decide (x.toNat < y.toNat)) = decide (intOf signed x < intOf signed y) := by
  cases signed
  · simp [intOf]
  · rfl

theorem cmpInt_eq (signed set2 : Bool) (q : BitVec 2) : cmpInt signed set2 q = Claims.holds set2 signed q := by
  funext x y
  have heq := eq_iff_intOf_eq signed x y
  unfold cmpInt Claims.holds
  rw [intOf_lt_iff, Bool.eq_iff_iff]
  simp only [← intOf.eq_1]
  match set2, q with
  | false, 0 => simp [heq]
  | false, 1 => simp [heq]
  | false, 2 => rfl
  | false, 3 => simp [heq, le_iff_lt_or_eq]
  | true, 0 => simp [heq]; omega
  | true, 1 => simp
  | true, 2 => rfl
  | true, 3 => rfl

theorem cmpF32_eq (set2 : Bool) (q : BitVec 2) : cmpF32 set2 q = Claims.holdsF set2 q := by
  funext x y
  unfold cmpF32 Claims.holdsF
  simp only [fless_eq, feq_eq]
  match set2, q with
  | false, 0 => rfl
  | false, 1 => simp
  | false, 2 => rfl
  | false, 3 => simp [← Bool.and_or_distrib_left, le_iff_lt_or_eq]
  | true, 0 => simp [Bool.or_comm]
  | true, 1 => simp [Bool.or_comm, ← Bool.and_or_distrib_left, le_iff_lt_or_eq, eq_comm]
  | true, 2 => simp [f32_isNan]
  | true, 3 => simp [f32_isNan]

/-! ## The instructions -/

namespace Machine

theorem cmpUnit_eq {i : Instr} {p : BitVec 5} {a : Reg} {b : OpB} {f g : Word → Word → Bool} {e : Claims.Effect} (hf : f = g)
    (he : Claims.compare p a b g = some e) (s : State) : cmpUnit i p a b f s = aluUnit i e s := by
  subst hf
  cases he
  rfl

theorem predUnit_eq {i : Instr} {p pa pb : BitVec 5} {na nb : Bool} {f : Bool → Bool → Bool} {e : Claims.Effect}
    (he : Claims.predicates p na pa nb pb f = some e) (s : State) : predUnit i p na pa nb pb f s = aluUnit i e s := by
  cases he
  simp only [predUnit, Bool.bne_eq_xor]

/-- A compare or a predicate instruction computes its effect from its source thread (R104, R105). -/
theorem exec_comparesPredicates {i : Instr} {e : Claims.Effect} (h : Claims.comparesPredicates i = some e) (s : State) :
    exec i s = aluUnit i e s := by
  cases i
  case cmpN32Set1 => exact cmpUnit_eq (cmpInt_eq ..) h s
  case cmpN32Set2 => exact cmpUnit_eq (cmpInt_eq ..) h s
  case cmpI32Set1 => exact cmpUnit_eq (cmpInt_eq ..) h s
  case cmpI32Set2 => exact cmpUnit_eq (cmpInt_eq ..) h s
  case cmpF32Set1 => exact cmpUnit_eq (cmpF32_eq ..) h s
  case cmpF32Set2 => exact cmpUnit_eq (cmpF32_eq ..) h s
  case pand => exact predUnit_eq h s
  case por => exact predUnit_eq h s
  case pxor => exact predUnit_eq h s
  case vtp c p a =>
    cases h
    simp only [joinTags_two]
    rfl
  case ptv c d na pa =>
    cases h
    simp only [joinTags_two, ← Bool.bne_eq_xor]
    rfl
  all_goals cases h

end Machine

/-- Settles O3: the model's conditions are those of R104, and every unit of the table is computed from its source thread alone. -/
theorem comparesAndPredicates : Obligations.ComparesAndPredicates := by
  unfold Obligations.ComparesAndPredicates Claims.GivesResult
  intro s u i e htable h
  rw [Machine.exec_comparesPredicates htable]
  exact Machine.aluUnit_completes h

end Sys2Proof
end

section
/-! PROOF. Instructions that read the machine and change only registers (R69, R74, R119, R124, R125, R162, R175, R239, R246, R362): O7
holds. -/

namespace Sys2Proof.Machine

open Sys2Proof

/-! ## Units that complete with a reading -/

/-- What a unit computes for a thread is a reading of the state, which it leaves as it is; the reading looks at the thread itself and at
what no unit of its bundle changes. -/
structure Reads (c : Issue → Compute) (f : Claims.Reading) : Prop where
  gives : ∀ {s u tid g r}, f s u tid g = some r → c u s tid g = (.done r, s)
  looks : ∀ {s ts bs k u tid g}, State.thread { s with threads := ts, bundles := bs, cur := k } tid = s.thread tid →
    f { s with threads := ts, bundles := bs, cur := k } u tid g = f s u tid g

theorem Reads.same {c : Issue → Compute} {f : Claims.Reading} (hr : Reads c f) {s s' : State} {u : Issue} {tid : Nat} {g : Tag}
    (hs : SameBut s s') (ht : s'.thread tid = s.thread tid) : f s' u tid g = f s u tid g := by
  have e : s' = { s with threads := s'.threads, bundles := s'.bundles, cur := s'.cur } := by
    unfold SameBut at hs
    rw [← hs]
  rw [e] at ht ⊢
  exact hr.looks ht

/-- An instruction runs a unit of which each thread takes a reading. -/
def RunsReading (i : Instr) (f : Claims.Reading) : Prop := ∃ c, Reads c f ∧ ∀ s, exec i s = issueUnit i c s

theorem issueUnit_reads {s : State} {u : Issue} {i : Instr} {c : Issue → Compute} {f : Claims.Reading} (hr : Reads c f) (h : Issues s u i)
    (hf : ∀ tid, Acts s u i tid → (f s u tid (guardTag s u i tid)).isSome) :
    ∃ t, issueUnit i c s = .next t ∧ OnlyThreads s t u ∧ Advanced s t u ∧ ∀ tid ∈ u.tids,
      if passes s u i tid then
        ∃ r, f s u (sourceOf u i tid) (guardTag s u i tid) = some r ∧ t.thread tid = (s.thread tid).apply r
      else t.thread tid = (s.thread tid).pushLatch (guardedOffLatch (s.thread tid) i) := by
  have hsome : ∀ tid, Acts s u i tid →
      f s u tid (guardTag s u i tid) = some ((f s u tid (guardTag s u i tid)).getD .none) := fun tid ha => by
    obtain ⟨r, hr⟩ := Option.isSome_iff_exists.mp (hf tid ha)
    rw [hr]
    rfl
  obtain ⟨t, hexec, honly, hadv, hthread⟩ := issueUnit_reading (f := c)
    (r := fun tid => (f s u tid (guardTag s u i tid)).getD .none) h fun tid ha s' hs ht =>
      hr.gives ((hr.same hs ht).trans (hsome tid ha))
  refine ⟨t, hexec, honly, hadv, fun tid ht => ?_⟩
  have htid := hthread tid ht
  split <;> rename_i hp
  · have hsrc := hsome _ (acts_source ht hp)
    rw [guardTag_source] at hsrc
    rw [if_pos hp, guardTag_source] at htid
    exact ⟨_, hsrc, htid⟩
  · rwa [if_neg hp] at htid

/-! ## The readings, one by one -/

theorem mod_two_pow_55 (x : DWord) : x &&& BitVec.ofNat 64 (2 ^ 55 - 1) = BitVec.ofNat 64 (x.toNat % 2 ^ 55) := by
  apply BitVec.eq_of_toNat_eq
  rw [BitVec.toNat_and, BitVec.toNat_ofNat, BitVec.toNat_ofNat, Nat.mod_eq_of_lt (by omega : 2 ^ 55 - 1 < 2 ^ 64),
    Nat.and_two_pow_sub_one_eq_mod]
  omega

/-- The special registers that the claim has are the model's (R69, R74). -/
theorem specialReg_of_special {s : State} {u : Issue} {tid : Nat} {n : BitVec 8} {x : Tagged DWord}
    (h : Claims.special s u tid n = some x) : specialReg s tid u.core n = x := by
  unfold Claims.special at h
  unfold specialReg
  dsimp only at h ⊢
  split at h <;> cases h <;> rename_i hn <;> rw [hn]
  case h_18 => exact congrArg untagged (mod_two_pow_55 _)
  all_goals rfl

theorem specialWide_iff (n : BitVec 8) : specialWide n = true ↔ n.toNat = 13 ∨ n.toNat = 17 := by
  simp [specialWide, BitVec.toNat_eq]

section Rows

variable {f : Claims.Reading} {ctl : Ctl}

theorem runs_mfs {d : Reg} {n : BitVec 8} (h : Claims.readings (.mfs ctl d n) = some f) : RunsReading (.mfs ctl d n) f := by
  cases h
  refine ⟨_, ⟨fun h => ?_, fun ht => ?_⟩, fun _ => rfl⟩
  · obtain ⟨x, hx, rfl⟩ := Option.map_eq_some_iff.mp h
    simp only [specialReg_of_special hx, specialWide_iff, joinTags_two]
  · dsimp only [Claims.special]
    rw [ht]
    rfl

theorem runs_tstat {d a : Reg} (h : Claims.readings (.tstat ctl d a) = some f) : RunsReading (.tstat ctl d a) f := by
  cases h
  refine ⟨_, ⟨fun h => ?_, fun _ => rfl⟩, fun _ => rfl⟩
  cases h
  rfl

/-- A unit that always completes without a result. -/
theorem reads_none : Reads (fun _ s _ _ => (.done .none, s)) fun _ _ _ _ => some .none :=
  ⟨fun h => by cases h; rfl, fun _ => rfl⟩

theorem ownTrap_ckvMod (d a : Reg) (s : State) (u : Issue) (tid : Nat) : Claims.ownTrap (.ckvMod ctl d a) s u tid =
    if decide (((s.thread tid).acc d).val.toNat % p61 ≠ ((s.thread tid).acc a).val.toNat % p61) || ((s.thread tid).acc d).tag.poison ||
        ((s.thread tid).acc a).tag.poison then
      some (.checkFail, BitVec.ofNat 32 (d.toNat % 4 * 4 + a.toNat % 4), true)
    else none := by
  unfold Claims.ownTrap
  dsimp only
  rw [← p61]
  split
  case isTrue h => rw [if_neg (by simp [h])]
  case isFalse h => rw [if_pos (by simpa [or_assoc, imp_iff_not_or] using h)]

theorem ownTrap_ckvF (d a b : Reg) (s : State) (u : Issue) (tid : Nat) : Claims.ownTrap (.ckvF ctl d a b) s u tid =
    if ckvFFails ((s.thread tid).acc d).val ((s.thread tid).acc a).val ((s.thread tid).reg b).val ||
        ((s.thread tid).acc d).tag.poison || ((s.thread tid).acc a).tag.poison then
      some (.checkFail, BitVec.ofNat 32 (d.toNat % 4 * 4 + a.toNat % 4), true)
    else none := rfl

/-- Accumulators that pass the check of an instruction (R124). -/
theorem runs_check {i : Instr} {k a : Reg} {fails : Thread → Bool} (hexec : ∀ s, exec i s = checkUnit i k a fails s)
    (hi : ∀ s u tid, Claims.ownTrap i s u tid =
      if fails (s.thread tid) || ((s.thread tid).acc k).tag.poison || ((s.thread tid).acc a).tag.poison then
        some (.checkFail, BitVec.ofNat 32 (k.toNat % 4 * 4 + a.toNat % 4), true)
      else none) :
    RunsReading i fun s u tid _ => if (Claims.ownTrap i s u tid).isSome then none else some .none := by
  refine ⟨_, ⟨fun h => ?_, fun ht => by rw [hi, hi, ht]⟩, hexec⟩
  rw [hi] at h
  dsimp only
  split at h <;> cases h
  rename_i hc
  exact if_neg hc

theorem runs_ckvMod {d a : Reg} (h : Claims.readings (.ckvMod ctl d a) = some f) : RunsReading (.ckvMod ctl d a) f := by
  cases h
  exact runs_check (fails := fun t => (t.acc d).val.toNat % p61 ≠ (t.acc a).val.toNat % p61) (fun _ => rfl) (ownTrap_ckvMod d a)

theorem runs_ckvF {d a b : Reg} (h : Claims.readings (.ckvF ctl d a b) = some f) : RunsReading (.ckvF ctl d a b) f := by
  cases h
  exact runs_check (fails := fun t => ckvFFails (t.acc d).val (t.acc a).val (t.reg b).val) (fun _ => rfl) (ownTrap_ckvF d a b)

theorem runs_waitm {m : Reg} (h : Claims.readings (.waitm ctl m) = some f) : RunsReading (.waitm ctl m) f := by
  cases h
  refine ⟨_, ⟨fun h => ?_, fun _ => rfl⟩, fun _ => rfl⟩
  split at h <;> cases h
  rename_i hm
  exact if_neg hm

theorem runs_declass {d a : Reg} {n : BitVec 8} (h : Claims.readings (.declass ctl d a n) = some f) :
    RunsReading (.declass ctl d a n) f := by
  cases h
  refine ⟨_, ⟨fun h => ?_, fun ht => by rw [ht]; rfl⟩, fun _ => rfl⟩
  dsimp only at h ⊢
  split at h <;> cases h
  rename_i hd
  exact if_pos hd

/-- The credit word of R246, for a clean destination among the cluster's teams. -/
theorem runs_qcred {d : Reg} (h : Claims.readings (.qcred ctl d) = some f) : RunsReading (.qcred ctl d) f := by
  cases h
  refine ⟨_, ⟨fun h => ?_, fun ht => by rw [ht]; rfl⟩, fun _ => rfl⟩
  dsimp only at h ⊢
  split at h
  · cases h
  · rename_i hc
    rw [not_or] at hc
    rw [if_neg hc.1, if_neg hc.2, ← Option.some.inj h, joinTags_two]
    rfl

/-- A tested branch that its predicate does not take (R119, R159). -/
theorem runs_notTaken {i : Instr} {g : BitVec 5} {n : Bool} {go : Issue → State → Nat → UnitResult × State}
    (hexec : ∀ s, exec i s = testedUnit i g n go s) : RunsReading i fun s _ tid _ =>
      let p := (s.thread tid).pred g
      if p.tag.poison ∨ p.val ≠ n then none else some .none := by
  refine ⟨_, ⟨fun h => ?_, fun ht => by rw [ht]⟩, hexec⟩
  dsimp only at h ⊢
  split at h <;> cases h
  rename_i hp
  rw [not_or, not_not] at hp
  rw [if_neg hp.1, if_neg (by simp [hp.2])]

/-! ## The instructions -/

/-- An instruction of the table runs a unit that reads what the table says. -/
theorem runs_readings {i : Instr} (h : Claims.readings i = some f) : RunsReading i f := by
  cases i
  case mfs => exact runs_mfs h
  case tstat => exact runs_tstat h
  case fenceAr => cases h; exact ⟨_, reads_none, fun _ => rfl⟩
  case fenceAcq => cases h; exact ⟨_, reads_none, fun _ => rfl⟩
  case fenceRel => cases h; exact ⟨_, reads_none, fun _ => rfl⟩
  case ckvMod => exact runs_ckvMod h
  case ckvF => exact runs_ckvF h
  case waitm => exact runs_waitm h
  case declass => exact runs_declass h
  case qcred => exact runs_qcred h
  all_goals cases h

theorem runs_notTaken_rows {i : Instr} (h : Claims.notTaken i = some f) : RunsReading i f := by
  cases i
  case bra => cases h; exact runs_notTaken fun _ => rfl
  case call => cases h; exact runs_notTaken fun _ => rfl
  all_goals cases h

end Rows

theorem givesReading_of_runs {table : Instr → Option Claims.Reading} (h : ∀ {i f}, table i = some f → RunsReading i f) :
    Claims.GivesReading table := by
  intro s u i f htable hissue hf
  obtain ⟨c, hreads, hexec⟩ := h htable
  rw [hexec]
  exact issueUnit_reads hreads hissue hf

end Sys2Proof.Machine

namespace Sys2Proof

open Machine

/-- Settles O7: each of these units computes a reading of the state, and leaves the state as it is. -/
theorem readingsOfTheMachine : Obligations.ReadingsOfTheMachine := by
  unfold Obligations.ReadingsOfTheMachine
  exact ⟨givesReading_of_runs runs_readings, givesReading_of_runs runs_notTaken_rows⟩

end Sys2Proof
end

section
/-! PROOF. The values of read-modify-writes (R64, R171): what near atomics, atomics of main memory and those over the host link share. -/

namespace Sys2Proof

theorem leValue_lt (l : List Byte) : leValue l < 256 ^ l.length := by
  induction l with
  | nil => exact Nat.one_pos
  | cons b l ih =>
    have hb : b.toNat < 256 := b.isLt
    rw [leValue, List.length_cons, pow_succ']
    omega

theorem Memory.readBytes_length (m : Memory) (a n : Nat) : (m.readBytes a n).length = n := by
  induction n generalizing a with
  | zero => rfl
  | succ n ih => rw [Memory.readBytes, List.length_cons, ih]

theorem Memory.readLe_lt (m : Memory) (a n : Nat) : m.readLe a n < 2 ^ (8 * n) := by
  have h := leValue_lt (m.readBytes a n)
  rwa [Memory.readBytes_length, show 256 = 2 ^ 8 from rfl, ← pow_mul] at h

end Sys2Proof

namespace Sys2Proof.Machine

open Sys2Proof

theorem op_eq_iff (op : BitVec 4) (n : Nat) (h : n < 16) : op = BitVec.ofNat 4 n ↔ op.toNat = n := by
  rw [BitVec.toNat_eq, BitVec.toNat_ofNat, Nat.mod_eq_of_lt h]

theorem atomicSize_eq (op : BitVec 4) : atomicSize op = if op.toNat = 10 then 8 else 4 := by
  unfold atomicSize
  exact if_congr (op_eq_iff op 10 (by decide)) rfl rfl

/-- The flags of a read-modify-write: those of the sum of `add.f32`. -/
def rmwFlags (op old x : Nat) : Flags := if op = 11 then (fadd .rne (BitVec.ofNat 32 old) (BitVec.ofNat 32 x)).2 else 0

theorem minN_toNat (x y : Word) : (minN x y).toNat = min x.toNat y.toNat := by
  unfold minN
  split <;> omega

theorem maxN_toNat (x y : Word) : (maxN x y).toNat = max x.toNat y.toNat := by
  unfold maxN
  split <;> omega

theorem minI_eq (x y : Word) : minI x y = BitVec.ofInt 32 (min x.toInt y.toInt) := by
  unfold minI
  split
  case isTrue h => rw [min_eq_left h, BitVec.ofInt_toInt]
  case isFalse h => rw [min_eq_right (by omega), BitVec.ofInt_toInt]

theorem maxI_eq (x y : Word) : maxI x y = BitVec.ofInt 32 (max x.toInt y.toInt) := by
  unfold maxI
  split
  case isTrue h => rw [max_eq_right h, BitVec.ofInt_toInt]
  case isFalse h => rw [max_eq_left (by omega), BitVec.ofInt_toInt]

theorem ofNat_mod_width (x : Nat) : BitVec.ofNat 32 (x % 2 ^ 32) = BitVec.ofNat 32 x := by
  apply BitVec.eq_of_toNat_eq
  rw [BitVec.toNat_ofNat, BitVec.toNat_ofNat, Nat.mod_mod]

/-- The operand and the value expected count by their low bits, as many as the access has. -/
theorem atomicNew_eq {op : BitVec 4} {old x e : Nat} (hop : op.toNat < 12) (hold : old < 2 ^ (8 * atomicSize op)) :
    atomicNew op old x e = (Claims.rmw op.toNat old (x % 2 ^ (8 * atomicSize op)) (e % 2 ^ 32), rmwFlags op.toNat old x) := by
  rw [atomicSize_eq] at hold ⊢
  unfold atomicNew Claims.rmw rmwFlags
  generalize op.toNat = n at *
  by_cases h10 : n = 10
  · subst h10
    simp
  · rw [if_neg h10] at hold ⊢
    have ho : (BitVec.ofNat 32 old).toNat = old := by rw [BitVec.toNat_ofNat, Nat.mod_eq_of_lt hold]
    have hw : (BitVec.ofNat 32 x).toNat = x % 2 ^ 32 := BitVec.toNat_ofNat ..
    simp only [show 8 * 4 = 32 from rfl, ofNat_mod_width]
    match n, hop with
    | 0, _ => simp
    | 1, _ => simp [minN_toNat, ho, hw]
    | 2, _ => simp [maxN_toNat, ho, hw]
    | 3, _ => simp [minI_eq]
    | 4, _ => simp [maxI_eq]
    | 5, _ => rfl
    | 6, _ => rfl
    | 7, _ => rfl
    | 8, _ => simp
    | 9, _ =>
      have he : BitVec.ofNat 32 old = BitVec.ofNat 32 e ↔ old = e % 2 ^ 32 := by
        rw [BitVec.toNat_eq, ho, BitVec.toNat_ofNat]
      simp [he, ho]
    | 11, _ => rfl

theorem atomicResult_eq (d : Reg) (op : BitVec 4) (old x : Nat) (g : Tag) :
    atomicResult d op old g (rmwFlags op.toNat old x) = Claims.rmwResult d op.toNat old x g := by
  unfold atomicResult Claims.rmwResult rmwFlags
  exact if_congr (op_eq_iff op 10 (by decide)) rfl rfl

theorem Thread.pair_val (t : Thread) (r : Reg) : (t.pair r).val.toNat = (t.reg r).val.toNat + 2 ^ 32 * (t.reg (r + 1)).val.toNat := by
  simp only [Thread.pair, BitVec.toNat_append]
  rw [← Nat.shiftLeft_add_eq_or_of_lt (t.reg r).val.isLt, Nat.shiftLeft_eq]
  omega

theorem Thread.pair_tag (t : Thread) (r : Reg) : (t.pair r).tag = joinTags [(t.reg r).tag, (t.reg (r + 1)).tag] := (joinTags_two ..).symm

theorem atomicOperand_eq (t : Thread) (d : Reg) (op : BitVec 4) : atomicOperand t d op = Claims.rmwOperand t d op.toNat := by
  unfold atomicOperand Claims.rmwOperand
  rw [t.pair_val, t.pair_tag]
  exact if_congr (op_eq_iff op 9 (by decide)) rfl (if_congr (op_eq_iff op 10 (by decide)) rfl rfl)

/-- The operand and the value expected of a thread's registers have no more bits than the access. -/
theorem rmwOperand_lt (t : Thread) (d : Reg) (op : Nat) :
    (Claims.rmwOperand t d op).1 < 2 ^ (8 * if op = 10 then 8 else 4) ∧ (Claims.rmwOperand t d op).2.1 < 2 ^ 32 := by
  have hlo := (t.reg d).val.isLt
  have hhi := (t.reg (d + 1)).val.isLt
  unfold Claims.rmwOperand
  split
  case isTrue h =>
    subst h
    exact ⟨hhi, hlo⟩
  case isFalse => split <;> (dsimp only; omega)

end Sys2Proof.Machine
end

section
/-! PROOF. Near atomics, signals and waits (R64, R150 to R152, R171 to R173): the first three parts of O15. -/

namespace Sys2Proof.Machine

open Sys2Proof

variable {s a t : State} {u : Issue} {i : Instr} {tid : Nat}

/-! ## The bytes written by the one thread of a unit (R118) -/

theorem thread_same (h : t.threads = s.threads) (k : Nat) : t.thread k = s.thread k := by
  unfold State.thread
  rw [h]

/-- What may happen after a unit's write to near memory: its own threads, its bundle and the bins change. -/
structure AfterWrite (a t : State) (u : Issue) : Prop where
  rest    : { t with threads := a.threads, bundles := a.bundles, cores := a.cores, cur := a.cur } = a
  bundles : ∀ b, b ≠ u.bundle → t.bundles.find? b = a.bundles.find? b
  threads : ∀ k, k ∉ u.tids → t.thread k = a.thread k

/-- What a unit leaves that wakes threads, and then changes its own alone. -/
theorem onlyNear_of_woken (hw : Woken { s with cur := none } a) (ht : AfterWrite a t u) : OnlyNear s t u := by
  have hearly : t.early = a.early := by have := congrArg State.early ht.rest; exact this
  have hlatent : t.latent = a.latent := by have := congrArg State.latent ht.rest; exact this
  refine ⟨?_, ?_, ?_, fun b hb => (ht.bundles b hb).trans (by rw [hw.bundles]), fun k hk => ?_, fun k hk hplace => ?_⟩
  · have h1 := congrArg (fun z : State => { z with
      threads := s.threads, bundles := s.bundles, cores := s.cores, mem := s.mem, lines := s.lines, early := s.early
      latent := s.latent, cur := s.cur }) ht.rest
    have h2 := congrArg (fun z : State => { z with bundles := s.bundles, cur := s.cur }) hw.rest
    exact h1.trans h2
  · rw [hearly]
    exact hw.early
  · rw [hlatent]
    exact hw.latent
  · rw [ht.threads k hk]
    exact hw.threads k
  · rw [ht.threads k hk]
    exact hw.still k hplace

/-- Bytes written, and then the unit's own thread and bundle changed. -/
theorem wrote_of_afterWrite {key size v : Nat} {g : Tag}
    (ht : AfterWrite (writeNear { s with cur := none } key (leBytes size v) g) t u) : Wrote s t u key size v g := by
  have hmem := congrArg State.mem ht.rest
  have hlines := congrArg State.lines ht.rest
  dsimp only at hmem hlines
  obtain ⟨hw, -, hline⟩ := writeNear_spec { s with cur := none } key (leBytes size v) g
  obtain ⟨hread, hbefore⟩ := writeNear_bytes { s with cur := none } key (leBytes size v) g
  rw [leBytes_length] at hread hbefore hline
  refine ⟨onlyNear_of_woken hw ht, by rw [hmem, hread], fun x hx => ?_, fun n => ?_⟩
  · rw [hmem, hbefore x hx]
    rfl
  · rw [line_of_lines hlines, hline n]
    simp only [List.contains_iff_mem]
    rfl

/-- The unit's thread and its team are as they were after a write (R118). -/
theorem Alone.still_of_woken (h : Alone s u i tid) (hw : Woken { s with cur := none } a) :
    Still s a u tid ∧ a.thread tid = s.thread tid := by
  have hplace := h.issues.placed tid h.mem
  have hthread : a.thread tid = s.thread tid := hw.still tid fun w => by
    rw [show (State.thread { s with cur := none } tid).place = _ from hplace]
    nofun
  have hkilled : a.isKilled tid = s.isKilled tid := by
    unfold State.isKilled State.threadTeam State.team
    rw [hw.teams]
  refine ⟨⟨hw.bundles, ?_, ?_, hw.cur, ?_⟩, hthread⟩
  · rw [hthread, hplace]
  · rw [hkilled, h.issues.alive tid h.mem]
  · rw [hthread, h.issues.free tid h.mem]

theorem bundle_same (h : t.bundles = s.bundles) (b : Nat) : t.bundle b = s.bundle b := by
  unfold State.bundle
  rw [h]

theorem Onward.thread (h : Onward a t u) (k : Nat) : t.thread k = a.thread k :=
  thread_same (by have := congrArg State.threads h.rest; exact this) k

/-- The bundle of one thread moved on stands at the next unit. -/
theorem Alone.advanced (h : Alone s u i tid) (ht : Onward a t u) (hb : a.bundles = s.bundles) (hc : a.cur = none) : Advanced s t u := by
  have hcur := congrArg State.cur ht.rest
  have hbundle : t.bundle u.bundle = (s.bundle u.bundle).after u.next none := by
    rw [State.bundle, SMap.getD, ht.bundle, bundle_same hb]
    rfl
  unfold Advanced
  rw [hbundle]
  exact ⟨h.found.2.1.trans h.one.symm, rfl, rfl, rfl, hcur.trans hc⟩

/-- A unit of one thread that writes bytes and completes. -/
theorem issueUnit_alone_writes {f : Issue → Compute} {key size v : Nat} {g : Tag} {r : Result} (h : Alone s u i tid)
    (hf : f u { s with cur := none } tid (guardTag s u i tid) = (.done r, writeNear { s with cur := none } key (leBytes size v) g)) :
    ∃ t, issueUnit i f s = .next t ∧ Advanced s t u ∧ Wrote s t u key size v g ∧ t.thread tid = (s.thread tid).apply r := by
  obtain ⟨hstill, hthread⟩ := h.still_of_woken (writeNear_spec { s with cur := none } key (leBytes size v) g).1
  obtain ⟨t, hexec, hon⟩ := issueUnit_alone_done h hf hstill.bundles hstill.free hstill.alive
  generalize hw : writeNear { s with cur := none } key (leBytes size v) g = w at *
  have hrest := congrArg (fun z : State => { z with threads := w.threads, cores := w.cores, cur := w.cur }) hon.rest
  refine ⟨t, hexec, h.advanced hon hstill.bundles hstill.cur,
    wrote_of_afterWrite (hw ▸ ⟨hrest, hon.others, fun k hk => ?_⟩), ?_⟩
  · rw [hon.thread, State.thread_modThread_ne]
    rintro rfl
    exact hk h.mem
  · rw [hon.thread, State.thread_modThread_self, hthread]

/-- A unit of one thread that traps after an effect, in which the thread has stayed in its bundle. -/
theorem issueUnit_alone_trap_still {f : Issue → Compute} {c : Cause} {val : Word} {vahi : Nat} {atNext : Bool} (h : Alone s u i tid)
    (ha : Still s a u tid) (hc : CanTrap a tid)
    (hf : f u { s with cur := none } tid (guardTag s u i tid) = (.trap c val vahi atNext, a)) :
    ∃ t, issueUnit i f s = .next t ∧
      LeftFiled a t u tid (trapped a tid (unitTrap u i (a.sourceTag tid i) c val vahi atNext (a.thread tid).hasPending)) := by
  obtain ⟨hb, htids, -⟩ := h.found
  rw [← ha.bundles] at hb
  have hl := takeTrap_alone (a := unitTrap u i (a.sourceTag tid i) c val vahi atNext (a.thread tid).hasPending) hc ha.alive ha.cur
    ha.placed hb htids
  rw [issueUnit_alone f h, hf]
  refine ⟨_, rfl, ?_⟩
  rw [finish_gone (by rfl) (by rfl)]
  · exact hl
  · exact hl.bundle

/-- What a trap looks at beside the thread is as it was after a write (R118). -/
theorem trap_same_of_woken (hw : Woken { s with cur := none } a) (hthread : a.thread tid = s.thread tid) :
    (CanTrap s tid → CanTrap a tid) ∧ a.sourceTag tid i = s.sourceTag tid i ∧ ∀ x, trapped a tid x = trapped s tid x := by
  have hworld : a.world (a.threadWorld tid) = s.world (s.threadWorld tid) := by
    unfold State.threadWorld State.threadTeam State.team State.world
    rw [hw.worlds, hw.teams]
  refine ⟨fun hc => ⟨?_, ?_, ?_⟩, ?_, fun x => ?_⟩
  · rw [hworld]
    exact hc.handler
  · rw [hthread]
    exact hc.outside
  · unfold State.threadGroup State.group
    rw [hw.groups]
    exact hc.onCore
  · unfold State.sourceTag State.threadTeam State.team
    rw [hthread, hw.teams]
  · unfold trapped
    rw [hworld, hthread, hw.time]

/-- A unit of one thread that writes bytes and then traps. -/
theorem issueUnit_alone_writes_trap {f : Issue → Compute} {key size v : Nat} {g : Tag} {c : Cause} {val : Word} {atNext : Bool}
    (h : Alone s u i tid) (hc : CanTrap s tid) (hf : f u { s with cur := none } tid (guardTag s u i tid) =
      (.trap c val 0 atNext, writeNear { s with cur := none } key (leBytes size v) g)) :
    ∃ t, issueUnit i f s = .next t ∧ Wrote s t u key size v g ∧ t.cur = none ∧ t.bundles.find? u.bundle = none ∧ Filed t tid ∧
      t.thread tid = { trapped s tid (unitTrap u i (s.sourceTag tid i) c val 0 atNext (s.thread tid).hasPending) with
        place := .filed } := by
  have hwoken := (writeNear_spec { s with cur := none } key (leBytes size v) g).1
  obtain ⟨hstill, hthread⟩ := h.still_of_woken hwoken
  obtain ⟨hcan, hsource, htrapped⟩ := trap_same_of_woken (i := i) hwoken hthread
  obtain ⟨t, hexec, hl⟩ := issueUnit_alone_trap_still h hstill (hcan hc) hf
  rw [htrapped, hsource, hthread] at hl
  generalize hw : writeNear { s with cur := none } key (leBytes size v) g = w at *
  refine ⟨t, hexec, wrote_of_afterWrite (hw ▸ ⟨hl.rest, hl.bundles, fun k hk => hl.others k ?_⟩), hl.cur, hl.bundle, hl.filed, hl.thread⟩
  rintro rfl
  exact hk h.mem

/-! ## The instructions -/

theorem thread_cur (s : State) (c : Option Issue) (k : Nat) : State.thread { s with cur := c } k = s.thread k := rfl

theorem nearCheck_cur (s : State) (c : Option Issue) (tid : Nat) (base : Tagged Word) (ea : Word) (size : Nat) (load : Bool) :
    nearCheck { s with cur := c } tid base ea size load = nearCheck s tid base ea size load := rfl

theorem nearValue_cur (s : State) (c : Option Issue) (key n : Nat) : nearValue { s with cur := c } key n = found s key n := rfl

theorem waiterKeys_cur (s : State) (c : Option Issue) (core : Nat) : waiterKeys { s with cur := c } core = waiterKeys s core := rfl

/-- `natom` (R171). -/
theorem nearAtomic : Claims.NearAtomic := by
  intro s u tid c d a ord op key hop h
  dsimp only
  intro hok
  rw [← atomicSize_eq] at hok ⊢
  rw [← atomicOperand_eq]
  have hlt := rmwOperand_lt (s.thread tid) d op.toNat
  rw [← atomicSize_eq, ← atomicOperand_eq] at hlt
  have hold : found s key (atomicSize op) < 2 ^ (8 * atomicSize op) := by
    unfold found
    split
    · exact s.mem.readLe_lt _ _
    · exact Nat.two_pow_pos _
  have hnew := atomicNew_eq (x := (atomicOperand (s.thread tid) d op).1) (e := (atomicOperand (s.thread tid) d op).2.1) hop hold
  rw [Nat.mod_eq_of_lt hlt.1, Nat.mod_eq_of_lt hlt.2] at hnew
  rw [show exec (.natom c d a ord op) s = issueUnordered (.natom c d a ord op) _ s from rfl, issueUnordered_alone _ h]
  refine issueUnit_alone_writes h ?_
  dsimp only
  rw [thread_cur, nearCheck_cur, nearCheck_ok hok]
  dsimp only
  rw [nearValue_cur, hnew, atomicResult_eq]
  rfl

/-- `bsig` (R172). -/
theorem signal : Claims.Signal := by
  intro s u tid c a b key h
  dsimp only
  intro hok
  have hrun : exec (.bsig c a b) s = issueUnit (.bsig c a b) _ s := issueUnordered_alone _ h
  have hamount : ((s.thread tid).opb b).val ≠ 0 ↔ ((s.thread tid).opb b).val.toNat ≠ 0 := BitVec.toNat_ne
  rw [hrun]
  refine ⟨fun hfree => issueUnit_alone_writes h (r := .none) ?_, fun hfull hc =>
    issueUnit_alone_writes_trap (c := .barSat) (val := ((s.thread tid).reg a).val) (atNext := true) h hc ?_⟩
  · rw [hamount] at hfree
    dsimp only
    rw [thread_cur, nearCheck_cur, nearCheck_ok hok]
    dsimp only
    rw [nearValue_cur, if_neg (by simpa using hfree)]
  · rw [hamount] at hfull
    dsimp only
    rw [thread_cur, nearCheck_cur, nearCheck_ok hok]
    dsimp only
    rw [nearValue_cur, if_pos (by simpa using hfull)]

/-- A unit of one thread that waits outside its bundle without any other effect. -/
theorem issueUnit_alone_parks {f : Issue → Compute} {w : Wait} {atNext : Bool} (h : Alone s u i tid)
    (hf : f u { s with cur := none } tid (guardTag s u i tid) = (.wait w atNext, { s with cur := none })) :
    ∃ t, issueUnit i f s = .next t ∧ LeftWaiting s t u tid { s.thread tid with
      pc := if atNext then u.next else u.head, place := .waiting w,
      since := if (s.thread tid).retries then (s.thread tid).since else s.time, retries := false } := by
  obtain ⟨t, hexec, hl⟩ := issueUnit_alone_wait h h.still hf
  have hrest := congrArg (fun z : State => { z with cur := s.cur }) hl.rest
  exact ⟨t, hexec, hl.thread, hl.others, hl.bundle, hl.bundles, hrest, hl.cur⟩

/-- A unit of one thread that completes after a change to the thread alone. -/
theorem issueUnit_alone_modThread {f : Issue → Compute} {F : Thread → Thread} {r : Result} (h : Alone s u i tid)
    (hfree : (F (s.thread tid)).request = none)
    (hf : f u { s with cur := none } tid (guardTag s u i tid) = (.done r, State.modThread { s with cur := none } tid F)) :
    ∃ t, issueUnit i f s = .next t ∧ OnlyThreads s t u ∧ Advanced s t u ∧ t.thread tid = (F (s.thread tid)).apply r := by
  have hself : (State.modThread { s with cur := none } tid F).thread tid = F (s.thread tid) := State.thread_modThread_self ..
  obtain ⟨t, hexec, hon⟩ := issueUnit_alone_done h hf rfl (by rw [hself]; exact hfree) (h.issues.alive tid h.mem)
  have hrest := congrArg (fun z : State => { z with threads := s.threads, bundles := s.bundles, cur := s.cur }) hon.rest
  refine ⟨t, hexec, ⟨hrest, fun k hk => ?_, hon.others⟩, h.advanced hon rfl rfl, ?_⟩
  · have hne : k ≠ tid := by
      rintro rfl
      exact hk h.mem
    rw [hon.thread, State.thread_modThread_ne _ _ hne, State.thread_modThread_ne _ _ hne]
    rfl
  · rw [hon.thread, State.thread_modThread_self, hself]

/-- A unit of one thread that is filed again after a change to the thread alone. -/
theorem issueUnit_alone_refile {f : Issue → Compute} {F : Thread → Thread} {pc : Word} {time : Nat} (h : Alone s u i tid)
    (hF : ∀ x, (F x).place = x.place ∧ (F x).request = x.request) (ho : (s.threadGroup tid).offCore = false)
    (hf : f u { s with cur := none } tid (guardTag s u i tid) = (.file pc time, State.modThread { s with cur := none } tid F)) :
    ∃ t, issueUnit i f s = .next t ∧ LeftFiled s t u tid { F (s.thread tid) with pc := pc, runnable := time } := by
  have hself : (State.modThread { s with cur := none } tid F).thread tid = F (s.thread tid) := State.thread_modThread_self ..
  have hstill : Still s (State.modThread { s with cur := none } tid F) u tid :=
    ⟨rfl, by rw [hself, (hF _).1]; exact h.issues.placed tid h.mem, h.issues.alive tid h.mem, rfl,
      by rw [hself, (hF _).2]; exact h.issues.free tid h.mem⟩
  obtain ⟨t, hexec, hl⟩ := issueUnit_alone_file h hstill ho hf
  rw [hself] at hl
  have hrest := congrArg (fun z : State => { z with threads := s.threads, cur := s.cur }) hl.rest
  refine ⟨t, hexec, hl.thread, hl.filed, fun k hk => ?_, hl.bundle, hl.bundles, hl.cores, hrest, hl.cur⟩
  rw [hl.others k hk, State.thread_modThread_ne _ _ hk]
  rfl

/-- `bwait` (R150 to R152, R173). -/
theorem await : Claims.Await := by
  intro s u tid c a b key h
  dsimp only
  intro hok
  have hall : (if c.k = true then u.tids else [tid]) = [tid] := by rw [h.one, ite_self]
  rw [← Thread.pair_val]
  refine ⟨fun hreached => ?_, fun hbelow hentry => ?_, fun hbelow hkey hfull ho => ?_⟩
  · refine issueUnit_alone_modThread (F := fun t => { t with retries := false }) (r := .none) h (h.issues.free tid h.mem) ?_
    dsimp only
    rw [thread_cur, nearCheck_cur, nearCheck_ok hok]
    dsimp only
    rw [nearValue_cur, if_pos hreached, hall]
    rfl
  · refine issueUnit_alone_parks (w := .counter key ((s.thread tid).pair b).val.toNat u.head) (atNext := true) h ?_
    dsimp only
    rw [thread_cur, nearCheck_cur, nearCheck_ok hok]
    dsimp only
    rw [nearValue_cur, if_neg (by omega), waiterKeys_cur, if_pos (by simpa using hentry)]
  · refine issueUnit_alone_refile (F := fun t => { t with since := if t.retries then t.since else s.time, retries := true }) h
      (fun _ => ⟨rfl, rfl⟩) ho ?_
    dsimp only
    rw [thread_cur, nearCheck_cur, nearCheck_ok hok]
    dsimp only
    rw [nearValue_cur, if_neg (by omega), hall, waiterKeys_cur, if_neg (by simp [hkey, hfull])]
    rfl

end Sys2Proof.Machine
end

section
/-! PROOF. What a unit does, before it is executed, about its thread's accesses that are out of their places (R165, R171 to R175, R190,
R290): the fourth part of O15. -/

namespace Sys2Proof.Machine

open Sys2Proof

variable {s t : State} {x : Bundle} {i : Instr} {tid : Nat}

/-! ## Late stores that become visible -/

theorem drainLate_late (s : State) (p : LateStore → Bool) : (drainLate s p).late = s.late.filter fun e => !p e := by
  have := congrArg State.late (drainLate_woken s p).rest
  exact this

theorem drainLate_latent (h : s.latent = []) (p : LateStore → Bool) : (drainLate s p).latent = [] := by
  obtain ⟨q, hq, -⟩ := (drainLate_woken s p).latent
  rw [hq, show State.latent { s with late := _ } = [] from h]
  rfl

/-- Two states that differ in what was read ahead alone. -/
def OnlyEarly (s t : State) : Prop := { t with early := s.early } = s

namespace OnlyEarly

theorem refl (s : State) : OnlyEarly s s := rfl

theorem dropEarly (h : OnlyEarly s t) (p : EarlyLoad → Bool) : OnlyEarly s (dropEarly t p) := h

theorem late (h : OnlyEarly s t) : t.late = s.late := by have := congrArg State.late h; exact this

theorem latent (h : OnlyEarly s t) : t.latent = s.latent := by have := congrArg State.latent h; exact this

theorem acquires (h : OnlyEarly s t) (p : Touch → Bool) (l : List Touch) :
    OnlyEarly s (l.foldl (fun s x => if p x then acquireUpTo s tid (nearRank s tid x.key) else s) t) := by
  induction l generalizing t with
  | nil => exact h
  | cons a l ih =>
    refine ih ?_
    dsimp only
    split
    · exact h.dropEarly _
    · exact h

/-- An acquire drops what was read ahead, and nothing else. -/
theorem acquireBy (h : OnlyEarly s t) (i : Instr) (l : List Touch) : OnlyEarly s (acquireBy t tid i l) := by
  unfold Machine.acquireBy
  split
  · exact h.dropEarly _
  · exact h.dropEarly _
  · split
    · exact h.acquires _ _
    · exact h
  · exact h.acquires _ _
  · split
    · exact h
    · exact h.dropEarly _
  · exact h

end OnlyEarly

/-- An access whose thread has no late store there drops what was read ahead of its bytes. -/
theorem settleBytes_eq {key n : Nat} (h : ∀ e ∈ s.late, e ∉ neededLate tid key n s.late) :
    settleBytes s tid key n = dropEarly s fun e => e.tid = tid && e.meets key n := by
  rw [settleBytes, drainLate_eq_self]
  intro e he
  rw [Bool.eq_false_iff, ne_eq, List.contains_iff_mem]
  exact h e he

theorem settleAll_onlyEarly (h : OnlyEarly s t) (hmine : ∀ e ∈ s.late, e.tid ≠ tid) (l : List Touch) :
    OnlyEarly s (l.foldl (fun s x => settleBytes s tid x.key x.size) t) := by
  induction l generalizing t with
  | nil => exact h
  | cons a l ih =>
    refine ih ?_
    dsimp only
    rw [settleBytes_eq fun e he hn => hmine e (h.late ▸ he) (neededLate_tid hn).2]
    exact h.dropEarly _

/-! ## The order of the unit of one thread, where no error is undetected -/

theorem settleBytes_latent (h : s.latent = []) (key n : Nat) : (settleBytes s tid key n).latent = [] := drainLate_latent h _

theorem settleAll_latent (h : s.latent = []) (l : List Touch) :
    (l.foldl (fun s x => settleBytes s tid x.key x.size) s).latent = [] := by
  induction l generalizing s with
  | nil => exact h
  | cons a l ih => exact ih (settleBytes_latent h _ _)

theorem releaseFor_latent (h : s.latent = []) : (releaseFor s tid i).latent = [] := by
  unfold releaseFor
  split
  · exact drainLate_latent h _
  · split
    · exact drainLate_latent h _
    · split
      · exact drainLate_latent h _
      · exact h

theorem orderThread_latent (h : s.latent = []) (late : Bool) (l : List Touch) : (orderThread i late l s tid).latent = [] := by
  unfold orderThread
  dsimp only
  split
  · exact releaseFor_latent h
  · exact ((OnlyEarly.refl _).acquireBy i l).latent.trans (settleAll_latent (releaseFor_latent h) l)

theorem orderBefore_alone (htids : x.tids = [tid]) (hfin : x.finished = []) (late : Bool) :
    orderBefore s x i late = orderFor i (late && mayBeLate i) s tid [tid] := by
  have hwait : (x.tids.filter fun tid => !x.finished.contains tid) = [tid] := by simp [htids, hfin]
  unfold orderBefore
  rw [hwait]
  split <;> rfl

/-- A guarded-off unit does nothing (R51, R175). -/
theorem orderBefore_guardedOff (htids : x.tids = [tid]) (hfin : x.finished = []) (hlatent : s.latent = [])
    (hoff : actsIn s tid i = false) (late : Bool) : orderBefore s x i late = s := by
  rw [orderBefore_alone htids hfin, orderFor, senseRegisters_eq_self hlatent]
  exact if_neg (by simp [hoff])

theorem orderBefore_acts (htids : x.tids = [tid]) (hfin : x.finished = []) (hlatent : s.latent = [])
    (hacts : actsIn s tid i = true) (late : Bool) :
    orderBefore s x i late = orderThread i (late && mayBeLate i) (touches s tid i) s tid := by
  rw [orderBefore_alone htids hfin, orderFor, senseRegisters_eq_self hlatent]
  dsimp only
  rw [if_pos hacts]
  exact foldl_fixed_of_mem fun y _ => senseTouch_eq_self (orderThread_latent hlatent _ _) _ _ _

theorem orderThread_inPlace (i : Instr) (l : List Touch) (s : State) (tid : Nat) : orderThread i false l s tid =
    acquireBy (l.foldl (fun s x => settleBytes s tid x.key x.size) (releaseFor s tid i)) tid i l := rfl

/-! ## Releases -/

theorem releases_eq (i : Instr) : Claims.releases i = releasesAll i := by
  cases i
  case natom => simp [Claims.releases, releasesAll, ordReleases]
  case atom => simp [Claims.releases, releasesAll, ordReleases]
  all_goals rfl

/-- A releasing unit makes all visible that its thread has stored, and beside that only drops what was read ahead. -/
theorem orderThread_releases (h : Claims.releases i = true) (l : List Touch) :
    OnlyEarly (drainLate s fun e => decide (e.tid = tid)) (orderThread i false l s tid) := by
  have hrelease : releaseFor s tid i = drainLate s fun e => decide (e.tid = tid) := if_pos (releases_eq i ▸ h)
  have hmine : ∀ e ∈ (drainLate s fun e => decide (e.tid = tid)).late, e.tid ≠ tid := fun e he => by
    rw [drainLate_late] at he
    simpa using (List.mem_filter.mp he).2
  rw [orderThread_inPlace, hrelease]
  exact (settleAll_onlyEarly (.refl _) hmine l).acquireBy i l

/-! ## Accesses in their place -/

/-- A unit that does not release finds none of its thread's stores held back by a fence. -/
theorem releaseFor_eq_self (hrel : Claims.releases i = false) (hi : ∀ c, i ≠ .fenceRel c)
    (hfree : ∀ e ∈ s.late, e.tid = tid → e.fenced = false) : releaseFor s tid i = s := by
  have hpass : passFence s tid = s := drainLate_eq_self fun e he => by
    by_cases h : e.tid = tid
    · simp [hfree e he h]
    · simp [h]
  unfold releaseFor
  rw [if_neg (by simp [← releases_eq, hrel])]
  split
  · exact absurd rfl (hi _)
  · split
    · exact hpass
    · rfl

/-- No late store is needed where none of the thread's shares a byte with the access. -/
theorem neededLate_eq_nil {key n : Nat} {l : List LateStore} (h : ∀ e ∈ l, e.tid = tid → e.meets key n = false) :
    neededLate tid key n l = [] := by
  induction l with
  | nil => rfl
  | cons a l ih =>
    rw [neededLate, ih fun e he => h e (List.mem_cons_of_mem _ he)]
    have ha := h a List.mem_cons_self
    by_cases hmine : a.tid = tid
    · simp [ha hmine]
    · simp [hmine]

/-- The near accesses: an atomic, a signal, a wait, a load or a store. -/
inductive IsNear : Instr → Claims.NearShape → Prop
  | natom (c : Ctl) (d a : Reg) (ord : BitVec 2) (op : BitVec 4) :
      IsNear (.natom c d a ord op) ⟨a, fun x => x, if op.toNat = 10 then 8 else 4, false⟩
  | bsig (c : Ctl) (a : Reg) (b : OpB) : IsNear (.bsig c a b) ⟨a, fun x => x, 8, false⟩
  | bwait (c : Ctl) (a b : Reg) : IsNear (.bwait c a b) ⟨a, fun x => x, 8, true⟩
  | load {i : Instr} {x : Claims.LoadShape} (h : Claims.loadShape i = some x) :
      IsNear i ⟨x.base, fun b => nearAddr b x.off x.size, x.size, true⟩
  | store {i : Instr} {x : Claims.StoreShape} (h : Claims.storeShape i = some x) :
      IsNear i ⟨x.base, fun b => nearAddr b x.off x.size, x.size, false⟩

theorem isNear_of_nearShape {y : Claims.NearShape} (hy : Claims.nearShape i = some y) : IsNear i y := by
  unfold Claims.nearShape at hy
  split at hy
  · cases hy
    exact .natom ..
  · cases hy
    exact .bsig ..
  · cases hy
    exact .bwait ..
  · split at hy <;> cases hy
    case h_1 h => exact .load h
    case h_2 h => exact .store h

theorem touches_load {x : Claims.LoadShape} (h : Claims.loadShape i = some x) (s : State) (tid : Nat) :
    touches s tid i = touchAt s tid ((s.thread tid).reg x.base) (nearAddr ((s.thread tid).reg x.base).val x.off x.size) x.size
      true true false := by
  rw [nearAddr_effAddr]
  cases i <;> cases h <;> rfl

theorem touches_store {x : Claims.StoreShape} (h : Claims.storeShape i = some x) (s : State) (tid : Nat) :
    touches s tid i = touchAt s tid ((s.thread tid).reg x.base) (nearAddr ((s.thread tid).reg x.base).val x.off x.size) x.size
      false false true := by
  rw [nearAddr_effAddr]
  cases i <;> cases h <;> rfl

theorem touchAt_ok {base : Tagged Word} {ea : Word} {size key : Nat} {load : Bool} (h : NearOk s tid base ea size load key)
    (reads store : Bool) : touchAt s tid base ea size load reads store = [⟨key, size, reads, store⟩] := by
  unfold touchAt
  rw [nearCheck_ok h]

/-- The bytes that a near access accesses, where its checks pass. -/
theorem touches_near {y : Claims.NearShape} {key : Nat} (hy : IsNear i y)
    (hok : NearOk s tid ((s.thread tid).reg y.base) (y.ea ((s.thread tid).reg y.base).val) y.size y.load key) :
    ∃ reads store, touches s tid i = [⟨key, y.size, reads, store⟩] := by
  cases hy with
  | natom c d a ord op =>
    dsimp only at hok ⊢
    rw [← atomicSize_eq] at hok ⊢
    exact ⟨_, _, touchAt_ok hok _ _⟩
  | bsig => exact ⟨_, _, touchAt_ok hok _ _⟩
  | bwait => exact ⟨_, _, touchAt_ok hok _ _⟩
  | load h =>
    rw [touches_load h]
    exact ⟨_, _, touchAt_ok hok _ _⟩
  | store h =>
    rw [touches_store h]
    exact ⟨_, _, touchAt_ok hok _ _⟩

/-- An access that acquires reaches the ranks up to that of its address (R290). -/
theorem reaches_eq (s : State) (tid key k : Nat) :
    Claims.reaches s tid key k = decide (nearRank s tid k ≤ nearRank s tid key) := by
  unfold Claims.reaches Claims.inBench nearRank
  rw [Bool.eq_iff_iff, Bool.or_eq_true, decide_eq_true_iff, decide_eq_true_iff, Bool.not_eq_true', decide_eq_false_iff_not]
  split <;> split <;> simp_all

theorem loads_dont_acquire {x : Claims.LoadShape} (h : Claims.loadShape i = some x) (key : Nat) (l : List Touch) :
    acquireBy t tid i l = t ∧ Claims.acquires s tid key i = false := by
  cases i <;> cases h <;> exact ⟨rfl, rfl⟩

theorem stores_dont_acquire {x : Claims.StoreShape} (h : Claims.storeShape i = some x) (key : Nat) (l : List Touch) :
    acquireBy t tid i l = t ∧ Claims.acquires s tid key i = false := by
  cases i <;> cases h <;> exact ⟨rfl, rfl⟩

theorem dropEarly_false (s : State) : dropEarly s (fun _ => false) = s := dropEarly_eq_self fun _ _ => rfl

/-- An access that acquires drops what was read ahead at the ranks that it reaches; any other drops nothing. -/
theorem acquireBy_near {y : Claims.NearShape} (hy : IsNear i y) (key : Nat) (reads store : Bool)
    (ht : OnlyEarly s t) : acquireBy t tid i [⟨key, y.size, reads, store⟩] =
      dropEarly t fun e => e.tid = tid && (Claims.acquires s tid key i && Claims.reaches s tid key e.key) := by
  have hrank : ∀ k, nearRank t tid k = nearRank s tid k := fun k => by
    unfold OnlyEarly at ht
    rw [← ht]
    rfl
  have hvalue : ∀ n, nearValue t key n = found s key n := fun n => by
    unfold OnlyEarly at ht
    rw [← ht]
    rfl
  have hthread : t.thread tid = s.thread tid := by
    unfold OnlyEarly at ht
    rw [← ht]
    rfl
  have hup : acquireUpTo t tid (nearRank t tid key) = dropEarly t fun e => e.tid = tid && Claims.reaches s tid key e.key := by
    simp only [acquireUpTo, reaches_eq, hrank]
  have hif : ∀ p, Claims.acquires s tid key i = p → acquireBy t tid i [⟨key, y.size, reads, store⟩] =
      (if p then acquireUpTo t tid (nearRank t tid key) else t) → acquireBy t tid i [⟨key, y.size, reads, store⟩] =
      dropEarly t fun e => e.tid = tid && (Claims.acquires s tid key i && Claims.reaches s tid key e.key) := by
    rintro p hp heq
    rw [heq, hp, hup]
    cases p <;> simp [dropEarly_false]
  cases hy with
  | natom c d a ord op =>
    refine hif (ordAcquires ord) (by simp [Claims.acquires, ordAcquires]) ?_
    cases h : ordAcquires ord <;> simp [acquireBy, h]
  | bsig => exact hif false rfl rfl
  | bwait c a b =>
    refine hif (decide (((s.thread tid).pair b).val.toNat ≤ found s key 8)) ?_ ?_
    · simp [Claims.acquires, Thread.pair_val]
    · simp [acquireBy, hthread, hvalue]
  | load h => exact hif false (loads_dont_acquire (t := t) h key []).2 (loads_dont_acquire (s := s) h key _).1
  | store h => exact hif false (stores_dont_acquire (t := t) h key []).2 (stores_dont_acquire (s := s) h key _).1

/-- A near access in its place (R190): after what its thread has done to the same bytes, and where it acquires before what the thread
reads at the ranks that it reaches. -/
theorem orderThread_near {y : Claims.NearShape} {key : Nat} (hy : Claims.nearShape i = some y) (hrel : Claims.releases i = false)
    (hok : NearOk s tid ((s.thread tid).reg y.base) (y.ea ((s.thread tid).reg y.base).val) y.size y.load key)
    (hlate : ∀ e ∈ s.late, e.tid = tid → e.fenced = false ∧ e.meets key y.size = false) :
    orderThread i false (touches s tid i) s tid = { s with early := s.early.filter fun e =>
      !(e.tid = tid && (e.meets key y.size || (Claims.acquires s tid key i && Claims.reaches s tid key e.key))) } := by
  obtain ⟨reads, store, htouch⟩ := touches_near (isNear_of_nearShape hy) hok
  have hi : ∀ c, i ≠ .fenceRel c := by
    rintro c rfl
    cases hy
  have hnone : neededLate tid key y.size s.late = [] := neededLate_eq_nil fun e he h => (hlate e he h).2
  rw [orderThread_inPlace, htouch, releaseFor_eq_self hrel hi fun e he h => (hlate e he h).1]
  dsimp only [List.foldl_cons, List.foldl_nil]
  rw [settleBytes_eq (by simp [hnone]), acquireBy_near (isNear_of_nearShape hy) key reads store (s := s) ((OnlyEarly.refl s).dropEarly _)]
  unfold dropEarly
  dsimp only
  rw [List.filter_filter]
  congr 1
  refine List.filter_congr fun e _ => ?_
  cases decide (e.tid = tid) <;> simp [Bool.and_comm]

/-! ## The clauses of R165, R175 and R290 -/

theorem filter_not_mine (l : List EarlyLoad) (tid : Nat) :
    (l.filter fun e => !decide (e.tid = tid)) = l.filter fun e => e.tid ≠ tid := List.filter_congr fun e _ => by simp

/-- `fence.acq` drops what was read ahead. -/
theorem orderThread_fenceAcq (c : Ctl) (s : State) (tid : Nat) :
    orderThread (.fenceAcq c) false (touches s tid (.fenceAcq c)) s tid = { s with early := s.early.filter fun e => e.tid ≠ tid } := by
  rw [← filter_not_mine]
  rfl

/-- `fence.ar` does after its release what `fence.acq` does. -/
theorem orderThread_fenceAr (c : Ctl) (s : State) (tid : Nat) :
    (orderThread (.fenceAr c) false (touches s tid (.fenceAr c)) s tid).early =
      (drainLate s fun e => decide (e.tid = tid)).early.filter fun e => e.tid ≠ tid := by
  rw [← filter_not_mine]
  rfl

/-- `fence.rel` makes visible what is in the Bench of the thread, and marks the rest. -/
theorem orderThread_fenceRel (c : Ctl) (s : State) (tid : Nat) :
    orderThread (.fenceRel c) false (touches s tid (.fenceRel c)) s tid =
      let a := drainLate s fun e => decide (e.tid = tid) && Claims.inBench s tid e.key
      { a with late := a.late.map fun e => if decide (e.tid = tid) then { e with fenced := true } else e } := by
  have hbench : (fun e : LateStore => decide (e.tid = tid) && decide (nearRank s tid e.key = 0)) =
      fun e => decide (e.tid = tid) && Claims.inBench s tid e.key := by
    funext e
    unfold nearRank Claims.inBench
    congr 1
    rw [decide_eq_decide]
    split <;> simp_all
  dsimp only
  rw [← hbench]
  simp only [decide_eq_true_iff]
  rfl

theorem orderThread_qrecv (c : Ctl) (d : Reg) (s : State) (tid : Nat) :
    orderThread (.qrecv c d) false (touches s tid (.qrecv c d)) s tid =
      if (s.threadTeam tid).queued = 0 then s else { s with early := s.early.filter fun e => e.tid ≠ tid } := by
  have hrank : ∀ k, nearRank s tid k ≤ 1 := fun k => by
    unfold nearRank
    split <;> omega
  have hall : acquireUpTo s tid 1 = { s with early := s.early.filter fun e => e.tid ≠ tid } := by
    rw [← filter_not_mine, acquireUpTo, dropEarly]
    simp only [hrank, decide_true, Bool.and_true]
  rw [← hall]
  rfl

/-- A rendezvous orders nothing (R165). -/
theorem orderThread_rendezvous {m : Nat} (h : Claims.maskOf i = some m) (s : State) (tid : Nat) :
    orderThread i false (touches s tid i) s tid = s := by
  cases i <;> cases h <;> rfl

theorem mayBeLate_of_load {y : Claims.LoadShape} (h : Claims.loadShape i = some y) (hk : i.ctl.k = false) : mayBeLate i = true := by
  unfold mayBeLate
  rw [hk]
  cases i <;> cases h <;> rfl

theorem mayBeLate_of_store {y : Claims.StoreShape} (h : Claims.storeShape i = some y) (hk : i.ctl.k = false) : mayBeLate i = true := by
  unfold mayBeLate
  rw [hk]
  cases i <;> cases h <;> rfl

theorem orderThread_lateLoad {y : Claims.LoadShape} (h : Claims.loadShape i = some y) (l : List Touch) (s : State) (tid : Nat) :
    orderThread i true l s tid = s := by
  cases i <;> cases h <;> rfl

/-- A store out of its place follows what a `fence.rel` held back. -/
theorem orderThread_lateStore {y : Claims.StoreShape} (h : Claims.storeShape i = some y) (l : List Touch) (s : State) (tid : Nat) :
    orderThread i true l s tid = drainLate s fun e => decide (e.tid = tid) && e.fenced := by
  cases i <;> cases h <;> rfl

/-- The fourth part of O15, a lemma for each clause. -/
theorem unitsAreOrdered : Claims.UnitsAreOrdered := by
  intro s x i tid htids hfin hlatent
  dsimp only
  refine ⟨fun hoff => orderBefore_guardedOff htids hfin hlatent hoff false, fun hacts => ?_⟩
  rw [orderBefore_acts htids hfin hlatent hacts, orderBefore_acts htids hfin hlatent hacts, Bool.false_and, Bool.true_and]
  refine ⟨fun hrel => ?_, ?_, ?_, ?_, ?_, ?_, ?_, ?_, ?_⟩
  · have h := orderThread_releases (s := s) (tid := tid) hrel (touches s tid i)
    exact congrArg (fun z : State => { z with early := s.early }) h
  · rintro c rfl
    exact orderThread_fenceAr c s tid
  · rintro c rfl
    exact orderThread_fenceAcq c s tid
  · rintro c rfl
    exact orderThread_fenceRel c s tid
  · exact fun m hm => orderThread_rendezvous hm s tid
  · exact fun y key hy hrel hok hlate => orderThread_near hy hrel hok hlate
  · rintro c d rfl
    exact orderThread_qrecv c d s tid
  · intro y hy hk
    rw [mayBeLate_of_load hy hk]
    exact orderThread_lateLoad hy _ s tid
  · intro y hy hk
    rw [mayBeLate_of_store hy hk]
    exact orderThread_lateStore hy _ s tid

end Sys2Proof.Machine

namespace Sys2Proof

open Machine

/-- Settles O15: each unit's computation is a write of bytes, a wait or a change of its thread alone, and what comes before a unit is
what its thread's releases, its own bytes and its acquires ask for. -/
theorem nearAtomicsSignalsAndWaits : Obligations.NearAtomicsSignalsAndWaits := by
  unfold Obligations.NearAtomicsSignalsAndWaits
  exact ⟨nearAtomic, signal, await, unitsAreOrdered⟩

end Sys2Proof
end

section
/-! PROOF. Atomics of main memory sent (R64, R248, R286, R304, R305, R318, R343): O24 holds. -/

namespace Sys2Proof.Machine

open Sys2Proof

variable {s a t : State} {u : Issue} {i : Instr} {tid : Nat}

/-! ## Requests (R274, R343) -/

/-- What the unit of a request may change before the request is sent: translation caches, page requests, the count of free values. -/
structure BeforeRequest (s a : State) (w : Nat) : Prop where
  only : ∃ qs ws n, a = { s with quads := qs, worlds := ws, freeCount := n, cur := none }
  seqs : (a.world w).seqs = (s.world w).seqs

namespace BeforeRequest

variable {w : Nat}

theorem bundles (h : BeforeRequest s a w) : a.bundles = s.bundles := by obtain ⟨⟨_, _, _, rfl⟩, -⟩ := h; rfl
theorem nextId (h : BeforeRequest s a w) : a.nextId = s.nextId := by obtain ⟨⟨_, _, _, rfl⟩, -⟩ := h; rfl
theorem requests (h : BeforeRequest s a w) : a.requests = s.requests := by obtain ⟨⟨_, _, _, rfl⟩, -⟩ := h; rfl
theorem refs (h : BeforeRequest s a w) : a.refs = s.refs := by obtain ⟨⟨_, _, _, rfl⟩, -⟩ := h; rfl
theorem mem (h : BeforeRequest s a w) : a.mem = s.mem := by obtain ⟨⟨_, _, _, rfl⟩, -⟩ := h; rfl
theorem cur (h : BeforeRequest s a w) : a.cur = none := by obtain ⟨⟨_, _, _, rfl⟩, -⟩ := h; rfl
theorem thread (h : BeforeRequest s a w) (k : Nat) : a.thread k = s.thread k := by obtain ⟨⟨_, _, _, rfl⟩, -⟩ := h; rfl
theorem isKilled (h : BeforeRequest s a w) (k : Nat) : a.isKilled k = s.isKilled k := by obtain ⟨⟨_, _, _, rfl⟩, -⟩ := h; rfl
theorem threadWorld (h : BeforeRequest s a w) (k : Nat) : a.threadWorld k = s.threadWorld k := by
  obtain ⟨⟨_, _, _, rfl⟩, -⟩ := h; rfl

theorem nextRequest (h : BeforeRequest s a w) (core : Nat) : Claims.nextRequest a w core = Claims.nextRequest s w core := by
  unfold Claims.nextRequest
  rw [h.seqs]

/-- The unit's thread is in its bundle still. -/
theorem still (ha : BeforeRequest s a w) (h : Alone s u i tid) : Still s a u tid :=
  ⟨ha.bundles, by rw [ha.thread]; exact h.issues.placed tid h.mem, by rw [ha.isKilled]; exact h.issues.alive tid h.mem, ha.cur,
    by rw [ha.thread]; exact h.issues.free tid h.mem⟩

end BeforeRequest

/-- A request sent takes the next number, and the next identifier of its world and core; its frame is pinned. -/
theorem newRequest_eq (a : State) (tid core : Nat) (g : Tag) (asked : Asked) (pinned : Option Nat) :
    newRequest a tid core g asked pinned = (a.nextId, { a with
      worlds := a.worlds.insert (a.threadWorld tid) { a.world (a.threadWorld tid) with
        seqs := (a.world (a.threadWorld tid)).seqs.insert core ((a.world (a.threadWorld tid)).seqs.getD core 0 + 1) }
      nextId := a.nextId + 1
      refs := match pinned with
        | some f => (f, 1) :: a.refs
        | none => a.refs
      requests := a.requests.insert a.nextId ⟨a.threadWorld tid, core, tid, Claims.nextRequest a (a.threadWorld tid) core, g, asked,
        pinned, false, false⟩ }) := by
  cases pinned <;> rfl

/-- The state in which a request has been sent. -/
theorem Still.newRequest (h : Still s a u tid) (core : Nat) (g : Tag) (asked : Asked) (pinned : Option Nat) :
    Still s (newRequest a tid core g asked pinned).2 u tid := by
  rw [newRequest_eq]
  exact ⟨h.bundles, h.placed, h.alive, h.cur, h.free⟩

theorem Stays.thread {x : Bundle} (h : Stays a t u x) (k : Nat) : t.thread k = a.thread k :=
  thread_same (by have := congrArg State.threads h.rest; exact this) k

/-- A unit of one thread whose request is sent. -/
theorem issueUnit_alone_requests {f : Issue → Compute} {g : Tag} {asked : Asked} {pinned : Option Nat} (h : Alone s u i tid)
    (ha : BeforeRequest s a (s.threadWorld tid)) (hf : f u { s with cur := none } tid (guardTag s u i tid) =
      (.sent (newRequest a tid u.core g asked pinned).1, (newRequest a tid u.core g asked pinned).2)) :
    ∃ t, issueUnit i f s = .next t ∧ Claims.Requests s t u tid g asked pinned ∧
      t.worlds = (newRequest a tid u.core g asked pinned).2.worlds := by
  obtain ⟨t, hexec, hstay⟩ := issueUnit_alone_sent h ((ha.still h).newRequest u.core g asked pinned) hf
  have hthread := hstay.thread
  have hrest := hstay.rest
  rw [newRequest_eq] at hthread hrest ⊢
  rw [ha.threadWorld, ha.nextRequest, ha.requests, ha.nextId] at hrest
  have hreqs := congrArg State.requests hrest
  have hworlds : t.worlds = a.worlds.insert (s.threadWorld tid) { a.world (s.threadWorld tid) with
      seqs := (a.world (s.threadWorld tid)).seqs.insert u.core ((a.world (s.threadWorld tid)).seqs.getD u.core 0 + 1) } :=
    congrArg State.worlds hrest
  have hrefs := congrArg State.refs hrest
  have hmem := congrArg State.mem hrest
  have hcur := congrArg State.cur hrest
  refine ⟨t, hexec, ⟨⟨?_, fun k hk => ?_, ?_, hcur.trans ha.cur⟩, ?_, fun k hk => ?_, ?_, ?_, hmem.trans ha.mem⟩, ?_⟩
  · rw [hthread, State.thread_modThread_self, ha.nextId]
    exact congrArg (fun z : Thread => { z with request := some s.nextId }) (ha.thread tid)
  · rw [hthread, State.thread_modThread_ne _ _ hk]
    exact ha.thread k
  · exact hstay.bundle
  · exact (congrArg (SMap.find? · s.nextId) hreqs).trans (SMap.find?_insert_self ..)
  · exact (congrArg (SMap.find? · k) hreqs).trans (SMap.find?_insert_ne _ _ hk)
  · unfold State.world
    rw [hworlds, SMap.getD_insert, if_pos rfl, SMap.getD_insert, if_pos rfl, ha.seqs]
    rfl
  · rw [← ha.refs]
    cases pinned <;> exact hrefs
  · rw [ha.threadWorld]
    exact hworlds

end Sys2Proof.Machine
end

section
/-! PROOF. `atom` (R248, R286, R304, R305, R318): O24 holds. -/

namespace Sys2Proof.Machine

open Sys2Proof

variable {s a t : State} {u : Issue} {tid : Nat}

/-! ## What a checked access and a page request change (R248, R261, R318) -/

theorem access_only (s : State) (q w va : Nat) (acc : Access) (l : Bool) : ∃ qs, (access s q w va acc l).2 = { s with quads := qs } := by
  unfold access
  dsimp only
  split
  · exact ⟨_, rfl⟩
  · exact ⟨_, rfl⟩

namespace BeforeRequest

variable {w : Nat}

theorem free (h : BeforeRequest s a w) : BeforeRequest s a.free.2 w := by
  obtain ⟨⟨_, _, _, rfl⟩, hseqs⟩ := h
  exact ⟨⟨_, _, _, rfl⟩, hseqs⟩

theorem requestPage (h : BeforeRequest s a w) (fn k addr : Nat) : BeforeRequest s (requestPage a fn k addr) w := by
  obtain ⟨⟨_, _, _, rfl⟩, hseqs⟩ := h
  refine ⟨⟨_, _, _, rfl⟩, ?_⟩
  rw [← hseqs, Machine.requestPage, State.world_setWorld]
  split
  next heq => rw [heq]
  next => rfl

end BeforeRequest

/-! ## `atom` after its checks (R286, R304, R305) -/

theorem gradeMax_assoc : ∀ x y z : BitVec 2, gradeMax (gradeMax x y) z = gradeMax x (gradeMax y z) := by decide

theorem joinTags_grade (x y z : Tag) : (joinTags [x, y, z]).grade = gradeMax x.grade (y.join z).grade := by
  rw [joinTags_three]
  exact gradeMax_assoc ..

theorem hasAtomicOp_iff (op : BitVec 4) : hasAtomicOp op = true ↔ op.toNat = 0 ∨ op.toNat = 8 ∨ op.toNat = 9 ∨ op.toNat = 10 := by
  simp only [hasAtomicOp, Bool.or_eq_true, decide_eq_true_eq, or_assoc]
  exact or_congr (op_eq_iff op 0 (by decide)) (or_congr (op_eq_iff op 8 (by decide)) (or_congr (op_eq_iff op 9 (by decide))
    (op_eq_iff op 10 (by decide))))

/-- What `atom` does where its checks have passed: its operands, its address in the frame f, its translation, the tag of its access. -/
def atomChecked (s : State) (u : Issue) (tid : Nat) (g : Tag) (d : Reg) (ord : BitVec 2) (op : BitVec 4) (va f : Nat) (tr : Xlat)
    (x e : Nat) (tag : Tag) : UnitResult × State :=
  let key := physKey (tr.phys va)
  let fn := (s.frame f).owner
  if isAperture f && !hasAtomicOp op then (.done (unsupResult d op g), s)
  else if 4096 ≤ outstanding s u.core then (.hold, s)
  else if !isAperture f then
    let r := newRequest s tid u.core g (.atomic key ord op d x e tag tr) (some f)
    (.sent r.1, r.2)
  else if s.free.1 % 2 = 0 then
    let r := newRequest s.free.2 tid u.core g (.hostAtomic key ord op d x e tag va none) (some f)
    (.sent r.1, r.2)
  else match freePageGroup s fn with
    | none => (.hold, s.free.2)
    | some grp =>
      let r := newRequest (requestPage s.free.2 fn grp ((f - apertureLo) * 2 ^ 16)) tid u.core g
        (.hostAtomic key ord op d x e tag va (some (fn, grp))) (some f)
      (.sent r.1, r.2)

theorem firstPoison_none {x y : Tagged Word} (hx : x.tag.poison = false) (hy : y.tag.poison = false) : firstPoison [x, y] = none := by
  simp [firstPoison, hx, hy]

/-- The checks of `atom` passed (R304, R305). -/
theorem execAtom_checked {c : Ctl} {d r : Reg} {ord : BitVec 2} {op : BitVec 4} {va : Nat} {tr : Xlat} {g : Tag}
    (hva : ((s.thread tid).pair r).val.toNat = va) (hlo : ((s.thread tid).reg r).tag.poison = false)
    (hhi : ((s.thread tid).reg (r + 1)).tag.poison = false) (hx : (atomicOperand (s.thread tid) d op).2.2.poison = false)
    (halign : va % atomicSize op = 0) (htr : (access s (quadOf u.core) (s.threadWorld tid) va .atomic false).1 = .ok tr)
    (hgrade : (joinTags [(atomicOperand (s.thread tid) d op).2.2, ((s.thread tid).pair r).tag, g]).grade.toNat ≤
      (entGrade tr.leaf).toNat) :
    ∃ f, (∀ s, exec (.atom c d r ord op) s = issueUnit (.atom c d r ord op) f s) ∧ f u s tid g =
      atomChecked (access s (quadOf u.core) (s.threadWorld tid) va .atomic false).2 u tid g d ord op va
        (tr.phys va / 2 ^ 16) tr (atomicOperand (s.thread tid) d op).1 (atomicOperand (s.thread tid) d op).2.1
        ⟨(joinTags [⟨entGrade tr.leaf, false⟩, ((s.thread tid).pair r).tag, g]).grade, false⟩ := by
  refine ⟨_, fun _ => rfl, ?_⟩
  dsimp only
  rw [hva, firstPoison_none hlo hhi]
  dsimp only
  rw [if_neg (by simp [hx]), if_neg (by simp [halign])]
  generalize access s (quadOf u.core) (s.threadWorld tid) va .atomic false = res at htr ⊢
  obtain ⟨_, acc⟩ := res
  subst htr
  dsimp only
  rw [if_neg (Nat.not_lt.mpr hgrade)]
  rfl

section
variable {g tag : Tag} {d : Reg} {ord : BitVec 2} {op : BitVec 4} {va f x e k : Nat} {tr : Xlat}

/-- A host-aperture page whose operation the host has not (R305). -/
theorem atomChecked_unsup (hf : isAperture f = true) (hop : hasAtomicOp op = false) :
    atomChecked s u tid g d ord op va f tr x e tag = (.done (unsupResult d op g), s) := by
  rw [atomChecked, if_pos (by simp [hf, hop])]

/-- A frame of the package (R304). -/
theorem atomChecked_home (hf : isAperture f = false) (hroom : outstanding s u.core < 4096) :
    atomChecked s u tid g d ord op va f tr x e tag =
      (.sent (newRequest s tid u.core g (.atomic (physKey (tr.phys va)) ord op d x e tag tr) (some f)).1,
        (newRequest s tid u.core g (.atomic (physKey (tr.phys va)) ord op d x e tag tr) (some f)).2) := by
  rw [atomChecked, if_neg (by simp [hf]), if_neg (by omega), if_pos (by simp [hf])]

/-- A host-aperture page (R286, R318): the page may be present, or is asked for from the frame's owner. -/
theorem atomChecked_host (hf : isAperture f = true) (hop : hasAtomicOp op = true) (hroom : outstanding s u.core < 4096)
    (hk : freePageGroup s (s.frame f).owner = some k) :
    ∃ a grp, ((a = s.free.2 ∧ grp = none) ∨
        (a = requestPage s.free.2 (s.frame f).owner k ((f - apertureLo) * 2 ^ 16) ∧ grp = some ((s.frame f).owner, k))) ∧
      atomChecked s u tid g d ord op va f tr x e tag =
        (.sent (newRequest a tid u.core g (.hostAtomic (physKey (tr.phys va)) ord op d x e tag va grp) (some f)).1,
          (newRequest a tid u.core g (.hostAtomic (physKey (tr.phys va)) ord op d x e tag va grp) (some f)).2) := by
  rw [atomChecked, if_neg (by simp [hop]), if_neg (by omega), if_neg (by simp [hf]), hk]
  by_cases hn : s.free.1 % 2 = 0
  · exact ⟨_, _, .inl ⟨rfl, rfl⟩, if_pos hn⟩
  · exact ⟨_, _, .inr ⟨rfl, rfl⟩, if_neg hn⟩

end

theorem BeforeRequest.outstanding {w : Nat} (h : BeforeRequest s a w) (core : Nat) : outstanding a core = outstanding s core := by
  obtain ⟨⟨_, _, _, rfl⟩, -⟩ := h
  rfl

theorem unsupResult_reg {d : Reg} {op : BitVec 4} {g : Tag} (h : op.toNat ≠ 10) : unsupResult d op g = .reg d 0xFFFFFFFF g 0 :=
  if_neg fun he => h ((op_eq_iff op 10 (by decide)).mp he)

/-- A request sent leaves every world's page requests. -/
theorem newRequest_pages (a : State) (tid core : Nat) (g : Tag) (asked : Asked) (pinned : Option Nat) (w : Nat) :
    ((newRequest a tid core g asked pinned).2.world w).pages = (a.world w).pages := by
  rw [newRequest_eq, State.world]
  dsimp only
  rw [SMap.getD_insert]
  split
  next heq => rw [heq]
  next => rfl

/-- A page request asked for stands for its address (R318). -/
theorem requestPage_asked (a : State) (fn k addr : Nat) :
    ((requestPage a fn k addr).world fn).pages.find? (pageKey (a.world fn).inc k) = some addr := by
  rw [requestPage, State.world_setWorld, if_pos rfl]
  exact SMap.find?_insert_self ..

/-- `atom` (R286, R304, R305). -/
theorem atomicSent : Claims.AtomicSent := by
  intro s u tid c d r ord op tr hop h
  dsimp only
  intro hlo hhi hx halign htr hgrade
  obtain ⟨F, hexec, hF⟩ := execAtom_checked (s := { s with cur := none }) (u := u) (tid := tid) (c := c) (d := d) (ord := ord)
    (g := guardTag s u (.atom c d r ord op) tid) ((s.thread tid).pair_val r) hlo hhi
    (by rw [atomicOperand_eq]; exact hx) (by rw [atomicSize_eq]; exact halign) htr
    (by rw [joinTags_grade, Thread.pair_tag, atomicOperand_eq, joinTags_two, ← joinTags_three]; exact hgrade)
  rw [joinTags_grade, Thread.pair_tag, atomicOperand_eq, joinTags_two, ← joinTags_three] at hF
  rw [hexec]
  generalize tr.phys _ / 2 ^ 16 = f at hF ⊢
  obtain ⟨qs, hqs⟩ := access_only { s with cur := none } (quadOf u.core) (s.threadWorld tid)
    (((s.thread tid).reg r).val.toNat + 2 ^ 32 * ((s.thread tid).reg (r + 1)).val.toNat) .atomic false
  have hbefore : BeforeRequest s { s with cur := none, quads := qs } (s.threadWorld tid) := ⟨⟨_, _, _, rfl⟩, rfl⟩
  refine ⟨fun hframe hroom => ?_, fun hframe hhas hroom hgroup => ?_, fun hframe h0 h8 h9 h10 => ?_⟩
  · obtain ⟨t, ht, hreq, -⟩ := issueUnit_alone_requests h hbefore
      (hF.trans ((congrArg (atomChecked · ..) hqs).trans (atomChecked_home hframe hroom)))
    exact ⟨t, ht, hreq⟩
  · obtain ⟨k, hk⟩ := Option.isSome_iff_exists.mp hgroup
    obtain ⟨b, grp, hb, hsent⟩ := atomChecked_host (s := { s with cur := none, quads := qs }) (tid := tid)
      (g := guardTag s u (.atom c d r ord op) tid) (tr := tr) hframe ((hasAtomicOp_iff op).mpr hhas) hroom hk
    have hb' : BeforeRequest s b (s.threadWorld tid) := by
      obtain ⟨rfl, -⟩ | ⟨rfl, -⟩ := hb
      · exact hbefore.free
      · exact hbefore.free.requestPage ..
    obtain ⟨t, ht, hreq, hworlds⟩ := issueUnit_alone_requests h hb' (hF.trans ((congrArg (atomChecked · ..) hqs).trans hsent))
    refine ⟨t, grp, ht, ?_, hreq⟩
    obtain ⟨-, rfl⟩ | ⟨rfl, rfl⟩ := hb
    · exact .inl rfl
    · refine .inr ⟨k, hk, rfl, ?_⟩
      unfold State.world
      rw [hworlds]
      exact (congrArg (SMap.find? · _) (newRequest_pages ..)).trans (requestPage_asked ..)
  · have hop : hasAtomicOp op = false := by
      rw [← Bool.not_eq_true, hasAtomicOp_iff]
      omega
    obtain ⟨t, ht, hon⟩ := issueUnit_alone_done h (hF.trans ((congrArg (atomChecked · ..) hqs).trans (atomChecked_unsup hframe hop)))
      rfl (h.issues.free tid h.mem) (h.issues.alive tid h.mem)
    have hmem := congrArg State.mem hon.rest
    have hreqs := congrArg State.requests hon.rest
    refine ⟨t, ht, h.advanced hon rfl rfl, hmem, hreqs, ?_⟩
    rw [hon.thread, State.thread_modThread_self, unsupResult_reg h10]
    rfl

end Sys2Proof.Machine

namespace Sys2Proof

open Machine

/-- Settles O24: the checks of `atom` passed, one request goes to the home or over the host link, or the operation completes with UNSUP. -/
theorem atomicsSent : Obligations.AtomicsSent := by
  unfold Obligations.AtomicsSent
  exact atomicSent

end Sys2Proof
end

section
/-! PROOF. Answers to requests (R264, R274, R304), the fault log (R314, R315): what the parts of O45 share. -/

namespace Sys2Proof.Machine

open Sys2Proof

variable {s a t : State}

/-! ## Answers -/

/-- One thread takes the answer to a request, if it waits for it. -/
def answerOne (req : Nat) (r : Result) (s : State) (tid : Nat) : State :=
  if (s.thread tid).request == some req then
    let waits := (s.thread tid).place == .waiting (.answer req)
    let s := s.modThread tid fun t => { t.apply r with request := none }
    if waits then wake s tid else s
  else s

/-- Threads and bins change alone. -/
def OnlyTaken (s t : State) : Prop := ∃ ts cs, t = { s with threads := ts, cores := cs }

theorem OnlyTaken.trans {s a t : State} (h : OnlyTaken s a) (h' : OnlyTaken a t) : OnlyTaken s t := by
  obtain ⟨_, _, rfl⟩ := h
  obtain ⟨_, _, rfl⟩ := h'
  exact ⟨_, _, rfl⟩

theorem wake_only (s : State) (tid : Nat) : OnlyTaken s (wake s tid) := by
  obtain ⟨cs, hcs⟩ := wake_spec s tid
  exact hcs ▸ ⟨_, _, rfl⟩

theorem wake_thread_ne (s : State) {tid k : Nat} (h : k ≠ tid) : (wake s tid).thread k = s.thread k := by
  obtain ⟨cs, hcs⟩ := wake_spec s tid
  rw [hcs, State.thread_cores, State.thread_modThread_ne _ _ h]

theorem answerOne_only (req : Nat) (r : Result) (s : State) (tid : Nat) : OnlyTaken s (answerOne req r s tid) := by
  unfold answerOne
  split
  · dsimp only
    split
    · exact OnlyTaken.trans ⟨_, _, rfl⟩ (wake_only ..)
    · exact ⟨_, _, rfl⟩
  · exact ⟨_, _, rfl⟩

/-- Only the thread itself takes the answer. -/
theorem answerOne_ne (req : Nat) (r : Result) (s : State) {tid k : Nat} (h : k ≠ tid) :
    (answerOne req r s tid).thread k = s.thread k := by
  unfold answerOne
  split
  · dsimp only
    split
    · rw [wake_thread_ne _ h, State.thread_modThread_ne _ _ h]
    · rw [State.thread_modThread_ne _ _ h]
  · rfl

/-- A thread that does not wait for the answer takes nothing. -/
theorem answerOne_free (req : Nat) (r : Result) (s : State) {tid : Nat} (h : (s.thread tid).request ≠ some req) :
    answerOne req r s tid = s :=
  if_neg (by simpa using h)

/-- A thread of a bundle takes the answer that it waits for. -/
theorem answerOne_taken {req : Nat} (r : Result) {tid : Nat} (h : (s.thread tid).request = some req)
    (hplace : ∀ w, (s.thread tid).place ≠ .waiting w) :
    (answerOne req r s tid).thread tid = { (s.thread tid).apply r with request := none } := by
  unfold answerOne
  rw [if_pos (by simpa using h)]
  dsimp only
  rw [if_neg (by simpa using hplace _), State.thread_modThread_self]

theorem foldl_answerOne_only (req : Nat) (r : Result) (l : List Nat) (s : State) : OnlyTaken s (l.foldl (answerOne req r) s) := by
  induction l generalizing s with
  | nil => exact ⟨_, _, rfl⟩
  | cons x l ih => exact (answerOne_only ..).trans (ih _)

theorem foldl_answerOne_free (req : Nat) (r : Result) (l : List Nat) (s : State) {tid : Nat} (h : (s.thread tid).request ≠ some req) :
    (l.foldl (answerOne req r) s).thread tid = s.thread tid := by
  induction l generalizing s with
  | nil => rfl
  | cons x l ih =>
    have hx : (answerOne req r s x).thread tid = s.thread tid := by
      by_cases hxt : tid = x
      · rw [← hxt, answerOne_free _ _ _ h]
      · exact answerOne_ne _ _ _ hxt
    rw [List.foldl_cons, ih _ (by rw [hx]; exact h), hx]

theorem foldl_answerOne_taken {req : Nat} (r : Result) (l : List Nat) (s : State) {tid : Nat} (hmem : tid ∈ l)
    (h : (s.thread tid).request = some req) (hplace : ∀ w, (s.thread tid).place ≠ .waiting w) :
    (l.foldl (answerOne req r) s).thread tid = { (s.thread tid).apply r with request := none } := by
  induction l generalizing s with
  | nil => nomatch hmem
  | cons x l ih =>
    rw [List.foldl_cons]
    by_cases hxt : tid = x
    · subst hxt
      have htaken := answerOne_taken r h hplace
      rw [foldl_answerOne_free _ _ _ _ (by rw [htaken]; nofun), htaken]
    · have hx := answerOne_ne req r s hxt
      rw [ih _ ((List.mem_cons.mp hmem).resolve_left hxt) (by rw [hx]; exact h) (by rw [hx]; exact hplace), hx]

theorem SMap.find?_of_not_mem_keys {α : Type} {m : SMap α} {x : Nat} (h : x ∉ m.keys) : m.find? x = none := by
  induction m with
  | nil => rfl
  | cons e m ih =>
    exact (if_neg (List.ne_of_not_mem_cons h).symm).trans (ih (List.not_mem_of_not_mem_cons h))

/-- A thread with a request is listed. -/
theorem mem_keys_of_request {req tid : Nat} (h : (s.thread tid).request = some req) : tid ∈ s.threads.keys := by
  by_contra hmem
  rw [State.thread, SMap.getD, SMap.find?_of_not_mem_keys hmem] at h
  nomatch h

theorem answerRequest_eq (s : State) (req : Nat) (q : Request) (r : Result) :
    ∃ rs, answerRequest s req q r =
      s.threads.keys.foldl (answerOne req r) { s with requests := s.requests.erase req, refs := rs } := by
  unfold answerRequest
  cases q.pin <;> exact ⟨_, rfl⟩

/-- What answering a request changes: threads, bins, the request and its pin. -/
theorem answerRequest_only (s : State) (req : Nat) (q : Request) (r : Result) :
    ∃ ts cs rs, answerRequest s req q r = { s with threads := ts, cores := cs, refs := rs, requests := s.requests.erase req } := by
  obtain ⟨rs, hanswer⟩ := answerRequest_eq s req q r
  obtain ⟨ts, cs, hfold⟩ := foldl_answerOne_only req r s.threads.keys { s with requests := s.requests.erase req, refs := rs }
  exact ⟨ts, cs, rs, hanswer.trans hfold⟩

/-- The threads that wait for a request take its answer. -/
theorem answerRequest_answered (s : State) (req : Nat) (q : Request) (r : Result) :
    Claims.Answered s (answerRequest s req q r) req r := by
  refine ⟨?_, fun tid h hplace => ?_⟩
  · obtain ⟨ts, cs, rs, honly⟩ := answerRequest_only s req q r
    rw [honly]
    exact SMap.find?_erase_self ..
  · obtain ⟨rs, hanswer⟩ := answerRequest_eq s req q r
    rw [hanswer]
    exact foldl_answerOne_taken r _ _ (mem_keys_of_request h) h hplace

/-- A step whose change leaves the threads answers them as they were. -/
theorem answered_of_threads {req : Nat} {q : Request} {r : Result} (h : a.threads = s.threads) :
    Claims.Answered s (answerRequest a req q r) req r := by
  obtain ⟨hgone, htaken⟩ := answerRequest_answered a req q r
  refine ⟨hgone, fun tid => ?_⟩
  rw [← thread_same h]
  exact htaken tid

/-! ## The fault log (R314, R315) -/

theorem countHbm_only (s : State) (w key n : Nat) : ∃ asr, countHbm s w key n = { s with assayer := asr } := by
  unfold countHbm
  split
  · exact ⟨_, rfl⟩
  · exact ⟨_, rfl⟩

/-- The 64 bytes of an entry of the fault log (R315). -/
@[irreducible] def logBytes (e : LogEntry) (time : DWord) (drops : Nat) : List Byte :=
  leBytes 4 (e.kind + 256 * (e.detail % 256)) ++ leBytes 4 e.at_.toNat ++ leBytes 8 e.reqid.toNat ++ leBytes 8 e.addr ++
    [BitVec.ofNat 8 e.opc] ++ List.replicate 7 0 ++ leBytes 8 time.toNat ++ leBytes 4 drops ++ List.replicate 20 0

/-- An entry that its ring has no room for is counted (R315). -/
theorem logFault_dropped {w : Nat} {e : LogEntry} {time : DWord}
    (h : ringPage s w (s.world w).flbase false = none ∨ (s.world w).flhead - (s.world w).fltail = 1024) :
    logFault s w e time = s.setWorld w { s.world w with drops := min ((s.world w).drops + 1) (2 ^ 32 - 1) } := by
  unfold logFault
  dsimp only
  split
  next => rfl
  next hpage => exact if_pos (h.resolve_left (by rw [hpage]; nofun))

/-- An entry with room is written, and the world told (R314, R315). -/
theorem logFault_written {w pa : Nat} {g : BitVec 2} {e : LogEntry} {time : DWord}
    (hpage : ringPage s w (s.world w).flbase false = some (pa, g)) (hroom : (s.world w).flhead - (s.world w).fltail ≠ 1024) :
    ∃ asr, logFault s w e time = raiseMsix (State.setWorld
      { writeMain s (physKey (pa + 64 * ((s.world w).flhead.toNat % 1024))) (logBytes e time (s.world w).drops) with assayer := asr } w
      { s.world w with flhead := (s.world w).flhead + 1, drops := 0 }) w 1 := by
  obtain ⟨asr, hcount⟩ := countHbm_only
    (writeMain s (physKey (pa + 64 * ((s.world w).flhead.toNat % 1024))) (logBytes e time (s.world w).drops)) w
    (physKey (pa + 64 * ((s.world w).flhead.toNat % 1024))) 64
  refine ⟨asr, ?_⟩
  rw [← hcount]
  unfold logFault logBytes
  dsimp only
  rw [hpage, Nat.mul_comm 256]
  exact if_neg hroom

/-- What an entry of the fault log changes: memory, its world's counts, the messages, what is counted of the slices. -/
theorem logFault_only (s : State) (w : Nat) (e : LogEntry) (time : DWord) :
    ∃ m b ws asr x, logFault s w e time = { s with mem := m, bad := b, worlds := ws, assayer := asr, msix := x } := by
  by_cases hfull : ringPage s w (s.world w).flbase false = none ∨ (s.world w).flhead - (s.world w).fltail = 1024
  · rw [logFault_dropped hfull]
    exact ⟨_, _, _, _, _, rfl⟩
  · obtain ⟨hpage, hroom⟩ := not_or.mp hfull
    obtain ⟨⟨pa, g⟩, hpage⟩ := Option.ne_none_iff_exists'.mp hpage
    obtain ⟨asr, hwritten⟩ := logFault_written hpage hroom
    rw [hwritten]
    exact ⟨_, _, _, _, _, rfl⟩

/-- An entry is written, or dropped and counted (R315). -/
theorem logFault_logs (s : State) (w : Nat) (e : LogEntry) (time : DWord) :
    Claims.Logs s (logFault s w e time) w e.kind e.detail e.at_ e.reqid e.addr e.opc time := by
  refine ⟨fun pa g hpage hroom => ?_, fun hfull => ?_⟩
  · obtain ⟨asr, hwritten⟩ := logFault_written hpage hroom
    have hmem : (logFault s w e time).mem =
        s.mem.writeBytes (physKey (pa + 64 * ((s.world w).flhead.toNat % 1024))) (logBytes e time (s.world w).drops) :=
      congrArg State.mem hwritten
    refine ⟨hmem.trans (by rw [logBytes]), ?_⟩
    rw [hwritten]
    refine ⟨?_, ?_, List.mem_cons_self⟩
    · exact congrArg World.flhead ((State.world_setWorld ..).trans (if_pos rfl))
    · exact congrArg World.drops ((State.world_setWorld ..).trans (if_pos rfl))
  · rw [logFault_dropped hfull]
    refine ⟨rfl, ?_, ?_⟩ <;> rw [State.world_setWorld, if_pos rfl]

/-- What changes none of memory, worlds and messages leaves the entry. -/
theorem Logs.of_same {w kind detail addr opc : Nat} {at_ : Word} {reqid time : DWord}
    (h : Claims.Logs s a w kind detail at_ reqid addr opc time) (hmem : t.mem = a.mem) (hworlds : t.worlds = a.worlds)
    (hmsix : t.msix = a.msix) : Claims.Logs s t w kind detail at_ reqid addr opc time := by
  have hworld : t.world w = a.world w := by
    unfold State.world
    rw [hworlds]
  obtain ⟨hwritten, hdropped⟩ := h
  refine ⟨?_, ?_⟩
  · rw [hmem, hworld, hmsix]
    exact hwritten
  · rw [hmem, hworld]
    exact hdropped

end Sys2Proof.Machine
end

section
/-! PROOF. Atomics performed at home and by the host, and lost by the host link (R64, R94, R283 to R286, R304, R305, R369): the first three
parts of O45. -/

namespace Sys2Proof.Machine

open Sys2Proof

variable {s a t : State}

/-! ## Owned lines and the predictor (R283, R378) -/

/-- Quads, references, slices and what is counted of them change alone. -/
def OnlyPlace (s t : State) : Prop := ∃ qs asr rs sl, t = { s with quads := qs, assayer := asr, refs := rs, slices := sl }

theorem OnlyPlace.refl (s : State) : OnlyPlace s s := ⟨_, _, _, _, rfl⟩

theorem OnlyPlace.trans (h : OnlyPlace s a) (h' : OnlyPlace a t) : OnlyPlace s t := by
  obtain ⟨_, _, _, _, rfl⟩ := h
  obtain ⟨_, _, _, _, rfl⟩ := h'
  exact ⟨_, _, _, _, rfl⟩

theorem OnlyPlace.countHbm (h : OnlyPlace s a) (w key n : Nat) : OnlyPlace s (countHbm a w key n) := by
  obtain ⟨asr, hcount⟩ := countHbm_only a w key n
  exact h.trans (hcount ▸ ⟨_, _, _, _, rfl⟩)

theorem OnlyPlace.setQuad (h : OnlyPlace s a) (q : Nat) (x : Quad) : OnlyPlace s (a.setQuad q x) := h.trans ⟨_, _, _, _, rfl⟩

theorem recallFrom_place (s : State) (q k : Nat) : OnlyPlace s (recallFrom s q k) := by
  unfold recallFrom
  split
  · exact ((OnlyPlace.refl s).setQuad ..).countHbm .. |>.trans ⟨_, _, _, _, rfl⟩
  · exact .refl s

theorem recallLine_place (s : State) (k : Nat) : OnlyPlace s (recallLine s k) := by
  unfold recallLine
  generalize owners s k = l
  induction l generalizing s with
  | nil => exact .refl s
  | cons q l ih => exact (recallFrom_place s q k).trans (ih _)

theorem predict_place (s : State) (k q : Nat) : OnlyPlace s (predict s k q).2 := ⟨_, _, _, _, rfl⟩

theorem grantLine_place (s : State) (k q : Nat) (via : Xlat) : OnlyPlace s (grantLine s k q via) := by
  have hpin : OnlyPlace s (countHbm (pin s (k / 512)) via.world (k * 128) 128) := OnlyPlace.countHbm ⟨_, _, _, _, rfl⟩ ..
  unfold grantLine
  dsimp only
  split
  · exact hpin.setQuad ..
  · split
    · exact (hpin.trans (recallFrom_place ..)).setQuad ..
    · exact hpin.setQuad ..

/-- The place of an atomic is found without a change of memory or of a thread. -/
theorem atomicPlace_place (s : State) (k q : Nat) (via : Xlat) : OnlyPlace s (atomicPlace s k q via) := by
  have hpredict := (recallLine_place s k).trans (predict_place (recallLine s k) k q)
  unfold atomicPlace
  dsimp only
  split
  · exact (OnlyPlace.refl s).setQuad ..
  · split
    · exact hpredict.trans (grantLine_place ..)
    · exact hpredict

/-! ## ATOMIC_AT_HOME (R64, R283 to R285, R290, R304) -/

theorem nearRank_le_pageRank (s : State) (tid key : Nat) (leaf : DWord) : nearRank s tid key ≤ pageRank leaf := by
  have hrank : nearRank s tid key ≤ 1 := by
    unfold nearRank
    split <;> omega
  exact hrank.trans (Nat.le_add_left ..)

/-- The bytes that an atomic has written, before its threads are answered. -/
theorem atomicWritten_only (s : State) (k q : Nat) (via : Xlat) (key w n : Nat) (bytes : List Byte) :
    ∃ qs asr rs sl b, countHbm (writeMain (atomicPlace s k q via) key bytes) w key n =
      { s with quads := qs, assayer := asr, refs := rs, slices := sl, bad := b, mem := s.mem.writeBytes key bytes } := by
  obtain ⟨qs, asr, rs, sl, hplace⟩ := atomicPlace_place s k q via
  obtain ⟨asr', hcount⟩ := countHbm_only (writeMain (atomicPlace s k q via) key bytes) w key n
  rw [hcount, hplace]
  exact ⟨_, _, _, _, _, rfl⟩

/-- The acquire of the threads that wait for a request drops all that was read ahead for them, where it reaches the near ranks. -/
theorem acquireFor_early (s : State) (req : Nat) (leaf : DWord) :
    acquireFor s req (pageRank leaf) = { s with early := s.early.filter fun e => (s.thread e.tid).request ≠ some req } := by
  unfold acquireFor dropEarly
  congr 1
  refine List.filter_congr fun e _ => ?_
  simp [nearRank_le_pageRank, beq_eq_decide]

/-- The read-modify-write of R64 as the statements write it. -/
theorem atomicNew_of_memory {op : BitVec 4} (hop : op.toNat < 12) (m : Memory) (key x e : Nat) :
    atomicNew op (m.readLe key (atomicSize op)) x e =
      (Claims.rmw op.toNat (m.readLe key (atomicSize op)) (x % 2 ^ (8 * atomicSize op)) (e % 2 ^ 32),
        rmwFlags op.toNat (m.readLe key (atomicSize op)) x) :=
  atomicNew_eq hop (m.readLe_lt _ _)

/-- What ATOMIC_AT_HOME does before the threads take the result. -/
theorem execAtomicAtHome_performs {req key x e : Nat} {r : Request} {op : BitVec 4} {ord : BitVec 2} {d : Reg} {tag : Tag} {via : Xlat}
    (hop : op.toNat < 12) (hfind : s.requests.find? req = some r) (hasked : r.asked = .atomic key ord op d x e tag via) :
    let size := atomicSize op
    let old := s.mem.readLe key size
    ∃ a, execAtomicAtHome req s =
        .next (answerRequest a req r (Claims.rmwResult d op.toNat old x ⟨tag.grade, isBad s key size⟩)) ∧
      a.mem = s.mem.writeBytes key (leBytes size (Claims.rmw op.toNat old (x % 2 ^ (8 * size)) (e % 2 ^ 32))) ∧
      a.threads = s.threads ∧ a.lines = s.lines ∧
      a.early = if ordAcquires ord then s.early.filter (fun e => (s.thread e.tid).request ≠ some req) else s.early := by
  dsimp only
  obtain ⟨qs, asr, rs, sl, hplace⟩ := atomicPlace_place s (key / 128) (quadOf r.core) via
  have hmem : (atomicPlace s (key / 128) (quadOf r.core) via).mem = s.mem := by rw [hplace]
  have hbad : isBad (atomicPlace s (key / 128) (quadOf r.core) via) key (atomicSize op) = isBad s key (atomicSize op) := by
    rw [hplace]
    rfl
  obtain ⟨qs, asr, rs, sl, b, hwritten⟩ := atomicWritten_only s (key / 128) (quadOf r.core) via key r.world
    (if ownsLine s (quadOf r.core) (key / 128) then 0 else 2 * atomicSize op) (leBytes (atomicSize op)
      (Claims.rmw op.toNat (s.mem.readLe key (atomicSize op)) (x % 2 ^ (8 * atomicSize op)) (e % 2 ^ 32)))
  unfold execAtomicAtHome
  rw [hfind]
  dsimp only
  rw [hasked]
  dsimp only
  rw [hmem, hbad, atomicNew_of_memory hop, atomicResult_eq, hwritten]
  refine ⟨_, rfl, ?_⟩
  cases ordAcquires ord with
  | false => exact ⟨rfl, rfl, rfl, rfl⟩
  | true =>
    rw [if_pos rfl, if_pos rfl, acquireFor_early]
    exact ⟨rfl, rfl, rfl, rfl⟩

/-- ATOMIC_AT_HOME. -/
theorem atomicsPerformed : Claims.AtomicsPerformed := by
  intro s req key x e r op ord d tag via hop hfind hasked
  dsimp only
  rw [← atomicSize_eq]
  obtain ⟨a, hexec, hmem, hthreads, hlines, hearly⟩ := execAtomicAtHome_performs hop hfind hasked
  obtain ⟨ts, cs, rs, honly⟩ := answerRequest_only a req r
    (Claims.rmwResult d op.toNat (s.mem.readLe key (atomicSize op)) x ⟨tag.grade, isBad s key (atomicSize op)⟩)
  have hanswered := answered_of_threads (q := r) (req := req)
    (r := Claims.rmwResult d op.toNat (s.mem.readLe key (atomicSize op)) x ⟨tag.grade, isBad s key (atomicSize op)⟩) hthreads
  rw [honly] at hexec hanswered
  exact ⟨_, hexec, hmem, hanswered, hlines, hearly⟩

/-! ## HOST_ATOMIC_COMPLETION (R286, R305, R369) -/

theorem hostAcquire_only (s : State) (req : Nat) (r : Request) : ∃ es, hostAcquire s req r = { s with early := es } := by
  unfold hostAcquire
  split
  · split
    · exact ⟨_, rfl⟩
    · exact ⟨_, rfl⟩
  · exact ⟨_, rfl⟩

/-- A host atomic that is no replay entry completes at once: its threads take the result. -/
theorem giveHostResult_spec {req : Nat} {r : Request} (hreplay : r.replay = false) (hthreads : a.threads = s.threads) (res : Result)
    (late : Late) : (∃ ts cs rs qs es, giveHostResult a req r res late =
        { a with threads := ts, cores := cs, refs := rs, requests := qs, early := es }) ∧
      Claims.Answered s (giveHostResult a req r res late) req res := by
  have hgive : giveHostResult a req r res late = answerRequest (hostAcquire a req r) req r res := by
    unfold giveHostResult
    rw [hreplay]
    rfl
  obtain ⟨es, hacquire⟩ := hostAcquire_only a req r
  rw [hgive, hacquire]
  obtain ⟨ts, cs, rs, honly⟩ := answerRequest_only { a with early := es } req r res
  exact ⟨⟨ts, cs, rs, _, es, honly⟩, answered_of_threads hthreads⟩

/-- The host's completion of an atomic that the link has not lost. -/
theorem execHostAtomicCompletion_eq {req key x e va : Nat} {r : Request} {ord : BitVec 2} {op : BitVec 4} {d : Reg} {tag : Tag}
    (hfind : s.requests.find? req = some r) (hasked : r.asked = .hostAtomic key ord op d x e tag va none)
    (hlate : (s.world r.world).late = []) (code : BitVec 3) : execHostAtomicCompletion req code s =
      if code = 0 then
        .next (giveHostResult (writeMain s key (leBytes (atomicSize op) (atomicNew op (s.mem.readLe key (atomicSize op)) x e).1)) req r
          (atomicResult d op (s.mem.readLe key (atomicSize op)) tag 0) (.value (s.mem.readLe key (atomicSize op))))
      else if code = 1 || code = 4 then
        .next (giveHostResult (logHostAtomic s r code ord op va) req r (unsupResult d op r.guard) .unsup)
      else .next s := by
  unfold execHostAtomicCompletion
  rw [hfind]
  dsimp only
  rw [hasked]
  dsimp only
  rw [hlate]
  rfl

/-- Only `add.f32` raises flags (R64). -/
theorem rmwFlags_host {op : Nat} (h : op = 0 ∨ op = 8 ∨ op = 9 ∨ op = 10) (old x : Nat) : rmwFlags op old x = 0 :=
  if_neg (by omega)

theorem unsupResult_eq (d : Reg) (op : BitVec 4) (g : Tag) :
    unsupResult d op g = if op.toNat = 10 then .pair d 0xFFFFFFFFFFFFFFFF g else .reg d 0xFFFFFFFF g 0 :=
  if_congr (op_eq_iff op 10 (by decide)) rfl rfl

theorem logHostAtomic_logs (s : State) (r : Request) (code : BitVec 3) (ord : BitVec 2) (op : BitVec 4) (va : Nat) :
    Claims.Logs s (logHostAtomic s r code ord op va) r.world 0x40 code.toNat (whereWord s r.tid) r.reqid va
      (ord.toNat * 64 + op.toNat * 4) (s.cyc (r.reqid.toNat / 2 ^ 48 % 1024)) := by
  have hcore : (r.reqid.extractLsb' 48 10).toNat = r.reqid.toNat / 2 ^ 48 % 1024 := by
    rw [BitVec.extractLsb'_toNat, Nat.shiftRight_eq_div_pow]
  rw [← hcore]
  exact logFault_logs ..

/-- HOST_ATOMIC_COMPLETION. -/
theorem hostAtomicsComplete : Claims.HostAtomicsComplete := by
  intro s req key x e va r ord op d tag hfind hasked hreplay hlate hop
  dsimp only
  rw [← atomicSize_eq]
  have hexec := execHostAtomicCompletion_eq hfind hasked hlate
  refine ⟨?_, fun code hcode => ?_⟩
  · have hnew := atomicNew_of_memory (op := op) (by omega) s.mem key x e
    have hresult := atomicResult_eq d op (s.mem.readLe key (atomicSize op)) x tag
    rw [rmwFlags_host hop] at hresult
    have hdone := (hexec 0).trans (if_pos rfl)
    rw [hnew, hresult] at hdone
    obtain ⟨⟨ts, cs, rs, qs, es, honly⟩, hanswered⟩ := giveHostResult_spec (s := s) (a := writeMain s key (leBytes (atomicSize op)
      (Claims.rmw op.toNat (s.mem.readLe key (atomicSize op)) (x % 2 ^ (8 * atomicSize op)) (e % 2 ^ 32)))) (req := req) hreplay rfl
      (Claims.rmwResult d op.toNat (s.mem.readLe key (atomicSize op)) x tag) (.value (s.mem.readLe key (atomicSize op)))
    refine ⟨_, hdone, ?_, hanswered⟩
    rw [honly]
    rfl
  · rw [← unsupResult_eq]
    have hne : code ≠ 0 := by obtain rfl | rfl := hcode <;> decide
    have hdone := (hexec code).trans ((if_neg hne).trans (if_pos (by simpa using hcode)))
    have hthreads : (logHostAtomic s r code ord op va).threads = s.threads := by
      obtain ⟨_, _, _, _, _, hlog⟩ := logFault_only s r.world
        { kind := 0x40, detail := code.toNat, at_ := whereWord s r.tid, reqid := r.reqid, addr := va
          opc := ord.toNat * 64 + op.toNat * 4 } (s.cyc (r.reqid.extractLsb' 48 10).toNat)
      rw [logHostAtomic, hlog]
    obtain ⟨⟨ts, cs, rs, qs, es, honly⟩, hanswered⟩ := giveHostResult_spec (req := req) hreplay hthreads
      (unsupResult d op r.guard) .unsup
    refine ⟨_, hdone, hanswered, Logs.of_same (logHostAtomic_logs s r code ord op va) ?_ ?_ ?_⟩
    all_goals rw [honly]

/-! ## HOST_LINK (R94, R126, R305) -/

/-- An asynchronous cause that is not pending yet becomes so (R91). -/
theorem makePending_spec {tid : Nat} {c : Cause} (val : Word) (hlive : (s.thread tid).place ≠ .ended)
    (hnew : ∀ e ∈ (s.thread tid).pending, e.1 ≠ c) :
    (∃ ts gs, makePending s tid c val = { s with threads := ts, groups := gs }) ∧
      (∀ k, k ≠ tid → (makePending s tid c val).thread k = s.thread k) ∧
      (makePending s tid c val).thread tid = { s.thread tid with pending := (s.thread tid).pending ++ [(c, val)] } := by
  have hnone : (s.thread tid).pending.any (·.1 == c) = false := by
    rw [List.any_eq_false]
    exact fun e he => by simpa using hnew e he
  have hpending : ∃ gs, makePending s tid c val =
      { s.setThread tid { s.thread tid with pending := (s.thread tid).pending ++ [(c, val)] } with groups := gs } := by
    unfold makePending
    dsimp only
    rw [if_neg (by simpa using hlive), hnone, if_neg Bool.false_ne_true]
    split
    · exact ⟨_, rfl⟩
    · exact ⟨_, rfl⟩
  obtain ⟨gs, hpending⟩ := hpending
  rw [hpending]
  exact ⟨⟨_, _, rfl⟩, fun k hk => State.thread_setThread_ne s _ hk, State.thread_setThread_self ..⟩

/-- The host link loses a service call: its request is gone, and its thread is filed, or halted with its world (R94, R345). -/
theorem loseService_eq {id : Nat} {v : Service} {head : Word} (hplace : (s.thread v.tid).place = .waiting (.service id head))
    (hnew : ∀ e ∈ (s.thread v.tid).pending, e.1 ≠ .hostLink) :
    ∃ a, (∃ ts gs, a = { s with threads := ts, services := s.services.erase id, groups := gs }) ∧
      (∀ k, k ≠ v.tid → a.thread k = s.thread k) ∧
      a.thread v.tid = { s.thread v.tid with pending := (s.thread v.tid).pending ++ [(.hostLink, v.reqid.setWidth 32)] } ∧
      loseService s id v = if 3 ≤ (s.world v.world).stat
        then State.modThread a v.tid fun t => { t with pc := head, place := .waiting .halted }
        else wake (State.modThread a v.tid fun t => { t with pc := head }) v.tid := by
  have hplace' : (State.thread { s with services := s.services.erase id } v.tid).place = .waiting (.service id head) := hplace
  obtain ⟨⟨ts, gs, hpending⟩, hothers, hself⟩ := makePending_spec (s := { s with services := s.services.erase id }) (tid := v.tid)
    (c := .hostLink) (v.reqid.setWidth 32) (by rw [hplace']; nofun) hnew
  refine ⟨_, ⟨ts, gs, hpending⟩, hothers, hself, ?_⟩
  unfold loseService
  dsimp only
  rw [hplace']
  dsimp only
  rw [if_neg (by simp), hpending]
  exact if_congr Iff.rfl rfl rfl

/-- A service call lost. -/
theorem serviceLost {id : Nat} {v : Service} {head : Word} (hfind : s.services.find? id = some v)
    (hplace : (s.thread v.tid).place = .waiting (.service id head)) (hnew : ∀ e ∈ (s.thread v.tid).pending, e.1 ≠ .hostLink) :
    Claims.Gives (.hostLink id) s fun t => t.services.find? id = none ∧ t.mem = s.mem ∧
      (∀ k, k ≠ v.tid → t.thread k = s.thread k) ∧
      t.thread v.tid = (if 3 ≤ (s.world v.world).stat then { s.thread v.tid with
          pc := head, place := .waiting .halted, pending := (s.thread v.tid).pending ++ [(.hostLink, v.reqid.setWidth 32)] }
        else { s.thread v.tid with
          pc := head, place := .filed, runnable := s.time
          pending := (s.thread v.tid).pending ++ [(.hostLink, v.reqid.setWidth 32)] }) := by
  obtain ⟨a, ⟨ts, gs, ha⟩, hothers, hself, hlose⟩ := loseService_eq hplace hnew
  have hservices : a.services.find? id = none := by
    rw [ha]
    exact SMap.find?_erase_self ..
  have hmem : a.mem = s.mem := by rw [ha]
  have htime : a.time = s.time := by rw [ha]
  have hexec : exec (.hostLink id) s = .next (loseService s id v) := by
    show execHostLink id s = _
    unfold execHostLink
    rw [hfind]
  refine ⟨_, hexec, ?_⟩
  rw [hlose]
  split
  · refine ⟨hservices, hmem, fun k hk => ?_, ?_⟩
    · rw [State.thread_modThread_ne _ _ hk, hothers k hk]
    · rw [State.thread_modThread_self, hself]
  · obtain ⟨cs, hwake⟩ := wake_spec (State.modThread a v.tid fun t => { t with pc := head }) v.tid
    rw [hwake]
    refine ⟨hservices, hmem, fun k hk => ?_, ?_⟩
    · rw [State.thread_cores, State.thread_modThread_ne _ _ hk, State.thread_modThread_ne _ _ hk, hothers k hk]
    · rw [State.thread_cores, State.thread_modThread_self, State.thread_modThread_self, hself, ← htime]
      rfl

/-- A host atomic lost. -/
theorem atomicLost {req key x e va : Nat} {r : Request} {ord : BitVec 2} {op : BitVec 4} {d : Reg} {tag : Tag}
    (hservice : s.services.find? req = none) (hfind : s.requests.find? req = some r)
    (hasked : r.asked = .hostAtomic key ord op d x e tag va none) (hreplay : r.replay = false)
    (hreq : (s.thread r.tid).request = some req) (hplace : ∀ w, (s.thread r.tid).place ≠ .waiting w)
    (hlive : (s.thread r.tid).place ≠ .ended) (hnew : ∀ c ∈ (s.thread r.tid).pending, c.1 ≠ .hostLink)
    (hlate : ∀ l ∈ (s.world r.world).late, l.1 ≠ req) :
    Claims.Gives (.hostLink req) s fun t => t.mem = s.mem ∧ t.requests.find? req = none ∧
      t.thread r.tid = { (s.thread r.tid).pushLatch (untagged 0) with
        request := none, pending := (s.thread r.tid).pending ++ [(.hostLink, r.reqid.setWidth 32)] } := by
  have hnone : ((s.world r.world).late.any fun l => l.1 = req) = false := by
    rw [List.any_eq_false]
    exact fun l hl => by simpa using hlate l hl
  have hexec : exec (.hostLink req) s = .next (loseAtomic s req r) := by
    show execHostLink req s = _
    unfold execHostLink
    rw [hservice]
    dsimp only
    rw [hfind]
    dsimp only
    rw [hasked]
    dsimp only
    rw [hnone, hreplay]
    rfl
  obtain ⟨hgone, htaken⟩ := answerRequest_answered s req r .none
  obtain ⟨ts, cs, rs, honly⟩ := answerRequest_only s req r .none
  have htaken : (answerRequest s req r .none).thread r.tid = { (s.thread r.tid).pushLatch (untagged 0) with request := none } :=
    htaken r.tid hreq hplace
  obtain ⟨⟨ts', gs, hpending⟩, -, hself⟩ := makePending_spec (s := answerRequest s req r .none) (tid := r.tid) (c := .hostLink)
    (r.reqid.setWidth 32) (by rw [htaken]; exact hlive) (by rw [htaken]; exact hnew)
  refine ⟨_, hexec, ?_, ?_, ?_⟩
  · unfold loseAtomic
    rw [hpending, honly]
  · unfold loseAtomic
    rw [hpending]
    exact hgone
  · unfold loseAtomic
    rw [hself, htaken]
    rfl

/-- HOST_LINK. -/
theorem hostLinkLoses : Claims.HostLinkLoses :=
  ⟨fun _ _ _ _ hfind hplace hnew => serviceLost hfind hplace hnew,
    fun _ _ _ _ _ _ _ _ _ _ _ hservice hfind hasked hreplay hreq hplace hlive hnew hlate =>
      atomicLost hservice hfind hasked hreplay hreq hplace hlive hnew hlate⟩

end Sys2Proof.Machine
end

section
/-! PROOF. Queries and retypes of frames (R248 to R250, R265, R266, R307, R308): O45 holds. -/

namespace Sys2Proof.Machine

open Sys2Proof

variable {s a t : State}

/-! ## Frames that the package has (R248, R384) -/

theorem frameThere_eq (s : State) (f : Nat) : Claims.frameThere s f = hasFrame s f := by
  unfold Claims.frameThere hasFrame frameExists dieRuns dieOfFrame isAperture frameTop apertureLo apertureHi
  generalize (!s.assayer.minimal || decide (f / 549316 / 3 = s.assayer.minDie)) = die
  cases decide (s.assayer.reason ≠ 1) <;> cases die <;> simp <;> omega

/-- The words of `fquery` (R250, R307). -/
theorem queryWords_eq (s : State) (w f : Nat) : queryWords s w f =
    if !Claims.frameThere s f then [0xE, 0, 0, 0]
    else if (s.frame f).owner = w ∨ w = 0 then
      [BitVec.ofNat 32 ((s.frame f).type + 2 ^ 10 * (s.frame f).owner + 2 ^ 18 * (s.frame f).valid), BitVec.ofNat 32 (s.count f),
        (s.frame f).chg, (s.frame f).gen]
    else [0xF, 0, 0, 0] := by
  rw [frameThere_eq]
  unfold queryWords metaWords
  rw [Nat.mul_comm (2 ^ 10), Nat.mul_comm (2 ^ 18)]
  simp only [Bool.or_eq_true, decide_eq_true_eq]

/-! ## Retypes (R265, R266) -/

/-- Whether the one who asks may ask for a change of type and owner, as the model asks it (R265). -/
def retypeAllowed (m : Frame) (w new : Nat) (owner : Option Nat) : Bool :=
  match owner with
  | none => if w = 0 then (retypePair m.type new).2 else (retypePair m.type new).1
  | some o => w = 0 && m.type = 0 && new = 0 && o ≠ m.owner

/-- Whether a retype that names a new owner moves the frame. -/
def movesFrame (m : Frame) (owner : Option Nat) : Bool :=
  match owner with
  | some o => o ≠ m.owner
  | none => false

/-- A frame of a retype, its bytes zeroed where the rule says so (R265). -/
def wiped (s : State) (w f new : Nat) (owner : Option Nat) : State :=
  if isTableType new || new = 7 || (s.frame f).type = 6 || (s.frame f).type = 7 || movesFrame (s.frame f) owner then
    countHbm (zeroFrame s f) w (physKey (f * 2 ^ 16)) (2 ^ 16) else s

/-- A frame retyped (R265). -/
def retyped (s : State) (w f new : Nat) (owner : Option Nat) : State :=
  (wiped s w f new owner).setFrame f
    { s.frame f with type := new, owner := owner.getD (s.frame f).owner, gen := (s.frame f).gen + 1, valid := 0 }

theorem retype_eq (s : State) (w f new : Nat) (owner : Option Nat) : retype s w f new owner =
    if !hasFrame s f then (5, s)
    else if (s.frame f).owner ≠ w && w ≠ 0 then (2, s)
    else if !retypeAllowed (s.frame f) w new owner then (3, s)
    else if isTableType (s.frame f).type && (s.frame f).valid ≠ 0 then (4, s)
    else if s.count f ≠ 0 then (1, s)
    else (0, retyped s w f new owner) := by
  cases owner <;> rfl

theorem isTableType_iff (ty : Nat) : isTableType ty = true ↔ ty = 3 ∨ ty = 4 ∨ ty = 5 := by
  simp only [isTableType, Bool.and_eq_true, decide_eq_true_eq]
  omega

/-- The result word of a retype is that of R266: the model asks for the pairs of R265 type by type, as the rule lists them. -/
theorem retype_word (s : State) (w f new : Nat) (owner : Option Nat) :
    (retype s w f new owner).1 = Claims.retypeWord s w f new owner := by
  rw [retype_eq]
  unfold Claims.retypeWord
  rw [frameThere_eq]
  simp only [apply_ite Prod.fst]
  refine if_congr Iff.rfl rfl (if_congr (by simp) rfl (if_congr (Iff.of_eq (congrArg (fun b => (!b) = true) ?_)) rfl (if_congr ?_ rfl rfl)))
  · cases owner with
    | some o =>
      rw [Bool.eq_iff_iff]
      simp only [retypeAllowed, Option.isSome_some, if_true, Option.getD_some, Bool.and_eq_true, decide_eq_true_eq]
      tauto
    | none =>
      simp only [retypeAllowed, Option.isSome_none, Bool.false_eq_true, if_false]
      generalize (s.frame f).type = ty
      by_cases hw : w = 0
      · rw [if_pos hw]
        obtain _ | _ | _ | _ | _ | _ | _ | _ | _ | ty := ty
        case zero =>
          rw [Bool.eq_iff_iff]
          simp only [retypePair, Bool.and_eq_true, Bool.or_eq_true, decide_eq_true_eq, List.mem_cons, List.not_mem_nil, or_false]
          omega
        all_goals simp [retypePair, hw]
      · rw [if_neg hw]
        obtain _ | _ | _ | _ | _ | _ | _ | _ | _ | ty := ty
        case zero => simp [retypePair, hw, Bool.or_assoc]
        all_goals simp [retypePair, hw]
  · rw [Bool.and_eq_true, isTableType_iff, decide_eq_true_eq]

/-! ## What a retype leaves (R265) -/

/-- A byte whose entry a filter of memory drops reads zero. -/
theorem read_filter (m : Memory) (p : Nat → Bool) (x : Nat) :
    Memory.read (List.filter (fun e => p e.1) m) x = if p x then m.read x else 0 := by
  induction m with
  | nil => exact (ite_self _).symm
  | cons e m ih =>
    obtain ⟨k, v⟩ := e
    have hcons : ∀ m : Memory, Memory.read ((k, v) :: m) x = if k = x then v else m.read x := fun m =>
      apply_ite (Option.getD · 0) (k = x) (some v) (m.find? x)
    rw [List.filter_cons, hcons]
    cases hk : p k with
    | true =>
      rw [if_pos rfl, hcons, ih]
      by_cases hx : k = x
      · rw [if_pos hx, if_pos hx, if_pos (hx ▸ hk)]
      · rw [if_neg hx, if_neg hx]
    | false =>
      rw [if_neg Bool.false_ne_true, ih]
      by_cases hx : k = x
      · rw [← hx, hk, if_neg Bool.false_ne_true, if_neg Bool.false_ne_true]
      · rw [if_neg hx]

/-- The bytes of an HBM frame read zero once it is zeroed, and every other byte reads as before (R265). -/
theorem zeroFrame_read (s : State) {f : Nat} (hf : hasFrame s f = true) (x : Nat) :
    (zeroFrame s f).mem.read x = if f < 0x644530 ∧ x / 2 ^ 16 = f then 0 else s.mem.read x := by
  have hexists : f < 0x644530 ∨ isAperture f = true := by
    rw [hasFrame, frameExists, Bool.and_eq_true, Bool.or_eq_true] at hf
    exact hf.1.imp_left of_decide_eq_true
  unfold zeroFrame
  split
  next haperture =>
    have hlow : ¬ f < 0x644530 := by
      have hlo : apertureLo ≤ f := of_decide_eq_true (Bool.and_eq_true_iff.mp haperture).1
      unfold apertureLo at hlo
      omega
    rw [if_neg fun h => hlow h.1]
  next hhbm =>
    have hlow := hexists.resolve_right hhbm
    refine (read_filter s.mem (fun k => !(f * 2 ^ 16 ≤ k && k < (f + 1) * 2 ^ 16)) x).trans ?_
    have hout : (!(decide (f * 2 ^ 16 ≤ x) && decide (x < (f + 1) * 2 ^ 16))) = true ↔ ¬ (f < 0x644530 ∧ x / 2 ^ 16 = f) := by
      simp only [Bool.not_eq_true', Bool.and_eq_false_iff, decide_eq_false_iff_not]
      omega
    rw [if_congr hout rfl rfl, ite_not]

theorem zeroFrame_only (s : State) (f : Nat) : ∃ m b, zeroFrame s f = { s with mem := m, bad := b } := by
  unfold zeroFrame
  split
  · exact ⟨_, _, rfl⟩
  · exact ⟨_, _, rfl⟩

theorem wiped_only (s : State) (w f new : Nat) (owner : Option Nat) :
    ∃ m b asr, wiped s w f new owner = { s with mem := m, bad := b, assayer := asr } := by
  unfold wiped
  split
  · obtain ⟨m, b, hzero⟩ := zeroFrame_only s f
    obtain ⟨asr, hcount⟩ := countHbm_only (zeroFrame s f) w (physKey (f * 2 ^ 16)) (2 ^ 16)
    rw [hcount, hzero]
    exact ⟨_, _, _, rfl⟩
  · exact ⟨_, _, _, rfl⟩

/-- A new owner that may be named moves the frame. -/
theorem movesFrame_of_allowed {m : Frame} {w new : Nat} {owner : Option Nat} (h : retypeAllowed m w new owner = true) :
    movesFrame m owner = owner.isSome := by
  cases owner with
  | none => rfl
  | some o => exact (Bool.and_eq_true_iff.mp h).2

theorem wiped_read {w f new : Nat} {owner : Option Nat} (hf : hasFrame s f = true)
    (hallowed : retypeAllowed (s.frame f) w new owner = true) (x : Nat) : (wiped s w f new owner).mem.read x =
      if (new = 3 ∨ new = 4 ∨ new = 5 ∨ new = 7 ∨ (s.frame f).type = 6 ∨ (s.frame f).type = 7 ∨ owner.isSome = true) ∧
        f < 0x644530 ∧ x / 2 ^ 16 = f then 0 else s.mem.read x := by
  have hwipes : (isTableType new || new = 7 || (s.frame f).type = 6 || (s.frame f).type = 7 || movesFrame (s.frame f) owner) = true ↔
      (new = 3 ∨ new = 4 ∨ new = 5 ∨ new = 7 ∨ (s.frame f).type = 6 ∨ (s.frame f).type = 7 ∨ owner.isSome = true) := by
    simp only [movesFrame_of_allowed hallowed, Bool.or_eq_true, isTableType_iff, decide_eq_true_eq, or_assoc]
  unfold wiped
  by_cases hwipe : (new = 3 ∨ new = 4 ∨ new = 5 ∨ new = 7 ∨ (s.frame f).type = 6 ∨ (s.frame f).type = 7 ∨ owner.isSome = true)
  · obtain ⟨asr, hcount⟩ := countHbm_only (zeroFrame s f) w (physKey (f * 2 ^ 16)) (2 ^ 16)
    rw [if_pos (hwipes.mpr hwipe), hcount]
    exact (zeroFrame_read s hf x).trans (if_congr (iff_and_self.mpr fun _ => hwipe) rfl rfl)
  · rw [if_neg (mt hwipes.mp hwipe), if_neg fun h => hwipe h.1]

/-- A retype is refused and changes nothing, or succeeds. -/
theorem retype_cases (s : State) (w f new : Nat) (owner : Option Nat) :
    ((retype s w f new owner).1 ≠ 0 ∧ (retype s w f new owner).2 = s) ∨
      (hasFrame s f = true ∧ retypeAllowed (s.frame f) w new owner = true ∧ retype s w f new owner = (0, retyped s w f new owner)) := by
  rw [retype_eq]
  split
  · exact .inl ⟨Nat.succ_ne_zero _, rfl⟩
  next hframe =>
    split
    · exact .inl ⟨Nat.succ_ne_zero _, rfl⟩
    · split
      · exact .inl ⟨Nat.succ_ne_zero _, rfl⟩
      next hallowed =>
        split
        · exact .inl ⟨Nat.succ_ne_zero _, rfl⟩
        · split
          · exact .inl ⟨Nat.succ_ne_zero _, rfl⟩
          · exact .inr ⟨by simpa using hframe, by simpa using hallowed, rfl⟩

/-- A retype changes main memory, its frame's metadata and what is counted of the slices. -/
theorem retype_only (s : State) (w f new : Nat) (owner : Option Nat) :
    ∃ m b asr fs, (retype s w f new owner).2 = { s with mem := m, bad := b, assayer := asr, frames := fs } := by
  obtain ⟨-, hsame⟩ | ⟨-, -, hdone⟩ := retype_cases s w f new owner
  · exact ⟨_, _, _, _, hsame⟩
  · obtain ⟨m, b, asr, hwiped⟩ := wiped_only s w f new owner
    rw [hdone, retyped, hwiped]
    exact ⟨_, _, _, _, rfl⟩

/-- What a retype leaves (R265). -/
theorem retype_retyped (s : State) (w f new : Nat) (owner : Option Nat) :
    Claims.Retyped s (retype s w f new owner).2 f new owner (Claims.retypeWord s w f new owner) := by
  rw [← retype_word]
  obtain ⟨hrefused, hsame⟩ | ⟨hframe, hallowed, hdone⟩ := retype_cases s w f new owner
  · rw [hsame]
    exact ⟨fun _ _ => rfl, fun _ => ⟨rfl, rfl⟩, fun h => absurd h hrefused, fun h => absurd h hrefused⟩
  · rw [hdone, retyped]
    have hframes : (wiped s w f new owner).frames = s.frames := by
      obtain ⟨m, b, asr, hwiped⟩ := wiped_only s w f new owner
      rw [hwiped]
    refine ⟨fun k hk => ?_, fun h => absurd rfl h, fun _ => ?_, fun _ => wiped_read hframe hallowed⟩
    · unfold State.frame State.setFrame
      rw [hframes]
      exact SMap.getD_set_ne _ _ _ hk
    · exact SMap.getD_set_self ..

/-! ## METADATA_HOME_OPERATION and world 0 (R249, R265, R307, R308) -/

/-- METADATA_HOME_OPERATION. -/
theorem metadataOperations : Claims.MetadataOperations := by
  intro s req f r d hfind
  dsimp only
  refine ⟨fun hasked => ?_, fun new owner hasked => ?_⟩
  · have hexec : exec (.metadataHomeOperation req) s = .next (answerRequest s req r (.regs d (queryWords s r.world f) r.guard)) := by
      show execMetadataHomeOperation req s = _
      unfold execMetadataHomeOperation
      rw [hfind]
      dsimp only
      rw [hasked]
    have hanswered := answerRequest_answered s req r (.regs d (queryWords s r.world f) r.guard)
    obtain ⟨ts, cs, rs, honly⟩ := answerRequest_only s req r (.regs d (queryWords s r.world f) r.guard)
    rw [honly] at hexec hanswered
    rw [← queryWords_eq]
    exact ⟨_, hexec, hanswered, rfl, rfl⟩
  · have hexec : exec (.metadataHomeOperation req) s = .next (answerRequest (retype s r.world f new owner).2 req r
        (.reg d (BitVec.ofNat 32 (retype s r.world f new owner).1) r.guard 0)) := by
      show execMetadataHomeOperation req s = _
      unfold execMetadataHomeOperation
      rw [hfind]
      dsimp only
      rw [hasked]
    have hretyped := retype_retyped s r.world f new owner
    obtain ⟨m, b, asr, fs, hretype⟩ := retype_only s r.world f new owner
    rw [retype_word] at hexec
    generalize (retype s r.world f new owner).2 = a at hexec hretyped hretype
    have hanswered := answered_of_threads (s := s) (a := a) (req := req) (q := r)
      (r := .reg d (BitVec.ofNat 32 (Claims.retypeWord s r.world f new owner)) r.guard 0) (by rw [hretype])
    obtain ⟨ts, cs, rs, honly⟩ := answerRequest_only a req r
      (.reg d (BitVec.ofNat 32 (Claims.retypeWord s r.world f new owner)) r.guard 0)
    rw [honly] at hexec hanswered
    obtain ⟨hothers, hrefused, hdone, hbytes⟩ := hretyped
    exact ⟨_, hexec, hanswered, hothers, hrefused, hdone, hbytes⟩

/-- World 0 names a retype's new owner as `fretype` does (R265, R308). -/
theorem worldZeroRetypes : Claims.WorldZeroRetypes := by
  intro s f new owner hnew howner
  have hrun : ∀ n, (if n / 64 % 2 = 1 then some (n % 64) else none) = owner →
      runTurn (.retype f new n) s = .next (retype s 0 f new owner).2 := by
    intro n hn
    show Host.Outcome.next (requestRetype s f new n) = _
    rw [requestRetype, Nat.mod_eq_of_lt hnew, hn]
  have hthreads : (retype s 0 f new owner).2.threads = s.threads := by
    obtain ⟨m, b, asr, fs, hretype⟩ := retype_only s 0 f new owner
    rw [hretype]
  refine ⟨_, hrun _ ?_, retype_retyped s 0 f new owner, hthreads⟩
  cases owner with
  | none => rfl
  | some o =>
    have ho := howner o rfl
    dsimp only
    rw [if_pos (by omega), show (64 + o) % 64 = o by omega]

end Sys2Proof.Machine

namespace Sys2Proof

open Machine

/-- Settles O45: each operation is one step at its home, whose result the waiting threads take; a retype's word is the first check of R266
that fails. -/
theorem atomicsAndMetadataPerformed : Obligations.AtomicsAndMetadataPerformed := by
  unfold Obligations.AtomicsAndMetadataPerformed
  exact ⟨atomicsPerformed, hostAtomicsComplete, hostLinkLoses, metadataOperations, worldZeroRetypes⟩

end Sys2Proof
end

section
/-! PROOF. Every step answers a next state (00_scope.md, R88): O34 holds. -/

namespace Sys2Proof.Machine

open Sys2Proof

/-! ## Outcomes that go on -/

/-- An outcome that neither stops nor is refused. -/
def Goes (o : Host.Outcome State Fault Refusal) : Prop := ∃ t, o = .next t

theorem goes_next (t : State) : Goes (.next t) := ⟨t, rfl⟩

theorem goes_ite (c : Bool) (a b : State) : Goes (if c then .next a else .next b) := by
  cases c
  · exact goes_next b
  · exact goes_next a

/-- Each branch of the meaning of an event other than a register write answers a next state. -/
theorem exec_event_goes_of_ne {i : Instr} (h : i.shape = none) (hreg : ∀ fn off v, i ≠ .registerWrite fn off v) (s : State) :
    Goes (exec i s) := by
  cases i <;> cases h
  case registerWrite fn off v => exact absurd rfl (hreg fn off v)
  case hostRead => exact goes_ite ..
  all_goals
    dsimp only [exec, execBundleDraw, execDisplacement, execGroupPark, execGroupReload, execCoreTableError, execMatrixPost,
      execAnvilGrant, execPassComplete, execTilePortGrant, execTileOpComplete, execSegmentStart, execWalkComplete,
      execSegmentFail, execTableWriteUnit, execPurgeAck, execAtomicAtHome, execHostAtomicCompletion, execHostAtomicopRequest,
      execHostWrite, execPageRequestResponse, execHostLink, execServiceCompletionDoorbell, execSrtailWrite, execRekeyFrame,
      execThreadHalt, execWorldQuiesced, execReplayTimeout, execSaveComplete, execRestoreComplete, execWaitcountSatisfied,
      execCopy, execLaunchComplete, execClusterReserving, execThrottle, execFunctionReset, execNetworkPacketReceive,
      execVendorDefinedRequest, execFnodeWrite, execRtdataWrite, execWfabWrite, execBrazePacketReceive, execRemoteAccess,
      execRankDown, execCellOperation, execCellAnswer, execRouteTimeout, execMetadataHomeOperation, execBrazePortLost,
      execBrazePortLive, execSchedulerArbitration, execFatalError]
  all_goals repeat' split
  all_goals exact goes_next _

/-- A register write has no effect, changes registers, or is one of the writes that have an event of their own. -/
theorem execRegisterWrite_goes (fn off : Nat) (v : DWord) (s : State) : Goes (execRegisterWrite fn off v s) := by
  unfold execRegisterWrite
  dsimp only
  split_ifs
  case pos => exact goes_next _
  case pos => exact exec_event_goes_of_ne (i := .srtailWrite fn _) rfl nofun s
  case pos => exact exec_event_goes_of_ne (i := .serviceCompletionDoorbell fn _) rfl nofun s
  case pos => exact goes_next _
  case pos => exact goes_next _
  case pos => exact goes_next _
  case pos => exact exec_event_goes_of_ne (i := .fnodeWrite _) rfl nofun s
  case pos => exact exec_event_goes_of_ne (i := .rtdataWrite v) rfl nofun s
  case pos => exact exec_event_goes_of_ne (i := .routedataWrite v) rfl nofun s
  case pos => exact exec_event_goes_of_ne (i := .wfabWrite _ v) rfl nofun s
  case neg => exact goes_next _

theorem exec_event_goes {i : Instr} (h : i.shape = none) (s : State) : Goes (exec i s) := by
  by_cases hreg : ∃ fn off v, i = .registerWrite fn off v
  · obtain ⟨fn, off, v, rfl⟩ := hreg
    exact execRegisterWrite_goes fn off v s
  · exact exec_event_goes_of_ne h (fun fn off v hi => hreg ⟨fn, off, v, hi⟩) s

theorem issueUnit_goes {s : State} {u : Issue} (h : s.cur = some u) (i : Instr) (f : Issue → Compute) : Goes (issueUnit i f s) := by
  rw [issueUnit, h]
  exact goes_next _

theorem issueUnordered_goes {s : State} {u : Issue} (h : s.cur = some u) (i : Instr) (f : Issue → Compute) :
    Goes (issueUnordered i f s) := by
  rw [issueUnordered, h]
  exact goes_next _

theorem execExit_goes {s : State} {u : Issue} (h : s.cur = some u) (c : Ctl) : Goes (execExit c s) := by
  rw [execExit, h]
  exact goes_next _

/-- An instruction word acts on the unit that is being issued; an event needs none. -/
theorem exec_goes {s : State} {u : Issue} (h : s.cur = some u) (i : Instr) : Goes (exec i s) := by
  cases hi : i.shape with
  | none => exact exec_event_goes hi s
  | some x =>
    cases runsAs_of_shape hi s with
    | inOrder f hf => exact hf ▸ issueUnit_goes h i f
    | unordered f hf => exact hf ▸ issueUnordered_goes h i f
    | ends c hc => exact hc ▸ execExit_goes h c

/-! ## The unit that a bundle's turn prepares -/

/-- What runs next is a unit being issued. -/
def Prepared.issues : Prepared → Prop
  | .idle _ => True
  | .run _ t => ∃ u, t.cur = some u

theorem Prepared.issues_idle (s : State) : (Prepared.idle s).issues := trivial

theorem Prepared.issues_enterUnit (i : Instr) (s : State) (b : Nat) (x : Bundle) (u : ChainUnit) (late : Bool) :
    (Prepared.run i (enterUnit s b x u late)).issues := ⟨_, rfl⟩

theorem prepareChain_issues (s : State) (b : Nat) (x : Bundle) (tid : Nat) (late : Bool) : (prepareChain s b x tid late).issues := by
  unfold prepareChain
  repeat' split
  all_goals simp only [Prepared.issues_idle, Prepared.issues_enterUnit]

theorem prepare_issues (s : State) (b : Nat) (late : Bool) : (prepare s b late).issues := by
  unfold prepare
  repeat' split
  all_goals simp only [Prepared.issues_idle, Prepared.issues_enterUnit, prepareChain_issues]

theorem Prepared.issues.goes {i : Instr} {t : State} (h : (Prepared.run i t).issues) : Goes (exec i t) :=
  exec_goes h.choose_spec i

theorem runTurn_goes (t : Turn) (s : State) : Goes (runTurn t s) := by
  have hissue (b : Nat) (late : Bool) : Goes (match prepare s b late with | .idle s => .next s | .run i s => exec i s) := by
    have h := prepare_issues s b late
    cases hp : prepare s b late with
    | idle t => exact goes_next t
    | run i t => exact (hp ▸ h).goes
  cases t with
  | issue b => exact hissue b false
  | issueLate b => exact hissue b true
  | event i =>
    cases hi : i.shape with
    | none => exact runTurn_event hi s ▸ exec_event_goes hi s
    | some x =>
      have hword : isWordInstr i = true := by rw [isWordInstr, hi]; rfl
      exact ⟨s, if_pos hword⟩
  | _ => exact goes_next _

end Sys2Proof.Machine

namespace Sys2Proof

open Machine

/-- Settles O34: a turn prepares an instruction word only as a unit being issued, on which it acts, and each event's meaning has an
effect in every state. -/
theorem stepsNeverStop : Obligations.StepsNeverStop := by
  unfold Obligations.StepsNeverStop Claims.StepsNeverStop
  intro s
  unfold step
  split
  · exact runTurn_goes _ _
  · exact runTurn_goes _ _

end Sys2Proof
end

section
/-! PROOF. Floating-point arithmetic (R79 to R82, R106 to R109): O4 holds. -/

namespace Sys2Proof.Machine

open Sys2Proof

/-! ## The shapes of the units -/

variable {i : Instr} {d a : Reg} {b : OpB} {e : Claims.Effect}

theorem fbinUnit_eq {f : Word → Word → Word × Flags} (he : Claims.ftwo d a b f = some e) (s : State) :
    fbinUnit i d a b f s = aluUnit i e s := by
  cases he
  rfl

theorem ftriUnit_eq {f : Word → Word → Word → Word × Flags} (he : Claims.fthree d a b f = some e) (s : State) :
    ftriUnit i d a b f s = aluUnit i e s := by
  cases he
  rfl

theorem binUnit_eq {f : Word → Word → Word} (he : Claims.two d a b f = some e) (s : State) : binUnit i d a b f s = aluUnit i e s := by
  cases he
  rfl

theorem unUnit_eq {f : Word → Word} (he : Claims.one d a f = some e) (s : State) : unUnit i d a f s = aluUnit i e s := by
  cases he
  simp only [joinTags_two]
  rfl

theorem unUnit_eq_of_eq {f g : Word → Word} (hf : f = g) (he : Claims.one d a g = some e) (s : State) :
    unUnit i d a f s = aluUnit i e s := hf ▸ unUnit_eq he s

/-- The masks of `fabs` clear the sign bits (R108). -/
theorem clearSign : (fun x : Word => x &&& 0x7FFFFFFF) = fun x => x &&& ~~~0x80000000 := by
  rw [show ~~~(0x80000000 : Word) = 0x7FFFFFFF by decide]

theorem clearSigns : (fun x : Word => x &&& 0x7FFF7FFF) = fun x => x &&& ~~~0x80008000 := by
  rw [show ~~~(0x80008000 : Word) = 0x7FFF7FFF by decide]

/-- A float instruction computes its effect from its source thread (R106 to R109). -/
theorem exec_floats (h : Claims.floats i = some e) (s : State) : exec i s = aluUnit i e s := by
  cases i
  case faddF32 | fsubF32 | fmulF32 | faddF16x2 | fmulF16x2 | faddBf16x2 | fmulBf16x2 => exact fbinUnit_eq h s
  case ffmaF32 | ffmaF16x2 | ffmaBf16x2 | fdot2F32F16x2 | fdot2F32Bf16x2 => exact ftriUnit_eq h s
  case fminF32 | fmaxF32 => exact binUnit_eq h s
  case fabsF32 => exact unUnit_eq_of_eq clearSign h s
  case fabsF16x2 | fabsBf16x2 => exact unUnit_eq_of_eq clearSigns h s
  case fnegF32 => exact unUnit_eq (f := fun x => x ^^^ 0x80000000) h s
  case fnegF16x2 | fnegBf16x2 => exact unUnit_eq (f := fun x => x ^^^ 0x80008000) h s
  case frintF32 c d a => exact unUnit_eq (f := frint (modeOf c)) h s
  all_goals cases h

end Sys2Proof.Machine

namespace Sys2Proof

open Machine

/-- Settles O4: every unit of the table is computed from its source thread alone, by the function that the statement names. -/
theorem floatArithmetic : Obligations.FloatArithmetic := by
  unfold Obligations.FloatArithmetic Claims.GivesResult
  intro s u i e htable h
  rw [exec_floats htable]
  exact aluUnit_completes h

end Sys2Proof
end

section
/-! PROOF. `reform`, `yield` and `rte` in a handler (R90, R160, R161): O14 holds. -/

namespace Sys2Proof.Machine

open Sys2Proof

variable {s : State} {u : Issue} {i : Instr} {tid : Nat}

/-- A unit that refiles its one thread itself, after a change to the thread, does what one does that asks for its filing. -/
theorem issueUnit_alone_moved {f : Issue → Compute} {F : Thread → Thread} {pc : Word} {time : Nat} (h : Alone s u i tid)
    (hF : ∀ x, (F x).place = x.place ∧ (F x).request = x.request) (hcore : (s.threadGroup tid).offCore = false)
    (hf : f u { s with cur := none } tid (guardTag s u i tid) =
      (.moved, refile (State.modThread { s with cur := none } tid F) tid pc time)) :
    ∃ t, issueUnit i f s = .next t ∧ LeftFiled s t u tid { F (s.thread tid) with pc := pc, runnable := time } := by
  have hfile := issueUnit_alone_refile (f := fun _ s _ _ => (.file pc time, s.modThread tid F)) h hF hcore rfl
  rw [issueUnit_alone _ h] at hfile
  rw [issueUnit_alone f h, hf]
  exact hfile

/-- A unit that files its one thread at an address and changes nothing else. -/
theorem issueUnit_alone_files {f : Issue → Compute} {pc : Word} {time : Nat} (h : Alone s u i tid)
    (hcore : (s.threadGroup tid).offCore = false)
    (hf : f u { s with cur := none } tid (guardTag s u i tid) = (.file pc time, { s with cur := none })) :
    ∃ t, issueUnit i f s = .next t ∧ LeftFiled s t u tid { s.thread tid with pc := pc, runnable := time } := by
  obtain ⟨t, hexec, hl⟩ := issueUnit_alone_file h h.still hcore hf
  exact ⟨t, hexec, hl.of_clear⟩

/-- `reform`, `yield` and `rte` (R90, R160, R161). -/
theorem filedAgain : Claims.FiledAgain := by
  intro s u i tid x h hcore hx
  cases i
  case reform c =>
    cases hx
    exact issueUnit_alone_files h hcore rfl
  case yield c =>
    cases hx
    exact issueUnit_alone_files h hcore rfl
  case rte c =>
    obtain ⟨hhnd, rfl⟩ := Option.ite_some_none_eq_some.mp hx
    exact issueUnit_alone_moved (F := fun t => { t with hnd := false, trapinfo := t.trapinfo &&& 0x7FFFFFFF }) h
      (fun _ => ⟨rfl, rfl⟩) hcore (if_pos hhnd)
  all_goals cases hx

end Sys2Proof.Machine

namespace Sys2Proof

open Machine

/-- Settles O14: the unit's one thread leaves its bundle and is filed at the address and the time that the statement gives. -/
theorem threadsFiledAgain : Obligations.ThreadsFiledAgain := by
  unfold Obligations.ThreadsFiledAgain
  exact filedAgain

end Sys2Proof
end

section
/-! PROOF. Loads from near memory, in their place and out of it (R83, R117, R190): O8 holds. -/

namespace Sys2Proof.Machine

open Sys2Proof

/-! ## The loads of R117 -/

/-- Sign extension of the low bits (R99, R117). -/
theorem sxt_eq_lowBits {n : Nat} (hn : 0 < n) (x : Word) : sxt n x = Claims.lowBits n true x := by
  have hpow : 2 ^ n = 2 * 2 ^ (n - 1) := (Nat.two_pow_pred_mul_two hn).symm.trans (Nat.mul_comm ..)
  rw [sxt, BitVec.signExtend, BitVec.toInt_eq_toNat_cond, BitVec.toNat_setWidth]
  unfold Claims.lowBits
  dsimp only
  generalize x.toNat % 2 ^ n = v
  by_cases hv : 2 ^ (n - 1) ≤ v
  · rw [if_neg (by omega), if_pos (by simp [hv])]
    push_cast
    rfl
  · rw [if_pos (by omega), if_neg (by simp [hv])]
    rfl

/-- A load reads its bytes and extends them as its mnemonic says. -/
theorem exec_load {i : Instr} {x : Claims.LoadShape} (h : Claims.loadShape i = some x) (s : State) :
    exec i s = loadUnit i x.base x.off x.size x.res s := by
  have hsxt8 : sxt 8 = Claims.lowBits 8 true := funext (sxt_eq_lowBits (by omega))
  have hsxt16 : sxt 16 = Claims.lowBits 16 true := funext (sxt_eq_lowBits (by omega))
  cases i
  case ldI8 c d a off =>
    cases h
    dsimp only
    rw [← hsxt8]
    rfl
  case ldI16 c d a off =>
    cases h
    dsimp only
    rw [← hsxt16]
    rfl
  case ldN8 | ldN16 | ldB32 | ldB64 =>
    cases h
    rfl
  all_goals cases h

/-- The key of a thread's load, where its checks pass. -/
def loadKey (x : Claims.LoadShape) (s : State) (tid : Nat) : Nat := (nearKey s (teamOf tid) (x.ea s tid).toNat x.size).getD 0

theorem loadKey_eq {x : Claims.LoadShape} {s : State} {tid key : Nat} (h : x.ok s tid key) : loadKey x s tid = key := by
  rw [loadKey, h.1.mapped]
  rfl

theorem loadsInPlace : Claims.NearLoads := by
  intro s u i x hx h hlate hok
  have hkey (tid : Nat) (ha : Acts s u i tid) : x.ok s tid (loadKey x s tid) := by
    obtain ⟨key, hk⟩ := hok tid ha
    exact (loadKey_eq hk).symm ▸ hk
  obtain ⟨t, hexec, honly, hadv, hthreads⟩ := loadUnit_completes (res := x.res) (key := loadKey x s) h hlate fun tid ha => by
    rw [← nearAddr_effAddr]
    exact hkey tid ha
  refine ⟨t, (exec_load hx s).trans hexec, honly, hadv, fun tid ht => ?_⟩
  rw [hthreads tid ht]
  split
  · next hpass => exact ⟨_, hkey _ (acts_source ht hpass), rfl⟩
  · rfl

/-! ## Loads out of their place (R190) -/

variable {s : State} {u : Issue} {i : Instr} {tid : Nat}

theorem Alone.withLate (h : Alone s u i tid) (l : List LateStore) : Alone { s with late := l } u i tid :=
  ⟨⟨h.issues.cur, h.issues.bundle, h.issues.distinct, h.issues.someone, h.issues.alive, h.issues.placed, h.issues.clean,
    h.issues.free⟩, h.one, h.isOpen⟩

/-- The unit's thread and its team are as they were after late stores have become visible. -/
theorem Alone.still_of_drain (h : Alone s u i tid) (p : LateStore → Bool) :
    Still s (drainLate { s with cur := none } p) u tid ∧ (drainLate { s with cur := none } p).thread tid = s.thread tid := by
  obtain ⟨hstill, hthread⟩ := (h.withLate _).still_of_woken (drainLate_woken { s with cur := none } p)
  exact ⟨⟨hstill.bundles, hstill.placed, hstill.alive, hstill.cur, hstill.free⟩, hthread⟩

/-- What a load out of its place reads: the bytes read ahead that cover it, the oldest first, and memory where there are none. -/
theorem loadedValue_of_none {a : State} {key n : Nat} (h : (a.early.all fun e => !e.holds tid key n) = true) :
    loadedValue true a tid key n = (a.mem.readLe key n, (a.line (key / 128)).tag) := by
  have hnone : List.find? (fun e : EarlyLoad => e.holds tid key n) a.early = none := by
    rw [List.find?_eq_none]
    simpa using h
  rw [loadedValue, if_pos rfl, hnone]

theorem loadedValue_of_some {a : State} {key n : Nat} {before after : List EarlyLoad} {e : EarlyLoad}
    (hearly : a.early = before ++ e :: after) (hbefore : (before.all fun e => !e.holds tid key n) = true)
    (he : e.holds tid key n = true) :
    loadedValue true a tid key n = (leValue ((e.bytes.drop (key - e.key)).take n), e.tag) := by
  have hsome : List.find? (fun e : EarlyLoad => e.holds tid key n) a.early = some e := by
    rw [hearly, List.find?_append, List.find?_eq_none.mpr (by simpa using hbefore),
      List.find?_cons_of_pos (p := fun e : EarlyLoad => e.holds tid key n) he]
    rfl
  rw [loadedValue, if_pos rfl, hsome]

/-- A load out of its place by one thread, whatever it reads. -/
theorem exec_lateLoad {x : Claims.LoadShape} {key : Nat} {v : Nat × Tag} (hx : Claims.loadShape i = some x) (h : Alone s u i tid)
    (hlate : u.late = true) (hok : NearOk s tid (x.reg s tid) (x.ea s tid) x.size true key)
    {a : State} (ha : a = drainLate { s with cur := none } fun e => (neededLate tid key x.size s.late).contains e)
    (hpresent : (a.line (key / 128)).present = true) (hv : loadedValue true a tid key x.size = v) :
    ∃ t, exec i s = .next t ∧
      Onward { (a.modThread tid fun th => th.apply (x.res v.1 (joinTags [(x.reg s tid).tag, v.2, guardTag s u i tid]))) with
        early := Claims.keptAhead a tid key x.size } t u := by
  subst ha
  obtain ⟨hstill, hthread⟩ := h.still_of_drain fun e => (neededLate tid key x.size s.late).contains e
  rw [exec_load hx, loadUnit]
  refine issueUnit_alone_done (s1 := afterAccess true _ tid key x.size) h ?_ hstill.bundles hstill.free hstill.alive
  unfold Claims.LoadShape.ea Claims.LoadShape.reg at hok
  dsimp only
  rw [thread_cur, nearCheck_cur, ← nearAddr_effAddr, nearCheck_ok hok, hlate]
  dsimp only
  rw [show beforeLoad true _ tid key x.size = _ from if_pos rfl, if_neg (by simpa using hpresent), hv]
  rfl

theorem lateLoads : Claims.LateLoads := by
  intro s u i x tid key hx h hlate a hok hpresent
  obtain ⟨t, hexec, hon⟩ := exec_lateLoad hx h hlate hok (a := a) rfl hpresent rfl
  refine ⟨t, hexec, fun hnone => ?_, fun before e after hearly hbefore he => ?_⟩
  · rw [loadedValue_of_none hnone] at hon
    exact hon
  · rw [loadedValue_of_some hearly hbefore he] at hon
    exact hon

end Sys2Proof.Machine

namespace Sys2Proof

open Machine

/-- Settles O8: a load in its place is a reading of memory and the line's tags; one out of its place reads after its thread's own stores,
from the oldest bytes read ahead that cover it. -/
theorem nearLoads : Obligations.NearLoads := by
  unfold Obligations.NearLoads
  exact ⟨loadsInPlace, lateLoads⟩

end Sys2Proof
end

section
/-! PROOF. Stores to near memory, in their place and out of it, with every byte of memory (R83, R118, R177, R190): O9 holds. -/

namespace Sys2Proof.Machine

open Sys2Proof

/-! ## The bytes and the lines after the stores of several threads (R118) -/

section Image

variable {s a : State} {u : Issue} {i : Instr} {x : Claims.StoreShape}

theorem mem_linesOf {key n k : Nat} (h : k < n) : (key + k) / 128 ∈ linesOf key n := by
  unfold linesOf
  rw [if_neg (by omega), List.mem_map]
  exact ⟨(key + k) / 128 - key / 128, List.mem_range.mpr (by omega), by omega⟩

/-- The lines that the stores of a list of threads touch. -/
def touchedBy (x : Claims.StoreShape) (s : State) (l : List Nat) : List Nat :=
  l.flatMap fun tid => linesOf ((x.key s tid).getD 0) x.size

/-- The tags that a thread's store joins to its lines (R83, R118). -/
def storeTag (x : Claims.StoreShape) (s : State) (u : Issue) (i : Instr) (tid : Nat) : Tag :=
  joinTags [(x.data (s.thread tid)).tag, (x.reg s tid).tag, guardTag s u i tid]

/-- The bytes that a thread stores. -/
def storeBytes (x : Claims.StoreShape) (s : State) (tid : Nat) : List Byte := leBytes x.size (x.data (s.thread tid)).val

/-- Near memory after the stores of a list of threads, one after another. -/
structure Stored (s : State) (u : Issue) (i : Instr) (x : Claims.StoreShape) (l : List Nat) (a : State) : Prop where
  bytes : ∀ before tid after key k, l = before ++ tid :: after → x.key s tid = some key → k < x.size →
    (∀ tid' ∈ after, ∀ key', x.key s tid' = some key' → key + k < key' ∨ key' + x.size ≤ key + k) →
    a.mem.read (key + k) = (storeBytes x s tid).getD k 0
  rest  : ∀ n, (∀ tid ∈ l, ∀ key, x.key s tid = some key → n < key ∨ key + x.size ≤ n) →
    a.mem.read n = byteBefore s (touchedBy x s l) n
  lines : ∀ n, a.line n = l.foldl (x.onLine s u i n) (s.line n)

theorem Stored.nil (h : a.mem = s.mem) (hl : a.lines = s.lines) : Stored s u i x [] a := by
  refine ⟨fun before tid after key k hnil => by simp at hnil, fun n _ => ?_, fun n => line_of_lines hl n⟩
  rw [h]
  rfl

theorem Stored.same {b : State} {l : List Nat} (h : Stored s u i x l a) (hm : b.mem = a.mem) (hl : b.lines = a.lines) :
    Stored s u i x l b :=
  ⟨by rw [hm]; exact h.bytes, by rw [hm]; exact h.rest, fun n => (line_of_lines hl n).trans (h.lines n)⟩

/-- A line is present after the stores where it was before them, or where one of them touched it. -/
theorem onLines_present (l : List Nat) (n : Nat) (y : Line) :
    (l.foldl (x.onLine s u i n) y).present = (y.present || (touchedBy x s l).contains n) := by
  induction l generalizing y with
  | nil => simp [touchedBy]
  | cons tid l ih =>
    rw [List.foldl_cons, ih]
    unfold Claims.StoreShape.onLine
    by_cases hn : n ∈ linesOf ((x.key s tid).getD 0) x.size
    · simp [touchedBy, hn]
    · simp [touchedBy, hn]

theorem Stored.present {l : List Nat} (h : Stored s u i x l a) (n : Nat) :
    (a.line n).present = ((s.line n).present || (touchedBy x s l).contains n) := by
  rw [h.lines, onLines_present]

theorem touchedBy_append (l : List Nat) (tid key : Nat) (hkey : x.key s tid = some key) :
    touchedBy x s (l ++ [tid]) = touchedBy x s l ++ linesOf key x.size := by
  simp [touchedBy, hkey]

/-- What a byte reads as after one store more that is not to it. -/
theorem Stored.byteBefore_append {l : List Nat} (h : Stored s u i x l a) {tid key n : Nat} (hkey : x.key s tid = some key)
    (hread : a.mem.read n = byteBefore s (touchedBy x s l) n) :
    byteBefore a (linesOf key x.size) n = byteBefore s (touchedBy x s (l ++ [tid])) n := by
  have hp := h.present (n / 128)
  rw [touchedBy_append l tid key hkey]
  unfold byteBefore at hread ⊢
  rw [hread, hp]
  cases (s.line (n / 128)).present
  · by_cases ht : n / 128 ∈ touchedBy x s l
    · simp [ht]
    · simp [ht]
  · simp

/-- One store more. -/
theorem Stored.write {l : List Nat} (h : Stored s u i x l a) {tid key : Nat} (hkey : x.key s tid = some key) :
    Stored s u i x (l ++ [tid]) (writeNear a key (storeBytes x s tid) (storeTag x s u i tid)) := by
  have hlen : (storeBytes x s tid).length = x.size := leBytes_length ..
  obtain ⟨-, hmem, hline⟩ := writeNear_spec a key (storeBytes x s tid) (storeTag x s u i tid)
  obtain ⟨-, hbefore⟩ := writeNear_bytes a key (storeBytes x s tid) (storeTag x s u i tid)
  rw [hlen] at hline hbefore
  refine ⟨fun before tid' after key' k heq hkey' hk hafter => ?_, fun n hn => ?_, fun n => ?_⟩
  · rcases List.eq_nil_or_concat after with rfl | ⟨after', last, rfl⟩
    · obtain ⟨-, hlast⟩ := List.append_inj' heq rfl
      obtain rfl : tid = tid' := (List.cons.inj hlast).1
      obtain rfl : key = key' := Option.some.inj (hkey.symm.trans hkey')
      rw [hmem, Memory.read_writeBytes_inside _ _ _ _ (by rw [hlen]; exact hk), List.getD_eq_getElem]
    · rw [List.concat_eq_append, ← List.cons_append, ← List.append_assoc] at heq
      obtain ⟨hl, hlast⟩ := List.append_inj' heq rfl
      obtain rfl : tid = last := (List.cons.inj hlast).1
      have hout := hafter tid (by simp) key hkey
      have hold := h.bytes before tid' after' key' k hl hkey' hk fun t ht => hafter t (by simp [ht])
      have hpres : (a.line ((key' + k) / 128)).present = true := by
        have hmem' : (key' + k) / 128 ∈ touchedBy x s l :=
          List.mem_flatMap.mpr ⟨tid', by simp [hl], by rw [hkey']; exact mem_linesOf hk⟩
        simp [h.present, hmem']
      rw [hbefore _ (by omega), byteBefore, hpres]
      simpa using hold
  · have hout := hn tid (by simp) key hkey
    have hold := h.rest n fun t ht => hn t (by simp [ht])
    rw [hbefore n hout, h.byteBefore_append hkey hold]
  · rw [hline, h.lines, List.foldl_append, List.foldl_cons, List.foldl_nil]
    unfold Claims.StoreShape.onLine
    rw [hkey]
    simp only [Option.getD_some, List.contains_iff_mem]
    rfl

end Image

/-! ## What a step of a unit's stores changes besides -/

variable {s a b t : State} {u : Issue} {i : Instr}

/-- A write to near memory after others, while the unit's threads stay in their bundle. -/
theorem OnlyNear.woken (h : OnlyNear s a u) (hplace : ∀ tid ∈ u.tids, (a.thread tid).place = (s.thread tid).place)
    (hw : Woken a b) : OnlyNear s b u := by
  have hstill (k : Nat) (hk : ∀ w, (s.thread k).place ≠ .waiting w) (w : Wait) : (a.thread k).place ≠ .waiting w := by
    by_cases hu : k ∈ u.tids
    · rw [hplace k hu]
      exact hk w
    · rw [h.still k hu hk]
      exact hk w
  refine ⟨?_, ?_, ?_, fun c hc => by rw [hw.bundles]; exact h.bundles c hc, fun k hk => ?_, fun k hk hwait => ?_⟩
  · have h1 := congrArg (fun z : State => { z with
      threads := s.threads, bundles := s.bundles, cores := s.cores, mem := s.mem, lines := s.lines, early := s.early
      latent := s.latent, cur := s.cur }) hw.rest
    exact h1.trans h.rest
  · obtain ⟨p, hp, hpkeep⟩ := h.early
    obtain ⟨q, hq, hqkeep⟩ := hw.early
    refine ⟨fun e => p e && q e, by rw [hq, hp, List.filter_filter]; simp only [Bool.and_comm], fun e he => ?_⟩
    simp only [hpkeep e he, hqkeep e (hstill e.tid he), Bool.and_self]
  · obtain ⟨p, hp, hpkeep⟩ := h.latent
    obtain ⟨q, hq, hqkeep⟩ := hw.latent
    refine ⟨fun e => p e && q e, by rw [hq, hp, List.filter_filter]; simp only [Bool.and_comm], fun e he => ?_⟩
    simp only [hpkeep e he, hqkeep e he, Bool.and_self]
  · obtain ⟨p, r, e⟩ := h.others k hk
    obtain ⟨p', r', e'⟩ := hw.threads k
    exact ⟨p', r', by rw [e', e]⟩
  · rw [hw.still k (hstill k hwait), h.still k hk hwait]

/-- A change of the unit's own threads and its bundle after its writes. -/
theorem OnlyNear.after (h : OnlyNear s a u) (ht : AfterWrite a t u) : OnlyNear s t u := by
  have hearly : t.early = a.early := by have := congrArg State.early ht.rest; exact this
  have hlatent : t.latent = a.latent := by have := congrArg State.latent ht.rest; exact this
  refine ⟨?_, hearly ▸ h.early, hlatent ▸ h.latent, fun c hc => (ht.bundles c hc).trans (h.bundles c hc), fun k hk => ?_,
    fun k hk hwait => (ht.threads k hk).trans (h.still k hk hwait)⟩
  · have h1 := congrArg (fun z : State => { z with
      threads := s.threads, bundles := s.bundles, cores := s.cores, mem := s.mem, lines := s.lines, early := s.early
      latent := s.latent, cur := s.cur }) ht.rest
    exact h1.trans h.rest
  · rw [ht.threads k hk]
    exact h.others k hk

/-! ## A store unit over its bundle -/

variable {x : Claims.StoreShape} {y : Bundle} {p : Progress} {acts done targets : List Nat} {src : Nat}

/-- What a store unit leaves of a thread. -/
def storeThread (s : State) (u : Issue) (i : Instr) (tid : Nat) : Thread :=
  (s.thread tid).pushLatch (if passes s u i tid then untagged 0 else guardedOffLatch (s.thread tid) i)

/-- How far a store unit has come: the threads done, and those of them that have stored. -/
structure Storing (s : State) (u : Issue) (i : Instr) (x : Claims.StoreShape) (y : Bundle) (p : Progress) (acts done : List Nat) :
    Prop where
  held   : p.held = false
  jumps  : p.jumps = []
  only   : OnlyNear s p.st u
  bundle : p.st.bundles.find? u.bundle = some { y with finished := y.finished ++ done }
  cur    : p.st.cur = none
  sub    : ∀ tid ∈ done, tid ∈ u.tids
  after  : ∀ tid ∈ done, p.st.thread tid = storeThread s u i tid
  before : ∀ tid ∈ u.tids, tid ∉ done → p.st.thread tid = s.thread tid
  image  : Stored s u i x acts p.st

theorem Storing.place (hp : Storing s u i x y p acts done) {tid : Nat} (htid : tid ∈ u.tids) :
    (p.st.thread tid).place = (s.thread tid).place := by
  by_cases h : tid ∈ done
  · rw [hp.after tid h]
    rfl
  · rw [hp.before tid htid h]

/-- The threads of a unit done after its effect on near memory, each as the unit leaves it. -/
theorem Storing.finish {acts' : List Nat} (hp : Storing s u i x y p acts done) (F : Thread → Thread) {c : State} (hw : Woken p.st c)
    (himage : Stored s u i x acts' c) (hsub : ∀ tid ∈ targets, tid ∈ u.tids) (hnd : targets.Nodup)
    (hdis : ∀ tid ∈ targets, tid ∉ done) (hF : ∀ tid ∈ targets, F (s.thread tid) = storeThread s u i tid)
    (hbun : ∀ tid ∈ u.tids, (s.thread tid).place = .inBundle u.bundle) :
    Storing s u i x y { p with st := markFinished (targets.foldl (fun s tid => s.modThread tid F) c) u.bundle targets }
      acts' (done ++ targets) := by
  obtain ⟨hsame, hbundles, hcur⟩ := sameBut_fold_modThread (fun _ => F) targets c
  have hthread := thread_fold_modThread (fun _ => F) targets hnd c
  have hkeep (tid : Nat) (htid : tid ∈ u.tids) : c.thread tid = p.st.thread tid :=
    hw.still tid fun w => by rw [hp.place htid, hbun tid htid]; nofun
  generalize targets.foldl (fun s tid => s.modThread tid F) c = d at hsame hbundles hcur hthread ⊢
  have hafter : AfterWrite c (markFinished d u.bundle targets) u := by
    refine ⟨?_, fun k hk => ?_, fun k hk => ?_⟩
    · have hrest := congrArg (fun z : State => { z with cores := c.cores, cur := c.cur }) hsame
      exact hrest
    · rw [markFinished_ne d targets hk, hbundles]
    · exact (hthread k).trans (if_neg fun h => hk (hsub k h))
  refine ⟨hp.held, hp.jumps, (hp.only.woken (fun tid => hp.place) hw).after hafter, ?_, ?_, fun tid htid => ?_,
    fun tid htid => ?_, fun tid htid hn => ?_, himage.same hsame.mem ?_⟩
  · have hfind := markFinished_find d u.bundle targets { y with finished := y.finished ++ done }
      (by rw [hbundles, hw.bundles]; exact hp.bundle)
    simpa [List.append_assoc] using hfind
  · exact hcur.trans (hw.cur.trans hp.cur)
  · exact (List.mem_append.mp htid).elim (hp.sub tid) (hsub tid)
  · change d.thread tid = _
    rw [hthread tid]
    split
    · next h => rw [hkeep tid (hsub tid h), hp.before tid (hsub tid h) (hdis tid h), hF tid h]
    · next h =>
      have hd := (List.mem_append.mp htid).resolve_right h
      rw [hkeep tid (hp.sub tid hd), hp.after tid hd]
  · rw [List.mem_append, not_or] at hn
    change d.thread tid = _
    rw [hthread tid, if_neg hn.2, hkeep tid htid, hp.before tid htid hn.1]
  · have := congrArg State.lines hsame
    exact this

/-- What a store unit computes for a thread. -/
def storeCompute (x : Claims.StoreShape) (u : Issue) : Compute := fun s tid g =>
  match nearCheck s tid (x.reg s tid) (nearAddr (x.reg s tid).val x.off x.size) x.size false with
  | .error r => (r, s)
  | .ok key => (.done .none, storeNear u.late s tid key (storeBytes x s tid)
      (joinTags [(x.data (s.thread tid)).tag, (x.reg s tid).tag, g]))

theorem exec_store (h : Claims.storeShape i = some x) (s : State) : exec i s = issueUnit i (storeCompute x) s := by
  have hpair (t : Thread) (d : Reg) : pairData d t = ((t.reg d).val.toNat + 2 ^ 32 * (t.reg (d + 1)).val.toNat,
      joinTags [(t.reg d).tag, (t.reg (d + 1)).tag]) := by rw [pairData, t.pair_val, t.pair_tag]
  unfold storeCompute
  simp only [nearAddr_effAddr]
  cases i
  case stB64 c d a off =>
    cases h
    change storeUnit (.stB64 c d a off) a off 8 (pairData d) s = _
    rw [funext fun t => hpair t d]
    rfl
  case stB8 | stB16 | stB32 =>
    cases h
    rfl
  all_goals cases h

/-- The unit's memory checks read only what its stores leave as it is. -/
theorem OnlyNear.nearCheck (h : OnlyNear s a u) (tid : Nat) (base : Tagged Word) (ea : Word) (size : Nat) (load : Bool) :
    nearCheck a tid base ea size load = nearCheck s tid base ea size load := by
  rw [← h.rest]
  rfl

/-- A thread that its guard holds back, and with it the threads of its unit that go by its guard. -/
theorem runThread_heldBack (f : Compute) (hheld : p.held = false) (hself : sourceOf u i src = src)
    (hthread : p.st.thread src = s.thread src) (hpass : passes s u i src = false) (hclean : (s.thread src).guardClean i = true)
    (targets : List Nat) :
    runThread u i f p src targets = { p with
      st := markFinished (targets.foldl (fun s tid => s.modThread tid fun t => t.pushLatch (guardedOffLatch t i)) p.st) u.bundle
        targets } := by
  unfold runThread
  rw [hheld, hthread, if_neg Bool.false_ne_true]
  dsimp only
  cases hg : (s.thread src).guard i with
  | none =>
    have h := (passes_none (u := u) (tid := src) (by rw [hself]; exact hg)).1
    exact absurd (hpass.symm.trans h) (by decide)
  | some g =>
    obtain ⟨hval, -⟩ := passes_some (u := u) (tid := src) (by rw [hself]; exact hg)
    have hv : g.val = false := hval.symm.trans hpass
    have hp : g.tag.poison = false := by simpa [Thread.guardClean, hg] using hclean
    simp only [hv, hp, Bool.false_eq_true, if_false]

/-- One source thread's store, or its passing by, in its place. -/
theorem runThread_stores (hp : Storing s u i x y p acts done) (hlate : u.late = false) (hmem : src ∈ targets)
    (hall : ∀ tid ∈ targets, sourceOf u i tid = src) (hsub : ∀ tid ∈ targets, tid ∈ u.tids) (hnd : targets.Nodup)
    (hdis : ∀ tid ∈ targets, tid ∉ done) (hclean : (s.thread src).guardClean i = true)
    (hbun : ∀ tid ∈ u.tids, (s.thread tid).place = .inBundle u.bundle)
    (hok : passes s u i src = true →
      ∃ key, NearOk s src (x.reg s src) (nearAddr (x.reg s src).val x.off x.size) x.size false key) :
    Storing s u i x y (runThread u i (storeCompute x u) p src targets) (if passes s u i src then acts ++ [src] else acts)
      (done ++ targets) := by
  have hself := hall src hmem
  have hthread := hp.before src (hsub src hmem) (hdis src hmem)
  have hpasses (tid : Nat) (htid : tid ∈ targets) : passes s u i tid = passes s u i src := by
    rw [← passes_source, hall tid htid]
  cases hpass : passes s u i src with
  | true =>
    obtain ⟨key, hkey⟩ := hok hpass
    have hmapped : x.key s src = some key := hkey.mapped
    unfold Claims.StoreShape.reg at hkey
    have hdone : storeCompute x u p.st src (guardTag s u i src) =
        (.done .none, writeNear p.st key (storeBytes x s src) (storeTag x s u i src)) := by
      unfold storeCompute storeBytes storeTag Claims.StoreShape.reg
      rw [hthread, hp.only.nearCheck, nearCheck_ok hkey, hlate]
      rfl
    rw [runThread_passes _ hp.held hself hthread hpass hclean, hdone]
    refine hp.finish (fun t => t.apply .none) (writeNear_spec ..).1 (hp.image.write hmapped) hsub hnd hdis
      (fun tid htid => ?_) hbun
    rw [storeThread, hpasses tid htid, hpass]
    rfl
  | false =>
    rw [runThread_heldBack _ hp.held hself hthread hpass hclean]
    refine hp.finish (fun t => t.pushLatch (guardedOffLatch t i)) (Woken.refl _) hp.image hsub hnd hdis (fun tid htid => ?_) hbun
    rw [storeThread, hpasses tid htid, hpass]
    rfl

/-- The stores of a lane unit's threads, one after another. -/
theorem foldThreads_stores (hk : i.ctl.k = false) (h : Issues s u i) (hlate : u.late = false)
    (hok : ∀ tid ∈ u.tids, passes s u i tid = true →
      ∃ key, NearOk s tid (x.reg s tid) (nearAddr (x.reg s tid).val x.off x.size) x.size false key)
    (l : List Nat) (hl : l.Nodup) (hsub : ∀ tid ∈ l, tid ∈ u.tids) (hp : Storing s u i x y p acts done)
    (hdis : ∀ tid ∈ l, tid ∉ done) :
    Storing s u i x y (l.foldl (fun p tid => runThread u i (storeCompute x u) p tid [tid]) p) (acts ++ l.filter (passes s u i))
      (done ++ l) := by
  induction l generalizing p acts done with
  | nil => simpa using hp
  | cons a l ih =>
    have hself (tid : Nat) (_ : tid ∈ [a]) : sourceOf u i tid = a := by simp_all [sourceOf]
    have ha := hsub a List.mem_cons_self
    have hstep := runThread_stores hp hlate List.mem_cons_self hself (by simpa using ha) (List.nodup_singleton a)
      (by simpa using hdis a List.mem_cons_self) (h.clean a ha) h.placed (hok a ha)
    have hrest := ih (List.nodup_cons.mp hl).2 (fun tid ht => hsub tid (List.mem_cons_of_mem _ ht)) hstep fun tid ht => by
      have hne : tid ≠ a := fun e => (List.nodup_cons.mp hl).1 (e ▸ ht)
      simp [hdis tid (List.mem_cons_of_mem _ ht), hne]
    rw [List.foldl_cons, List.filter_cons]
    cases hpass : passes s u i a <;> simpa [hpass, List.append_assoc] using hrest

/-- The stores of a whole unit. -/
theorem runAll_stores (h : Issues s u i) (hlate : u.late = false) (hy : s.bundles.find? u.bundle = some y) (hfin : y.finished = [])
    (hok : ∀ tid, Acts s u i tid →
      ∃ key, NearOk s tid (x.reg s tid) (nearAddr (x.reg s tid).val x.off x.size) x.size false key) :
    Storing s u i x y (runAll u i (storeCompute x u) { s with cur := none } id) (actors s u i) u.tids := by
  have hstart : Storing s u i x y ⟨{ s with cur := none }, [], false⟩ [] [] :=
    ⟨rfl, rfl, onlyNear_of_woken (Woken.refl _) ⟨rfl, fun _ _ => rfl, fun _ _ => rfl⟩, by simpa using hy, rfl, by simp, by simp,
      fun _ _ _ => rfl, .nil rfl rfl⟩
  have hwait : (u.tids.filter fun tid => !(State.bundle { s with cur := none } u.bundle).finished.contains tid) = u.tids := by
    simp [State.bundle, SMap.getD, hy, hfin]
  unfold runAll
  simp only [id, hwait]
  cases hk : i.ctl.k with
  | true =>
    cases ht : u.tids with
    | nil => exact absurd ht h.someone
    | cons src rest =>
      have hsrc : src ∈ u.tids := ht ▸ List.mem_cons_self
      have hself (tid : Nat) : sourceOf u i tid = src := by simp [sourceOf, hk, ht]
      have hnd := ht ▸ h.distinct
      have hall := runThread_stores hstart hlate (targets := src :: rest) List.mem_cons_self (fun tid _ => hself tid)
        (fun tid h => ht ▸ h) hnd (by simp) (h.clean src hsrc) h.placed (fun hpass => hok src ⟨hsrc, hself src, hpass⟩)
      have hactors : actors s u i = if passes s u i src then [src] else [] := by
        have hothers : rest.filter (fun tid => decide (sourceOf u i tid = tid) && passes s u i tid) = [] :=
          List.filter_eq_nil_iff.mpr fun tid hmem => by
            have hne : src ≠ tid := fun e => (List.nodup_cons.mp hnd).1 (e ▸ hmem)
            simp [hself, hne]
        rw [actors, ht, List.filter_cons, hothers]
        simp [hself]
      rw [hactors]
      exact hall
  | false =>
    have hself (tid : Nat) : sourceOf u i tid = tid := by simp [sourceOf, hk]
    have hactors : actors s u i = u.tids.filter (passes s u i) := by simp [actors, hself]
    rw [hactors]
    exact foldThreads_stores hk h hlate (fun tid ht hpass => hok tid ⟨ht, hself tid, hpass⟩) u.tids h.distinct (fun _ h => h) hstart
      (by simp)

/-- Stores in their place. -/
theorem storesInPlace : Claims.NearStores := by
  intro s u i x hx h hlate hok
  obtain ⟨y, hy, htids, hfin⟩ := h.bundle
  have hall := runAll_stores h hlate hy hfin hok
  have hprog : Prog (runAll u i (storeCompute x u) { s with cur := none } id).st u y (storeThread s u i)
      (runAll u i (storeCompute x u) { s with cur := none } id) u.tids :=
    ⟨hall.held, hall.jumps, SameBut.refl _, by simpa [hfin] using hall.bundle, fun _ _ => rfl, rfl, hall.after, fun _ _ => rfl⟩
  have hexec : exec i s = .next (finish u (runAll u i (storeCompute x u) { s with cur := none } id)) := by
    rw [exec_store hx, issueUnit, h.cur]
    rfl
  generalize runAll u i (storeCompute x u) { s with cur := none } id = p at hall hprog hexec
  have halive (tid : Nat) (htid : tid ∈ u.tids) : p.st.isKilled tid = false := by
    have hteams : p.st.teams = s.teams := by have := congrArg State.teams hall.only.rest; exact this
    rw [State.isKilled, State.threadTeam, State.team, hteams]
    exact h.alive tid htid
  obtain ⟨honly, hthreads, hbundle, hcur⟩ := finish_advances hprog htids (fun _ h => h) (fun _ h => h) (fun tid ht => h.free tid ht) halive
  have hafter : AfterWrite p.st (finish u p) u := by
    refine ⟨?_, honly.bundles, honly.threads⟩
    have hrest := congrArg (fun z : State => { z with cores := p.st.cores, cur := p.st.cur }) honly.rest
    exact hrest
  have hlines : (finish u p).lines = p.st.lines := by have := congrArg State.lines honly.rest; exact this
  obtain ⟨hbytes, hrest, hline⟩ := hall.image.same honly.rest.mem hlines
  have hsbun : s.bundle u.bundle = y := by rw [State.bundle, SMap.getD, hy]; rfl
  refine ⟨_, hexec, hall.only.after hafter, ?_, hbytes, hrest, hline, hthreads⟩
  unfold Advanced
  rw [hbundle, hsbun]
  exact ⟨htids, rfl, rfl, rfl, hcur.trans hall.cur⟩

/-! ## Stores out of their place (R190) -/

/-- The state in which a thread's store stands behind the late stores. -/
def storedLate (s : State) (u : Issue) (i : Instr) (x : Claims.StoreShape) (tid key : Nat) : State :=
  { s with cur := none, early := Claims.keptAhead s tid key x.size
           late := s.late ++ [⟨tid, key, storeBytes x s tid, storeTag x s u i tid, false⟩] }

/-- A store out of its place by one thread stands behind the late stores. -/
theorem exec_lateStore {tid key : Nat} (hx : Claims.storeShape i = some x) (h : Alone s u i tid) (hlate : u.late = true)
    (hok : NearOk s tid (x.reg s tid) (nearAddr (x.reg s tid).val x.off x.size) x.size false key) :
    ∃ t, exec i s = .next t ∧ Onward ((storedLate s u i x tid key).modThread tid fun th => th.pushLatch (untagged 0)) t u := by
  have hlen : (storeBytes x s tid).length = x.size := leBytes_length ..
  have hstore : storeNear true { s with cur := none } tid key (storeBytes x s tid) (storeTag x s u i tid) =
      storedLate s u i x tid key := by
    rw [storedLate, ← hlen]
    rfl
  rw [exec_store hx]
  refine issueUnit_alone_done (s1 := storedLate s u i x tid key) (r := .none) h ?_ rfl (h.issues.free tid h.mem)
    (h.issues.alive tid h.mem)
  unfold Claims.StoreShape.reg at hok
  unfold storeCompute Claims.StoreShape.reg
  rw [thread_cur, nearCheck_cur, nearCheck_ok hok, hlate, ← hstore]
  rfl

/-- A late store with no earlier one of its thread to its bytes becomes visible at its turn. -/
theorem drainOne_visible {before after : List LateStore} {e : LateStore} (hs : s.late = before ++ e :: after)
    (hapart : ∀ x ∈ before, x.tid = e.tid → x.key + x.bytes.length ≤ e.key ∨ e.key + e.bytes.length ≤ x.key) :
    drainOne before.length s = performLate { s with late := before ++ after } e := by
  have hget : s.late[before.length]? = some e := by simp [hs]
  have herase : s.late.eraseIdx before.length = before ++ after := by
    rw [hs, List.eraseIdx_append_of_length_le (Nat.le_refl _), Nat.sub_self, List.eraseIdx_cons_zero]
  have hnone : ((s.late.take before.length).any fun x => decide (x.tid = e.tid) && x.meets e.key e.bytes.length) = false := by
    rw [hs, List.take_left, List.any_eq_false]
    intro x hx
    by_cases htid : x.tid = e.tid
    · have hout := hapart x hx htid
      simp only [LateStore.meets, Bool.and_eq_true, decide_eq_true_eq]
      omega
    · simp [htid]
  rw [drainOne, hget]
  dsimp only
  rw [hnone, if_neg Bool.false_ne_true, herase]

theorem lateStores : Claims.LateStores :=
  ⟨fun _ _ _ _ _ _ hx h hlate hok => exec_lateStore hx h hlate hok,
    fun _ _ _ _ hs hapart => congrArg Host.Outcome.next (drainOne_visible hs hapart)⟩

end Sys2Proof.Machine

namespace Sys2Proof

open Machine

/-- Settles O9: near memory after a unit is that after its threads' stores one by one, which touch nothing else but the threads that wait for
it; a store out of its place is one of the late stores until its own turn. -/
theorem nearStores : Obligations.NearStores := by
  unfold Obligations.NearStores
  exact ⟨storesInPlace, lateStores⟩

end Sys2Proof
end

section
/-! PROOF. `push`, `pop` and `mts FFLAGS` (R85, R86, R121, R125): O11 holds. -/

namespace Sys2Proof.Machine

open Sys2Proof

/-! ## Words moved between registers and the spill stack (R121) -/

theorem Thread.spillWord_setSpill (t : Thread) (n k : Nat) (x : Tagged Word) :
    (t.setSpill n x).spillWord k = if k = n then x else t.spillWord k := by
  by_cases h : k = n
  · subst h
    rw [if_pos rfl]
    exact SMap.getD_set_self ..
  · rw [if_neg h]
    exact SMap.getD_set_ne _ _ _ h

theorem Thread.reg_setReg (t : Thread) {r : Nat} (x : Tagged Word) (k : Reg) (hr : r < 120) (hk : k.toNat < 120) :
    (t.setReg r x).reg k = if k.toNat = r then x else t.reg k := by
  rw [Thread.setReg, if_pos hr, Thread.reg, Thread.reg, if_pos hk, if_pos hk]
  by_cases h : k.toNat = r
  · subst h
    rw [if_pos rfl]
    exact SMap.getD_set_self ..
  · rw [if_neg h]
    exact SMap.getD_set_ne _ _ _ h

theorem Thread.reg_of_v {t t' : Thread} (h : t.v = t'.v) {k : Reg} (hk : k.toNat < 120) : t.reg k = t'.reg k := by
  rw [Thread.reg, Thread.reg, if_pos hk, if_pos hk, h]

/-- A word that `push` takes from a register. -/
def pushedWord (t : Thread) (a : Reg) (g : Tag) (j : Nat) : Tagged Word :=
  ⟨(t.reg (a + BitVec.ofNat 7 j)).val, (t.reg (a + BitVec.ofNat 7 j)).tag.join g⟩

/-- A thread with n registers from a on pushed, before SP moves. -/
def pushWords (t : Thread) (a : Reg) (g : Tag) (n : Nat) : Thread :=
  (List.range n).foldl (fun t j => t.setSpill (t.sp + j) (pushedWord t a g j)) t

theorem pushWords_succ (t : Thread) (a : Reg) (g : Tag) (n : Nat) : pushWords t a g (n + 1) =
    (pushWords t a g n).setSpill ((pushWords t a g n).sp + n) (pushedWord (pushWords t a g n) a g n) := by
  rw [pushWords, List.range_succ, List.foldl_append]
  rfl

/-- Only the spill words change. -/
theorem pushWords_only (t : Thread) (a : Reg) (g : Tag) (n : Nat) : ∃ w, pushWords t a g n = { t with spill := w } := by
  induction n with
  | zero => exact ⟨t.spill, rfl⟩
  | succ n ih =>
    obtain ⟨w, hw⟩ := ih
    rw [pushWords_succ, hw]
    exact ⟨_, rfl⟩

theorem spillWord_pushWords (t : Thread) (a : Reg) (g : Tag) (n k : Nat) : (pushWords t a g n).spillWord k =
    if t.sp ≤ k ∧ k < t.sp + n then pushedWord t a g (k - t.sp) else t.spillWord k := by
  induction n with
  | zero => exact (if_neg (by omega)).symm
  | succ n ih =>
    obtain ⟨w, hw⟩ := pushWords_only t a g n
    have hsp : (pushWords t a g n).sp = t.sp := by rw [hw]
    have hword : pushedWord (pushWords t a g n) a g n = pushedWord t a g n := by rw [hw]; rfl
    rw [pushWords_succ, hsp, hword, Thread.spillWord_setSpill, ih]
    by_cases hk : k = t.sp + n
    · rw [if_pos hk, if_pos (by omega), hk, Nat.add_sub_cancel_left]
    · rw [if_neg hk]
      exact if_congr (by omega) rfl rfl

/-- A word that `pop` takes from the spill stack of a thread for its register j of n. -/
def poppedWord (t : Thread) (n : Nat) (g : Tag) (j : Nat) : Tagged Word :=
  ⟨(t.spillWord (t.sp - n + j)).val, (t.spillWord (t.sp - n + j)).tag.join g⟩

/-- A thread with m registers from d on set. -/
def setWords (t : Thread) (d : Reg) (w : Nat → Tagged Word) (m : Nat) : Thread :=
  (List.range m).foldl (fun t j => t.setReg (d.toNat + j) (w j)) t

theorem setWords_succ (t : Thread) (d : Reg) (w : Nat → Tagged Word) (m : Nat) :
    setWords t d w (m + 1) = (setWords t d w m).setReg (d.toNat + m) (w m) := by
  rw [setWords, List.range_succ, List.foldl_append]
  rfl

theorem setWords_only (t : Thread) (d : Reg) (w : Nat → Tagged Word) (m : Nat) : ∃ v, setWords t d w m = { t with v := v } := by
  induction m with
  | zero => exact ⟨t.v, rfl⟩
  | succ m ih =>
    obtain ⟨v, hv⟩ := ih
    rw [setWords_succ, hv, Thread.setReg]
    split
    · exact ⟨_, rfl⟩
    · exact ⟨v, rfl⟩

theorem reg_setWords (t : Thread) (d : Reg) (w : Nat → Tagged Word) {m : Nat} (hm : d.toNat + m ≤ 120) {k : Reg} (hk : k.toNat < 120) :
    (setWords t d w m).reg k = if d.toNat ≤ k.toNat ∧ k.toNat < d.toNat + m then w (k.toNat - d.toNat) else t.reg k := by
  induction m with
  | zero => exact (if_neg (by omega)).symm
  | succ m ih =>
    rw [setWords_succ, Thread.reg_setReg _ _ _ (by omega) hk, ih (by omega)]
    by_cases h : k.toNat = d.toNat + m
    · rw [if_pos h, if_pos (by omega), h, Nat.add_sub_cancel_left]
    · rw [if_neg h]
      exact if_congr (by omega) rfl rfl

/-! ## The units -/

variable {s : State} {u : Issue} {i : Instr}

/-- A lane unit whose threads all complete it, each changing itself alone. -/
theorem issueUnit_completes_own {f : Issue → Compute} {F : Nat → Tag → Thread} {r : Nat → Tag → Result} (h : Issues s u i)
    (hk : i.ctl.k = false) (hF : ∀ tid ∈ u.tids, ∀ g, (F tid g).request = (s.thread tid).request)
    (hf : ∀ tid ∈ u.tids, ∀ s' g, SameBut s s' → s'.thread tid = s.thread tid →
      f u s' tid g = (.done (r tid g), s'.setThread tid (F tid g))) :
    ∃ t, issueUnit i f s = .next t ∧ OnlyThreads s t u ∧ Advanced s t u ∧ ∀ tid ∈ u.tids, t.thread tid =
      if passes s u i tid then (F tid (guardTag s u i tid)).apply (r tid (guardTag s u i tid))
      else (s.thread tid).pushLatch (guardedOffLatch (s.thread tid) i) := by
  have hself (tid : Nat) : sourceOf u i tid = tid := by simp [sourceOf, hk]
  obtain ⟨t, hexec, honly, hadv, hthreads⟩ := issueUnit_completes (f := f) (x := fun tid => F tid (guardTag s u i tid))
    (r := fun tid => r tid (guardTag s u i tid)) h (fun tid ht => (hF tid ht _).trans (h.free tid ht))
    fun tid ht _ _ s' hs hthread => ⟨_, hf tid ht s' _ hs hthread, rfl, rfl, rfl, State.thread_setThread_self ..,
      fun k hk => State.thread_setThread_ne _ _ hk⟩
  refine ⟨t, hexec, honly, hadv, fun tid ht => ?_⟩
  rw [hthreads tid ht, unitThread]
  simp only [hself, if_true]

/-- What the thread of a `push` of registers from a on is before its latch shifts. -/
def pushThread (t : Thread) (a : Reg) (g : Tag) (n : Nat) : Thread :=
  { pushWords t a g n with sp := (pushWords t a g n).sp + n }

def popThread (t : Thread) (d : Reg) (g : Tag) (n : Nat) : Thread := { setWords t d (poppedWord t n g) n with sp := t.sp - n }

def pushCompute (a : Reg) (n : Nat) (_ : Issue) : Compute := fun s tid g =>
  if s.spillDepth tid < (s.thread tid).sp + n then (.trap .spillOvf (BitVec.ofNat 32 (s.thread tid).sp) 0 false, s)
  else (.done .none, s.setThread tid (pushThread (s.thread tid) a g n))

def popCompute (d : Reg) (n : Nat) (_ : Issue) : Compute := fun s tid g =>
  if (s.thread tid).sp < n then (.trap .spillOvf (BitVec.ofNat 32 (s.thread tid).sp) 0 false, s)
  else (.done ⟨[], Tag.zero, poppedWord (s.thread tid) n g 0, 0⟩, s.setThread tid (popThread (s.thread tid) d g n))

theorem exec_push (c : Ctl) (a : Reg) (n : BitVec 8) (s : State) :
    exec (.push c a n) s = issueUnit (.push c a n) (pushCompute a n.toNat) s := rfl

theorem exec_pop (c : Ctl) (d : Reg) (n : BitVec 8) (s : State) :
    exec (.pop c d n) s = issueUnit (.pop c d n) (popCompute d n.toNat) s := rfl

theorem push_ownEffect {tid : Nat} (c : Ctl) (a : Reg) (n : BitVec 8) (g : Tag)
    (h : (s.thread tid).sp + n.toNat ≤ s.spillDepth tid) :
    Claims.ownEffect (.push c a n) s tid g ((pushThread (s.thread tid) a g n.toNat).apply .none) := by
  obtain ⟨w, hw⟩ := pushWords_only (s.thread tid) a g n.toNat
  refine ⟨h, ?_, fun k => ?_⟩
  · rw [pushThread, hw]
    rfl
  · simp only [joinTags_two]
    exact spillWord_pushWords ..

theorem pop_ownEffect {tid : Nat} (c : Ctl) (d : Reg) (n : BitVec 8) (g : Tag) (h : n.toNat ≤ (s.thread tid).sp)
    (hd : d.toNat + n.toNat ≤ 120) : Claims.ownEffect (.pop c d n) s tid g
      ((popThread (s.thread tid) d g n.toNat).apply ⟨[], Tag.zero, poppedWord (s.thread tid) n.toNat g 0, 0⟩) := by
  obtain ⟨v, hv⟩ := setWords_only (s.thread tid) d (poppedWord (s.thread tid) n.toNat g) n.toNat
  refine ⟨h, ?_, fun k hk => ?_⟩
  · simp only [joinTags_two]
    rw [popThread, hv]
    rfl
  · simp only [joinTags_two]
    have hv' : ((popThread (s.thread tid) d g n.toNat).apply ⟨[], Tag.zero, poppedWord (s.thread tid) n.toNat g 0, 0⟩).v =
        (setWords (s.thread tid) d (poppedWord (s.thread tid) n.toNat g) n.toNat).v := rfl
    rw [Thread.reg_of_v hv' hk]
    exact reg_setWords _ _ _ hd hk

theorem ownEffects : Claims.StackAndFlags := by
  intro s u i h hk hready
  cases i
  case push c a n =>
    obtain ⟨t, hexec, honly, hadv, hthreads⟩ := issueUnit_completes_own (f := pushCompute a n.toNat)
      (F := fun tid g => pushThread (s.thread tid) a g n.toNat) (r := fun _ _ => .none) h hk
      (fun tid _ g => by
        obtain ⟨w, hw⟩ := pushWords_only (s.thread tid) a g n.toNat
        rw [pushThread, hw])
      (fun tid ht s' g hs hthread => by
        have hdepth : (s.thread tid).sp + n.toNat ≤ s.spillDepth tid := hready tid ht
        rw [pushCompute, hthread, spillDepth_same hs, if_neg (by omega)])
    refine ⟨t, hexec, honly, hadv, fun tid ht => ?_⟩
    rw [hthreads tid ht]
    split
    · exact push_ownEffect c a n _ (hready tid ht)
    · rfl
  case pop c d n =>
    obtain ⟨t, hexec, honly, hadv, hthreads⟩ := issueUnit_completes_own (f := popCompute d n.toNat)
      (F := fun tid g => popThread (s.thread tid) d g n.toNat)
      (r := fun tid g => ⟨[], Tag.zero, poppedWord (s.thread tid) n.toNat g 0, 0⟩) h hk
      (fun tid _ g => by
        obtain ⟨v, hv⟩ := setWords_only (s.thread tid) d (poppedWord (s.thread tid) n.toNat g) n.toNat
        rw [popThread, hv])
      (fun tid ht s' g hs hthread => by
        obtain ⟨-, hsp, -⟩ := hready tid ht
        rw [popCompute, hthread, if_neg (by omega)])
    refine ⟨t, hexec, honly, hadv, fun tid ht => ?_⟩
    obtain ⟨-, hsp, hd⟩ := hready tid ht
    rw [hthreads tid ht]
    split
    · exact pop_ownEffect c d n _ hsp hd
    · rfl
  case mts c a n =>
    obtain ⟨tid₀, htid₀⟩ := List.exists_mem_of_ne_nil _ h.someone
    obtain rfl : n = 0x0C := hready tid₀ htid₀
    obtain ⟨t, hexec, honly, hadv, hthreads⟩ := issueUnit_completes_own (i := .mts c a 0x0C)
      (f := fun _ s tid g => (.done .none,
        s.modThread tid fun t => { t with fflags := ⟨((s.thread tid).reg a).val.setWidth 7, ((s.thread tid).reg a).tag.join g⟩ }))
      (F := fun tid g => { s.thread tid with
        fflags := ⟨((s.thread tid).reg a).val.setWidth 7, ((s.thread tid).reg a).tag.join g⟩ })
      (r := fun _ _ => .none) h hk (fun _ _ _ => rfl)
      (fun tid _ s' g _ hthread => by rw [State.modThread, hthread])
    refine ⟨t, hexec, honly, hadv, fun tid ht => ?_⟩
    rw [hthreads tid ht]
    split
    · refine ⟨rfl, ?_⟩
      simp only [joinTags_two]
      rfl
    · rfl
  all_goals
    obtain ⟨tid, htid⟩ := List.exists_mem_of_ne_nil _ h.someone
    exact (hready tid htid).elim

end Sys2Proof.Machine

namespace Sys2Proof

open Machine

/-- Settles O11: each thread of the bundle changes itself alone, word by word. -/
theorem stackAndFlags : Obligations.StackAndFlags := by
  unfold Obligations.StackAndFlags
  exact ownEffects

end Sys2Proof
end

section
/-! PROOF. The grade of TRAPVAL at a misaligned return (R83, R88, R120): O12 fails. -/

namespace Sys2Proof.Machine

open Sys2Proof

/-- The unit of a `ret` of thread 0. -/
def retUnit : Issue := ⟨0, 0, [0], 0, 4, 0, 0, 0, 0, false⟩

def plainRet : Instr := .ret ⟨false, false, false, none⟩

/-- A thread of a world with a handler whose topmost spill word is misaligned and has grade G1. -/
def gradedReturn : State := { State.reset with
  threads := [(0, { noThread with sp := 1, spill := [(0, ⟨1, ⟨1, false⟩⟩)], place := .inBundle 0 })]
  groups := [(0, noGroup)]
  bundles := [(0, { noBundle with tids := [0] })]
  worlds := [(0, { noWorld with handler := 64 })]
  cur := some retUnit }

theorem gradedReturn_alone : Alone gradedReturn retUnit plainRet 0 :=
  ⟨⟨rfl, ⟨_, rfl, rfl, rfl⟩, by decide, by decide, by decide, by decide, by decide, by decide⟩, rfl, by decide⟩

/-- The trap counts the tag of the spill word among the sources of the return. -/
theorem gradedReturn_trapval : ∃ t, exec plainRet gradedReturn = .next t ∧ (t.thread 0).trapval = ⟨1, ⟨1, false⟩⟩ :=
  ⟨_, rfl, by decide⟩

/-- The registers that a plain `ret` reads have no tag: it reads none. -/
theorem gradedReturn_sourceTag : gradedReturn.sourceTag 0 plainRet = Tag.zero := by decide

end Sys2Proof.Machine

namespace Sys2Proof

open Machine

/-- Refutes O12: the statement gives TRAPVAL the tags of the registers that the unit reads. A `ret` in `gradedReturn` traps with ALIGN for the
word that it pops, whose grade G1 the model joins, where the statement asks for G0. -/
theorem not_ownTraps : ¬ Obligations.OwnTraps := by
  unfold Obligations.OwnTraps
  intro htraps
  obtain ⟨t, hexec, hleft⟩ := htraps gradedReturn retUnit plainRet 0 .align 1 false gradedReturn_alone
    ⟨by decide, by decide, by decide⟩ (by decide)
  obtain ⟨t', hexec', hval⟩ := gradedReturn_trapval
  obtain rfl : t' = t := Host.Outcome.next.inj (hexec'.symm.trans hexec)
  have hstated := congrArg Thread.trapval hleft.thread
  rw [hval, gradedReturn_sourceTag] at hstated
  exact absurd hstated (by decide)

end Sys2Proof
end

section
/-! PROOF. `fquery`, `fretype`, `xlpurge` and `xlprobe` (R83, R307 to R310): O25 holds. -/

namespace Sys2Proof.Machine

open Sys2Proof

variable {s t : State} {u : Issue} {i : Instr} {tid : Nat}

/-! ## Requests with a purge (R310) -/

/-- The state in which a request has been sent, with the purges that stand beside it. -/
def requestWith (s : State) (u : Issue) (tid : Nat) (g : Tag) (asked : Asked) (n : Nat) (ps : SMap Purge) : State :=
  { (newRequest { s with cur := none } tid u.core g asked none).2 with nextId := n, purges := ps }

/-- What a unit does for its thread is to send a request without a pin. -/
def Asks (s : State) (u : Issue) (i : Instr) (tid : Nat) (asked : Asked) (n : Nat) (ps : SMap Purge) : Prop :=
  ∃ f, exec i s = issueUnit i f s ∧ f u { s with cur := none } tid (guardTag s u i tid) =
    (.sent s.nextId, requestWith s u tid (guardTag s u i tid) asked n ps)

theorem Asks.requests {asked : Asked} {n : Nat} {ps : SMap Purge} (hask : Asks s u i tid asked n ps) (h : Alone s u i tid) :
    ∃ t, exec i s = .next t ∧ Claims.Requests s t u tid (guardTag s u i tid) asked none ∧ t.purges = ps := by
  obtain ⟨f, hexec, hf⟩ := hask
  rw [hexec]
  clear hexec
  have hstill : Still s (requestWith s u tid (guardTag s u i tid) asked n ps) u tid :=
    ⟨rfl, h.issues.placed tid h.mem, h.issues.alive tid h.mem, rfl, h.issues.free tid h.mem⟩
  obtain ⟨t, hexec, hstay⟩ := issueUnit_alone_sent h hstill hf
  have hthread := hstay.thread
  have hrest := hstay.rest
  rw [requestWith, newRequest_eq] at hthread hrest
  have hreqs := congrArg State.requests hrest
  have hworlds : t.worlds = s.worlds.insert (s.threadWorld tid) { s.world (s.threadWorld tid) with
      seqs := (s.world (s.threadWorld tid)).seqs.insert u.core ((s.world (s.threadWorld tid)).seqs.getD u.core 0 + 1) } :=
    congrArg State.worlds hrest
  have hrefs := congrArg State.refs hrest
  have hmem := congrArg State.mem hrest
  have hcur := congrArg State.cur hrest
  have hpurges := congrArg State.purges hrest
  refine ⟨t, hexec, ⟨⟨?_, fun k hk => ?_, hstay.bundle, hcur⟩, ?_, fun k hk => ?_, ?_, hrefs, hmem⟩, hpurges⟩
  · rw [hthread, State.thread_modThread_self]
    rfl
  · rw [hthread, State.thread_modThread_ne _ _ hk]
    rfl
  · exact (congrArg (SMap.find? · s.nextId) hreqs).trans (SMap.find?_insert_self ..)
  · exact (congrArg (SMap.find? · k) hreqs).trans (SMap.find?_insert_ne _ _ hk)
  · unfold State.world
    rw [hworlds, SMap.getD_insert, if_pos rfl, SMap.getD_insert, if_pos rfl]
    rfl

/-- The owner that `fretype` names in the low bits of its second register (R308). -/
theorem retypeOwner_eq (o : Word) :
    (if o.getLsbD 6 then some (o.extractLsb' 0 6).toNat else none) = if o.getLsbD 6 then some (o.toNat % 64) else none := by
  rw [BitVec.extractLsb'_toNat, Nat.shiftRight_zero]

section
variable {c : Ctl} {d a : Reg}

theorem fquery_asks (hlo : ((s.thread tid).reg a).tag.poison = false) :
    Asks s u (.fquery c d a) tid (.fquery ((s.thread tid).reg a).val.toNat d) (s.nextId + 1) s.purges := by
  refine ⟨_, rfl, ?_⟩
  dsimp only
  rw [thread_cur, if_neg (by simp [hlo])]
  rfl

theorem fretype_asks {k : BitVec 4} (hlo : ((s.thread tid).reg a).tag.poison = false)
    (hhi : ((s.thread tid).reg (a + 1)).tag.poison = false) :
    let hi := ((s.thread tid).reg (a + 1)).val
    Asks s u (.fretype c d a k) tid (.fretype ((s.thread tid).reg a).val.toNat k.toNat
      (if hi.getLsbD 6 then some (hi.toNat % 64) else none) d) (s.nextId + 1) s.purges := by
  dsimp only
  rw [← retypeOwner_eq]
  refine ⟨_, rfl, ?_⟩
  dsimp only
  rw [thread_cur, firstPoison_none hlo hhi]
  rfl

theorem xlpurge_asks (hlo : ((s.thread tid).reg a).tag.poison = false) (hhi : ((s.thread tid).reg (a + 1)).tag.poison = false) :
    let lo := ((s.thread tid).reg a).val
    let hi := ((s.thread tid).reg (a + 1)).val
    ∃ caches, Asks s u (.xlpurge c d a) tid (.purge d) (s.nextId + 2) (s.purges.insert (s.nextId + 1) ⟨s.threadWorld tid,
      if hi.getLsbD 31 then .all else .va (lo.toNat + 2 ^ 32 * hi.toNat), caches, [], [], [], .request s.nextId⟩) := by
  dsimp only
  rw [← Thread.pair_val]
  refine ⟨purgeCaches (newRequest { s with cur := none } tid u.core (guardTag s u (.xlpurge c d a) tid) (.purge d) none).2.newId.2
    (s.threadWorld tid), _, rfl, ?_⟩
  dsimp only
  rw [thread_cur, firstPoison_none hlo hhi]
  rfl

end

theorem frameRequests : Claims.FrameRequests := by
  intro s u tid c d a
  refine ⟨fun h hlo => (fquery_asks hlo).requests h, fun k h hlo hhi => ?_, fun h hlo hhi => ?_⟩
  · obtain ⟨t, hexec, hreq, -⟩ := (fretype_asks (k := k) hlo hhi).requests h
    exact ⟨t, hexec, hreq⟩
  · obtain ⟨caches, hask⟩ := xlpurge_asks (c := c) (d := d) hlo hhi
    obtain ⟨t, hexec, hreq, hpurges⟩ := hask.requests h
    exact ⟨t, s.nextId + 1, _, hexec, hreq, by rw [hpurges, SMap.find?_insert_self], rfl, rfl, rfl, rfl, rfl, rfl⟩

/-! ## `xlprobe` (R309) -/

theorem translate_only (s : State) (q w va : Nat) : ∃ qs, (translate s q w va).2 = { s with quads := qs } := by
  unfold translate
  split
  · exact ⟨_, rfl⟩
  · split
    · exact ⟨_, rfl⟩
    · split <;> exact ⟨_, rfl⟩

theorem translate_cur (s : State) (c : Option Issue) (q w va : Nat) :
    (translate { s with cur := c } q w va).1 = (translate s q w va).1 := by
  have hwalk : walk { s with cur := c } w va = walk s w va := rfl
  have hquad : State.quad { s with cur := c } q = s.quad q := rfl
  unfold translate
  rw [hwalk, hquad]
  by_cases hva : 2 ^ 55 ≤ va
  · simp only [if_pos hva]
  · simp only [if_neg hva]
    cases cacheFind (s.quad q).cache w va with
    | some x => rfl
    | none => cases walk s w va <;> rfl

/-- The translation word that `xlprobe` answers (R309). -/
def probed (r : WalkResult) (va : Nat) : DWord :=
  match r with
  | .notMapped => 0
  | .leaf x => probeWord x va

theorem xlprobe_answers {c : Ctl} {d a : Reg} (hlo : ((s.thread tid).reg a).tag.poison = false)
    (hhi : ((s.thread tid).reg (a + 1)).tag.poison = false) :
    let va := ((s.thread tid).reg a).val.toNat + 2 ^ 32 * ((s.thread tid).reg (a + 1)).val.toNat
    let i := Instr.xlprobe c d a
    ∃ f qs, exec i s = issueUnit i f s ∧ f u { s with cur := none } tid (guardTag s u i tid) =
      (.done (.pair d (probed (translate s (quadOf u.core) (s.threadWorld tid) va).1 va) (guardTag s u i tid)),
        { s with cur := none, quads := qs }) := by
  dsimp only
  rw [← Thread.pair_val]
  obtain ⟨qs, hqs⟩ := translate_only { s with cur := none } (quadOf u.core) (s.threadWorld tid) ((s.thread tid).pair a).val.toNat
  refine ⟨_, qs, rfl, ?_⟩
  dsimp only
  rw [thread_cur, firstPoison_none hlo hhi]
  dsimp only
  have hworld : State.threadWorld { s with cur := none } tid = s.threadWorld tid := rfl
  have hword : (translate s (quadOf u.core) (s.threadWorld tid) ((s.thread tid).pair a).val.toNat).1 =
      (translate { s with cur := none } (quadOf u.core) (s.threadWorld tid) ((s.thread tid).pair a).val.toNat).1 := by
    exact (translate_cur s none ..).symm
  rw [hworld, hword, ← hqs]
  generalize translate { s with cur := none } (quadOf u.core) (s.threadWorld tid) ((s.thread tid).pair a).val.toNat = r
  obtain ⟨_ | x, b⟩ := r <;> rfl

/-- A field of the translation word. -/
theorem extract_ofNat (n : Nat) (k len : Nat) (hn : n < 2 ^ 64) :
    ((BitVec.ofNat 64 n).extractLsb' k len).toNat = n / 2 ^ k % 2 ^ len := by
  rw [BitVec.extractLsb'_toNat, BitVec.toNat_ofNat, Nat.mod_eq_of_lt hn, Nat.shiftRight_eq_div_pow]

theorem probeWord_fields (x : Xlat) (va : Nat) (hlevel : x.level ≤ 3) (hframe : x.phys va / 2 ^ 16 < 2 ^ 32) :
    let w := probeWord x va
    w.extractLsb' 0 12 = x.leaf.extractLsb' 0 12 ∧ (w.extractLsb' 12 2).toNat = x.level ∧ w.extractLsb' 14 2 = 0 ∧
      (w.extractLsb' 16 32).toNat = x.phys va / 2 ^ 16 ∧ w.extractLsb' 48 8 = x.leaf.extractLsb' 48 8 ∧ w.extractLsb' 56 8 = 0 := by
  have hgrant : entGrant x.leaf < 2 ^ 8 := (x.leaf.extractLsb' 48 8).isLt
  have hleaf := Nat.mod_lt x.leaf.toNat (show 0 < 4096 by omega)
  have hgrantval : (x.leaf.extractLsb' 48 8).toNat = entGrant x.leaf := rfl
  dsimp only
  unfold probeWord
  generalize x.phys va / 2 ^ 16 = f at *
  generalize entGrant x.leaf = g at *
  have hw : g * 2 ^ 48 + f * 2 ^ 16 + x.level * 2 ^ 12 + x.leaf.toNat % 4096 < 2 ^ 64 := by omega
  have hlow : (x.leaf.extractLsb' 0 12).toNat = x.leaf.toNat % 4096 := by
    rw [BitVec.extractLsb'_toNat, Nat.shiftRight_zero]
  refine ⟨BitVec.eq_of_toNat_eq ?_, ?_, BitVec.eq_of_toNat_eq ?_, ?_, BitVec.eq_of_toNat_eq ?_, BitVec.eq_of_toNat_eq ?_⟩ <;>
    rw [extract_ofNat _ _ _ hw]
  · rw [hlow]
    omega
  · omega
  · change _ = 0
    omega
  · omega
  · rw [hgrantval]
    omega
  · change _ = 0
    omega

theorem probeWord_answered : Claims.ProbeWord := by
  intro s u tid c d a h lo hi va hlo hhi
  obtain ⟨f, qs, hexec, hf⟩ := xlprobe_answers (u := u) (c := c) (d := d) hlo hhi
  obtain ⟨t, ht, hon⟩ := issueUnit_alone_done h hf rfl (h.issues.free tid h.mem) (h.issues.alive tid h.mem)
  have hmem := congrArg State.mem hon.rest
  refine ⟨t, probed (translate s (quadOf u.core) (s.threadWorld tid) va).1 va, hexec.trans ht, h.advanced hon rfl rfl, hmem,
    fun k hk => ?_, ?_, ?_⟩
  · rw [hon.thread, State.thread_modThread_ne _ _ hk]
    rfl
  · rw [hon.thread, State.thread_modThread_self]
    rfl
  · generalize (translate s (quadOf u.core) (s.threadWorld tid) va).1 = r
    cases r with
    | notMapped => rfl
    | leaf x => exact fun _ hlevel hframe => probeWord_fields x va hlevel hframe

end Sys2Proof.Machine

namespace Sys2Proof

open Machine

/-- Settles O25: each instruction of the frame group sends one request, and `xlprobe` answers the fields of its translation. -/
theorem frameAndProbeRequests : Obligations.FrameAndProbeRequests := by
  unfold Obligations.FrameAndProbeRequests
  exact ⟨frameRequests, probeWord_answered⟩

end Sys2Proof
end

section
/-! PROOF. A table error of a core and a world whose STATE is none of R338's six (R198, R338): O39 fails. -/

namespace Sys2Proof.Machine

open Sys2Proof

/-- A team at home on core 0, not ended and not killed, of a world whose STATE is 6. -/
def unnamedState : State := { State.reset with
  teams := [(0, { noTeam with ended := false })]
  worlds := [(0, { noWorld with stat := 6 })] }

/-- The model counts the team as none of the core's: its world is neither in STATE 0 to 3 nor in 5. -/
theorem unnamedState_coreTeams : coreTeams unnamedState 0 = [] := by decide

theorem unnamedState_error : exec (.coreTableError 0) unnamedState = .next unnamedState := by
  change execCoreTableError 0 unnamedState = _
  rw [execCoreTableError, unnamedState_coreTeams]

end Sys2Proof.Machine

namespace Sys2Proof

open Machine

/-- Refutes O39, in its part `CoreTableErrors`: the statement excludes the worlds of STATE 4 and 5 alone, but STATE is any number in the
model, and a team whose world has STATE 6 is not resident. In `unnamedState` the error leaves everything as it is, where the statement
asks for a stopped launch. -/
theorem not_coreEvents : ¬ Obligations.CoreEvents := by
  unfold Obligations.CoreEvents
  rintro ⟨-, -, herrors, -⟩
  obtain ⟨t, hexec, hteams⟩ := herrors unnamedState 0
  obtain rfl : unnamedState = t := Host.Outcome.next.inj (unnamedState_error.symm.trans hexec)
  obtain ⟨-, hstopped, -⟩ := hteams 0 { noTeam with ended := false } rfl rfl (by decide) (by decide) (.inl rfl)
  exact absurd hstopped (by decide)

end Sys2Proof
end

section
/-! PROOF. What the end of threads and of teams changes and keeps (R128, R193 to R196, R216, R233), and what a trap does (R88): the layer
of the statements about kills, halts and calls. -/

namespace Sys2Proof.Machine

open Sys2Proof

variable {s a t : State}

theorem SMap.mem_of_find? {α : Type} {m : SMap α} {x : Nat} {v : α} (h : m.find? x = some v) : (x, v) ∈ m := by
  induction m with
  | nil => nomatch h
  | cons e m ih =>
    unfold SMap.find? at h
    split at h
    next heq =>
      cases h
      rw [← heq]
      exact List.mem_cons_self
    next => exact List.mem_cons_of_mem _ (ih h)

/-! ## Threads out of their bins and bundles (R129, R132) -/

theorem drainQueue_cores (core : Nat) (l : List Nat) (s : State) : ∃ cs, drainQueue s core l = { s with cores := cs } := by
  induction l generalizing s with
  | nil => exact ⟨_, rfl⟩
  | cons tid rest ih =>
    unfold drainQueue
    split
    · obtain ⟨cs, hcs⟩ := ih _
      exact ⟨cs, hcs⟩
    · exact ⟨_, rfl⟩

theorem unfileThread_cores (s : State) (tid : Nat) : ∃ cs, unfileThread s tid = { s with cores := cs } := by
  obtain ⟨cs, hcs⟩ := drainQueue_cores (s.threadCore tid) ((s.core (s.threadCore tid)).queue.filter (· ≠ tid))
    (s.setCore (s.threadCore tid) _)
  exact ⟨cs, hcs⟩

theorem leaveBundle_bundles (s : State) (tid : Nat) : ∃ bs, leaveBundle s tid = { s with bundles := bs } := by
  unfold leaveBundle
  split
  · dsimp only
    unfold State.setBundle
    split <;> exact ⟨_, rfl⟩
  · exact ⟨_, rfl⟩

/-- A thread leaves where it stands: bins and bundles change alone. -/
theorem leavePlace_only (s : State) (tid : Nat) : ∃ cs bs,
    (if (s.thread tid).place == .filed then unfileThread s tid else leaveBundle s tid) = { s with cores := cs, bundles := bs } := by
  split
  · obtain ⟨cs, hcs⟩ := unfileThread_cores s tid
    exact ⟨cs, s.bundles, hcs⟩
  · obtain ⟨bs, hbs⟩ := leaveBundle_bundles s tid
    exact ⟨s.cores, bs, hbs⟩

/-! ## The end of threads (R128, R195) -/

/-- Threads may end, and what belongs to them is freed; teams, worlds and memory stay, and no thread that has ended comes back. -/
structure EndStep (s t : State) : Prop where
  only  : ∃ ts gs cs bs qs ls asr, t =
    { s with threads := ts, groups := gs, cores := cs, bundles := bs, quads := qs, launches := ls, assayer := asr }
  ended : ∀ k, (s.thread k).place = .ended → (t.thread k).place = .ended

namespace EndStep

theorem refl (s : State) : EndStep s s := ⟨⟨_, _, _, _, _, _, _, rfl⟩, fun _ h => h⟩

theorem trans (h : EndStep s a) (h' : EndStep a t) : EndStep s t := by
  obtain ⟨⟨_, _, _, _, _, _, _, rfl⟩, hended⟩ := h
  obtain ⟨⟨_, _, _, _, _, _, _, rfl⟩, hended'⟩ := h'
  exact ⟨⟨_, _, _, _, _, _, _, rfl⟩, fun k hk => hended' k (hended k hk)⟩

theorem foldl {α : Type} {f : State → α → State} (hf : ∀ s x, EndStep s (f s x)) (l : List α) (s : State) :
    EndStep s (l.foldl f s) := by
  induction l generalizing s with
  | nil => exact refl s
  | cons x l ih => exact (hf s x).trans (ih _)

theorem team (h : EndStep s t) (x : Nat) : t.team x = s.team x := by obtain ⟨⟨_, _, _, _, _, _, _, rfl⟩, -⟩ := h; rfl

/-- A step that leaves the threads. -/
theorem of_threads (h : ∃ gs cs bs qs ls asr, t =
    { s with groups := gs, cores := cs, bundles := bs, quads := qs, launches := ls, assayer := asr }) : EndStep s t := by
  obtain ⟨_, _, _, _, _, _, rfl⟩ := h
  exact ⟨⟨_, _, _, _, _, _, _, rfl⟩, fun _ h => h⟩

/-- A thread whose place changes to its end, or not at all. -/
theorem modThread (s : State) (tid : Nat) (f : Thread → Thread) (hf : ∀ x : Thread, x.place = .ended → (f x).place = .ended) :
    EndStep s (s.modThread tid f) := by
  refine ⟨⟨_, _, _, _, _, _, _, rfl⟩, fun k hk => ?_⟩
  by_cases h : k = tid
  · rw [h, State.thread_modThread_self]
    exact hf _ (h ▸ hk)
  · rw [State.thread_modThread_ne _ _ h, hk]

end EndStep

/-- The end of a thread, up to the time that its group notes. -/
theorem endNow_eq (s : State) (tid : Nat) : ∃ cs bs gs, endNow s tid =
    { s.modThread tid fun t => { t with place := .ended, spill := [], sp := 0, request := none } with
      cores := cs, bundles := bs, groups := gs } := by
  obtain ⟨cs, bs, hleave⟩ := leavePlace_only s tid
  unfold endNow
  dsimp only
  rw [hleave]
  split <;> exact ⟨_, _, _, rfl⟩

theorem endNow_step (s : State) (tid : Nat) : EndStep s (endNow s tid) := by
  obtain ⟨cs, bs, gs, hend⟩ := endNow_eq s tid
  rw [hend]
  exact (EndStep.modThread s tid _ fun _ _ => rfl).trans (.of_threads ⟨_, _, _, _, _, _, rfl⟩)

theorem endNow_ended (s : State) (tid : Nat) : ((endNow s tid).thread tid).place = .ended := by
  obtain ⟨cs, bs, gs, hend⟩ := endNow_eq s tid
  rw [hend]
  exact congrArg Thread.place (State.thread_modThread_self s tid fun t =>
    { t with place := .ended, spill := [], sp := 0, request := none })

theorem freeLatch_step (s : State) (q : Nat) (latch : Option Nat) : EndStep s (freeLatch s q latch) := by
  cases latch <;> exact .of_threads ⟨_, _, _, _, _, _, rfl⟩

theorem freeSigner_step (s : State) (x : Nat) (signer : Option Nat) : EndStep s (freeSigner s x signer) := by
  cases signer with
  | none => exact .refl s
  | some req =>
    refine .foldl (fun s tid => ?_) _ s
    split
    · exact .modThread s tid _ fun _ h => h
    · exact .refl s

theorem dropSignatures_step (s : State) (x : Nat) : EndStep s (dropSignatures s x) :=
  .foldl (fun _ _ => (EndStep.foldl (fun s _ => (freeLatch_step s ..).trans (freeSigner_step ..)) ..).trans
    (.of_threads ⟨_, _, _, _, _, _, rfl⟩)) _ s

/-! ## The kill of a team (R193 to R196) -/

theorem State.team_setTeam (s : State) (x : Nat) (tm : Team) (y : Nat) :
    (s.setTeam x tm).team y = if y = x then tm else s.team y := SMap.getD_insert ..

/-- Teams are killed: what an end of threads changes, and teams, of which one killed keeps its record. -/
structure KillStep (s t : State) : Prop where
  only  : ∃ ts gs cs bs qs ls asr tms, t = { s with
    threads := ts, groups := gs, cores := cs, bundles := bs, quads := qs, launches := ls, assayer := asr, teams := tms }
  ended : ∀ k, (s.thread k).place = .ended → (t.thread k).place = .ended
  kept  : ∀ x r, (s.team x).killed = some r → (t.team x).killed = some r

namespace KillStep

theorem refl (s : State) : KillStep s s := ⟨⟨_, _, _, _, _, _, _, _, rfl⟩, fun _ h => h, fun _ _ h => h⟩

theorem trans (h : KillStep s a) (h' : KillStep a t) : KillStep s t := by
  obtain ⟨⟨_, _, _, _, _, _, _, _, rfl⟩, hended, hkept⟩ := h
  obtain ⟨⟨_, _, _, _, _, _, _, _, rfl⟩, hended', hkept'⟩ := h'
  exact ⟨⟨_, _, _, _, _, _, _, _, rfl⟩, fun k hk => hended' k (hended k hk), fun x r hr => hkept' x r (hkept x r hr)⟩

theorem foldl {α : Type} {f : State → α → State} (hf : ∀ s x, KillStep s (f s x)) (l : List α) (s : State) :
    KillStep s (l.foldl f s) := by
  induction l generalizing s with
  | nil => exact refl s
  | cons x l ih => exact (hf s x).trans (ih _)

theorem of_end (h : EndStep s t) : KillStep s t := by
  have hteam := h.team
  obtain ⟨⟨_, _, _, _, _, _, _, rfl⟩, hended⟩ := h
  exact ⟨⟨_, _, _, _, _, _, _, _, rfl⟩, hended, fun x r hr => by rw [hteam, hr]⟩

/-- A team that is not killed, or keeps its record. -/
theorem setTeam (s : State) (x : Nat) (tm : Team) (h : ∀ r, (s.team x).killed = some r → tm.killed = some r) :
    KillStep s (s.setTeam x tm) := by
  refine ⟨⟨_, _, _, _, _, _, _, _, rfl⟩, fun _ h => h, fun y r hr => ?_⟩
  rw [State.team_setTeam]
  split
  next hy => exact h r (hy ▸ hr)
  next => exact hr

theorem time (h : KillStep s t) : t.time = s.time := by obtain ⟨⟨_, _, _, _, _, _, _, _, rfl⟩, -, -⟩ := h; rfl
theorem mem (h : KillStep s t) : t.mem = s.mem := by obtain ⟨⟨_, _, _, _, _, _, _, _, rfl⟩, -, -⟩ := h; rfl
theorem worlds (h : KillStep s t) : t.worlds = s.worlds := by obtain ⟨⟨_, _, _, _, _, _, _, _, rfl⟩, -, -⟩ := h; rfl
theorem ladles (h : KillStep s t) : t.ladles = s.ladles := by obtain ⟨⟨_, _, _, _, _, _, _, _, rfl⟩, -, -⟩ := h; rfl

end KillStep

theorem settleTeam_step (s : State) (x : Nat) : KillStep s (settleTeam s x) := by
  unfold settleTeam
  dsimp only
  split
  · exact .setTeam s x _ fun _ h => h
  · exact .refl s

theorem settleTeam_team_ne (s : State) {x y : Nat} (h : y ≠ x) : (settleTeam s x).team y = s.team y := by
  unfold settleTeam
  dsimp only
  split
  · rw [State.team_setTeam, if_neg h]
  · rfl

/-- The end of a killed team's threads that issue no chain (R93, R194). -/
def endIdle (s : State) (tid : Nat) : State :=
  match (s.thread tid).place with
  | .inBundle b => if (s.bundle b).chain.isEmpty then endNow s tid else s
  | .ended => s
  | _ => endNow s tid

theorem endIdle_step (s : State) (tid : Nat) : EndStep s (endIdle s tid) := by
  unfold endIdle
  split
  · split
    · exact endNow_step s tid
    · exact .refl s
  · exact .refl s
  · exact endNow_step s tid

/-- A team's kill: its record, the end of what it holds, and its own end if no thread is left. -/
theorem killOne_open {x : Nat} (h : (s.team x).isOver s.time = false) (r : KillRecord) :
    ∃ a, EndStep (s.setTeam x { s.team x with killed := some r, killedAt := s.time }) a ∧ killOne s x r = settleTeam a x := by
  refine ⟨_, ?_, if_neg (by simp [h])⟩
  refine EndStep.trans (.of_threads ⟨_, _, _, _, _, _, rfl⟩) ((dropSignatures_step ..).trans (.foldl (endIdle_step) ..))

/-- An event without a thread amends no record (R196). -/
theorem amendKill_plain {x : Nat} {r : KillRecord} (h : r.hasThread = false) : amendKill s x r = s := by
  unfold amendKill
  dsimp only
  split
  · rfl
  · exact if_neg (by simp [h])

theorem plainRecord_hasThread (s : State) (x : Nat) {c : Cause} (h : c = .teamKilled ∨ c = .queueFlushed) :
    (plainRecord s x c).hasThread = false := by
  obtain rfl | rfl := h <;> rfl

theorem killOne_over {x : Nat} {r : KillRecord} (hover : (s.team x).isOver s.time = true) (h : r.hasThread = false) :
    killOne s x r = s := by
  unfold killOne
  dsimp only
  rw [if_pos hover, amendKill_plain h]

theorem killed_of_not_over {tm : Team} {now : Nat} (h : tm.isOver now = false) : tm.killed = none := by
  simp only [Team.isOver, Bool.or_eq_false_iff] at h
  simpa using h.1

/-- A team's kill keeps the record of every other, and its own where it has one. -/
theorem killOne_step {x : Nat} {r : KillRecord} (h : (s.team x).isOver s.time = false ∨ r.hasThread = false) :
    KillStep s (killOne s x r) := by
  cases hover : (s.team x).isOver s.time with
  | true =>
    rw [killOne_over hover (h.resolve_left (by simp [hover]))]
    exact .refl s
  | false =>
    obtain ⟨a, hstep, hkill⟩ := killOne_open hover r
    rw [hkill]
    exact (KillStep.setTeam s x _ fun r hr => by simp [killed_of_not_over hover] at hr).trans
      ((KillStep.of_end hstep).trans (settleTeam_step ..))

theorem killOne_killed {x : Nat} (h : (s.team x).isOver s.time = false) (r : KillRecord) :
    ((killOne s x r).team x).killed = some r := by
  obtain ⟨a, hstep, hkill⟩ := killOne_open h r
  rw [hkill]
  exact (settleTeam_step a x).kept x r (by rw [hstep.team, State.team_setTeam, if_pos rfl])

theorem killOne_team_ne {x y : Nat} {r : KillRecord} (hy : y ≠ x)
    (h : (s.team x).isOver s.time = false ∨ r.hasThread = false) : (killOne s x r).team y = s.team y := by
  cases hover : (s.team x).isOver s.time with
  | true => rw [killOne_over hover (h.resolve_left (by simp [hover]))]
  | false =>
    obtain ⟨a, hstep, hkill⟩ := killOne_open hover r
    rw [hkill, settleTeam_team_ne a hy, hstep.team, State.team_setTeam, if_neg hy]

theorem abortLaunch_step (s : State) (l : Nat) : KillStep s (abortLaunch s l) := by
  unfold abortLaunch
  dsimp only
  split
  · exact (KillStep.of_end (.of_threads ⟨_, _, _, _, _, _, rfl⟩)).trans
      (.foldl (fun _ _ => killOne_step (.inr (plainRecord_hasThread _ _ (.inr rfl)))) ..)
  · exact .refl s

/-- The kill of a team that is not over (R196, R336). -/
theorem killTeam_open {x : Nat} (h : (s.team x).isOver s.time = false) (r : KillRecord) :
    KillStep s (killTeam s x r) ∧ ((killTeam s x r).team x).killed = some r := by
  have hkill : killTeam s x r = abortLaunch (killOne s x r) (s.team x).launch := if_neg (by simp [h])
  have habort := abortLaunch_step (killOne s x r) (s.team x).launch
  rw [hkill]
  exact ⟨(killOne_step (.inl h)).trans habort, habort.kept x r (killOne_killed h r)⟩

/-- Teams killed one after another with a cause that no thread raises. -/
theorem foldl_killOne_killed {c : Cause} (hc : c = .teamKilled ∨ c = .queueFlushed) (l : List Nat) (s : State) {x : Nat}
    (hx : x ∈ l) (h : (s.team x).isOver s.time = false) :
    ∃ r, ((l.foldl (fun s t => killOne s t (plainRecord s t c)) s).team x).killed = some r ∧
      r.causeword = BitVec.ofNat 32 (causeCode c) := by
  have hplain (s : State) (t : Nat) := plainRecord_hasThread s t hc
  induction l generalizing s with
  | nil => nomatch hx
  | cons y l ih =>
    rw [List.foldl_cons]
    by_cases hxy : x = y
    · subst hxy
      have hrest := KillStep.foldl (f := fun s t => killOne s t (plainRecord s t c)) (fun s t => killOne_step (.inr (hplain s t))) l
        (killOne s x (plainRecord s x c))
      exact ⟨_, hrest.kept x _ (killOne_killed h _), rfl⟩
    · have htime := (killOne_step (s := s) (x := y) (.inr (hplain s y))).time
      exact ih _ ((List.mem_cons.mp hx).resolve_left hxy) (by rw [killOne_team_ne hxy (.inr (hplain s y)), htime]; exact h)

/-- Teams killed with a cause that no thread raises, and with them those of their launches (R193, R336). -/
theorem killTeams_step {c : Cause} (hc : c = .teamKilled ∨ c = .queueFlushed) (s : State) (l : List Nat) :
    KillStep s (killTeams s l c) :=
  (KillStep.foldl (f := fun s t => killOne s t (plainRecord s t c))
    (fun s t => killOne_step (.inr (plainRecord_hasThread s t hc))) l s).trans (.foldl (fun s _ => abortLaunch_step s _) ..)

theorem killTeams_killed {c : Cause} (hc : c = .teamKilled ∨ c = .queueFlushed) (s : State) (l : List Nat) {x : Nat} (hx : x ∈ l)
    (h : (s.team x).isOver s.time = false) :
    ((killTeams s l c).team x).killed.map (·.causeword) = some (BitVec.ofNat 32 (causeCode c)) := by
  obtain ⟨r, hr, hcause⟩ := foldl_killOne_killed hc l s hx h
  have hrest := (KillStep.foldl (fun s t => abortLaunch_step s (s.team t).launch)
    (l.filter fun t => !(s.team t).isOver s.time) _).kept x r hr
  exact (congrArg (Option.map _) hrest).trans (congrArg some hcause)

/-- A kill raised by a thread's unit: its team has the record, and it has ended (R84, R194). -/
theorem killBy_spec {tid : Nat} (h : (s.threadTeam tid).isOver s.time = false) (cause second pos : Nat) (pc value : Word) :
    KillStep s (killBy s tid cause second pos pc value) ∧
    ((killBy s tid cause second pos pc value).threadTeam tid).killed = some (unitRecord s tid cause second pos pc value) ∧
    ((killBy s tid cause second pos pc value).thread tid).place = .ended := by
  obtain ⟨hstep, hkilled⟩ := killTeam_open h (unitRecord s tid cause second pos pc value)
  have hend := endNow_step (killTeam s (teamOf tid) (unitRecord s tid cause second pos pc value)) tid
  have hsettle := settleTeam_step (endNow (killTeam s (teamOf tid) (unitRecord s tid cause second pos pc value)) tid) (teamOf tid)
  have hrest := (KillStep.of_end hend).trans hsettle
  exact ⟨hstep.trans hrest, hrest.kept _ _ hkilled, hsettle.ended tid (endNow_ended ..)⟩

/-! ## A trap taken (R88) -/

section
variable {tid : Nat}

/-- A trap has been taken: the thread stands at its world's handler, and nothing else but where it stood has changed (R88). -/
structure TrapTaken (s t : State) (tid : Nat) (x : TrapArgs) : Prop where
  thread : t.thread tid = { trapped s tid x with place := .filed }
  others : ∀ k, k ≠ tid → t.thread k = s.thread k
  only   : ∃ ts cs bs, t = { s with threads := ts, cores := cs, bundles := bs }
  filed  : (s.threadGroup tid).offCore = false → Filed t tid

/-- A trap where its thread may take it. -/
theorem takeTrap_takes {x : TrapArgs} (hhandler : (s.world (s.threadWorld tid)).handler ≠ 0)
    (hhnd : (s.thread tid).hnd = false) (halive : s.isKilled tid = false) : TrapTaken s (takeTrap s tid x) tid x := by
  obtain ⟨cs, bs, hleave⟩ := leavePlace_only s tid
  have htrap : takeTrap s tid x = wake (State.modThread { s with cores := cs, bundles := bs } tid fun t =>
      { trapped s tid x with place := t.place, runnable := t.runnable }) tid := by
    unfold takeTrap
    dsimp only
    rw [if_neg hhandler, if_neg (by simp [hhnd]), if_neg (by simp [halive]), hleave]
    rfl
  rw [htrap]
  obtain ⟨cs', hwake⟩ := wake_spec (State.modThread { s with cores := cs, bundles := bs } tid fun t =>
      { trapped s tid x with place := t.place, runnable := t.runnable }) tid
  refine ⟨?_, fun k hk => ?_, ?_, fun hon => (fileThread_filed _ tid _ (by exact hon)).1⟩
  · rw [hwake, State.thread_cores, State.thread_modThread_self, State.thread_modThread_self]
    rfl
  · rw [hwake, State.thread_cores, State.thread_modThread_ne _ _ hk, State.thread_modThread_ne _ _ hk]
    rfl
  · exact ⟨_, _, _, hwake⟩

end

end Sys2Proof.Machine
end

section
/-! PROOF. Faults and poisoned addresses of near accesses (R84, R117, R118, R171, R193, R196): O10 holds. -/

namespace Sys2Proof.Machine

open Sys2Proof

variable {s : State} {u : Issue} {i : Instr} {tid : Nat}

/-! ## A unit that kills (R84, R93, R194) -/

theorem putBundle_step (s : State) (b : Nat) (x : Bundle) : KillStep s (putBundle s b x) :=
  .of_end (.of_threads ⟨_, _, _, _, _, _, rfl⟩)

theorem atBoundary_step (s : State) (b : Nat) : KillStep s (atBoundary s b) := by
  unfold atBoundary
  split
  · exact .refl s
  · split
    · exact (KillStep.of_end (.foldl endNow_step ..)).trans (settleTeam_step ..)
    · exact .refl s

/-- A unit of which no thread jumps moves its bundle on, or ends the threads of a killed team. -/
theorem finish_step {p : Progress} (hheld : p.held = false) (hjumps : p.jumps = []) : KillStep p.st (finish u p) := by
  have hsettle : settleJumps u p = (p.st, none) := by
    unfold settleJumps
    rw [hjumps]
  unfold finish
  rw [if_neg (by simp [hheld]), hsettle]
  unfold closeUnit
  dsimp only
  split
  · exact .refl _
  · split
    · exact putBundle_step ..
    · split
      · exact (putBundle_step ..).trans (atBoundary_step ..)
      · exact putBundle_step ..

/-- A unit of one thread that kills without any effect. -/
theorem issueUnit_alone_kill {f : Issue → Compute} {val : Word} (h : Alone s u i tid) (hopen : (s.threadTeam tid).isOver s.time = false)
    (hf : f u { s with cur := none } tid (guardTag s u i tid) = (.kill val, { s with cur := none })) :
    ∃ t, issueUnit i f s = .next t ∧ KillStep { s with cur := none } t ∧ (t.thread tid).place = .ended ∧
      (t.threadTeam tid).killed = some (unitRecord s tid (causeCode .poisonUse) 0 u.pos u.addr val) := by
  obtain ⟨hkill, hkilled, hended⟩ := killBy_spec (s := { s with cur := none }) (tid := tid) hopen (causeCode .poisonUse) 0 u.pos
    u.addr val
  rw [issueUnit_alone f h, hf]
  refine ⟨_, rfl, ?_⟩
  have hrest := ((KillStep.of_end (.foldl endNow_step [tid] (killBy { s with cur := none } tid (causeCode .poisonUse) 0 u.pos u.addr
    val))).trans (settleTeam_step _ (teamOf tid))).trans (finish_step (u := u) (p := ⟨_, [], false⟩) rfl rfl)
  exact ⟨hkill.trans hrest, hrest.ended tid hended, hrest.kept _ _ hkilled⟩

/-! ## The checks that come first (R117, R118, R171 to R173) -/

/-- A near access whose checks fail does nothing before what they answer. -/
theorem near_checksFirst {y : Claims.NearShape} {r : UnitResult} (hy : IsNear i y) (h : Alone s u i tid)
    (hcheck : nearCheck s tid ((s.thread tid).reg y.base) (y.ea ((s.thread tid).reg y.base).val) y.size y.load = .error r) :
    ∃ f, exec i s = issueUnit i f s ∧ f u { s with cur := none } tid (guardTag s u i tid) = (r, { s with cur := none }) := by
  cases hy with
  | natom c d a ord op =>
    dsimp only at hcheck
    rw [← atomicSize_eq] at hcheck
    refine ⟨_, issueUnordered_alone _ h, ?_⟩
    dsimp only
    rw [thread_cur, nearCheck_cur, hcheck]
  | bsig c a b =>
    refine ⟨_, issueUnordered_alone _ h, ?_⟩
    dsimp only
    rw [thread_cur, nearCheck_cur, hcheck]
  | bwait c a b =>
    refine ⟨_, rfl, ?_⟩
    dsimp only
    rw [thread_cur, nearCheck_cur, hcheck]
  | @load i x hx =>
    refine ⟨_, exec_load hx s, ?_⟩
    dsimp only at hcheck ⊢
    rw [thread_cur, nearCheck_cur, ← nearAddr_effAddr, hcheck]
  | @store i x hx =>
    refine ⟨_, exec_store hx s, ?_⟩
    unfold storeCompute Claims.StoreShape.reg
    dsimp only at hcheck ⊢
    rw [thread_cur, nearCheck_cur, hcheck]

section
variable {base : Tagged Word} {ea : Word} {size : Nat} {load : Bool}

theorem nearCheck_poison (h : base.tag.poison = true) : nearCheck s tid base ea size load = .error (.kill base.val) := if_pos h

theorem nearCheck_misaligned (h : base.tag.poison = false) (halign : ea.toNat % size ≠ 0) :
    nearCheck s tid base ea size load = .error (.trap .align ea 0 false) := by
  rw [nearCheck, if_neg (by simp [h]), if_pos halign]

theorem nearCheck_unmapped (h : base.tag.poison = false) (halign : ea.toNat % size = 0)
    (hkey : nearKey s (teamOf tid) ea.toNat size = none) : nearCheck s tid base ea size load = .error (.trap .nearRange ea 0 false) := by
  rw [nearCheck, if_neg (by simp [h]), if_neg (by simp [halign]), hkey]

theorem nearCheck_locked {key : Nat} (h : base.tag.poison = false) (halign : ea.toNat % size = 0)
    (hkey : nearKey s (teamOf tid) ea.toNat size = some key) (hlock : locked s key size load = true) :
    nearCheck s tid base ea size load = .error (.trap .rangeLock ea 0 false) := by
  rw [nearCheck, if_neg (by simp [h]), if_neg (by simp [halign]), hkey]
  exact if_pos hlock

end

/-- A near access whose checks answer a trap takes it. -/
theorem near_traps {y : Claims.NearShape} {c : Cause} {ea : Word} (hy : IsNear i y) (h : Alone s u i tid) (hcan : CanTrap s tid)
    (hcheck : nearCheck s tid ((s.thread tid).reg y.base) (y.ea ((s.thread tid).reg y.base).val) y.size y.load =
      .error (.trap c ea 0 false)) : Claims.Traps s u i tid c ea u.head := by
  obtain ⟨f, hexec, hf⟩ := near_checksFirst hy h hcheck
  obtain ⟨t, ht, hleft⟩ := issueUnit_alone_trap h hcan hf
  exact ⟨t, hexec.trans ht, hleft⟩

theorem nearFaults : Claims.NearFaults := by
  intro s u i tid y hy h hcan hclean
  have hnear := isNear_of_nearShape hy
  refine ⟨fun halign => ?_, fun halign hkey => ?_, fun halign key hkey hlock => ?_⟩
  · exact near_traps hnear h hcan (nearCheck_misaligned hclean halign)
  · exact near_traps hnear h hcan (nearCheck_unmapped hclean halign hkey)
  · exact near_traps hnear h hcan (nearCheck_locked hclean halign hkey hlock)

/-! ## Poison (R84, R193) -/

/-- A unit that uses a poisoned register does nothing but kill. -/
theorem poisoned_kills {a : Reg} (ha : Claims.usedReg i = some a) (h : Alone s u i tid)
    (hpoison : ((s.thread tid).reg a).tag.poison = true) :
    ∃ f, exec i s = issueUnit i f s ∧
      f u { s with cur := none } tid (guardTag s u i tid) = (.kill ((s.thread tid).reg a).val, { s with cur := none }) := by
  unfold Claims.usedReg at ha
  split at ha
  · cases ha
    refine ⟨_, rfl, ?_⟩
    dsimp only
    rw [thread_cur, if_pos hpoison]
  · obtain ⟨y, hy, rfl⟩ := Option.map_eq_some_iff.mp ha
    exact near_checksFirst (isNear_of_nearShape hy) h (nearCheck_poison hpoison)

theorem poisonKills : Claims.PoisonKills := by
  intro s u i tid a ha h hpoison hended
  have hopen : (s.threadTeam tid).isOver s.time = false := by
    have hkilled : (s.threadTeam tid).killed.isSome = false := h.issues.alive tid h.mem
    simp [Team.isOver, hended, hkilled]
  obtain ⟨f, hexec, hf⟩ := poisoned_kills ha h hpoison
  obtain ⟨t, ht, hstep, hplace, hkilled⟩ := issueUnit_alone_kill h hopen hf
  refine ⟨t, hexec.trans ht, hstep.mem, hplace, ?_⟩
  rw [hkilled]
  unfold unitRecord causeCode
  rfl

end Sys2Proof.Machine

namespace Sys2Proof

open Machine

/-- Settles O10: the checks of a near access come before anything that its unit does, and a kill leaves the team its record. -/
theorem nearFaultsAndPoison : Obligations.NearFaultsAndPoison := by
  unfold Obligations.NearFaultsAndPoison
  exact ⟨nearFaults, poisonKills⟩

end Sys2Proof
end

section
/-! PROOF. Worlds killed, halted and quiescent (R93, R338 to R342): O49 holds. -/

namespace Sys2Proof.Machine

open Sys2Proof

variable {s a t : State}

/-! ## KILL and PREEMPT (R338, R339) -/

theorem worldsAreKilled : Claims.WorldsAreKilled := by
  intro s w
  have hcause : Cause.teamKilled = .teamKilled ∨ Cause.teamKilled = .queueFlushed := .inl rfl
  have hstep := killTeams_step hcause s (worldTeams s w)
  have hteam {x : Nat} {tm : Team} (hx : s.teams.find? x = some tm) : s.team x = tm := by
    rw [State.team, SMap.getD, hx]
    rfl
  have hkilled (x : Nat) (tm : Team) (hx : s.teams.find? x = some tm) (hw : tm.world = w) (hended : tm.ended = false)
      (hnone : tm.killed = none) : ((killWorld s w).team x).killed.map (·.causeword) = some 0x61 := by
    refine killTeams_killed hcause s _ (List.mem_filter.mpr ⟨List.mem_map.mpr ⟨_, SMap.mem_of_find? hx, rfl⟩, ?_⟩) ?_
    · simpa [hteam hx] using hw
    · simp [hteam hx, Team.isOver, hended, hnone]
  refine ⟨_, rfl, hstep.worlds, hstep.mem, hstep.ladles, hkilled, fun x tm hx hw hended => ?_⟩
  cases hnone : tm.killed with
  | none =>
    have h := congrArg Option.isSome (hkilled x tm hx hw hended hnone)
    rwa [Option.isSome_map] at h
  | some r =>
    have h := hstep.kept x r (by rw [hteam hx, hnone])
    exact (congrArg Option.isSome h).trans rfl

theorem onlyWorld_setWorld (s : State) (w : Nat) (x : World) : Claims.OnlyWorld s (s.setWorld w x) w :=
  ⟨rfl, fun k hk => by rw [State.world_setWorld, if_neg hk]⟩

theorem preemption : Claims.Preemption := by
  intro s w
  refine ⟨fun h => ⟨_, rfl, if_pos h⟩, fun h hfits => ⟨_, rfl, ?_⟩, fun h hfits => ⟨_, rfl, ?_⟩⟩
  · have heq : preempt s w = s.setWorld w { s.world w with stat := 2, estimate := estimate s w } := by
      rw [preempt, if_neg (by simp [h]), if_pos (by simpa [imageFits] using hfits)]
    rw [heq]
    exact ⟨onlyWorld_setWorld .., by rw [State.world_setWorld, if_pos rfl]⟩
  · have heq : preempt s w = s.setWorld w { s.world w with result := 3 } := by
      rw [preempt, if_neg (by simp [h]), if_neg (by simpa [imageFits] using hfits)]
    rw [heq]
    exact ⟨onlyWorld_setWorld .., by rw [State.world_setWorld, if_pos rfl]⟩

/-! ## Halts (R93, R341) -/

theorem bundle_leaveBundle (s : State) {tid b : Nat} (h : (s.thread tid).place = .inBundle b) :
    tid ∉ ((leaveBundle s tid).bundle b).tids := by
  unfold leaveBundle
  rw [h]
  dsimp only
  unfold State.setBundle
  split
  · simp [State.bundle, SMap.getD, noBundle]
  · simp [State.bundle, SMap.getD]

theorem haltAt_halts (s : State) (tid : Nat) (pc : Word) : Claims.HaltsAt s (haltAt s tid pc) tid pc := by
  obtain ⟨cs, bs, hleave⟩ := leavePlace_only s tid
  have hhalt : haltAt s tid pc = State.modThread { s with cores := cs, bundles := bs } tid fun t =>
      { t with pc := pc, place := .waiting .halted, retries := false } := by rw [← hleave]; rfl
  refine ⟨?_, fun k hk => ?_, ?_, fun b hb => ?_⟩
  · rw [hhalt, State.thread_modThread_self]
    rfl
  · rw [hhalt, State.thread_modThread_ne _ _ hk]
    rfl
  · rw [hhalt]
    exact ⟨rfl, rfl⟩
  · have hbundle : haltAt s tid pc = (leaveBundle s tid).modThread tid fun t =>
        { t with pc := pc, place := .waiting .halted, retries := false } := by
      rw [haltAt, if_neg (by simp [hb])]
    rw [hbundle]
    exact bundle_leaveBundle s hb

theorem haltAt_groups (s : State) (tid : Nat) (pc : Word) : (haltAt s tid pc).groups = s.groups := by
  obtain ⟨cs, bs, hleave⟩ := leavePlace_only s tid
  unfold haltAt
  dsimp only
  rw [hleave]
  rfl

theorem arrivals_withdraw (s : State) (tid m : Nat) :
    ((withdraw s tid m).threadGroup tid).arrivals m = ((s.threadGroup tid).arrivals m).filter fun r => r.slot ≠ slotOf tid := by
  unfold withdraw State.setArrivals
  dsimp only
  rw [State.threadGroup, State.group_setGroup, if_pos rfl]
  exact SMap.getD_set_self ..

/-! ## Pending causes (R88, R91) -/

section
variable {c : Cause} {val : Word} {tid : Nat}

/-- The cause is the one sought, or a higher one. -/
def NotBelow (c : Cause) (val : Word) (e : Cause × Word) : Prop := e = (c, val) ∨ causeCode c < causeCode e.1

/-- The lower of two pending causes, the first where they are alike (R91). -/
def lower (m : Option (Cause × Word)) (e : Cause × Word) : Option (Cause × Word) :=
  match m with
  | none => some e
  | some x => if causeCode e.1 < causeCode x.1 then some e else m

theorem lower_eq {m : Option (Cause × Word)} {e : Cause × Word} (he : NotBelow c val e) (hm : ∀ x ∈ m, NotBelow c val x)
    (h : e = (c, val) ∨ m = some (c, val)) : lower m e = some (c, val) := by
  cases m with
  | none => exact congrArg some (h.resolve_right nofun)
  | some x =>
    have hx := hm x rfl
    unfold lower
    dsimp only
    split
    next hlt =>
      obtain rfl | he := he
      · rfl
      · obtain rfl | hx := hx
        · dsimp only at hlt
          omega
        · obtain rfl | h := h
          · rfl
          · cases h
            dsimp only at hlt
            omega
    next hlt =>
      obtain rfl | hx := hx
      · rfl
      · obtain rfl | h := h
        · exact absurd hx hlt
        · exact h

theorem lower_notBelow {m : Option (Cause × Word)} {e : Cause × Word} (he : NotBelow c val e) (hm : ∀ x ∈ m, NotBelow c val x) :
    ∀ x ∈ lower m e, NotBelow c val x := by
  unfold lower
  split
  · simpa using he
  · split
    · simpa using he
    · exact hm

theorem foldl_lower_eq (l : List (Cause × Word)) (m : Option (Cause × Word)) (hl : ∀ e ∈ l, NotBelow c val e)
    (hm : ∀ x ∈ m, NotBelow c val x) (h : (c, val) ∈ l ∨ m = some (c, val)) : l.foldl lower m = some (c, val) := by
  induction l generalizing m with
  | nil => exact h.resolve_left (by simp)
  | cons e l ih =>
    have he := hl e List.mem_cons_self
    refine ih _ (fun x hx => hl x (List.mem_cons_of_mem _ hx)) (lower_notBelow he hm) ?_
    obtain h | h := h
    · obtain rfl | h := List.mem_cons.mp h
      · exact .inr (lower_eq he hm (.inl rfl))
      · exact .inl h
    · exact .inr (lower_eq he hm (.inr h))

theorem lowestPending_eq {l : List (Cause × Word)} (hmem : (c, val) ∈ l) (hl : ∀ e ∈ l, NotBelow c val e) :
    lowestPending l = some (c, val) :=
  foldl_lower_eq l none hl (by simp) (.inl hmem)

/-- The lowest pending cause taken (R91). -/
theorem takePending_takes (h : Claims.TakesCause s tid c val) (pc : Word) :
    (takePending s tid pc).thread tid = Claims.causeTaken s tid c val pc ∧
    (∀ k, k ≠ tid → (takePending s tid pc).thread k = s.thread k) ∧ (takePending s tid pc).mem = s.mem := by
  obtain ⟨hhandler, hhnd, halive, hmem, hlow⟩ := h
  have hpend : takePending s tid pc = takeTrap
      (s.setThread tid { s.thread tid with pending := (s.thread tid).pending.filter fun e => e.1 ≠ c }) tid
      ⟨c, untagged val, 0, false, 0, pc, pc, true, !((s.thread tid).pending.filter fun e => e.1 ≠ c).isEmpty⟩ := by
    unfold takePending
    dsimp only
    rw [lowestPending_eq hmem hlow]
    dsimp only
    rw [State.thread_setThread_self]
    rfl
  have htaken := takeTrap_takes (s := s.setThread tid { s.thread tid with pending := (s.thread tid).pending.filter fun e => e.1 ≠ c })
    (tid := tid) (x := ⟨c, untagged val, 0, false, 0, pc, pc, true, !((s.thread tid).pending.filter fun e => e.1 ≠ c).isEmpty⟩)
    hhandler (by rw [State.thread_setThread_self]; exact hhnd) halive
  rw [hpend]
  obtain ⟨ts, cs, bs, honly⟩ := htaken.only
  exact ⟨htaken.thread, fun k hk => (htaken.others k hk).trans (State.thread_setThread_ne _ _ hk), by rw [honly]; rfl⟩

end

/-! ## THREAD_HALT (R93, R341) -/

section
variable {tid : Nat}

/-- A thread of a team that lives halts where it stands (R341). -/
theorem haltThread_alive (halive : s.isKilled tid = false) : haltThread s tid =
    match (s.thread tid).place with
    | .ended => s
    | .filed => if (s.thread tid).enters then s else haltAt s tid (s.thread tid).pc
    | .inBundle b =>
      if (s.bundle b).chain.isEmpty then
        (if (s.thread tid).mayTake then takePending s tid (s.bundle b).pc
          else if (s.thread tid).enters then s else haltAt s tid (s.bundle b).pc)
      else if (s.bundle b).held && !(s.bundle b).finished.contains tid && (s.thread tid).request.isNone then
        haltAt s tid (s.bundle b).head
      else s
    | .waiting (.counter _ _ head) | .waiting (.ring _ _ head) => haltAt s tid head
    | .waiting (.line _ _ _ _) | .waiting .queue => haltAt s tid (s.thread tid).pc
    | .waiting (.mask m) => haltAt (withdraw s tid m) tid (s.thread tid).pc
    | .waiting (.service _ _) | .waiting (.answer _) | .waiting .halted => s := by
  unfold haltThread
  dsimp only
  rw [if_neg (by simp [halive])]
  cases (s.thread tid).place with
  | waiting w => cases w <;> rfl
  | _ => rfl

theorem mayTake_eq_false {x : Thread} (h : x.hnd = true ∨ x.pending = []) : x.mayTake = false := by
  obtain h | h := h <;> simp [Thread.mayTake, h]

/-- A thread that runs again at an address halts there, where no cause is taken first and no handler has been entered. -/
theorem haltThread_resumes {pc : Word} (halive : s.isKilled tid = false) (hpc : Claims.resumeOf s tid = some pc)
    (henters : (s.thread tid).enters = false)
    (hbound : ∀ b, (s.thread tid).place = .inBundle b ∧ (s.bundle b).chain = [] →
      (s.thread tid).hnd = true ∨ (s.thread tid).pending = []) :
    haltThread s tid = haltAt s tid pc := by
  rw [haltThread_alive halive]
  unfold Claims.resumeOf at hpc
  dsimp only at hpc
  cases hplace : (s.thread tid).place with
  | ended =>
    rw [hplace] at hpc
    nomatch hpc
  | filed =>
    rw [hplace] at hpc
    cases hpc
    exact if_neg (by simp [henters])
  | inBundle b =>
    rw [hplace] at hpc
    dsimp only at hpc ⊢
    by_cases hchain : (s.bundle b).chain = []
    · rw [if_pos hchain] at hpc
      cases hpc
      rw [if_pos (by simp [hchain]), mayTake_eq_false (hbound b ⟨hplace, hchain⟩), if_neg (by simp), if_neg (by simp [henters])]
    · rw [if_neg hchain] at hpc
      split at hpc
      next hheld =>
        cases hpc
        obtain ⟨hheld, hfinished, hrequest⟩ := hheld
        rw [if_neg (by simpa using hchain), if_pos (by simp [hheld, hfinished, hrequest])]
      next => nomatch hpc
  | waiting w =>
    rw [hplace] at hpc
    cases w <;> cases hpc <;> rfl

end

theorem threadsHalt : Claims.ThreadsHalt := by
  intro s tid hfind hstat halive
  have hexec : exec (.threadHalt tid) s = .next (haltThread s tid) := if_pos (by simp [hfind, hstat])
  refine ⟨fun pc hpc henters hbound => ⟨_, hexec, ?_⟩, fun m _ hplace => ⟨_, hexec, ?_⟩, fun b c val hat htakes => ⟨_, hexec, ?_⟩,
    fun henters hat => ⟨_, hexec, ?_⟩⟩
  · rw [haltThread_resumes halive hpc henters hbound]
    exact haltAt_halts s tid pc
  · rw [haltThread_alive halive, hplace]
    dsimp only
    obtain ⟨hself, hothers, hrest, -⟩ := haltAt_halts (withdraw s tid m) tid (s.thread tid).pc
    refine ⟨⟨hself, hothers, hrest, fun b hb => by rw [hplace] at hb; nomatch hb⟩, ?_⟩
    rw [State.threadGroup, State.group, haltAt_groups]
    exact arrivals_withdraw s tid m
  · obtain ⟨hplace, hchain⟩ := hat
    have hmay : (s.thread tid).mayTake = true := by
      simpa [Thread.mayTake, htakes.outside] using List.ne_nil_of_mem htakes.pending
    rw [haltThread_alive halive, hplace]
    dsimp only
    rw [if_pos (by simp [hchain]), if_pos hmay]
    exact takePending_takes htakes _
  · rw [haltThread_alive halive]
    obtain hplace | ⟨b, ⟨hplace, hchain⟩, hnone⟩ := hat
    · rw [hplace]
      exact if_pos henters
    · rw [hplace]
      dsimp only
      rw [if_pos (by simp [hchain]), mayTake_eq_false hnone, if_neg (by simp), if_pos henters]

/-! ## The replay entries of a world (R342) -/

/-- A segment of an operation, as the state has it. -/
def segOf (s : State) (op n : Nat) : Option Segment := (s.ladles.find? op).bind fun o => o.segs.find? n

/-- A segment that a save finds recorded, or not begun. -/
def Recorded (g : Segment) : Prop := (g.replay = true ∧ g.pins = []) ∨ g.state = .queued

/-- Replay entries are recorded: each segment is as it was or recorded, and operations keep all but their segments. -/
structure Records (s t : State) : Prop where
  only : ∃ ls rs, t = { s with ladles := ls, refs := rs }
  segs : ∀ op n, segOf t op n = segOf s op n ∨ ∃ g, segOf t op n = some g ∧ Recorded g
  kept : ∀ op, (t.ladles.find? op).map (fun o => (o.world, o.rank)) = (s.ladles.find? op).map fun o => (o.world, o.rank)

namespace Records

theorem refl (s : State) : Records s s := ⟨⟨_, _, rfl⟩, fun _ _ => .inl rfl, fun _ => rfl⟩

theorem trans (h : Records s a) (h' : Records a t) : Records s t := by
  obtain ⟨⟨_, _, rfl⟩, hsegs, hkept⟩ := h
  obtain ⟨⟨_, _, rfl⟩, hsegs', hkept'⟩ := h'
  refine ⟨⟨_, _, rfl⟩, fun op n => ?_, fun op => (hkept' op).trans (hkept op)⟩
  obtain h' | h' := hsegs' op n
  · rw [h']
    exact hsegs op n
  · exact .inr h'

theorem foldl {α : Type} {f : State → α → State} (hf : ∀ s x, Records s (f s x)) (l : List α) (s : State) :
    Records s (l.foldl f s) := by
  induction l generalizing s with
  | nil => exact refl s
  | cons x l ih => exact (hf s x).trans (ih _)

/-- Whether a segment becomes a replay entry is the same before and after others have. -/
theorem replays_eq (h : Records s t) {op : Nat} {o o' : Ladle} (ho : s.ladles.find? op = some o) (ho' : t.ladles.find? op = some o')
    (g : Segment) : replays t o' g = replays s o g := by
  have hkept := h.kept op
  rw [ho, ho'] at hkept
  obtain ⟨hworld, hrank⟩ := Prod.mk.inj (Option.some.inj hkept)
  obtain ⟨_, _, rfl⟩ := h.only
  unfold replays recordable
  rw [hworld, hrank]
  rfl

end Records

/-- A segment's replay entry (R342). -/
def replayEntry (g : Segment) : Segment :=
  let state := match g.state with
    | .remote => SegState.remote
    | _ => .queued
  { g with state := state, replay := true, pins := [], paged := [], fromHost := false }

theorem foldl_unpin (l : List Nat) (s : State) : ∃ rs, l.foldl unpin s = { s with refs := rs } := by
  induction l generalizing s with
  | nil => exact ⟨_, rfl⟩
  | cons x l ih =>
    obtain ⟨rs, hrs⟩ := ih (unpin s x)
    exact ⟨rs, hrs⟩

theorem replaySegment_recorded {op n : Nat} {o : Ladle} {g : Segment} (ho : s.ladles.find? op = some o) (hg : replays s o g = true) :
    ∃ rs, replaySegment s op n g = { s.setLadle op (o.setSeg n (replayEntry g)) with refs := rs } := by
  obtain ⟨rs, hrs⟩ := foldl_unpin g.pins (s.setLadle op (o.setSeg n (replayEntry g)))
  refine ⟨rs, ?_⟩
  rw [← hrs]
  unfold replaySegment
  rw [ho]
  exact if_neg (by simp [hg])

theorem replaySegment_same {op n : Nat} {g : Segment} (h : ∀ o, s.ladles.find? op = some o → replays s o g = false) :
    replaySegment s op n g = s := by
  unfold replaySegment
  split
  next => rfl
  next o ho => exact if_pos (by simp [h o ho])

theorem segOf_setLadle (s : State) (op n : Nat) (o : Ladle) (g : Segment) (rs : List (Nat × Nat)) (op' n' : Nat)
    (ho : s.ladles.find? op = some o) : segOf { s.setLadle op (o.setSeg n g) with refs := rs } op' n' =
      if op' = op ∧ n' = n then some g else segOf s op' n' := by
  unfold segOf State.setLadle Ladle.setSeg
  dsimp only
  by_cases hop : op' = op
  · subst hop
    rw [SMap.find?_insert_self, ho]
    by_cases hn : n' = n
    · subst hn
      rw [if_pos ⟨rfl, rfl⟩]
      exact SMap.find?_insert_self ..
    · rw [if_neg (by simp [hn])]
      exact SMap.find?_insert_ne _ _ hn
  · rw [SMap.find?_insert_ne _ _ hop, if_neg (by simp [hop])]

theorem replaySegment_records (s : State) (op n : Nat) (g : Segment) : Records s (replaySegment s op n g) := by
  cases ho : s.ladles.find? op with
  | none =>
    rw [replaySegment_same fun o h => by rw [ho] at h; nomatch h]
    exact .refl s
  | some o =>
    cases hg : replays s o g with
    | false =>
      rw [replaySegment_same fun o' h => by rw [ho] at h; cases h; exact hg]
      exact .refl s
    | true =>
      obtain ⟨rs, hreplay⟩ := replaySegment_recorded (n := n) ho hg
      rw [hreplay]
      refine ⟨⟨_, _, rfl⟩, fun op' n' => ?_, fun op' => ?_⟩
      · rw [segOf_setLadle s op n o _ rs op' n' ho]
        split
        · exact .inr ⟨_, rfl, .inl ⟨rfl, rfl⟩⟩
        · exact .inl rfl
      · by_cases hop : op' = op
        · subst hop
          rw [ho]
          exact (congrArg (Option.map fun o : Ladle => (o.world, o.rank))
            (SMap.find?_insert_self s.ladles op' (o.setSeg n (replayEntry g)))).trans rfl
        · exact congrArg (Option.map _) (SMap.find?_insert_ne _ _ hop)

/-- The segments that a save looks at, with their operations. -/
def worldSegs (s : State) (w : Nat) : List (Nat × Nat × Segment) :=
  (List.filter (fun e : Nat × Ladle => e.2.world = w) s.ladles).flatMap fun e => e.2.segs.map fun g => (e.1, g.1, g.2)

def replayOne (s : State) (x : Nat × Nat × Segment) : State := replaySegment s x.1 x.2.1 x.2.2

theorem replayAll_eq (s : State) (w : Nat) : replayAll s w = (worldSegs s w).foldl replayOne s := by
  unfold replayAll worldSegs replayOne
  rw [List.foldl_flatMap]
  simp only [List.foldl_map]

theorem replayAll_records (s : State) (w : Nat) : Records s (replayAll s w) := by
  rw [replayAll_eq]
  exact .foldl (fun s x => replaySegment_records s ..) _ s

/-- A segment that becomes a replay entry stands recorded after its turn. -/
theorem foldl_replayOne_recorded {l : List (Nat × Nat × Segment)} {op n : Nat} {o : Ladle} {g g' : Segment} (hmem : (op, n, g) ∈ l)
    (ho : s.ladles.find? op = some o) (hreplays : replays s o g = true) (hseg : segOf (l.foldl replayOne s) op n = some g') :
    Recorded g' := by
  obtain ⟨before, after, rfl⟩ := List.append_of_mem hmem
  rw [List.foldl_append, List.foldl_cons] at hseg
  have hbefore := Records.foldl (f := replayOne) (fun s x => replaySegment_records s ..) before s
  generalize before.foldl replayOne s = b at hbefore hseg
  have hafter := Records.foldl (f := replayOne) (fun s x => replaySegment_records s ..) after (replaySegment b op n g)
  obtain ⟨ob, hob, -⟩ := Option.map_eq_some_iff.mp ((hbefore.kept op).trans (congrArg (Option.map _) ho))
  obtain ⟨rs, hreplay⟩ := replaySegment_recorded (n := n) hob ((hbefore.replays_eq ho hob g).trans hreplays)
  have hentry : segOf (replaySegment b op n g) op n = some (replayEntry g) := by
    rw [hreplay, segOf_setLadle b op n ob _ rs op n hob, if_pos ⟨rfl, rfl⟩]
  obtain h | ⟨x, hx, hrec⟩ := hafter.segs op n
  · have hlast : g' = replayEntry g := Option.some.inj ((hseg.symm.trans h).trans hentry)
    rw [hlast]
    exact .inl ⟨rfl, rfl⟩
  · obtain rfl : g' = x := Option.some.inj (hseg.symm.trans hx)
    exact hrec

/-- Every segment of a world that is quiet is recorded, or has not begun (R342). -/
theorem replayAll_recorded {w op n : Nat} {o : Ladle} {g : Segment}
    (hquiet : ∀ e ∈ s.ladles, e.2.world = w → ∀ g ∈ e.2.segs, replays s e.2 g.2 = true ∨ waitsForTile s e.2 g.2 = true)
    (ho : (replayAll s w).ladles.find? op = some o) (hworld : o.world = w) (hg : o.segs.find? n = some g) : Recorded g := by
  have hrecords := replayAll_records s w
  have hseg : segOf (replayAll s w) op n = some g := by rw [segOf, ho]; exact hg
  obtain hsame | ⟨g', hg', hrec⟩ := hrecords.segs op n
  · obtain ⟨o0, ho0, hg0⟩ := Option.bind_eq_some_iff.mp (hsame.symm.trans hseg)
    have hkept := hrecords.kept op
    rw [ho, ho0] at hkept
    have hworld0 : o0.world = w := (congrArg Prod.fst (Option.some.inj hkept)).symm.trans hworld
    obtain hreplays | hwaits := hquiet _ (SMap.mem_of_find? ho0) hworld0 _ (SMap.mem_of_find? hg0)
    · rw [replayAll_eq] at hseg
      refine foldl_replayOne_recorded (List.mem_flatMap.mpr ⟨(op, o0), ?_, ?_⟩) ho0 hreplays hseg
      · exact List.mem_filter.mpr ⟨SMap.mem_of_find? ho0, by simpa using hworld0⟩
      · exact List.mem_map.mpr ⟨_, SMap.mem_of_find? hg0, rfl⟩
    · have hqueued : (g.state == .queued) = true := (Bool.and_eq_true_iff.mp hwaits).1
      exact .inr (by simpa using hqueued)
  · obtain rfl : g = g' := Option.some.inj (hseg.symm.trans hg')
    exact hrec

/-! ## The recall of a world's owned lines (R283, R342) -/

/-- Owned lines are recalled, and nothing but what lies beside them changes. -/
structure Recalls (s t : State) : Prop where
  only  : OnlyPlace s t
  owned : ∀ q, ∀ o ∈ (t.quad q).owned, o ∈ (s.quad q).owned

namespace Recalls

theorem refl (s : State) : Recalls s s := ⟨.refl s, fun _ _ h => h⟩

theorem trans (h : Recalls s a) (h' : Recalls a t) : Recalls s t :=
  ⟨h.only.trans h'.only, fun q o ho => h.owned q o (h'.owned q o ho)⟩

theorem foldl {α : Type} {f : State → α → State} (hf : ∀ s x, Recalls s (f s x)) (l : List α) (s : State) :
    Recalls s (l.foldl f s) := by
  induction l generalizing s with
  | nil => exact refl s
  | cons x l ih => exact (hf s x).trans (ih _)

end Recalls

theorem quad_countHbm (s : State) (w key n q : Nat) : (countHbm s w key n).quad q = s.quad q := by
  obtain ⟨asr, hcount⟩ := countHbm_only s w key n
  rw [hcount]
  rfl

theorem quad_recallFrom (s : State) (q k q' : Nat) : ((recallFrom s q k).quad q').owned =
    if q' = q then (s.quad q).owned.filter fun o => o.line ≠ k else (s.quad q').owned := by
  have hset (x : Quad) : (s.setQuad q x).quad q' = if q' = q then x else s.quad q' := SMap.getD_insert ..
  unfold recallFrom
  split
  next o _ =>
    change ((countHbm _ _ _ _).quad q').owned = _
    rw [quad_countHbm, hset]
    split <;> rfl
  next hnone =>
    have hall : (s.quad q).owned.filter (fun o => o.line ≠ k) = (s.quad q).owned :=
      List.filter_eq_self.mpr fun o ho => by simpa using List.find?_eq_none.mp hnone o ho
    rw [hall]
    split
    next h => rw [h]
    next => rfl

theorem recallFrom_recalls (s : State) (q k : Nat) : Recalls s (recallFrom s q k) := by
  refine ⟨recallFrom_place s q k, fun q' o ho => ?_⟩
  rw [quad_recallFrom] at ho
  split at ho
  next h => exact h ▸ (List.mem_filter.mp ho).1
  next => exact ho

/-- A world's owned lines of one quad recalled. -/
def recallQuad (w : Nat) (s : State) (q : Nat × Quad) : State :=
  (q.2.owned.filter fun o => o.via.world = w).foldl (fun s o => recallFrom s q.1 o.line) s

theorem recallQuad_recalls (w : Nat) (s : State) (q : Nat × Quad) : Recalls s (recallQuad w s q) :=
  .foldl (f := fun s (o : Owned) => recallFrom s q.1 o.line) (fun s o => recallFrom_recalls s q.1 o.line) _ s

theorem recallQuad_gone {w q : Nat} {x : Quad} {o : Owned} (ho : o ∈ x.owned) (hw : o.via.world = w) :
    o ∉ ((recallQuad w s (q, x)).quad q).owned := by
  obtain ⟨before, after, hsplit⟩ := List.append_of_mem (List.mem_filter.mpr ⟨ho, by simpa using hw⟩ :
    o ∈ x.owned.filter fun o => o.via.world = w)
  unfold recallQuad
  rw [hsplit, List.foldl_append, List.foldl_cons]
  intro hmem
  have hrest := Recalls.foldl (f := fun s (o : Owned) => recallFrom s q o.line) (fun s o => recallFrom_recalls s q o.line) after
    (recallFrom (before.foldl (fun s o => recallFrom s q o.line) s) q o.line)
  have h := hrest.owned q o hmem
  rw [quad_recallFrom, if_pos rfl] at h
  simp at h

/-- No quad owns a line of the world any more. -/
theorem recallQuads_gone (w : Nat) (s : State) (q : Nat) :
    ∀ o ∈ ((s.quads.foldl (recallQuad w) s).quad q).owned, o.via.world ≠ w := by
  intro o ho hw
  have hbefore := (Recalls.foldl (recallQuad_recalls w) s.quads s).owned q o ho
  cases hq : s.quads.find? q with
  | none =>
    rw [State.quad, SMap.getD, hq] at hbefore
    nomatch hbefore
  | some x =>
    rw [State.quad, SMap.getD, hq] at hbefore
    obtain ⟨before, after, hsplit⟩ := List.append_of_mem (SMap.mem_of_find? hq)
    rw [hsplit, List.foldl_append, List.foldl_cons] at ho
    exact recallQuad_gone hbefore hw ((Recalls.foldl (recallQuad_recalls w) after _).owned q o ho)

/-! ## WORLD_QUIESCED (R342) -/

/-- The errors found as a save reads: lines and tiles, and the events of the black boxes. -/
def OnlySensed (s t : State) : Prop := ∃ ls la asr tms, t = { s with lines := ls, latent := la, assayer := asr, teams := tms }

namespace OnlySensed

theorem refl (s : State) : OnlySensed s s := ⟨_, _, _, _, rfl⟩

theorem trans (h : OnlySensed s a) (h' : OnlySensed a t) : OnlySensed s t := by
  obtain ⟨_, _, _, _, rfl⟩ := h
  obtain ⟨_, _, _, _, rfl⟩ := h'
  exact ⟨_, _, _, _, rfl⟩

theorem foldl {α : Type} {f : State → α → State} (hf : ∀ s x, OnlySensed s (f s x)) (l : List α) (s : State) :
    OnlySensed s (l.foldl f s) := by
  induction l generalizing s with
  | nil => exact refl s
  | cons x l ih => exact (hf s x).trans (ih _)

theorem noteError (s : State) (die w unit : Nat) : OnlySensed s (noteError s die w unit) := ⟨_, _, _, _, rfl⟩

theorem detectLine (s : State) (k : Nat) : OnlySensed s (detectLine s k) := by
  obtain h | ⟨x, q, l, die, w, unit, h | h⟩ := detectLine_cases s k <;> rw [h]
  · exact refl s
  · exact ⟨_, _, _, _, rfl⟩
  · exact trans ⟨_, _, _, _, rfl⟩ (foldl (fun s _ => noteError s die w unit) l _)

theorem detectTile (s : State) (x n : Nat) : OnlySensed s (detectTile s x n) := by
  unfold Machine.detectTile
  dsimp only
  split
  · exact refl s
  · exact trans ⟨_, _, _, _, rfl⟩ (foldl (fun s _ => noteError s ..) _ _)

end OnlySensed

theorem senseWorld_only (s : State) (w : Nat) : OnlySensed s (senseWorld s w) := by
  have hline (s : State) (k : Nat) : OnlySensed s (senseWorld.senseLineOf s w k) := by
    unfold senseWorld.senseLineOf
    split
    · split
      · exact .detectLine s k
      · exact .refl s
    · exact .refl s
  refine .foldl (fun s e => ?_) _ s
  cases e with
  | data g => exact hline s _
  | tags k => exact hline s k
  | tile x n b =>
    dsimp only
    split
    · exact .detectTile s x n
    · exact .refl s
  | register => exact .refl s

/-- The save of a quiet world begins (R342). -/
def saveBegins (s : State) (w : Nat) : State :=
  let a := (replayAll s w).quads.foldl (recallQuad w) (replayAll s w)
  let a := senseWorld { a with early := a.early.filter fun e => a.threadWorld e.tid ≠ w } w
  a.setWorld w { a.world w with stat := 3 }

/-- What the save's beginning leaves, and what it changes of the world, the quads, and what has been read ahead. -/
structure Saved (s t : State) (w : Nat) : Prop where
  world   : t.world w = { s.world w with stat := 3 }
  threads : t.threads = s.threads
  mem     : t.mem = s.mem
  ladles  : t.ladles = (replayAll s w).ladles
  owned   : ∀ q, ∀ o ∈ (t.quad q).owned, o.via.world ≠ w
  early   : t.early = s.early.filter fun e => s.threadWorld e.tid ≠ w

/-- What the replay entries and the recalls leave as it was. -/
structure Unsaved (s a : State) : Prop where
  threads : a.threads = s.threads
  mem     : a.mem = s.mem
  worlds  : a.worlds = s.worlds
  teams   : a.teams = s.teams
  early   : a.early = s.early

theorem Records.unsaved (h : Records s t) : Unsaved s t := by
  obtain ⟨⟨_, _, rfl⟩, -, -⟩ := h
  exact ⟨rfl, rfl, rfl, rfl, rfl⟩

theorem OnlyPlace.unsaved (h : OnlyPlace s t) : Unsaved s t ∧ t.ladles = s.ladles := by
  obtain ⟨_, _, _, _, rfl⟩ := h
  exact ⟨⟨rfl, rfl, rfl, rfl, rfl⟩, rfl⟩

theorem Unsaved.trans (h : Unsaved s a) (h' : Unsaved a t) : Unsaved s t :=
  ⟨h'.threads.trans h.threads, h'.mem.trans h.mem, h'.worlds.trans h.worlds, h'.teams.trans h.teams, h'.early.trans h.early⟩

theorem Unsaved.world (h : Unsaved s a) (w : Nat) : a.world w = s.world w := by
  unfold State.world
  rw [h.worlds]

theorem saveBegins_saved (s : State) (w : Nat) : Saved s (saveBegins s w) w := by
  have hrecall := (Recalls.foldl (recallQuad_recalls w) (replayAll s w).quads (replayAll s w)).only.unsaved
  have hgone := recallQuads_gone w (replayAll s w)
  unfold saveBegins
  generalize (replayAll s w).quads.foldl (recallQuad w) (replayAll s w) = a at hrecall hgone ⊢
  obtain ⟨hplace, hladles⟩ := hrecall
  have hkept := (replayAll_records s w).unsaved.trans hplace
  have hearly : (a.early.filter fun e => a.threadWorld e.tid ≠ w) = s.early.filter fun e => s.threadWorld e.tid ≠ w := by
    rw [hkept.early]
    unfold State.threadWorld State.threadTeam State.team
    rw [hkept.teams]
  obtain ⟨_, _, _, _, hsense⟩ := senseWorld_only { a with early := a.early.filter fun e => a.threadWorld e.tid ≠ w } w
  dsimp only
  rw [hsense]
  refine ⟨?_, hkept.threads, hkept.mem, hladles, hgone, hearly⟩
  rw [State.world_setWorld, if_pos rfl]
  exact congrArg (fun x : World => { x with stat := 3 }) (hkept.world w)

theorem execWorldQuiesced_saves {w : Nat} (hstat : (s.world w).stat = 2) (hquiet : quiesced s w = true) :
    exec (.worldQuiesced w) s = .next (saveBegins s w) := if_neg (by simp [hstat, hquiet])

theorem worldsQuiesce : Claims.WorldsQuiesce := by
  intro s w hstat hthreads hrequests hladles hquads hlate hgroups
  have hquiet : quiesced s w = true := by
    simp only [quiesced, Bool.and_eq_true, List.all_eq_true]
    refine ⟨⟨⟨⟨⟨?_, ?_⟩, ?_⟩, ?_⟩, ?_⟩, ?_⟩
    · simpa using hlate
    · simpa using hgroups
    · intro e he
      by_cases h : s.threadWorld e.1 = w
      · simp [hthreads e he h]
      · simp [h]
    · intro e he
      by_cases h : e.2.world = w
      · simp [hrequests e he h]
      · simp [h]
    · intro e he
      by_cases h : e.2.world = w
      · simpa [h] using hladles e he h
      · simp [h]
    · exact hquads
  refine ⟨_, execWorldQuiesced_saves hstat hquiet, ?_⟩
  have hsaved := saveBegins_saved s w
  refine ⟨hsaved.world, hsaved.threads, hsaved.mem, fun op o n g ho => ?_, hsaved.owned, fun e he => ?_⟩
  · rw [hsaved.ladles] at ho
    exact replayAll_recorded hladles ho
  · rw [hsaved.early] at he
    simpa using (List.mem_filter.mp he).2

end Sys2Proof.Machine

namespace Sys2Proof

open Machine

/-- Settles O49: a kill records its cause with every team that lives, a thread halts where it runs again, and the save records
every segment that is left and recalls every owned line. -/
theorem worldsHalted : Obligations.WorldsHalted := by
  unfold Obligations.WorldsHalted
  exact ⟨worldsAreKilled, preemption, threadsHalt, worldsQuiesce⟩

end Sys2Proof
end

section
/-! PROOF. Service completions and ring tails (R126, R127, R200 to R202, R314, R345): O47 holds. -/

namespace Sys2Proof.Machine

open Sys2Proof

variable {s a t : State} {w : Nat}

/-! ## A ring's page (R253, R261, R314) -/

/-- What a world's walks read is as it was: its tables, its root, its grants and the dies that run. -/
structure SameWalks (s a : State) (w : Nat) : Prop where
  mem     : a.mem = s.mem
  frames  : a.frames = s.frames
  assayer : a.assayer = s.assayer
  root    : (a.world w).root = (s.world w).root
  hasRoot : (a.world w).hasRoot = (s.world w).hasRoot
  grants  : (a.world w).grants = (s.world w).grants

theorem walkFrom_of_mem (h : a.mem = s.mem) (w va : Nat) (level : Nat) : ∀ (f : Nat) (seen : List Nat),
    walkFrom a w va f seen level = walkFrom s w va f seen level := by
  induction level with
  | zero => exact fun _ _ => rfl
  | succ level ih =>
    intro f seen
    unfold walkFrom
    rw [h]
    simp only [ih]

theorem SameWalks.walk (h : SameWalks s a w) (va : Nat) : walk a w va = walk s w va := by
  have hframe : hasFrame a = hasFrame s := by
    funext f
    unfold hasFrame dieRuns
    rw [h.assayer]
  unfold Machine.walk
  rw [hframe, h.root, h.hasRoot, walkFrom_of_mem h.mem]

theorem SameWalks.ringPage (h : SameWalks s a w) (base : DWord) (read : Bool) : ringPage a w base read = ringPage s w base read := by
  have hframe (f : Nat) : a.frame f = s.frame f := by
    unfold State.frame
    rw [h.frames]
  have hleaf (x : Xlat) (va : Nat) : checkLeaf a w x va .write false = checkLeaf s w x va .write false := by
    unfold checkLeaf leafRule State.grant
    rw [h.grants]
    simp only [hframe]
  unfold Machine.ringPage
  simp only [h.walk, hleaf, hframe]

/-! ## Ring tails (R200, R314) -/

/-- A world after its ring tail has moved. -/
def tailMoved (s : State) (w : Nat) (v : Word) : State := s.setWorld w { s.world w with srtail := v }

theorem world_tailMoved (s : State) (w : Nat) (v : Word) : (tailMoved s w v).world w = { s.world w with srtail := v } := by
  rw [tailMoved, State.world_setWorld, if_pos rfl]

theorem sameWalks_tailMoved (s : State) (w : Nat) (v : Word) : SameWalks s (tailMoved s w v) w := by
  refine ⟨rfl, rfl, rfl, ?_, ?_, ?_⟩ <;> rw [world_tailMoved]

theorem nextRequest_tailMoved (s : State) (w : Nat) (v : Word) (core : Nat) :
    Claims.nextRequest (tailMoved s w v) w core = Claims.nextRequest s w core := by
  unfold Claims.nextRequest
  rw [world_tailMoved]

theorem callBytes_tailMoved {tid : Nat} (hworld : s.threadWorld tid = w) (v : Word) (c : Call) :
    Claims.callBytes (tailMoved s w v) tid c = Claims.callBytes s tid c := by
  subst hworld
  unfold Claims.callBytes
  rw [← nextRequest_tailMoved s (s.threadWorld tid) v]
  rfl

theorem trapped_tailMoved {tid : Nat} (hworld : s.threadWorld tid = w) (v : Word) (x : TrapArgs) :
    trapped (tailMoved s w v) tid x = trapped s tid x := by
  subst hworld
  have h : (tailMoved s (s.threadWorld tid) v).world ((tailMoved s (s.threadWorld tid) v).threadWorld tid) =
      { s.world (s.threadWorld tid) with srtail := v } := world_tailMoved ..
  unfold trapped
  rw [h]
  rfl

theorem handler_tailMoved {tid : Nat} (hworld : s.threadWorld tid = w) (v : Word)
    (h : (s.world (s.threadWorld tid)).handler ≠ 0) :
    ((tailMoved s w v).world ((tailMoved s w v).threadWorld tid)).handler ≠ 0 := by
  subst hworld
  have hsame : ((tailMoved s (s.threadWorld tid) v).world (s.threadWorld tid)).handler = (s.world (s.threadWorld tid)).handler := by
    rw [world_tailMoved]
  exact fun hz => h (hsame.symm.trans hz)

theorem windowOpen_iff (hw : w < 64) (htdi : (s.world w).tdi ≠ .error) : windowOpen s w = true := by
  simp [windowOpen, hw, htdi]

/-- A write within what has been appended (R314). -/
theorem execSrtailWrite_moves {v : Word} (hopen : windowOpen s w = true)
    (hv : ((s.world w).srhead - v).toNat ≤ ((s.world w).srhead - (s.world w).srtail).toNat) :
    exec (.srtailWrite w v) s = .next (serveList (tailMoved s w v) w (ringWaiters s w)) := by
  change execSrtailWrite w v s = _
  rw [execSrtailWrite, if_neg (by simp [hopen]), if_neg (by omega)]
  rfl

theorem execSrtailWrite_ignored {v : Word} (hopen : windowOpen s w = true)
    (hv : ((s.world w).srhead - (s.world w).srtail).toNat < ((s.world w).srhead - v).toNat) :
    exec (.srtailWrite w v) s = .next (logFault s w { kind := 0x85, addr := v.toNat } (micros s)) := by
  change execSrtailWrite w v s = _
  rw [execSrtailWrite, if_neg (by simp [hopen]), if_pos hv]
  rfl

/-- An entry of the fault log leaves the service ring's numbers. -/
theorem world_logFault (s : State) (w : Nat) (e : LogEntry) (time : DWord) :
    ((logFault s w e time).world w).srtail = (s.world w).srtail ∧ ((logFault s w e time).world w).srhead = (s.world w).srhead := by
  by_cases hfull : ringPage s w (s.world w).flbase false = none ∨ (s.world w).flhead - (s.world w).fltail = 1024
  · rw [logFault_dropped hfull, State.world_setWorld, if_pos rfl]
    exact ⟨rfl, rfl⟩
  · obtain ⟨hpage, hroom⟩ := not_or.mp hfull
    obtain ⟨⟨pa, g⟩, hpage⟩ := Option.ne_none_iff_exists'.mp hpage
    obtain ⟨asr, hwritten⟩ := logFault_written hpage hroom
    rw [hwritten]
    change ((State.setWorld _ _ _).world w).srtail = _ ∧ ((State.setWorld _ _ _).world w).srhead = _
    rw [State.world_setWorld, if_pos rfl]
    exact ⟨rfl, rfl⟩

section
variable {order tid pa : Nat} {c : Call} {head : Word} {page : BitVec 2}

/-- The call that has waited longest takes an entry, or traps (R126, R200). -/
theorem serveList_one (hpage : ringPage s w (s.world w).srbase false = some (pa, page)) (hroom : (s.world w).ringRoom = true)
    (hplace : (s.thread tid).place = .waiting (.ring order c head)) :
    serveList s w [(order, tid, c, head)] =
      if page.toNat < (callGrade s c).toNat then takeTrap s tid (callTrap c head (callGrade s c) page (s.thread tid).hasPending)
      else (appendService s tid c pa).2.modThread tid fun t => { t with place := .waiting (.service (appendService s tid c pa).1 head) } := by
  have hwaits : waitsRing s tid order = true := by
    unfold waitsRing
    rw [hplace]
    simp
  rw [serveList, hpage]
  dsimp only
  rw [if_neg (by simp [hroom]), if_neg (by simp [hwaits])]
  rfl

/-- The world after a call's request has taken its identifier and its entry (R127, R343). -/
def callAppended (x : World) (core : Nat) : World :=
  { x with seqs := x.seqs.insert core (x.seqs.getD core 0 + 1), srhead := x.srhead + 1 }

/-- What an appended call changes (R127, R200). -/
structure Appended (s t : State) (w tid : Nat) (c : Call) (pa : Nat) : Prop where
  threads  : t.threads = s.threads
  mem      : t.mem = s.mem.writeBytes (physKey (pa + 128 * ((s.world w).srhead.toNat % 512))) (Claims.callBytes s tid c)
  services : t.services.find? s.nextId =
    some ⟨w, tid, (s.world w).srhead.toNat % 512, c.block, c.dst, Claims.nextRequest s w c.core, c⟩
  world    : t.world w = callAppended (s.world w) c.core
  msix     : t.msix = (w, 2) :: s.msix

/-- The state in which the call's request has its numbers. -/
def callNumbered (s : State) (w core : Nat) : State :=
  { s.setWorld w { s.world w with seqs := (s.world w).seqs.insert core ((s.world w).seqs.getD core 0 + 1) } with nextId := s.nextId + 1 }

theorem world_callNumbered (s : State) (w core : Nat) : (callNumbered s w core).world w =
    { s.world w with seqs := (s.world w).seqs.insert core ((s.world w).seqs.getD core 0 + 1) } :=
  (State.world_setWorld ..).trans (if_pos rfl)

/-- The entry of a call written at its key, and the world told (R127, R314). -/
def callWritten (s : State) (w tid id : Nat) (c : Call) (req : DWord) (key : Nat) (bytes : List Byte) : State :=
  let idx := (s.world w).srhead.toNat % 512
  let a := State.setWorld (countHbm (writeMain s key bytes) w key 128) w { s.world w with srhead := (s.world w).srhead + 1 }
  raiseMsix { a with services := a.services.insert id ⟨w, tid, idx, c.block, c.dst, req, c⟩ } w 2

theorem appendService_eq (hworld : s.threadWorld tid = w) : appendService s tid c pa =
    (s.nextId, callWritten (callNumbered s w c.core) w tid s.nextId c (Claims.nextRequest s w c.core)
      (physKey (pa + 128 * ((s.world w).srhead.toNat % 512))) (Claims.callBytes s tid c)) := by
  subst hworld
  have hhead : ((callNumbered s (s.threadWorld tid) c.core).world (s.threadWorld tid)).srhead = (s.world (s.threadWorld tid)).srhead := by
    rw [world_callNumbered]
  rw [← hhead]
  rfl

theorem appendService_appended (hworld : s.threadWorld tid = w) :
    (appendService s tid c pa).1 = s.nextId ∧ Appended s (appendService s tid c pa).2 w tid c pa := by
  rw [appendService_eq hworld]
  refine ⟨rfl, ?_⟩
  obtain ⟨asr, hcount⟩ := countHbm_only (writeMain (callNumbered s w c.core)
    (physKey (pa + 128 * ((s.world w).srhead.toNat % 512))) (Claims.callBytes s tid c)) w
    (physKey (pa + 128 * ((s.world w).srhead.toNat % 512))) 128
  unfold callWritten
  rw [hcount, world_callNumbered]
  exact ⟨rfl, rfl, SMap.find?_insert_self .., (State.world_setWorld ..).trans (if_pos rfl), rfl⟩

end

theorem gradeMax_le {x y : BitVec 2} {n : Nat} (hx : x.toNat ≤ n) (hy : y.toNat ≤ n) : (gradeMax x y).toNat ≤ n := by
  unfold gradeMax
  split
  · assumption
  · assumption

section
variable {order tid pa : Nat} {v : Word} {c : Call} {head : Word} {page : BitVec 2}

/-- The call that has waited longest, its thread's world being the ring's (R200). -/
theorem serveList_tailMoved (hroom : ((s.world w).srhead - v).toNat < 512)
    (hplace : (s.thread tid).place = .waiting (.ring order c head))
    (hpage : ringPage s w (s.world w).srbase false = some (pa, page)) :
    serveList (tailMoved s w v) w [(order, tid, c, head)] =
      if page.toNat < (callGrade s c).toNat then
        takeTrap (tailMoved s w v) tid (callTrap c head (callGrade s c) page (s.thread tid).hasPending)
      else (appendService (tailMoved s w v) tid c pa).2.modThread tid fun t =>
        { t with place := .waiting (.service (appendService (tailMoved s w v) tid c pa).1 head) } :=
  serveList_one (s := tailMoved s w v) (by rw [world_tailMoved, (sameWalks_tailMoved s w v).ringPage]; exact hpage)
    (by rw [world_tailMoved]; exact decide_eq_true hroom) hplace

/-- The thread of a call that takes an entry waits for its completion (R127, R200). -/
theorem appended_tailMoved (hworld : s.threadWorld tid = w) :
    ∃ b, (appendService (tailMoved s w v) tid c pa) = (s.nextId, b) ∧ b.threads = s.threads ∧
      b.mem = s.mem.writeBytes (physKey (pa + 128 * ((s.world w).srhead.toNat % 512))) (Claims.callBytes s tid c) ∧
      b.services.find? s.nextId = some ⟨w, tid, (s.world w).srhead.toNat % 512, c.block, c.dst, Claims.nextRequest s w c.core, c⟩ ∧
      b.world w = callAppended { s.world w with srtail := v } c.core ∧ b.msix = (w, 2) :: s.msix := by
  obtain ⟨hid, hthreads, hmem, hservices, hbworld, hmsix⟩ :=
    appendService_appended (s := tailMoved s w v) (tid := tid) (c := c) (pa := pa) hworld
  rw [world_tailMoved] at hmem hservices hbworld
  rw [callBytes_tailMoved hworld] at hmem
  rw [nextRequest_tailMoved] at hservices
  exact ⟨_, Prod.ext hid rfl, hthreads, hmem, hservices, hbworld, hmsix⟩

end

theorem ringTails : Claims.RingTails := by
  intro s w v hw htdi
  have hopen := windowOpen_iff hw htdi
  refine ⟨fun hv hnone => ⟨_, execSrtailWrite_moves hopen hv, ?_⟩, fun order tid c head pa page hv hroom hone hplace hworld hpage => ?_,
    fun hv => ⟨_, execSrtailWrite_ignored hopen hv, ?_⟩⟩
  · rw [hnone]
    exact ⟨⟨rfl, fun k hk => by rw [serveList, tailMoved, State.world_setWorld, if_neg hk]⟩, world_tailMoved ..⟩
  · have hexec := execSrtailWrite_moves hopen hv
    rw [hone, serveList_tailMoved hroom hplace hpage] at hexec
    refine ⟨fun hgrade hlines => ⟨_, hexec, ?_⟩, fun hover hcan halive => ⟨_, hexec, ?_⟩⟩
    · have hle : ¬ page.toNat < (callGrade s c).toNat := Nat.not_lt.mpr (gradeMax_le hgrade hlines)
      obtain ⟨b, happ, hthreads, hmem, hservices, hbworld, hmsix⟩ := appended_tailMoved (v := v) (c := c) (pa := pa) hworld
      rw [if_neg hle, happ]
      refine ⟨s.nextId, ?_, hservices, hmem, fun k hk => ?_, congrArg World.srtail hbworld, congrArg World.srhead hbworld, hmsix⟩
      · rw [State.thread_modThread_self, thread_same hthreads]
      · rw [State.thread_modThread_ne _ _ hk, thread_same hthreads]
    · rw [if_pos (by exact hover)]
      obtain ⟨hself, -, ⟨ts, cs, bs, honly⟩, hfiled⟩ := takeTrap_takes (s := tailMoved s w v) (tid := tid)
        (x := callTrap c head (callGrade s c) page (s.thread tid).hasPending)
        (handler_tailMoved hworld v hcan.handler) hcan.outside halive
      rw [trapped_tailMoved hworld] at hself
      generalize takeTrap (tailMoved s w v) tid _ = b at hself hfiled honly ⊢
      subst honly
      have hworlds := world_tailMoved s w v
      exact ⟨hself, hfiled hcan.onCore, rfl, (congrArg World.srhead hworlds).trans rfl, (congrArg World.srtail hworlds).trans rfl, rfl⟩
  · obtain ⟨_, _, _, _, _, honly⟩ := logFault_only s w { kind := 0x85, addr := v.toNat } (micros s)
    have hlogs := logFault_logs s w { kind := 0x85, addr := v.toNat } (micros s)
    exact ⟨by rw [honly], (world_logFault ..).1, (world_logFault ..).2, hlogs⟩

/-! ## Completions (R201, R202, R345) -/

/-- Nothing of near memory but a reply's bytes and the grades of its lines changes, and only threads that wait are woken (R126, R151). -/
theorem writeReply_spec (s : State) (block : Nat) (reply : List Byte) (grade : BitVec 2) :
    Woken s (writeReply s block reply grade) ∧ (writeReply s block reply grade).mem = s.mem.writeBytes block reply ∧
    ∀ n, (writeReply s block reply grade).line n =
      if n ∈ linesOf block reply.length then { s.line n with tag := (s.line n).tag.join ⟨grade, false⟩ } else s.line n := by
  obtain ⟨⟨ls, htagged⟩, hlines⟩ := tagLines_spec (linesOf block reply.length) (linesOf_nodup _ _) ⟨grade, false⟩
    { s with mem := s.mem.writeBytes block reply }
  unfold writeReply
  dsimp only
  rw [htagged] at hlines ⊢
  obtain ⟨hwoken, hmem, hline⟩ := notifyCounters_woken { s with mem := s.mem.writeBytes block reply, lines := ls } block reply.length
  exact ⟨(Woken.of_mem rfl).trans hwoken, hmem, fun n => (line_of_lines hline n).trans (hlines n)⟩

theorem readBytes_length (m : Memory) (n : Nat) : ∀ a, (m.readBytes a n).length = n := by
  induction n with
  | zero => exact fun _ => rfl
  | succ n ih => exact fun a => congrArg (· + 1) (ih (a + 1))

section
variable {id pa idx : Nat} {v : Service} {page : BitVec 2}

/-- The request that an index names: the only one of its world that is served under it. -/
def Names (s : State) (w idx id : Nat) (v : Service) : Prop :=
  List.find? (fun e : Nat × Service => e.2.world = w && e.2.index = idx && isServed s e.1 e.2) s.services = some (id, v)

theorem names_of_only (hfind : s.services.find? id = some v) (hworld : v.world = w) (hindex : v.index = idx)
    (hserved : isServed s id v = true)
    (honly : ∀ e ∈ s.services, e.2.world = w → e.2.index = idx → isServed s e.1 e.2 = true → e = (id, v)) : Names s w idx id v := by
  unfold Names
  cases h : List.find? (fun e : Nat × Service => e.2.world = w && e.2.index = idx && isServed s e.1 e.2) s.services with
  | none =>
    have hno := List.find?_eq_none.mp h _ (SMap.mem_of_find? hfind)
    simp [hworld, hindex, hserved] at hno
  | some e =>
    have he := List.find?_some h
    simp only [Bool.and_eq_true, decide_eq_true_eq] at he
    obtain ⟨⟨hw, hi⟩, hs⟩ := he
    rw [honly e (List.mem_of_find?_eq_some h) hw hi hs]

/-- A completion whose STATUS is still all ones (R201). -/
theorem takeDoorbell_waits (hnames : Names s w idx id v) (hpage : ringPage s w (s.world w).srbase false = some (pa, page))
    (hstatus : s.mem.readLe (physKey (pa + 128 * idx) + 16) 4 = 0xFFFFFFFF) :
    takeDoorbell s w idx = countHbm s w (physKey (pa + 128 * idx)) 4 := by
  obtain ⟨asr, hcount⟩ := countHbm_only s w (physKey (pa + 128 * idx)) 4
  unfold takeDoorbell
  rw [hnames, hpage]
  dsimp only
  rw [hcount]
  exact if_pos hstatus

/-- The state in which a completion's reply is written: the request is gone, and what its thread read ahead of the block. -/
def replying (s : State) (id : Nat) (v : Service) (asr : Assayer) : State :=
  dropEarly (mendWords { s with assayer := asr, services := s.services.erase id } v.block 64) fun e =>
    e.tid = v.tid && e.meets v.block 64

/-- A completion taken (R201). -/
theorem takeDoorbell_replies (hnames : Names s w idx id v) (hpage : ringPage s w (s.world w).srbase false = some (pa, page))
    (hstatus : s.mem.readLe (physKey (pa + 128 * idx) + 16) 4 ≠ 0xFFFFFFFF) :
    ∃ asr, takeDoorbell s w idx = wake
      ((writeReply (replying s id v asr) v.block (s.mem.readBytes (physKey (pa + 128 * idx) + 64) 64) page).modThread v.tid fun t =>
        t.setReg v.dst.toNat ⟨BitVec.ofNat 32 (s.mem.readLe (physKey (pa + 128 * idx) + 16) 4), Tag.join ⟨page, false⟩ v.call.guard⟩)
      v.tid := by
  obtain ⟨asr, hcount⟩ := countHbm_only s w (physKey (pa + 128 * idx)) 4
  obtain ⟨asr', hcount'⟩ := countHbm_only { s with assayer := asr } w (physKey (pa + 128 * idx)) 64
  refine ⟨asr', ?_⟩
  unfold takeDoorbell
  rw [hnames, hpage]
  dsimp only
  rw [hcount]
  refine (if_neg hstatus).trans ?_
  rw [hcount']
  rfl

end

/-- A doorbell of a world on the package (R201). -/
theorem doorbell_taken {n : Word} (hopen : windowOpen s w = true) (hstat : (s.world w).stat < 3) :
    exec (.serviceCompletionDoorbell w n) s = .next (takeDoorbell s w (n.toNat % 512)) := by
  change execServiceCompletionDoorbell w n s = _
  rw [execServiceCompletionDoorbell, if_neg (by simp [hopen]), if_neg (by omega)]

/-- A doorbell of a world that is being saved or is saved (R345). -/
theorem doorbell_recorded {n : Word} (hopen : windowOpen s w = true) (hstat : 3 ≤ (s.world w).stat) :
    ∃ t, exec (.serviceCompletionDoorbell w n) s = .next t ∧ Claims.OnlyWorld s t w ∧
      t.world w = { s.world w with doorbells :=
        if n.toNat % 512 ∉ (s.world w).doorbells ∧
          (∃ e ∈ s.services, e.2.world = w ∧ e.2.index = n.toNat % 512 ∧ isServed s e.1 e.2 = true) then
          (s.world w).doorbells ++ [n.toNat % 512] else (s.world w).doorbells } := by
  change ∃ t, execServiceCompletionDoorbell w n s = .next t ∧ _
  unfold execServiceCompletionDoorbell
  dsimp only
  rw [if_neg (by simp [hopen]), if_pos hstat]
  by_cases hnamed : n.toNat % 512 ∉ (s.world w).doorbells ∧
      (∃ e ∈ s.services, e.2.world = w ∧ e.2.index = n.toNat % 512 ∧ isServed s e.1 e.2 = true)
  · rw [if_pos hnamed, if_neg (by simpa [and_assoc] using hnamed)]
    exact ⟨_, rfl, onlyWorld_setWorld .., by rw [State.world_setWorld, if_pos rfl]⟩
  · rw [if_neg hnamed, if_pos (by simpa [and_assoc, imp_iff_not_or] using hnamed)]
    exact ⟨_, rfl, ⟨rfl, fun _ _ => rfl⟩, rfl⟩

theorem isServed_of_place {id : Nat} {v : Service} {head : Word} (h : (s.thread v.tid).place = .waiting (.service id head)) :
    isServed s id v = true := by
  unfold isServed
  rw [h]
  exact decide_eq_true rfl

theorem setReg_place (x : Thread) (r : Nat) (y : Tagged Word) (p q : Place) (n m : Nat) :
    { Thread.setReg { x with place := p, runnable := n } r y with place := q, runnable := m } =
      { x.setReg r y with place := q, runnable := m } := by
  unfold Thread.setReg
  split <;> rfl

/-- A completion has been taken: the reply in the block, STATUS in the thread, and the thread filed (R187, R190, R201). -/
structure Replied (s t : State) (id : Nat) (v : Service) (page : BitVec 2) (status : Word) (reply : List Byte) : Prop where
  mem      : t.mem = s.mem.writeBytes v.block reply
  lines    : ∀ k, t.line k = if (linesOf v.block 64).contains k then
    { s.line k with tag := joinTags [(s.line k).tag, ⟨page, false⟩] } else s.line k
  thread   : t.thread v.tid = { (s.thread v.tid).setReg v.dst.toNat ⟨status, joinTags [⟨page, false⟩, v.call.guard]⟩ with
    place := .filed, runnable := s.time }
  services : t.services.find? id = none
  early    : ∀ e ∈ t.early, e.tid = v.tid → e.meets v.block 64 = false
  others   : ∀ k, k ≠ v.tid → (∀ x, (s.thread k).place ≠ .waiting x) → t.thread k = s.thread k

theorem replied_of_written {id : Nat} {v : Service} {page : BitVec 2} {asr : Assayer} {status : Word} {reply : List Byte}
    (hlength : reply.length = 64) :
    Replied s (wake ((writeReply (replying s id v asr) v.block reply page).modThread v.tid fun t =>
      t.setReg v.dst.toNat ⟨status, Tag.join ⟨page, false⟩ v.call.guard⟩) v.tid) id v page status reply := by
  obtain ⟨hwoken, hmem, hline⟩ := writeReply_spec (replying s id v asr) v.block reply page
  rw [hlength] at hline
  generalize writeReply (replying s id v asr) v.block _ page = b at hwoken hmem hline ⊢
  obtain ⟨cs, hwake⟩ := wake_spec (b.modThread v.tid fun t =>
    t.setReg v.dst.toNat ⟨status, Tag.join ⟨page, false⟩ v.call.guard⟩) v.tid
  rw [hwake]
  obtain ⟨q, hearly, -⟩ := hwoken.early
  refine ⟨hmem, fun k => ?_, ?_, ?_, fun e he htid => ?_, fun k hk hstill => ?_⟩
  · refine (hline k).trans ?_
    rw [joinTags_two]
    exact if_congr List.contains_iff_mem.symm rfl rfl
  · obtain ⟨p, r, hthread⟩ := hwoken.threads v.tid
    rw [State.thread_cores, State.thread_modThread_self, State.thread_modThread_self, hthread, setReg_place, joinTags_two]
    exact congrArg (fun m : Nat => { (s.thread v.tid).setReg v.dst.toNat _ with place := Place.filed, runnable := m }) hwoken.time
  · have hservices : b.services = s.services.erase id := congrArg State.services hwoken.rest
    exact (congrArg (SMap.find? · id) hservices).trans (SMap.find?_erase_self ..)
  · have hmem : e ∈ (replying s id v asr).early.filter q := hearly ▸ he
    have hkept := (List.mem_filter.mp (List.mem_filter.mp hmem).1).2
    simpa [htid] using hkept
  · rw [State.thread_cores, State.thread_modThread_ne _ _ hk, State.thread_modThread_ne _ _ hk]
    exact hwoken.still k hstill

theorem serviceCompletions : Claims.ServiceCompletions := by
  intro s w id pa page v head n hw htdi
  have hopen := windowOpen_iff hw htdi
  refine ⟨doorbell_recorded hopen, fun hstat hfind hworld hindex hplace honly hpage => ?_⟩
  rw [hindex] at honly ⊢
  have hnames := names_of_only hfind hworld hindex (isServed_of_place hplace) honly
  refine ⟨fun hstatus => ⟨_, doorbell_taken hopen hstat, ?_⟩, fun hstatus => ⟨_, doorbell_taken hopen hstat, ?_⟩⟩
  · obtain ⟨asr, hcount⟩ := countHbm_only s w (physKey (pa + 128 * (n.toNat % 512))) 4
    rw [takeDoorbell_waits hnames hpage hstatus, hcount]
  · obtain ⟨asr, htaken⟩ := takeDoorbell_replies hnames hpage hstatus
    obtain ⟨hmem, hlines, hthread, hservices, hearly, hothers⟩ := replied_of_written (s := s) (id := id) (v := v) (page := page)
      (asr := asr) (status := BitVec.ofNat 32 (s.mem.readLe (physKey (pa + 128 * (n.toNat % 512)) + 16) 4))
      (readBytes_length s.mem 64 (physKey (pa + 128 * (n.toNat % 512)) + 64))
    rw [htaken]
    exact ⟨hmem, hlines, hthread, hservices, hearly, hothers⟩

end Sys2Proof.Machine

namespace Sys2Proof

open Machine

/-- Settles O47: a doorbell takes the one request that its index names, and a tail that moves lets the call that has waited longest
take the entry. -/
theorem serviceRings : Obligations.ServiceRings := by
  unfold Obligations.ServiceRings
  exact ⟨serviceCompletions, ringTails⟩

end Sys2Proof
end
